-- ==== Sys2Proof/Word.lean ====
section
/-! DEFINITION. The word types of the Evril and their plainest arithmetic (00_scope R4, R5). -/

namespace Sys2Proof

/-- A 64-bit doubleword: scalar registers, addresses, control registers. -/
abbrev Word := BitVec 64
/-- One byte of storage. -/
abbrev Byte := BitVec 8
/-- One 32-bit instruction word (05_encoding R142). -/
abbrev IWord := BitVec 32
/-- One 256-byte block: a queue entry or a vector register (01_machine R29, 07 R244). -/
abbrev Block := BitVec 2048

/-- Sign extension of an n-bit field to a doubleword. -/
def sextW {n : Nat} (x : BitVec n) : Word := x.signExtend 64

/-- Zero extension of an n-bit field to a doubleword. -/
def zextW {n : Nat} (x : BitVec n) : Word := x.setWidth 64

/-- One bit as a doubleword. -/
def bitW (b : Bool) : Word := if b then 1 else 0

end Sys2Proof
end

