-- ==== Sys2Proof/Config.lean ====
section
/-! DEFINITION. What the spec leaves open: constants without a body, so that nothing can be proved of a value. Each is
applied to the counter `State.choice`, which the step that uses it advances (log 4, DESIGN CHOICE), or to what it depends on. -/

namespace Sys2Proof.Config

/-- Which of the writes that 04_ordering R132 admits a read returns (log 5, DESIGN CHOICE). -/
opaque readPick : Nat → Nat

/-- Which of the events that may come next comes next (log 6, DESIGN CHOICE). -/
opaque eventPick : Nat → Nat

/-- Whether a core, by number, of a gang that is to stop stops in a cycle (13 R422; log 63, DEDUCED). -/
opaque stopsNow : Nat → Nat → Bool

/-- The page of a virtual function that the migration engine would move next by its own choice (14 R447; log 48, DESIGN CHOICE). -/
opaque movePage : Nat → Nat → Word

/-- The cycles d, of 0 to 3, after which a released waiter resumes (09 R350; log 7, DESIGN CHOICE). -/
opaque releaseDelay : Nat → Nat

/-- A byte that the spec leaves open: what a remote Evril returns, what a bank brought into service holds (14 R450; 22 R565;
log 8, DESIGN CHOICE). -/
opaque remoteByte : Nat → Byte

/-- How the target of a remote access answers: n % 4 is 0 for no fault, 1 to 3 for the codes 0x10 to 0x12; the rest says where its
walk ended (14 R433, R450; log 8, DESIGN CHOICE). -/
opaque remoteFault : Nat → Nat

/-- A key from the package's random source (13 R424; log 9, DESIGN CHOICE). -/
opaque randomKey : Nat → BitVec 256

/-- A 64-bit random or device-given value: boot epochs, random pool answers (log 9, DESIGN CHOICE). -/
opaque freeWord : Nat → Word

/-- The 57 bytes of the private key that the device derives from its fused secret (20 R533; log 10, DESIGN CHOICE). -/
opaque identitySecret : Nat → Byte

/-- A firmware image carries a signature of the release key; its security version (20 R529; log 10, DESIGN CHOICE). -/
opaque imageSigned : List Byte → Bool
opaque imageVersion : List Byte → Nat

/-- The TYPE and the LEN of a flit, by a number of its own and its place on its port (20 R516; log 17, DESIGN CHOICE). -/
opaque flitType : Nat → Nat → BitVec 5
opaque flitLen : Nat → Nat → Nat

/-- The CRC-64 of the first 248 bytes of a flit (20 R516; log 17, DESIGN CHOICE). -/
opaque crc64 : List Byte → BitVec 64

/-- The payload of a flit, byte by byte (20 R516; log 17, DESIGN CHOICE). -/
opaque flitByte : Nat → Nat → Nat → Byte

/-- The ROM of the boot controller (20 R529; log 10, DESIGN CHOICE). -/
opaque romImage : List Byte

/-- The bytes of a spare map, by the spares in service: of each vale, as (vale, spare core, rows, columns, banks), and of each plain (20
R529; log 10, DESIGN CHOICE). -/
opaque spareMap : List (Nat × Nat × Nat × Nat × Nat) → List Nat → List Byte

/-- Whether the training of the HBM and of UCIe succeeds, by a counter: 0 for yes, 1 for a failure of the HBM, 2 of UCIe (20 R529, R530;
log 66, DESIGN CHOICE). -/
opaque bootTraining : Nat → Nat

/-- A request of SPDM 1.3 that the device supports (20 R532): GET_VERSION, GET_CAPABILITIES, NEGOTIATE_ALGORITHMS, GET_DIGESTS, part of a
slot's chain, a challenge for a slot, measurements by index, 0 for their number and 255 for all. -/
inductive SpdmReq where
  | version
  | capabilities
  | algorithms
  | digests
  | certificate (slot off len : Nat)
  | challenge (slot : Nat)
  | measurements (index : Nat) (signed : Bool)
  | other
  deriving DecidableEq, Repr

/-- What the device answers (20 R532): digests of the chains by slot; a part of a chain and what is left of it; measurements as (index,
digest), or their number; a signature where the request asks for one; an error. -/
inductive SpdmAns where
  | version
  | capabilities
  | algorithms
  | digests (slots : List (Nat × List Byte))
  | certificate (part : List Byte) (left : Nat)
  | challenge (chain : List Byte) (sig : List Byte)
  | count (n : Nat) (sig : List Byte)
  | measurements (blocks : List (Nat × List Byte)) (sig : List Byte)
  | error
  deriving DecidableEq, Repr

/-- What bytes request, none for a malformed request; the bytes of an answer; the bytes that a signature is of, which take in what was
exchanged before (20 R532; log 10, DESIGN CHOICE). -/
opaque spdmRequest : List Byte → Option SpdmReq
opaque spdmBytes : Nat → SpdmAns → List Byte
opaque spdmTranscript : Nat → List Byte → SpdmAns → List Byte

/-- An X.509 chain from the Dravori root to a certificate of a public key (20 R533; log 10, DESIGN CHOICE). -/
opaque certificateChain : List Byte → List Byte

/-- A relocation that names a .scratch symbol: its type, the word that it patches, the symbol's offset in the core slot with the addend
(10 R364, R372, R388). -/
structure Reloc where
  typ   : Nat
  place : Nat
  value : Nat
  deriving DecidableEq, Repr, Inhabited

/-- What a kernel image holds (10 R389), its text apart; `alen` is the length of its argument block in bytes. -/
structure Image where
  entry  : Nat
  slipw  : Nat
  slot   : Nat
  window : Nat
  fmte   : List (BitVec 20)
  fmtsrc : BitVec 16
  swt    : List (Nat × IWord)
  alen   : Nat
  relocs : List Reloc
  deriving DecidableEq, Repr, Inhabited

/-- From the first 64 bytes of an executable, the bytes of its headers with the .evmeta note, and all its bytes; from the former, what
the note holds; from the latter, its text before the relocations of the dispatcher: the spec gives no byte layout of the note (10
R388, R389; log 19, DESIGN CHOICE). -/
opaque imageHead : List Byte → Nat
opaque imageSize : List Byte → Nat
opaque image : List Byte → Image
opaque imageText : List Byte → List IWord

/-- Whether a transfer leaves its channel group or port at the end of a cycle (17 R490; log 20, PRESUMED). -/
opaque transferEnds : Nat → Bool

/-- The capacity in GiB of the expander attached to a CXL port, 0 for none (20 R523; log 23, DESIGN CHOICE). -/
opaque expander : Nat → Nat

/-- What a namespace image carries: names with their objects, objects with their fields, handles as (gang, index, object)
(16 R465). -/
structure Namespace where
  names   : List (List Byte × Nat)
  objs    : List (Nat × List Nat)
  handles : List (Nat × Nat × Nat)
  deriving DecidableEq, Repr

/-- The bytes of a namespace image; the bytes of an image that begins with some 64, and what it holds: the spec gives no
layout (log 24, DESIGN CHOICE). -/
opaque namespaceBytes : Namespace → List Byte
opaque namespaceSize : List Byte → Nat
opaque namespaceOf : List Byte → Option Namespace

/-- An error that the physics of the part brings about (08 R304, R308; 22 R562 to R564): the next row or plate fetch of a
vale's array fails its checksum once or twice; a 64-bit unit of storage gets a correctable or an uncorrectable error; an engine of a core
reads a unit with one in a register, a queue, the accumulator, the P buffer, a TLB, the directory or a synchronisation unit. Units
are numbered as physical addresses over 8, and those of the instruction stores follow `storeUnit`. -/
inductive Flaw where
  | row (vale : Nat) (twice : Bool)
  | plate (vale : Nat) (twice : Bool)
  | cell (unit : Nat) (fatal : Bool)
  | inner (core : Nat) (engine : Nat) (fatal : Bool)
  deriving DecidableEq, Repr

/-- The errors that arise in a cycle (log 18, DESIGN CHOICE). -/
opaque flaw : Nat → List Flaw

end Sys2Proof.Config
end

