-- ==== Sys2Proof/Syntax.lean ====
section
/-! DEFINITION. The instructions and steps of the Evril: one constructor of `Instr` for each row of
spec/opcode_table.json. Encoded instructions carry their dependence marks (05_encoding R142, R146) and operands
already decoded into names; the rows without a word are the part's own steps (95_what_each_step_holds). -/

namespace Sys2Proof

/-- The five engines, in the order in which CAUSE.ENG numbers them (01_machine R12, 13 R400). -/
inductive Engine where
  | c | a | m | v | s
  deriving DecidableEq, Repr

/-- The four dependence marks of an instruction (05_encoding R142, R146). -/
structure Marks where
  wp : Bool
  wn : Bool
  sp : Bool
  sn : Bool
  deriving DecidableEq, Repr

/-- No dependence mark. -/
def Marks.none : Marks := ⟨false, false, false, false⟩

/-- A physical core by plain, vale and number (01_machine, "Plains, straths, vales and cores"). -/
structure CoreId where
  plain : Nat
  vale  : Nat
  core  : Nat
  deriving DecidableEq, Repr

/-- An element format (02_numbers R63): the five plain formats, and binary8 with U, I and precision P − 1. -/
inductive Fmt where
  | f32 | bf16 | f16 | i8 | i32
  | b8 (uns inf : Bool) (p : Fin 7)
  deriving DecidableEq, Repr

/-- The second source of a C operation: a register or a 24-bit immediate (05_encoding R173). -/
inductive CSrc where
  | reg (r : Fin 32)
  | imm (i : BitVec 24)
  deriving DecidableEq, Repr

/-- A source of the A engine: a0 to a15 or p0 to p15 (05_encoding R158). -/
inductive ASrc where
  | a (r : Fin 16)
  | p (r : Fin 16)
  deriving DecidableEq, Repr

/-- The second source of an A operation. -/
inductive AOp where
  | src (r : ASrc)
  | imm (i : BitVec 24)
  deriving DecidableEq, Repr

/-- An immediate of LI, LIH, ALI and AHI: 12 bits in the word or 24 in the extension word (05_encoding R173). -/
inductive Imm where
  | short (i : BitVec 12)
  | long (i : BitVec 24)
  deriving DecidableEq, Repr

/-- The count of LOOPI: in the A field, or in the extension word (05_encoding R168). -/
inductive LoopCnt where
  | short (n : BitVec 6)
  | long (n : BitVec 24)
  deriving DecidableEq, Repr

/-- The count register of LOOP, which names the engine (05_encoding R170). -/
inductive LoopReg where
  | c (r : Fin 32)
  | a (r : ASrc)
  | m (r : Fin 4)
  | v (r : Fin 4)
  | s (r : Fin 4)
  deriving DecidableEq, Repr

/-- The destination of LCRD (05_encoding R170). -/
inductive LcrdDst where
  | c (r : Fin 32)
  | a (r : Fin 16)
  | m (r : Fin 4)
  | v (r : Fin 48)
  | s (r : Fin 4)
  deriving DecidableEq, Repr

/-- The destination of RECV (05_encoding R170); C has none. -/
inductive RecvDst where
  | a (r : Fin 16)
  | m (r : Fin 4)
  | v (r : Fin 48)
  | s (r : Fin 4)
  deriving DecidableEq, Repr

/-- The queue operand of QCLR, a queue that the engine consumes (05_encoding R170). -/
inductive QclrQ where
  | aIq
  | mMq (q : Fin 2)
  | mLq (q : Fin 4)
  | mIq
  | vLq (q : Fin 4)
  | vIq
  | sSq (q : Fin 2)
  | sSaq
  | sIq
  deriving DecidableEq, Repr

/-- Payload of LD and ALD (05_encoding R174). -/
structure LdOpt where
  off : BitVec 21
  sx  : Bool
  sz  : BitVec 2
  deriving DecidableEq, Repr

/-- Payload of ST, whose SX bit is Z (05_encoding R174). -/
structure StOpt where
  off : BitVec 21
  sz  : BitVec 2
  deriving DecidableEq, Repr

/-- A V source operand (05_encoding R159). -/
inductive VSrc where
  | v (r : Fin 48)
  | lq (q : Fin 4)
  | zero
  | lane
  | iq
  deriving DecidableEq, Repr

/-- A V destination operand (05_encoding R159). -/
inductive VDst where
  | v (r : Fin 48)
  | sq0
  | mq (q : Fin 2)
  | discard
  deriving DecidableEq, Repr

/-- The V option payload (05_encoding R164). -/
structure VPay where
  ops : BitVec 13
  zm  : Bool
  inv : Bool
  msk : Fin 8
  ty  : Fmt
  deriving DecidableEq, Repr

/-- A row operand of M: acc.E with its number in the payload, or acc.e0 to acc.e3 (05_encoding R162, R148). -/
inductive Acc where
  | num (r : Fin 512)
  | e (r : Fin 4)
  deriving DecidableEq, Repr

/-- A tile operand of M: tile 0, or the index in an e register (08_matrix R287). -/
inductive Tile where
  | zero
  | e (r : Fin 4)
  deriving DecidableEq, Repr

/-- A queue that M consumes (05_encoding R162). -/
inductive MQ where
  | mq (q : Fin 2)
  | lq (q : Fin 4)
  deriving DecidableEq, Repr

/-- The A operand of MMA and MMAS (08_matrix R305). -/
inductive MSrc where
  | q (q : MQ)
  | pbuf
  | pair (k : Fin 4)
  deriving DecidableEq, Repr

/-- The four forms of MMOV (08_matrix R313). -/
inductive MmovForm where
  | rows (d a : Acc)
  | toSq (a : Acc)
  | fromV (d : Acc) (g : Fin 4)
  | fromQ (d : Acc) (q : MQ)
  deriving DecidableEq, Repr

/-- The two forms of MMOVA (08_matrix R315). -/
inductive MmovaForm where
  | read (e : Fin 4) (a : Acc)
  | write (d : Acc) (e : Fin 4)
  deriving DecidableEq, Repr

/-- Payload of SAEQ (07 R270). -/
structure SaOpt where
  op : BitVec 3
  ft : Bool
  deriving DecidableEq, Repr

/-- A synchronisation object or a domain barrier, as a step of the units names it (09 R341, R346). -/
inductive SyncRef where
  | obj (oid : BitVec 32)
  | dom (id : Nat)
  deriving DecidableEq, Repr

/-- What a requester of the host has done before a write of its: the writes that it made to host memory, as (offset, bytes),
the launches whose completion words it has acquired, and the words of the host window that it has read, as (level, offset) (04 R139, R140; 20
R514; 22 R557). -/
structure HostWork where
  writes : List (Nat × List Byte)
  done   : List Nat
  reads  : List (Nat × Nat)
  deriving DecidableEq, Repr

/-- The requester of the host that makes a write, the level of its aperture, and what it has done before (04 R123; 20 R512, R514). -/
structure HostParty where
  h    : Fin 2
  lvl  : Nat
  work : HostWork
  deriving DecidableEq, Repr

/-- A timing message at a port (20 R527): the moment at which this package sends a Sync; a received Sync; a Follow_Up with the Sync's
time; a Delay_Req; a Delay_Resp with the time at which its Delay_Req came. -/
inductive PtpMsg where
  | send
  | sync
  | followUp (t1 : Nat)
  | delayReq
  | delayResp (t4 : Nat)
  deriving DecidableEq, Repr

/-- An access that another package sends over a link (14 R450). -/
structure RemoteReq where
  port  : Nat
  write : Bool
  rvf   : Nat
  va    : BitVec 64
  user  : Bool
  size  : Nat
  data  : BitVec 64
  epoch : Nat
  deriving DecidableEq, Repr

/-- A received Tsuosh flit of 256 bytes (20 R516), with what its payload says, whose form the spec does not give: whether it acknowledges
a write (R521); which flit it asks for again, by its number. -/
structure Flit where
  port  : Nat
  bytes : List Byte
  ack   : Bool
  again : Option Nat
  /-- The tick of a pod-scope phase that completed in another package, as (object, phase, tick) (09 R351). -/
  pod   : Option (SyncRef × Nat × Nat)
  deriving DecidableEq, Repr

/-- A unit of a vale whose work a timing-error check may fail (21 R538): an engine of a core, the array, an asynchronous engine. -/
inductive ReplayUnit where
  | engine (core : Nat) (e : Engine)
  | array
  | async (i : Fin 3)
  deriving DecidableEq, Repr

/-- A spare, with the unit that it replaces: a core, numbered as 22 R554 does; a row or a column of a vale's array; a vale; a
bank of a vale's scratchpad; a lane of a port; rows of a channel group of the HBM (22 R565). -/
inductive SpareKind where
  | core (n : Nat)
  | arrayRow (v : Nat)
  | arrayCol (v : Nat)
  | vale (v : Nat)
  | bank (v b : Nat)
  | lane (port lane : Nat)
  | hbmRow (g row : Nat)
  deriving DecidableEq, Repr

/-- The rows of spec/opcode_table.json. -/
inductive Instr where
  -- the common block (05_encoding R168)
  | nop (m : Marks) (e : Engine)
  | loop (m : Marks) (r : LoopReg) (len : BitVec 12)
  | loopi (m : Marks) (e : Engine) (n : LoopCnt) (len : BitVec 12)
  | br (m : Marks) (e : Engine) (kill : Bool) (off : BitVec 16)
  | bcq (m : Marks) (e : Engine) (kill cut : Bool) (off : BitVec 16)
  | fset (m : Marks) (e : Engine) (f : Fin 16) (n : BitVec 8)
  | fwait (m : Marks) (e : Engine) (f : Fin 16) (n : BitVec 8)
  | mark (m : Marks) (e : Engine) (n : BitVec 8) (notify : Bool)
  | halt (m : Marks) (e : Engine)
  | breath (m : Marks) (e : Engine) (k : BitVec 5)
  | qclr (m : Marks) (q : QclrQ)
  | recv (m : Marks) (d : RecvDst)
  | lcrd (m : Marks) (d : LcrdDst) (lv : BitVec 2)
  -- C integer operations and immediates (06 R204, R207)
  | add (m : Marks) (d a : Fin 32) (b : CSrc)
  | sub (m : Marks) (d a : Fin 32) (b : CSrc)
  | mul (m : Marks) (d a : Fin 32) (b : CSrc)
  | mulh (m : Marks) (d a : Fin 32) (b : CSrc)
  | mulhu (m : Marks) (d a : Fin 32) (b : CSrc)
  | div (m : Marks) (d a : Fin 32) (b : CSrc)
  | divu (m : Marks) (d a : Fin 32) (b : CSrc)
  | rem (m : Marks) (d a : Fin 32) (b : CSrc)
  | remu (m : Marks) (d a : Fin 32) (b : CSrc)
  | and (m : Marks) (d a : Fin 32) (b : CSrc)
  | or (m : Marks) (d a : Fin 32) (b : CSrc)
  | xor (m : Marks) (d a : Fin 32) (b : CSrc)
  | sll (m : Marks) (d a : Fin 32) (b : CSrc)
  | srl (m : Marks) (d a : Fin 32) (b : CSrc)
  | sra (m : Marks) (d a : Fin 32) (b : CSrc)
  | min (m : Marks) (d a : Fin 32) (b : CSrc)
  | max (m : Marks) (d a : Fin 32) (b : CSrc)
  | minu (m : Marks) (d a : Fin 32) (b : CSrc)
  | maxu (m : Marks) (d a : Fin 32) (b : CSrc)
  | slt (m : Marks) (d a : Fin 32) (b : CSrc)
  | sltu (m : Marks) (d a : Fin 32) (b : CSrc)
  | seq (m : Marks) (d a : Fin 32) (b : CSrc)
  | sel (m : Marks) (d a : Fin 32) (b : CSrc)
  | addq (m : Marks) (d a : Fin 32) (b : CSrc)
  | li (m : Marks) (d : Fin 32) (i : Imm)
  | lih (m : Marks) (d : Fin 32) (i : Imm)
  -- C branches and jumps (06 R208, R209)
  | beq (m : Marks) (a b : Fin 32) (kill cut : Bool) (off : BitVec 16)
  | bne (m : Marks) (a b : Fin 32) (kill cut : Bool) (off : BitVec 16)
  | blt (m : Marks) (a b : Fin 32) (kill cut : Bool) (off : BitVec 16)
  | bge (m : Marks) (a b : Fin 32) (kill cut : Bool) (off : BitVec 16)
  | bltu (m : Marks) (a b : Fin 32) (kill cut : Bool) (off : BitVec 16)
  | bgeu (m : Marks) (a b : Fin 32) (kill cut : Bool) (off : BitVec 16)
  | jal (m : Marks) (d : Fin 32) (kill : Bool) (off : BitVec 16)
  | jalr (m : Marks) (d a : Fin 32) (kill : Bool)
  -- C memory (06 R211)
  | ld (m : Marks) (d a : Fin 32) (o : Option LdOpt)
  | st (m : Marks) (a b : Fin 32) (o : Option StOpt)
  | ldaq (m : Marks) (d a : Fin 32)
  | strl (m : Marks) (a b : Fin 32)
  -- C to the other engines and to the asynchronous engines (06 R215 to R222)
  | cbc (m : Marks) (set : BitVec 4) (a : Fin 32)
  | sendv (m : Marks) (set : BitVec 4) (a : Fin 32)
  | xpush (m : Marks) (x : Fin 3) (a : Fin 32) (n : BitVec 6)
  | xpop (m : Marks) (d : Fin 32) (x : Fin 3)
  | xstat (m : Marks) (d : Fin 32) (x : Fin 3)
  | launch (m : Marks) (d a : Fin 32)
  -- the DIR group (09 R356); x is the X bit, whose payload is Z
  | open (m : Marks) (x : Bool) (d a : Fin 32)
  | openw (m : Marks) (x : Bool) (d a : Fin 32)
  | close (m : Marks) (x : Bool) (d a : Fin 32)
  | hqry (m : Marks) (x : Bool) (d a : Fin 32)
  | seal (m : Marks) (x : Bool) (d a : Fin 32)
  | rbstg (m : Marks) (x : Bool) (d a : Fin 32)
  | rbcmt (m : Marks) (x : Bool) (d : Fin 32)
  | rbabt (m : Marks) (x : Bool) (d : Fin 32)
  | rclm (m : Marks) (x : Bool) (d a : Fin 32)
  -- the SYN group (09 R346)
  | sacq (m : Marks) (x : Bool) (a : Fin 32)
  | srel (m : Marks) (x : Bool) (a : Fin 32)
  | bara (m : Marks) (x : Bool) (d a : Fin 32)
  | barw (m : Marks) (x : Bool) (d a : Fin 32)
  | baraw (m : Marks) (x : Bool) (d a : Fin 32)
  | waitmk (m : Marks) (x : Bool) (d a : Fin 32)
  | domsplit (m : Marks) (x : Bool) (d a : Fin 32)
  | domjoin (m : Marks) (x : Bool) (d : Fin 32)
  | rbndr (m : Marks) (x : Bool) (d a : Fin 32)
  | ubndr (m : Marks) (x : Bool) (a : Fin 32)
  -- the RDTM group (06 R223 to R226)
  | time (m : Marks) (x : Bool) (d : Fin 32)
  | cyc (m : Marks) (x : Bool) (d : Fin 32) (sel : BitVec 3)
  | acrd (m : Marks) (x : Bool) (d a : Fin 32)
  | stmt (m : Marks) (x : Bool) (d a : Fin 32)
  -- the SYS group (13 R413)
  | trap (m : Marks) (x : Bool) (n : BitVec 12)
  | eret (m : Marks) (x : Bool) (abandon : Bool)
  | crr (m : Marks) (d : Fin 32) (num : BitVec 12)
  | crw (m : Marks) (a : Fin 32) (num : BitVec 12)
  | tlbi (m : Marks) (a : Fin 32) (t : Option (BitVec 2))
  | snaprd (m : Marks) (x : Bool) (d a : Fin 32)
  | snapwr (m : Marks) (x : Bool) (d a : Fin 32)
  | wpset (m : Marks) (x : Bool) (n : BitVec 2) (a : Fin 32)
  | acsw (m : Marks) (x : Bool) (d a : Fin 32)
  | preempt (m : Marks) (x : Bool) (d a : Fin 32)
  | keysel (m : Marks) (x : Bool) (d a : Fin 32)
  | hollow (m : Marks) (x : Bool) (d : Fin 32)
  -- the A engine (06 R229 to R241)
  | aadd (m : Marks) (d : Fin 16) (a : ASrc) (b : AOp)
  | asub (m : Marks) (d : Fin 16) (a : ASrc) (b : AOp)
  | aaddq (m : Marks) (d : Fin 16) (a : ASrc) (b : AOp)
  | amul (m : Marks) (d : Fin 16) (a : ASrc) (b : AOp)
  | asll (m : Marks) (d : Fin 16) (a : ASrc) (b : AOp)
  | asrl (m : Marks) (d : Fin 16) (a : ASrc) (b : AOp)
  | ali (m : Marks) (d : Fin 16) (i : Imm)
  | ahi (m : Marks) (d : Fin 16) (i : Imm)
  | amov (m : Marks) (d : Fin 16) (a : ASrc)
  | ald (m : Marks) (d : Fin 16) (a : ASrc) (o : Option LdOpt)
  | ldq (m : Marks) (q : Fin 4) (a : ASrc) (o : Option (BitVec 24))
  | ldqs (m : Marks) (q : Fin 4) (a b : ASrc) (o : Option (BitVec 24))
  | ldqx (m : Marks) (q : Fin 4) (a b : ASrc) (o : Option (BitVec 24))
  | ldro (m : Marks) (q : Fin 4) (a : ASrc) (o : Option (BitVec 24))
  | agc (m : Marks) (g : Fin 2) (a : ASrc) (off : BitVec 24)
  | agld (m : Marks) (g : Fin 2) (q : Fin 4)
  | agsa (m : Marks) (g : Fin 2)
  | saq (m : Marks) (a : ASrc) (o : Option (BitVec 24))
  | dset (m : Marks) (d : Fin 8) (a : ASrc) (add : Bool)
  | abne (m : Marks) (a b : ASrc) (kill cut : Bool) (off : BitVec 16)
  | ablt (m : Marks) (a b : ASrc) (kill cut : Bool) (off : BitVec 16)
  -- the V engine (07 R249 to R268)
  | vadd (m : Marks) (d : VDst) (a b : VSrc) (o : Option VPay)
  | vsub (m : Marks) (d : VDst) (a b : VSrc) (o : Option VPay)
  | vmul (m : Marks) (d : VDst) (a b : VSrc) (o : Option VPay)
  | vfma (m : Marks) (d : Fin 48) (a b : VSrc) (o : Option VPay)
  | vfms (m : Marks) (d : Fin 48) (a b : VSrc) (o : Option VPay)
  | vmax (m : Marks) (d : VDst) (a b : VSrc) (o : Option VPay)
  | vmin (m : Marks) (d : VDst) (a b : VSrc) (o : Option VPay)
  | vabs (m : Marks) (d : VDst) (a : VSrc) (o : Option VPay)
  | vneg (m : Marks) (d : VDst) (a : VSrc) (o : Option VPay)
  | vrcp (m : Marks) (d : VDst) (a : VSrc) (o : Option VPay)
  | vrsq (m : Marks) (d : VDst) (a : VSrc) (o : Option VPay)
  | vexp (m : Marks) (d : VDst) (a : VSrc) (o : Option VPay)
  | vlog2 (m : Marks) (d : VDst) (a : VSrc) (o : Option VPay)
  | vcvt (m : Marks) (d : VDst) (a : VSrc) (o : Option VPay)
  | vqnt (m : Marks) (d : VDst) (g : Fin 12) (o : Option VPay)
  | vdqn (m : Marks) (g : Fin 12) (a : VSrc) (o : Option VPay)
  | vand (m : Marks) (d : VDst) (a b : VSrc) (o : Option VPay)
  | vor (m : Marks) (d : VDst) (a b : VSrc) (o : Option VPay)
  | vxor (m : Marks) (d : VDst) (a b : VSrc) (o : Option VPay)
  | vnot (m : Marks) (d : VDst) (a : VSrc) (o : Option VPay)
  | vshl (m : Marks) (d : VDst) (a b : VSrc) (o : Option VPay)
  | vshr (m : Marks) (d : VDst) (a b : VSrc) (o : Option VPay)
  | vsra (m : Marks) (d : VDst) (a b : VSrc) (o : Option VPay)
  | viadd (m : Marks) (d : VDst) (a b : VSrc) (o : Option VPay)
  | visub (m : Marks) (d : VDst) (a b : VSrc) (o : Option VPay)
  | vimul (m : Marks) (d : VDst) (a b : VSrc) (o : Option VPay)
  | vdot4 (m : Marks) (d : Fin 48) (a b : VSrc) (o : Option VPay)
  | vpopc (m : Marks) (d : VDst) (a : VSrc) (o : Option VPay)
  | vsign (m : Marks) (d : VDst) (a : VSrc) (o : Option VPay)
  | vcmp (m : Marks) (k : Fin 8) (a b : VSrc) (o : Option VPay)
  | vsel (m : Marks) (d : VDst) (a b : VSrc) (o : Option VPay)
  | vrsum (m : Marks) (d : VDst) (a : VSrc) (o : Option VPay)
  | vrmax (m : Marks) (d : VDst) (a : VSrc) (o : Option VPay)
  | vbc (m : Marks) (d : VDst) (a : VSrc) (o : Option VPay)
  | vperm (m : Marks) (d : VDst) (a b : VSrc) (o : Option VPay)
  | vslide (m : Marks) (d : VDst) (a b : VSrc) (o : Option VPay)
  | vmov (m : Marks) (d : VDst) (a : VSrc) (o : Option VPay)
  | vli (m : Marks) (d : VDst) (o : VPay)
  | vlid (m : Marks) (d : VDst) (o : VPay)
  | kand (m : Marks) (x : Bool) (d a b : Fin 8)
  | kor (m : Marks) (x : Bool) (d a b : Fin 8)
  | kxor (m : Marks) (x : Bool) (d a b : Fin 8)
  | kandn (m : Marks) (x : Bool) (d a b : Fin 8)
  | knot (m : Marks) (x : Bool) (d a : Fin 8)
  | kmov (m : Marks) (x : Bool) (d a : Fin 8)
  | kset (m : Marks) (d : Fin 8) (e : Fin 4)
  | ksetImm (m : Marks) (d : Fin 8) (n : BitVec 9)
  | kcnt (m : Marks) (x : Bool) (d : Fin 4) (a : Fin 8)
  | vxtr (m : Marks) (d : Fin 4) (a : VSrc) (o : Option VPay)
  | vins (m : Marks) (d : Fin 48) (e : Fin 4) (o : Option VPay)
  | vclamp (m : Marks) (d : VDst) (a b : VSrc) (o : Option VPay)
  | vround (m : Marks) (d : VDst) (a : VSrc) (o : Option VPay)
  -- the M engine (08_matrix)
  | mlease (m : Marks)
  | mleasePlate (m : Marks) (p : Fin 4) (sc : Option (Fin 4)) (t : Tile)
  | mrel (m : Marks)
  | mwld (m : Marks) (x : Bool) (p : Fin 4) (t : Tile)
  | mwlds (m : Marks) (x : Bool) (p sc : Fin 4) (t : Tile)
  | mma (m : Marks) (x : Bool) (rows : BitVec 6) (d : Acc) (src : MSrc) (t : Tile)
  | mmas (m : Marks) (x : Bool) (rows : BitVec 6) (d : Acc) (src sc : MSrc)
  | mzero (m : Marks) (x : Bool) (f l : Acc) (int : Bool)
  | msmx (m : Marks) (x : Bool) (rows : BitVec 6) (o s : Acc)
  | msmn (m : Marks) (x : Bool) (rows : BitVec 6) (o : Acc)
  | msmg (m : Marks) (x : Bool) (rows : BitVec 6) (d a : Acc)
  | mepi (m : Marks) (x : Bool) (rows : BitVec 6) (a : Acc) (ovf clr : Bool)
  | mmov (m : Marks) (x : Bool) (rows : BitVec 6) (f : MmovForm)
  | mmova (m : Marks) (x : Bool) (f : MmovaForm) (field : BitVec 2)
  | mscl (m : Marks) (a b : Fin 4) (o : Option (Bool × Bool))
  | mfmt (m : Marks) (x : Bool) (a : Fin 4) (t : BitVec 6)
  | mstat (m : Marks) (d : Fin 4)
  -- the S engine (07 R270)
  | stq (m : Marks) (q : Fin 2)
  | stql (m : Marks) (q : Fin 2)
  | saeq (m : Marks) (vq iq : Fin 2) (o : Option SaOpt)
  | sfence (m : Marks)
  | stz (m : Marks) (n : Option (BitVec 12))
  -- steps of a core (01_machine, 06, 13)
  | engineRun (e : Engine)
  | operationLanding (e : Engine)
  | loadResponse (k : Nat)
  | generatorTableRead (g : Fin 2)
  | tableWalk (k : Nat)
  | timingErrorReplay (v : Nat) (u : ReplayUnit)
  | breathSwitch
  | gangCompletion (l : Nat)
  | ringDeadlock
  | trapEntry
  -- steps of the asynchronous engines (09); c names the command
  | commandStart (c : Nat)
  | copy (c : Nat)
  | mcast (c : Nat)
  | gather (c : Nat)
  | scatter (c : Nat)
  | prefPromote (c : Nat)
  | prefDemote (c : Nat)
  | sigath (c : Nat)
  | copyxSave (c : Nat)
  | copyxRestore (c : Nat)
  | sacc (c : Nat)
  | allreduce (c : Nat)
  | reduce (c : Nat)
  | bcast (c : Nat)
  | allgather (c : Nat)
  | alltoall (c : Nat)
  | commandCompletion (c : Nat)
  | barrierPost (c : Nat)
  | resultElementPlace (c : Nat)
  -- steps of the synchronisation units, the directory and the array (08, 09)
  | phaseCompletion (o : SyncRef)
  | barrierRelease (c : CoreId)
  | podReleaseTick (o : SyncRef)
  | openwTimeout (c : CoreId)
  | leaseGrant (v : Nat)
  | leaseIdleEnd (v : Nat)
  | leaseBudgetEnd (v : Nat)
  -- steps of the host and the dispatcher (16, 20)
  | hostPush (p : HostParty) (vf q : Nat) (ws : List Word)
  | hostConfigWrite (lvl off : Nat) (w : Word)
  | dispatchDecision
  | gangIssue (l : Nat)
  | preemptionStop (l : Nat)
  | gangResume (l : Nat)
  | dualRunCompare (l : Nat)
  | capturePreimage (l page : Nat)
  -- steps of translation and migration (14)
  | migrationMove (vf : Nat) (va : Word) (near : Bool)
  | migrationCommit (k : Nat)
  | leafExchange (c : CoreId)
  | dtctlCurChange (vf : Nat) (cur : Bool)
  | dirtyFlipSettle (vf : Nat)
  | namespaceExport (vf : Nat) (a : Word)
  | namespaceImport (vf : Nat) (a : Word)
  -- steps of the platform (20, 21, 22)
  | valevfWrite (v : Nat) (w : Word)
  | clkdivWrite (w : Word)
  | clkdivChange
  | hcctlClear
  | spdmRequest
  | imageChunk
  | imageCommit
  | mailboxReset
  | accountTick
  | flitReceive (f : Flit)
  | remoteAccess (r : RemoteReq)
  | linkEpochChange (port : Nat)
  | linkTrainingComplete (port farEpoch nbr : Nat)
  | laneRepair (port lane : Nat)
  | ptpMessage (port : Nat) (msg : PtpMsg)
  | ucieModuleFail (i : Fin 2)
  | cxlPortFail (i : Fin 8)
  | powerGood
  | bringupWatchdog
  | hollowEntry
  | hollowEntryComplete
  | wake
  | wakeComplete
  | powerLoss
  | voltageTrim (strath mv : Nat)
  | strathRepairNeeded (strath : Nat)
  | scrub (tier : Nat) (a : Nat)
  | spareIntoService (k : SpareKind)
  | drainComplete (v : Nat)
  | drainRequest (v : Nat)
  | unitRetirement (cls i : Nat)
  | hbmRefresh (g : Nat)
  deriving DecidableEq, Repr

/-- The engine that issues a LOOP, from its count register. -/
def LoopReg.engine : LoopReg → Engine
  | .c _ => .c | .a _ => .a | .m _ => .m | .v _ => .v | .s _ => .s

/-- The engine that issues an LCRD, from its destination. -/
def LcrdDst.engine : LcrdDst → Engine
  | .c _ => .c | .a _ => .a | .m _ => .m | .v _ => .v | .s _ => .s

/-- The engine that issues a RECV, from its destination. -/
def RecvDst.engine : RecvDst → Engine
  | .a _ => .a | .m _ => .m | .v _ => .v | .s _ => .s

/-- The engine that issues a QCLR, from its queue. -/
def QclrQ.engine : QclrQ → Engine
  | .aIq => .a | .mMq _ => .m | .mLq _ => .m | .mIq => .m
  | .vLq _ => .v | .vIq => .v | .sSq _ => .s | .sSaq => .s | .sIq => .s

end Sys2Proof
end

