-- ==== Sys2Proof/WellFormed.lean ====
section
/-! DEFINITION. Which terms of `Instr` are instructions the entries admit: the limits of 05_encoding R151 and of
each entry, on terms whose operands are already names. An event row carries no encoding and is well formed. -/

namespace Sys2Proof

/-! ## Formats (02_numbers R63, 05_encoding R166) -/

/-- The width of an element in bits. -/
def Fmt.width : Fmt → Nat
  | .f32 => 32
  | .i32 => 32
  | .bf16 => 16
  | .f16 => 16
  | .i8 => 8
  | .b8 _ _ _ => 8

/-- The number of lanes of a 2,048-bit register. -/
def Fmt.lanes (f : Fmt) : Nat := 2048 / f.width

def Fmt.isF : Fmt → Bool
  | .f32 => true
  | .bf16 => true
  | .f16 => true
  | _ => false

def Fmt.isI : Fmt → Bool
  | .i8 => true
  | .i32 => true
  | _ => false

def Fmt.isB8 : Fmt → Bool
  | .b8 _ _ _ => true
  | _ => false

/-- The six-bit code of a format (R63). -/
def Fmt.code : Fmt → BitVec 6
  | .f32 => 0
  | .bf16 => 1
  | .f16 => 2
  | .i8 => 3
  | .i32 => 4
  | .b8 u i p => 1#1 ++ BitVec.ofBool u ++ BitVec.ofBool i ++ BitVec.ofNat 3 (p.val + 1)

/-- The format that a six-bit code names; none for a reserved code (R63). -/
def Fmt.ofCode (c : BitVec 6) : Option Fmt :=
  if c.getLsbD 5 then
    let p := (c.extractLsb' 0 3).toNat
    if h : 0 < p ∧ p - 1 < 7 then some (.b8 (c.getLsbD 4) (c.getLsbD 3) ⟨p - 1, h.2⟩) else none
  else match c.toNat with
    | 0 => some .f32
    | 1 => some .bf16
    | 2 => some .f16
    | 3 => some .i8
    | 4 => some .i32
    | _ => none

/-! ## The option payload of V (R164 to R166, R247) -/

/-- What one V entry accepts: its types (detail 5), the limits on its operand values (detail 4; with no type known,
the limits that need none), its source format (detail 5), its Z bits in OPS (detail 6), and whether it takes a mask. -/
structure VRule where
  acc  : Fmt → Bool
  lim  : Option Fmt → BitVec 13 → Bool
  src  : BitVec 13 → Bool
  z    : Fmt → BitVec 13 → Bool
  mask : Bool

/-- An entry with no OPS bit and no limit beyond its types. -/
def VRule.plain (acc : Fmt → Bool) : VRule :=
  ⟨acc, fun _ _ => true, fun _ => true, fun _ o => o == 0, true⟩

/-- The default type of an entry (R165). -/
def VRule.dflt (r : VRule) : Fmt := if r.acc .f32 then .f32 else if r.acc .i32 then .i32 else .i8

def accAny : Fmt → Bool := fun _ => true
def accF : Fmt → Bool := Fmt.isF
def accI : Fmt → Bool := Fmt.isI
def accFI : Fmt → Bool := fun f => f.isF || f.isI
def accF32 : Fmt → Bool := fun f => f == .f32
def accI8 : Fmt → Bool := fun f => f == .i8
def accQ : Fmt → Bool := fun f => f.isB8 || f == .i8

def vF : VRule := .plain accF
def vFI : VRule := .plain accFI
def vI : VRule := .plain accI
def vAny : VRule := .plain accAny
def vF32 : VRule := .plain accF32
/-- VIADD and VISUB: OPS bit 0 is sat (R250). -/
def vSatI : VRule := { vI with z := fun _ o => o.extractLsb' 1 12 == 0 }
/-- VDOT4: i8 only, OPS bit 0 is sat (R261). -/
def vDot : VRule := { VRule.plain accI8 with z := fun _ o => o.extractLsb' 1 12 == 0 }
/-- VROUND: OPS bits 1:0 (R254). -/
def vRnd : VRule := { vF with z := fun _ o => o.extractLsb' 2 11 == 0 }
/-- VSEL: OPS bits 2:0 (R263). -/
def vSelR : VRule := { vAny with z := fun _ o => o.extractLsb' 3 10 == 0 }
/-- VCMP: OPS bits 2:0, and bit 3 for I types only (R262). -/
def vCmpR : VRule :=
  { vFI with
    lim := fun t o => match t with
      | some f => !(o.getLsbD 3) || f.isI
      | none => true
    z := fun _ o => o.extractLsb' 4 9 == 0 }
/-- The ratio of two element widths. -/
def widthRatio (a b : Nat) : Nat := if a < b then b / a else a / b
/-- VCVT: SRC, PART, SAT (R253). -/
def vCvtR : VRule :=
  { acc := accAny
    lim := fun t o => match t, Fmt.ofCode (o.extractLsb' 0 6) with
      | some d, some s => decide ((o.extractLsb' 6 2).toNat < widthRatio s.width d.width)
      | _, _ => true
    src := fun o => (Fmt.ofCode (o.extractLsb' 0 6)).isSome
    z := fun _ o => o.extractLsb' 9 4 == 0
    mask := true }
/-- The bits of OPS that VQNT and VDQN leave at zero (R255). -/
def qntZ (o : BitVec 13) : Bool :=
  o.extractLsb' 9 4 == 0 && (!(o.getLsbD 6) || o.extractLsb' 7 2 == 0)
/-- VQNT into d: the scale register is v0 to v47 and is not d (R255, R256). -/
def vQntR (d : VDst) : VRule :=
  { VRule.plain accQ with
    lim := fun _ o => (o.extractLsb' 0 6).toNat < 48 &&
      (match d with
       | .v r => r.val != (o.extractLsb' 0 6).toNat
       | _ => true)
    z := fun _ o => qntZ o }
/-- VDQN (R258). -/
def vDqnR : VRule :=
  { VRule.plain accQ with
    lim := fun _ o => (o.extractLsb' 0 6).toNat < 48
    z := fun _ o => qntZ o }
/-- VBC: a lane below n (R266). -/
def vBcR : VRule :=
  { vAny with
    lim := fun t o => match t with
      | some f => (o.extractLsb' 0 8).toNat < f.lanes
      | none => true
    z := fun _ o => o.extractLsb' 8 5 == 0 }
/-- VSLIDE: a distance from 0 to n (R266). -/
def vSlideR : VRule :=
  { vAny with
    lim := fun t o => match t with
      | some f => (o.extractLsb' 0 9).toNat ≤ f.lanes
      | none => true
    z := fun _ o => o.extractLsb' 9 4 == 0 }
/-- VXTR and VINS: a lane below n, no mask (R267). -/
def vLaneR : VRule := { vBcR with mask := false }
/-- VLI (R268). -/
def vLiR : VRule := { vAny with z := fun _ _ => true }
/-- VLID: OPS bits 12:8 are Z in an 8-bit lane (R268). -/
def vLidR : VRule := { vAny with z := fun f o => f.width != 8 || o.extractLsb' 8 5 == 0 }

/-- A payload that a V entry admits. -/
def VRule.okPay (r : VRule) (p : VPay) : Bool :=
  r.lim (some p.ty) p.ops && r.acc p.ty && r.src p.ops && r.z p.ty p.ops &&
    (if p.msk == 0 || !r.mask then !p.inv && !p.zm else true) && (r.mask || p.msk == 0)

/-- The payload that a V instruction without an extension word stands for (R165). -/
def VRule.dfltPay (r : VRule) : VPay := ⟨0, false, false, 0, r.dflt⟩

/-- A V instruction's payload, or its absence, is admitted. -/
def VRule.ok (r : VRule) : Option VPay → Bool
  | none => r.lim (some r.dflt) 0
  | some p => r.okPay p

/-! ## Row operands of M (R148, R162, R290) -/

def Acc.isNum : Acc → Bool
  | .num _ => true
  | .e _ => false

/-- The static check of R290 on one row range. -/
def accRange (a : Acc) (rows : BitVec 6) : Bool :=
  match a with
  | .num r => r.val + rows.toNat < 512
  | .e _ => true

/-- The static check of R290 on two row ranges: made when both operands are numbers. -/
def accRange2 (a b : Acc) (rows : BitVec 6) : Bool :=
  if a.isNum && b.isNum then accRange a rows && accRange b rows else true

/-- Rows and numbered operands need an extension word (R148, R162). -/
def accX (x : Bool) (rows : BitVec 6) (as : List Acc) : Bool :=
  x || (rows == 0 && as.all fun a => !a.isNum)

/-! ## Control register numbers (13 R396, R397) -/

/-- The numbers that a register map names. -/
def cregKnown (n : BitVec 12) : Bool :=
  let k := n.toNat
  k ≤ 0x006 || (0x010 ≤ k && k ≤ 0x027) || (0x030 ≤ k && k ≤ 0x033) || (0x040 ≤ k && k ≤ 0x042)
    || (0x050 ≤ k && k ≤ 0x055) || (0x060 ≤ k && k ≤ 0x067) || (0x080 ≤ k && k ≤ 0x08B)
    || (0x090 ≤ k && k ≤ 0x094) || (0x0A0 ≤ k && k ≤ 0x0BD) || (0x0C0 ≤ k && k ≤ 0x0CF)
    || (0x0D0 ≤ k && k ≤ 0x0D9) || k == 0x0DF || k == 0x0E0 || k == 0x0E8

/-- The A sources of MMA with their tiles: a tile only beside a pair (08 R305). -/
def mmaSrcOk : MSrc → Tile → Bool
  | .pair _, _ => true
  | _, .zero => true
  | _, .e _ => false

/-- The scale sources of MMAS (08 R305). -/
def mmasSrcOk : MSrc → MSrc → Bool
  | .q _, .q _ => true
  | .pbuf, .pbuf => true
  | .pair _, .pair _ => true
  | _, _ => false

/-- The limits of each instruction. -/
def Instr.wf : Instr → Bool
  | .loop _ _ len => len != 0
  | .loopi _ _ _ len => len != 0
  | .bcq _ e _ _ _ => e != .c
  | .cbc _ set _ => set != 0
  | .sendv _ set _ => set != 0
  | .xpush _ _ a n => n != 0 && n.toNat ≤ 16 && a.val + n.toNat ≤ 32
  | .launch _ _ a => a.val ≤ 24
  | .cyc _ _ _ k => k.toNat ≤ 5
  | .crr _ _ n => cregKnown n
  | .crw _ _ n => cregKnown n
  | .tlbi _ _ t => t != some 3
  | .snapwr _ _ _ a => a.val != 31
  | .wpset _ _ _ a => a.val != 31
  | .vadd _ _ _ _ o => vF.ok o
  | .vsub _ _ _ _ o => vF.ok o
  | .vmul _ _ _ _ o => vF.ok o
  | .vfma _ _ _ _ o => vF.ok o
  | .vfms _ _ _ _ o => vF.ok o
  | .vmax _ _ _ _ o => vFI.ok o
  | .vmin _ _ _ _ o => vFI.ok o
  | .vabs _ _ _ o => vF.ok o
  | .vneg _ _ _ o => vF.ok o
  | .vrcp _ _ _ o => vF.ok o
  | .vrsq _ _ _ o => vF.ok o
  | .vexp _ _ _ o => vF32.ok o
  | .vlog2 _ _ _ o => vF.ok o
  | .vcvt _ _ _ o => vCvtR.ok o
  | .vqnt _ d _ o => d != .discard && (vQntR d).ok o
  | .vdqn _ _ _ o => vDqnR.ok o
  | .vand _ _ _ _ o => vAny.ok o
  | .vor _ _ _ _ o => vAny.ok o
  | .vxor _ _ _ _ o => vAny.ok o
  | .vnot _ _ _ o => vAny.ok o
  | .vshl _ _ _ _ o => vAny.ok o
  | .vshr _ _ _ _ o => vAny.ok o
  | .vsra _ _ _ _ o => vAny.ok o
  | .viadd _ _ _ _ o => vSatI.ok o
  | .visub _ _ _ _ o => vSatI.ok o
  | .vimul _ _ _ _ o => vI.ok o
  | .vdot4 _ _ _ _ o => vDot.ok o
  | .vpopc _ _ _ o => vAny.ok o
  | .vsign _ _ _ o => vAny.ok o
  | .vcmp _ _ _ _ o => vCmpR.ok o
  | .vsel _ _ _ _ o => vSelR.ok o
  | .vrsum _ _ _ o => vFI.ok o
  | .vrmax _ _ _ o => vFI.ok o
  | .vbc _ _ _ o => vBcR.ok o
  | .vperm _ _ _ _ o => vAny.ok o
  | .vslide _ _ _ _ o => vSlideR.ok o
  | .vmov _ _ _ o => vAny.ok o
  | .vli _ _ p => vLiR.okPay p
  | .vlid _ _ p => vLidR.okPay p
  | .ksetImm _ _ n => n.toNat ≤ 256
  | .vxtr _ _ _ o => vLaneR.ok o
  | .vins _ _ _ o => vLaneR.ok o
  | .vclamp _ _ _ _ o => vFI.ok o
  | .vround _ _ _ o => vRnd.ok o
  | .mma _ x rows d src t => accX x rows [d] && accRange d rows && mmaSrcOk src t
  | .mmas _ x rows d src sc => accX x rows [d] && accRange d rows && mmasSrcOk src sc
  | .mzero _ x f l _ => accX x 0 [f, l] &&
      (match f, l with
       | .num a, .num b => a.val ≤ b.val
       | _, _ => true)
  | .msmx _ x rows o s => accX x rows [o, s] && accRange2 o s rows
  | .msmn _ x rows o => accX x rows [o] && accRange o rows
  | .msmg _ x rows d a => accX x rows [d, a] && accRange2 d a rows
  | .mepi _ x rows a _ _ => accX x rows [a] && accRange a rows
  | .mmov _ x rows (.rows d a) => accX x rows [d, a] && accRange2 d a rows
  | .mmov _ x rows (.toSq a) => accX x rows [a] && accRange a rows
  | .mmov _ x rows (.fromV d _) => accX x rows [d] && rows == 0
  | .mmov _ x rows (.fromQ d _) => accX x rows [d] && accRange d rows
  | .mmova _ x (.read _ a) _ => accX x 0 [a]
  | .mmova _ x (.write d _) _ => accX x 0 [d]
  | .mfmt _ _ _ t => t.toNat ≤ 16
  | .saeq _ _ _ (some o) => o.op.toNat ≤ 5 && (!o.ft || o.op == 2 || o.op == 3)
  | .saeq _ _ _ none => true
  -- Every other instruction: its operands are names, and nothing limits them further.
  | .nop _ _ => true
  | .br _ _ _ _ => true
  | .fset _ _ _ _ => true
  | .fwait _ _ _ _ => true
  | .mark _ _ _ _ => true
  | .halt _ _ => true
  | .breath _ _ _ => true
  | .qclr _ _ => true
  | .recv _ _ => true
  | .lcrd _ _ _ => true
  | .add .. => true
  | .sub .. => true
  | .mul .. => true
  | .mulh .. => true
  | .mulhu .. => true
  | .div .. => true
  | .divu .. => true
  | .rem .. => true
  | .remu .. => true
  | .and .. => true
  | .or .. => true
  | .xor .. => true
  | .sll .. => true
  | .srl .. => true
  | .sra .. => true
  | .min .. => true
  | .max .. => true
  | .minu .. => true
  | .maxu .. => true
  | .slt .. => true
  | .sltu .. => true
  | .seq .. => true
  | .sel .. => true
  | .addq .. => true
  | .li .. => true
  | .lih .. => true
  | .beq .. => true
  | .bne .. => true
  | .blt .. => true
  | .bge .. => true
  | .bltu .. => true
  | .bgeu .. => true
  | .jal .. => true
  | .jalr .. => true
  | .ld .. => true
  | .st .. => true
  | .ldaq .. => true
  | .strl .. => true
  | .xpop .. => true
  | .xstat .. => true
  | .open .. => true
  | .openw .. => true
  | .close .. => true
  | .hqry .. => true
  | .seal .. => true
  | .rbstg .. => true
  | .rbcmt .. => true
  | .rbabt .. => true
  | .rclm .. => true
  | .sacq .. => true
  | .srel .. => true
  | .bara .. => true
  | .barw .. => true
  | .baraw .. => true
  | .waitmk .. => true
  | .domsplit .. => true
  | .domjoin .. => true
  | .rbndr .. => true
  | .ubndr .. => true
  | .time .. => true
  | .acrd .. => true
  | .stmt .. => true
  | .trap .. => true
  | .eret .. => true
  | .snaprd .. => true
  | .acsw .. => true
  | .preempt .. => true
  | .keysel .. => true
  | .hollow .. => true
  | .aadd .. => true
  | .asub .. => true
  | .aaddq .. => true
  | .amul .. => true
  | .asll .. => true
  | .asrl .. => true
  | .ali .. => true
  | .ahi .. => true
  | .amov .. => true
  | .ald .. => true
  | .ldq .. => true
  | .ldqs .. => true
  | .ldqx .. => true
  | .ldro .. => true
  | .agc .. => true
  | .agld .. => true
  | .agsa .. => true
  | .saq .. => true
  | .dset .. => true
  | .abne .. => true
  | .ablt .. => true
  | .kand .. => true
  | .kor .. => true
  | .kxor .. => true
  | .kandn .. => true
  | .knot .. => true
  | .kmov .. => true
  | .kset .. => true
  | .kcnt .. => true
  | .mlease _ => true
  | .mleasePlate .. => true
  | .mrel _ => true
  | .mwld .. => true
  | .mwlds .. => true
  | .mscl .. => true
  | .mstat .. => true
  | .stq .. => true
  | .stql .. => true
  | .sfence .. => true
  | .stz .. => true
  -- the steps without a word
  | .engineRun .. => true
  | .operationLanding .. => true
  | .loadResponse .. => true
  | .generatorTableRead .. => true
  | .tableWalk .. => true
  | .timingErrorReplay .. => true
  | .breathSwitch => true
  | .gangCompletion .. => true
  | .ringDeadlock => true
  | .trapEntry => true
  | .commandStart .. => true
  | .copy .. => true
  | .mcast .. => true
  | .gather .. => true
  | .scatter .. => true
  | .prefPromote .. => true
  | .prefDemote .. => true
  | .sigath .. => true
  | .copyxSave .. => true
  | .copyxRestore .. => true
  | .sacc .. => true
  | .allreduce .. => true
  | .reduce .. => true
  | .bcast .. => true
  | .allgather .. => true
  | .alltoall .. => true
  | .commandCompletion .. => true
  | .barrierPost .. => true
  | .resultElementPlace .. => true
  | .phaseCompletion .. => true
  | .barrierRelease .. => true
  | .podReleaseTick .. => true
  | .openwTimeout .. => true
  | .leaseGrant .. => true
  | .leaseIdleEnd .. => true
  | .leaseBudgetEnd .. => true
  | .hostPush .. => true
  | .hostConfigWrite .. => true
  | .dispatchDecision => true
  | .gangIssue .. => true
  | .preemptionStop .. => true
  | .gangResume .. => true
  | .dualRunCompare .. => true
  | .capturePreimage .. => true
  | .migrationMove .. => true
  | .migrationCommit .. => true
  | .leafExchange .. => true
  | .dtctlCurChange .. => true
  | .dirtyFlipSettle .. => true
  | .namespaceExport .. => true
  | .namespaceImport .. => true
  | .valevfWrite .. => true
  | .clkdivWrite .. => true
  | .clkdivChange => true
  | .hcctlClear => true
  | .spdmRequest => true
  | .imageChunk => true
  | .imageCommit => true
  | .mailboxReset => true
  | .accountTick => true
  | .flitReceive .. => true
  | .remoteAccess .. => true
  | .linkEpochChange .. => true
  | .linkTrainingComplete .. => true
  | .laneRepair .. => true
  | .ptpMessage .. => true
  | .ucieModuleFail .. => true
  | .cxlPortFail .. => true
  | .powerGood => true
  | .bringupWatchdog => true
  | .hollowEntry => true
  | .hollowEntryComplete => true
  | .wake => true
  | .wakeComplete => true
  | .powerLoss => true
  | .voltageTrim .. => true
  | .strathRepairNeeded .. => true
  | .scrub .. => true
  | .spareIntoService .. => true
  | .drainComplete .. => true
  | .drainRequest .. => true
  | .unitRetirement .. => true
  | .hbmRefresh .. => true

end Sys2Proof
end

