-- ==== Sys2Proof/Machine/Float.lean ====
section
/-! DEFINITION. Number formats and exact arithmetic (02_numbers). Every value is an exact rational, an infinity or NaN;
every rounding is one of the spec's. -/

namespace Sys2Proof.Machine

open Sys2Proof

/-- A value: NaN, an infinity, or (−1)^neg × num / den with den > 0; a zero keeps its sign. -/
inductive Num where
  | nan
  | inf (neg : Bool)
  | fin (neg : Bool) (num den : Nat)
  deriving DecidableEq, Repr

/-- ±m × 2^k. -/
def Num.scaled (neg : Bool) (m : Nat) (k : Int) : Num :=
  match k with
  | .ofNat n => .fin neg (m <<< n) 1
  | .negSucc n => .fin neg m (1 <<< (n + 1))

def Num.ofInt (x : Int) : Num := .fin (decide (x < 0)) x.natAbs 1

def Num.isNan : Num → Bool
  | .nan => true
  | _ => false

def Num.isZero : Num → Bool
  | .fin _ 0 _ => true
  | _ => false

def Num.isInf : Num → Bool
  | .inf _ => true
  | _ => false

def Num.isFin : Num → Bool
  | .fin _ _ _ => true
  | _ => false

def Num.sign : Num → Bool
  | .nan => false
  | .inf n => n
  | .fin n _ _ => n

def Num.neg : Num → Num
  | .nan => .nan
  | .inf n => .inf (!n)
  | .fin n a d => .fin (!n) a d

def Num.abs : Num → Num
  | .nan => .nan
  | .inf _ => .inf false
  | .fin _ a d => .fin false a d

/-- The signed numerator of a finite value. -/
def signed (neg : Bool) (a : Nat) : Int := if neg then -(a : Int) else a

/-- The exact sum; an exact zero is +0 unless both addends are −0 (R85, R87). -/
def Num.add : Num → Num → Num
  | .nan, _ => .nan
  | _, .nan => .nan
  | .inf a, .inf b => if a == b then .inf a else .nan
  | .inf a, _ => .inf a
  | _, .inf b => .inf b
  | .fin n a d, .fin m b e =>
    let x := signed n (a * e) + signed m (b * d)
    if x == 0 then .fin (n && m && a == 0 && b == 0) 0 1 else .fin (decide (x < 0)) x.natAbs (d * e)

def Num.sub (x y : Num) : Num := x.add y.neg

/-- The exact product, with the IEEE 754 rules for infinities (R84, R87). -/
def Num.mul : Num → Num → Num
  | .nan, _ => .nan
  | _, .nan => .nan
  | .inf a, .inf b => .inf (a != b)
  | .inf a, .fin m b _ => if b == 0 then .nan else .inf (a != m)
  | .fin n a _, .inf b => if a == 0 then .nan else .inf (n != b)
  | .fin n a d, .fin m b e => .fin (n != m) (a * b) (d * e)

/-- The exact quotient, with the IEEE 754 rules. -/
def Num.div : Num → Num → Num
  | .nan, _ => .nan
  | _, .nan => .nan
  | .inf _, .inf _ => .nan
  | .inf a, .fin m _ _ => .inf (a != m)
  | .fin n _ _, .inf b => .fin (n != b) 0 1
  | .fin n a d, .fin m b e =>
    if b == 0 then (if a == 0 then .nan else .inf (n != m)) else .fin (n != m) (a * e) (d * b)

/-- x < y, numerically; false when either is NaN; zeros are equal. -/
def Num.lt : Num → Num → Bool
  | .nan, _ => false
  | _, .nan => false
  | .inf a, .inf b => a && !b
  | .inf a, _ => a
  | _, .inf b => !b
  | .fin n a d, .fin m b e => signed n (a * e) < signed m (b * d)

/-- x = y, numerically. -/
def Num.eq : Num → Num → Bool
  | .nan, _ => false
  | _, .nan => false
  | x, y => !(x.lt y) && !(y.lt x)

def Num.le (x y : Num) : Bool := x.lt y || x.eq y

/-! ## Formats (R65 to R71) -/

/-- Precision and bias of a floating format. -/
def fmtPrec : Fmt → Nat
  | .f32 => 24
  | .bf16 => 8
  | .f16 => 11
  | .b8 _ _ p => p.val + 1
  | .i8 => 0
  | .i32 => 0

def fmtBias : Fmt → Nat
  | .f32 => 127
  | .bf16 => 127
  | .f16 => 15
  | .b8 u _ p => 2 ^ ((if u then 9 else 8) - (p.val + 1) - 1)
  | .i8 => 0
  | .i32 => 0

def fmtSigned : Fmt → Bool
  | .b8 u _ _ => !u
  | _ => true

/-- The value of ±(exponent field, trailing field) in a floating format (R65, R70). -/
def fieldValue (f : Fmt) (neg : Bool) (e m : Nat) : Num :=
  let t := fmtPrec f - 1
  if e == 0 then .scaled neg m (1 - (fmtBias f : Int) - t)
  else .scaled neg (2 ^ t + m) ((e : Int) - (fmtBias f) - t)

/-- The value of a code (R65 to R67, R70, R71). -/
def decodeFmt (f : Fmt) (c : Nat) : Num :=
  let t := fmtPrec f - 1
  match f with
  | .i8 => .ofInt (BitVec.ofNat 8 c).toInt
  | .i32 => .ofInt (BitVec.ofNat 32 c).toInt
  | .b8 u i _ =>
    if u then
      if c == 0xFF then .nan
      else if i && c == 0xFE then .inf false
      else fieldValue f false (c >>> t) (c % 2 ^ t)
    else
      if c == 0x80 then .nan
      else if i && c == 0x7F then .inf false
      else if i && c == 0xFF then .inf true
      else fieldValue f (c.testBit 7) ((c % 128) >>> t) (c % 2 ^ t)
  | _ =>
    let ew := f.width - 1 - t
    let neg := c.testBit (f.width - 1)
    let e := (c >>> t) % 2 ^ ew
    let m := c % 2 ^ t
    if e == 2 ^ ew - 1 then (if m == 0 then .inf neg else .nan) else fieldValue f neg e m

/-- The code of the largest finite value of a binary8 format (R67). -/
def b8MaxCode (u i : Bool) : Nat :=
  if u then (if i then 0xFD else 0xFE) else (if i then 0x7E else 0x7F)

/-- The largest finite value of a format. -/
def maxFinite (f : Fmt) : Num :=
  match f with
  | .i8 => .ofInt 127
  | .i32 => .ofInt (2 ^ 31 - 1)
  | .b8 u i _ => decodeFmt f (b8MaxCode u i)
  | _ => .scaled false (2 ^ (fmtPrec f) - 1) ((fmtBias f : Int) - (fmtPrec f) + 1)

/-- The lowest value that to_fmt accepts (R76). -/
def minFinite (f : Fmt) : Num :=
  match f with
  | .i8 => .ofInt (-128)
  | .i32 => .ofInt (-(2 ^ 31))
  | .b8 true _ _ => .fin false 0 1
  | _ => (maxFinite f).neg

/-- The canonical NaN (R67, R70); 0 for an integer format (R76). -/
def nanCode : Fmt → Nat
  | .f32 => 0x7FC00000
  | .bf16 => 0x7FC0
  | .f16 => 0x7E00
  | .b8 u _ _ => if u then 0xFF else 0x80
  | .i8 => 0
  | .i32 => 0

/-- Whether a format has the infinity of a sign (R76). -/
def hasInf (f : Fmt) (neg : Bool) : Bool :=
  match f with
  | .f32 => true
  | .bf16 => true
  | .f16 => true
  | .b8 u i _ => i && (!neg || !u)
  | .i8 => false
  | .i32 => false

/-- The code of an infinity that the format has. -/
def infCode (f : Fmt) (neg : Bool) : Nat :=
  match f with
  | .f32 => if neg then 0xFF800000 else 0x7F800000
  | .bf16 => if neg then 0xFF80 else 0x7F80
  | .f16 => if neg then 0xFC00 else 0x7C00
  | .b8 u _ _ => if u then 0xFE else if neg then 0xFF else 0x7F
  | .i8 => 0
  | .i32 => 0

/-! ## Rounding (R74) -/

/-- The exponent E with 2^E ≤ n / d < 2^(E+1), for n > 0 and d > 0. -/
def floorLog2 (n d : Nat) : Int :=
  let e : Int := (n.log2 : Int) - d.log2
  let ok := match e with
    | .ofNat k => decide (d <<< k ≤ n)
    | .negSucc k => decide (d ≤ n <<< (k + 1))
  if ok then e else e - 1

/-- n / (d × 2^q) as a fraction of naturals. -/
def scaleFrac (n d : Nat) (q : Int) : Nat × Nat :=
  match q with
  | .ofNat k => (n, d <<< k)
  | .negSucc k => (n <<< (k + 1), d)

/-- The integer nearest to n / d, ties to even. -/
def nearestEven (n d : Nat) : Nat :=
  let q := n / d
  let r := n % d
  if 2 * r > d || (2 * r == d && q % 2 == 1) then q + 1 else q

/-- A rounded magnitude k × 2^q. -/
structure Rounded where
  k : Nat
  q : Int
  deriving DecidableEq, Repr

/-- The quantum's exponent for a magnitude of exponent e in a format of precision p and bias b (R74). -/
def quantum (p : Nat) (b : Nat) (e : Int) : Int :=
  let emin : Int := 1 - (b : Int)
  (if e ≥ emin then e else emin) - p + 1

/-- round_rne of the magnitude n / d (R74). -/
def roundMag (f : Fmt) (n d : Nat) : Rounded :=
  match f with
  | .i8 => ⟨nearestEven n d, 0⟩
  | .i32 => ⟨nearestEven n d, 0⟩
  | _ =>
    if n == 0 then ⟨0, quantum (fmtPrec f) (fmtBias f) (1 - (fmtBias f : Int))⟩
    else
      let q := quantum (fmtPrec f) (fmtBias f) (floorLog2 n d)
      let p := scaleFrac n d q
      ⟨nearestEven p.1 p.2, q⟩

/-- round_rne(x, f) as an exact value; unbounded above (R74). -/
def roundRne (f : Fmt) : Num → Num
  | .nan => .nan
  | .inf n => .inf n
  | .fin n a d =>
    let r := roundMag f a d
    let z := r.k == 0
    let n' := match f with
      | .b8 _ _ _ => n && !z
      | .i8 => n && !z
      | .i32 => n && !z
      | _ => n
    .scaled n' r.k r.q

/-- The code of a value that the format holds exactly. -/
def encodeFmt (f : Fmt) (x : Num) : Nat :=
  match x with
  | .nan => nanCode f
  | .inf n => infCode f n
  | .fin n a d =>
    match f with
    | .i8 => (BitVec.ofInt 8 (signed n (a / d))).toNat
    | .i32 => (BitVec.ofInt 32 (signed n (a / d))).toNat
    | _ =>
      let signBit := if n && fmtSigned f then 1 <<< (f.width - 1) else 0
      if a == 0 then (match f with
        | .b8 _ _ _ => 0
        | _ => signBit)
      else
        let e := floorLog2 a d
        let p := scaleFrac a d (quantum (fmtPrec f) (fmtBias f) e)
        let k := p.1 / p.2
        let t := fmtPrec f - 1
        if k < 2 ^ t then signBit + k
        else signBit + ((e + (fmtBias f)).toNat <<< t) + (k - 2 ^ t)

/-- to_fmt(x, f, s) (R76): the code and the overflow flag. -/
def toFmt (x : Num) (f : Fmt) (s : Bool) : Nat × Bool :=
  match x with
  | .nan =>
    match f with
    | .i8 => (0, true)
    | .i32 => (0, true)
    | _ => (nanCode f, false)
  | .inf n =>
    if hasInf f n then (infCode f n, false)
    else (encodeFmt f (if n then minFinite f else maxFinite f), true)
  | .fin _ _ _ =>
    let v := roundRne f x
    if (minFinite f).le v && v.le (maxFinite f) then (encodeFmt f v, false)
    else if !s && hasInf f v.sign then (infCode f v.sign, true)
    else if !s && f.isI then (encodeFmt f v, true)
    else (encodeFmt f (if v.lt (minFinite f) then minFinite f else maxFinite f), true)

/-- Rounding of V's float operations: one rounding, and a result beyond the largest finite value becomes the infinity
of its sign (R87). -/
def roundV (f : Fmt) (x : Num) : Nat := (toFmt x f false).1

/-- The FP32 value of 32 bits. -/
def f32v (x : BitVec 32) : Num := decodeFmt .f32 x.toNat

/-- add32 (R85): the code, and whether the rounding saturated. -/
def add32 (x y : BitVec 32) : BitVec 32 × Bool :=
  let r := toFmt ((f32v x).add (f32v y)) .f32 true
  (BitVec.ofNat 32 r.1, r.2)

/-- first of to_fmt(x × y, f32, 1), with its ovf. -/
def mul32 (x y : BitVec 32) : BitVec 32 × Bool :=
  let r := toFmt ((f32v x).mul (f32v y)) .f32 true
  (BitVec.ofNat 32 r.1, r.2)

/-- The larger of two FP32 values, NaN when either is NaN, −0 below +0 (07 R250). -/
def numMax (x y : Num) : Num :=
  if x.isNan || y.isNan then .nan
  else if x.lt y then y
  else if y.lt x then x
  else if x.sign then y else x

def numMin (x y : Num) : Num :=
  if x.isNan || y.isNan then .nan
  else if x.lt y then x
  else if y.lt x then y
  else if x.sign then x else y

/-! ## Block scales (R72, R73) -/

/-- The value of a 9-bit scale code. -/
def scaleValue (c : Nat) : Num :=
  if c == 0x1FF then .nan
  else .scaled false (2 + c % 2) ((c / 2 : Nat) - 128)

/-- A 16-bit container read as a scale code. -/
def containerCode (c : Nat) : Nat := if c / 512 == 0 then c else 0x1FF

/-- The lowest code from start with amax ≤ maxf × value(code), searching at most n codes, else 0x1FE (07 R257). -/
def scaleSearch (amax maxf : Num) : Nat → Nat → Nat
  | 0, _ => 0x1FE
  | n + 1, c => if amax.le (maxf.mul (scaleValue c)) then c else scaleSearch amax maxf n (c + 1)

/-- The scale of one block of values (07 R257). -/
def chooseScale (f : Fmt) (scaling : Bool) (xs : List Num) : Nat :=
  let amax := xs.foldl (fun m x => if x.isFin && m.lt x.abs then x.abs else m) (.fin false 0 1)
  if !scaling || amax.isZero then 0x0FE
  else if xs.any Num.isNan then 0x0FE
  else scaleSearch amax (maxFinite f) 0x1FF 0

/-! ## The defined exponential (R88, R89) -/

/-- tab(0) to tab(63): round_rne(2^(j/64), f32). -/
def expTable : List (BitVec 32) :=
  [0x3F800000, 0x3F8164D2, 0x3F82CD87, 0x3F843A29, 0x3F85AAC3, 0x3F871F62, 0x3F88980F, 0x3F8A14D5] ++
  [0x3F8B95C2, 0x3F8D1ADF, 0x3F8EA43A, 0x3F9031DC, 0x3F91C3D3, 0x3F935A2B, 0x3F94F4F0, 0x3F96942D] ++
  [0x3F9837F0, 0x3F99E046, 0x3F9B8D3A, 0x3F9D3EDA, 0x3F9EF532, 0x3FA0B051, 0x3FA27043, 0x3FA43516] ++
  [0x3FA5FED7, 0x3FA7CD94, 0x3FA9A15B, 0x3FAB7A3A, 0x3FAD583F, 0x3FAF3B79, 0x3FB123F6, 0x3FB311C4] ++
  [0x3FB504F3, 0x3FB6FD92, 0x3FB8FBAF, 0x3FBAFF5B, 0x3FBD08A4, 0x3FBF179A, 0x3FC12C4D, 0x3FC346CD] ++
  [0x3FC5672A, 0x3FC78D75, 0x3FC9B9BE, 0x3FCBEC15, 0x3FCE248C, 0x3FD06334, 0x3FD2A81E, 0x3FD4F35B] ++
  [0x3FD744FD, 0x3FD99D16, 0x3FDBFBB8, 0x3FDE60F5, 0x3FE0CCDF, 0x3FE33F89, 0x3FE5B907, 0x3FE8396A] ++
  [0x3FEAC0C7, 0x3FED4F30, 0x3FEFE4BA, 0x3FF28177, 0x3FF5257D, 0x3FF7D0DF, 0x3FFA83B3, 0x3FFD3E0C]

/-- tab(j). -/
def expTab (j : Nat) : BitVec 32 := expTable.getD j 0x40000000

/-- ⌊x⌋ of a finite value. -/
def floorNum (neg : Bool) (a d : Nat) : Int :=
  if neg then -(((a + d - 1) / d : Nat) : Int) else ((a / d : Nat) : Int)

/-- exp_dv (R89; log 11, DEDUCED). -/
def expDv (x : BitVec 32) : BitVec 32 :=
  match f32v x with
  | .nan => 0x7FC00000
  | .inf n => if n then 0 else 0x7F800000
  | xv =>
    let y := roundRne .f32 (xv.mul (f32v 0x3FB8AA3B))
    match y with
    | .fin n a d =>
      if !(y.lt (.ofInt 128)) then 0x7F800000
      else if y.lt (.ofInt (-152)) then 0
      else
        let fl := floorNum n a d
        let frac := y.sub (.ofInt fl)
        let f64 := frac.mul (.ofInt 64)
        let j : Nat := match f64 with
          | .fin _ p q => p / q
          | _ => 0
        let t := f64.sub (.ofInt j)
        let lo := f32v (expTab j)
        let dd := (f32v (expTab (j + 1))).sub lo
        let q := roundRne .f32 (t.mul dd)
        let m := roundRne .f32 (lo.add q)
        let v := roundRne .f32 (m.mul (.scaled false 1 fl))
        if (f32v 0x7F7FFFFF).lt v then 0x7F800000 else BitVec.ofNat 32 (encodeFmt .f32 v)
    | _ => 0x7FC00000

/-! ## Correctly rounded functions of V (07 R251) -/

/-- ⌊√x⌋, by bits from 2^(k−1) down, added to r. -/
def sqrtBits (x : Nat) : Nat → Nat → Nat
  | 0, r => r
  | k + 1, r => sqrtBits x k (if (r + 2 ^ k) * (r + 2 ^ k) ≤ x then r + 2 ^ k else r)

def floorSqrt (x : Nat) : Nat := sqrtBits x (x.log2 / 2 + 1) 0

/-- round_rne(√(n / d)) to the format, for n > 0 and d > 0 (log 11, DEDUCED). -/
def roundSqrt (f : Fmt) (n d : Nat) : Nat :=
  let e := (floorLog2 n d).fdiv 2
  let q := quantum (fmtPrec f) (fmtBias f) e
  let p := scaleFrac n d (2 * q)
  let k := floorSqrt (p.1 / p.2)
  let mid := (2 * k + 1) * (2 * k + 1) * p.2
  let up := mid < 4 * p.1 || (mid == 4 * p.1 && k % 2 == 1)
  roundV f (.scaled false (if up then k + 1 else k) q)

/-- Binary digits of log2 of x / 2^400, for x from 2^400 to 2^401 − 1: the fraction's first n bits, appended to acc (log 11, DEDUCED). -/
def log2Bits : Nat → Nat → Nat → Nat
  | 0, _, acc => acc
  | n + 1, x, acc =>
    let y := (x * x) >>> 400
    if y ≥ 2 ^ 401 then log2Bits n (y >>> 1) (2 * acc + 1) else log2Bits n y (2 * acc)

/-- log2(n / d) as a value that rounds as the exact one does (log 11, DEDUCED). -/
def log2Num (n d : Nat) : Num :=
  let e := floorLog2 n d
  let p := scaleFrac n d (e - 400)
  let x := p.1 / p.2
  if x == 2 ^ 400 && p.1 % p.2 == 0 then .ofInt e
  else
    let bits := log2Bits 128 x 0
    (Num.ofInt e).add (.fin false (2 * bits + 1) (2 ^ 129))

/-- VRCP (R251, R252). -/
def rcpNum (x : Num) : Num := (Num.fin false 1 1).div x

/-- VRSQ on a value, to a code of the format (R251, R252). -/
def rsqCode (f : Fmt) : Num → Nat
  | .nan => nanCode f
  | .inf n => if n then nanCode f else 0
  | .fin n a d => if a == 0 then infCode f n else if n then nanCode f else roundSqrt f d a

/-- VLOG2 on a value, to a code of the format (R251, R252). -/
def log2Code (f : Fmt) : Num → Nat
  | .nan => nanCode f
  | .inf n => if n then nanCode f else infCode f false
  | .fin n a d => if a == 0 then infCode f true else if n then nanCode f else roundV f (log2Num a d)

/-- VROUND: to an integral value in the element's own format (R254). -/
def roundIntegral (f : Fmt) (mode : Nat) : Num → Nat
  | .nan => nanCode f
  | .inf n => infCode f n
  | .fin n a d =>
    let down := a / d
    let up := if a % d == 0 then down else down + 1
    let k := match mode with
      | 0 => nearestEven a d
      | 1 => down
      | 2 => if n then up else down
      | _ => if n then down else up
    roundV f (.fin n k 1)

end Sys2Proof.Machine
end

