-- ==== Sys2Proof/Decode.lean ====
section
/-! DEFINITION. Decoding and encoding (05_encoding R142 to R187, with the operand tables of 06, 07, 08, 09 and 13).
A refused word answers with the detail code of R152, in the order of that table. The checks that depend on where the
word stands (detail 7, and X = 1 on the last word) are made by the engine that walks it. -/

namespace Sys2Proof

/-! ## Words and their fields (R142, R145) -/

/-- The fields of a first word. -/
structure Fields where
  m   : Marks
  eng : BitVec 3
  x   : Bool
  op  : BitVec 6
  d   : BitVec 6
  a   : BitVec 6
  b   : BitVec 6
  deriving DecidableEq, Repr

def Fields.ofWord (w : IWord) : Fields :=
  { m := ⟨w.getLsbD 31, w.getLsbD 30, w.getLsbD 29, w.getLsbD 28⟩
    eng := w.extractLsb' 25 3
    x := w.getLsbD 24
    op := w.extractLsb' 18 6
    d := w.extractLsb' 12 6
    a := w.extractLsb' 6 6
    b := w.extractLsb' 0 6 }

def Fields.toWord (f : Fields) : IWord :=
  BitVec.ofBool f.m.wp ++ BitVec.ofBool f.m.wn ++ BitVec.ofBool f.m.sp ++ BitVec.ofBool f.m.sn ++
    f.eng ++ BitVec.ofBool f.x ++ f.op ++ f.d ++ f.a ++ f.b

/-- The fields of an extension word. -/
structure Ext where
  m   : Marks
  eng : BitVec 3
  x   : Bool
  e   : BitVec 24
  deriving DecidableEq, Repr

def Ext.ofWord (w : IWord) : Ext :=
  { m := ⟨w.getLsbD 31, w.getLsbD 30, w.getLsbD 29, w.getLsbD 28⟩
    eng := w.extractLsb' 25 3
    x := w.getLsbD 24
    e := w.extractLsb' 0 24 }

def Ext.toWord (f : Ext) : IWord :=
  BitVec.ofBool f.m.wp ++ BitVec.ofBool f.m.wn ++ BitVec.ofBool f.m.sp ++ BitVec.ofBool f.m.sn ++
    f.eng ++ BitVec.ofBool f.x ++ f.e

/-- The ENG code of an engine. -/
def Engine.tag : Engine → BitVec 3
  | .c => 0
  | .a => 1
  | .v => 2
  | .m => 3
  | .s => 4

/-- The engine that an ENG code names. -/
def Engine.ofTag (t : BitVec 3) : Option Engine :=
  match t.toNat with
  | 0 => some .c
  | 1 => some .a
  | 2 => some .v
  | 3 => some .m
  | 4 => some .s
  | _ => none

/-- An instruction's fields with its marks gathered from both words (R146) and its payload, if any. -/
structure Raw where
  m   : Marks
  eng : Engine
  op  : BitVec 6
  d   : BitVec 6
  a   : BitVec 6
  b   : BitVec 6
  ext : Option (BitVec 24)
  deriving DecidableEq, Repr

/-! ## Extension classes (R147, R168, R173, R177, R178, R180, R181) -/

inductive XClass where
  | none | opt | req
  deriving DecidableEq, Repr

/-- The class of an opcode; no class for a reserved one (R182). -/
def xclass (e : Engine) (op : BitVec 6) : Option XClass :=
  let k := op.toNat
  if k ≤ 0x0C then some (if k == 2 then .opt else .none)
  else if k < 0x10 then none
  else match e with
    | .c =>
      if k ≤ 0x29 then some .opt
      else if k ≤ 0x30 then some .req
      else if k == 0x32 || k == 0x33 || k == 0x3B || k == 0x3C || k == 0x3E || k == 0x3F then some .opt
      else some .none
    | .a =>
      if k ≤ 0x17 then some .opt
      else if k == 0x18 then some .none
      else if k ≤ 0x1D then some .opt
      else if k == 0x1E then some .req
      else if k ≤ 0x20 then some .none
      else if k == 0x21 then some .opt
      else if k ≤ 0x24 then some .req
      else none
    | .v =>
      if k == 0x35 || k == 0x36 then some .req
      else if k ≤ 0x3B then some .opt
      else none
    | .m =>
      if k == 0x10 || k == 0x11 || k == 0x1F then some .none
      else if k < 0x1F then some .opt
      else none
    | .s =>
      if k == 0x12 || k == 0x14 then some .opt
      else if k ≤ 0x14 then some .none
      else none

/-! ## Checks -/

/-- Fail with a detail code unless the condition holds. -/
def need (k : Nat) (c : Bool) : Except Nat Unit := if c then .ok () else .error k

/-- Fail with detail 4 on an operand code that is reserved or not accepted. -/
def op4 {α : Type} : Option α → Except Nat α
  | some x => .ok x
  | none => .error 4

/-! ## Operand codes -/

/-- s0 to s31 (R157). -/
def cReg? (c : BitVec 6) : Option (Fin 32) := if h : c.toNat < 32 then some ⟨c.toNat, h⟩ else none
def cCode (r : Fin 32) : BitVec 6 := BitVec.ofNat 6 r.val
/-- a0 to a15 (R158). -/
def aReg? (c : BitVec 6) : Option (Fin 16) := if h : c.toNat < 16 then some ⟨c.toNat, h⟩ else none
def aCode (r : Fin 16) : BitVec 6 := BitVec.ofNat 6 r.val
/-- a0 to a15 and p0 to p15 (R158). -/
def aSrc? (c : BitVec 6) : Option ASrc :=
  if h : c.toNat < 16 then some (.a ⟨c.toNat, h⟩)
  else if h : c.toNat - 16 < 16 then some (.p ⟨c.toNat - 16, h⟩) else none
def ASrc.code : ASrc → BitVec 6
  | .a r => BitVec.ofNat 6 r.val
  | .p r => BitVec.ofNat 6 (16 + r.val)
/-- One of n codes that start at base. -/
def from? (base n : Nat) (c : BitVec 6) : Option (Fin n) :=
  if h : base ≤ c.toNat ∧ c.toNat - base < n then some ⟨c.toNat - base, h.2⟩ else none
def fromCode (base : Nat) {n : Nat} (r : Fin n) : BitVec 6 := BitVec.ofNat 6 (base + r.val)
/-- Every step-th of the codes that start at base: d pairs (R162), v groups of four (07 R256, 08 R313). -/
def every? (base step n : Nat) (c : BitVec 6) : Option (Fin n) :=
  if h : base ≤ c.toNat ∧ (c.toNat - base) % step = 0 ∧ (c.toNat - base) / step < n
  then some ⟨(c.toNat - base) / step, h.2.2⟩ else none
def everyCode (base step : Nat) {n : Nat} (r : Fin n) : BitVec 6 := BitVec.ofNat 6 (base + step * r.val)
/-- V sources (R159). -/
def vSrc? (c : BitVec 6) : Option VSrc :=
  match from? 0 48 c, from? 48 4 c, c.toNat with
  | some r, _, _ => some (.v r)
  | none, some q, _ => some (.lq q)
  | none, none, 52 => some .zero
  | none, none, 53 => some .lane
  | none, none, 54 => some .iq
  | none, none, _ => none
def VSrc.code : VSrc → BitVec 6
  | .v r => fromCode 0 r
  | .lq q => fromCode 48 q
  | .zero => 52
  | .lane => 53
  | .iq => 54
/-- V destinations (R159). -/
def vDst? (c : BitVec 6) : Option VDst :=
  match from? 0 48 c, from? 49 2 c, c.toNat with
  | some r, _, _ => some (.v r)
  | none, some q, _ => some (.mq q)
  | none, none, 48 => some .sq0
  | none, none, 52 => some .discard
  | none, none, _ => none
def VDst.code : VDst → BitVec 6
  | .v r => fromCode 0 r
  | .mq q => fromCode 49 q
  | .sq0 => 48
  | .discard => 52
/-- Queues that M consumes (R162). -/
def mq? (c : BitVec 6) : Option MQ :=
  match from? 29 2 c, from? 31 4 c with
  | some q, _ => some (.mq q)
  | none, some q => some (.lq q)
  | none, none => none
def MQ.code : MQ → BitVec 6
  | .mq q => fromCode 29 q
  | .lq q => fromCode 31 q
/-- Sources of MMA and MMAS (08 R305). -/
def mSrc? (c : BitVec 6) : Option MSrc :=
  match mq? c, every? 16 2 4 c, c.toNat with
  | some q, _, _ => some (.q q)
  | none, some k, _ => some (.pair k)
  | none, none, 28 => some .pbuf
  | none, none, _ => none
def MSrc.code : MSrc → BitVec 6
  | .q k => k.code
  | .pair k => everyCode 16 2 k
  | .pbuf => 28
/-- Tile operands of M (08 R287). -/
def tile? (c : BitVec 6) : Option Tile :=
  if c == 0 then some .zero else (from? 24 4 c).map .e
def Tile.code : Tile → BitVec 6
  | .zero => 0
  | .e r => fromCode 24 r
/-- A row operand: acc.E, whose number stands in the payload, or acc.e0 to acc.e3 (R162). -/
def acc? (x : Bool) (row : BitVec 9) (c : BitVec 6) : Option Acc :=
  if c == 36 then (if x then some (.num ⟨row.toNat, by have := row.isLt; omega⟩) else none)
  else (from? 40 4 c).map .e
def Acc.code : Acc → BitVec 6
  | .num _ => 36
  | .e r => fromCode 40 r

/-- An A source of MMA is a pair, and the tile in B is read (08 R305); B is Z with the others. -/
def mmaTiled : MSrc → Bool
  | .pair _ => true
  | _ => false
def mmaTile (src : MSrc) (b : BitVec 6) : Option Tile := if mmaTiled src then tile? b else some .zero

/-- The payload of an M instruction, 0 when there is none. -/
def mE (ext : Option (BitVec 24)) : BitVec 24 := ext.getD 0
def mRows (ext : Option (BitVec 24)) : BitVec 6 := (mE ext).extractLsb' 18 6
def mRow0 (ext : Option (BitVec 24)) : BitVec 9 := (mE ext).extractLsb' 0 9
def mRow1 (ext : Option (BitVec 24)) : BitVec 9 := (mE ext).extractLsb' 9 9
/-- The row field of the second row operand, in the field order D, A, B (R148). -/
def mRowAfter (first : BitVec 6) (ext : Option (BitVec 24)) : BitVec 9 :=
  if first == 36 then mRow1 ext else mRow0 ext
/-- The row fields that no operand uses are Z. -/
def mZ (codes : List (BitVec 6)) (ext : Option (BitVec 24)) : Bool :=
  match (codes.filter (· == 36)).length with
  | 0 => mRow0 ext == 0 && mRow1 ext == 0
  | 1 => mRow1 ext == 0
  | _ => true
/-- No payload bit is used. -/
def mNoE (ext : Option (BitVec 24)) : Bool := mE ext == 0

/-- The payload that row operands and a row count need (R148, R290). -/
def encRows (as : List Acc) (rows : BitVec 6) : BitVec 24 :=
  let nums : List (BitVec 9) := as.filterMap fun a => match a with
    | .num r => some (BitVec.ofNat 9 r.val)
    | .e _ => none
  match nums with
  | [] => rows ++ (0 : BitVec 18)
  | [r] => rows ++ (0 : BitVec 9) ++ r
  | r :: r' :: _ => rows ++ r' ++ r

/-! ## The V payload (R164) -/

def VPay.toE (p : VPay) : BitVec 24 :=
  p.ty.code ++ BitVec.ofNat 3 p.msk.val ++ BitVec.ofBool p.inv ++ BitVec.ofBool p.zm ++ p.ops

/-- Reads and checks a payload: operand limits (4), types (5), Z bits (6). -/
def VRule.read (r : VRule) (e : BitVec 24) : Except Nat VPay := do
  let t := Fmt.ofCode (e.extractLsb' 18 6)
  let ops := e.extractLsb' 0 13
  need 4 (r.lim t ops)
  match t with
  | none => .error 5
  | some ty => do
    need 5 (r.acc ty)
    need 5 (r.src ops)
    let msk : Fin 8 := ⟨(e.extractLsb' 15 3).toNat, by have := (e.extractLsb' 15 3).isLt; omega⟩
    let p : VPay := ⟨ops, e.getLsbD 13, e.getLsbD 14, msk, ty⟩
    need 6 (r.z ty ops)
    need 6 (if msk == 0 || !r.mask then !p.inv && !p.zm else true)
    need 6 (r.mask || msk == 0)
    .ok p

/-- The payload of a V instruction of class opt. -/
def VRule.readOpt (r : VRule) : Option (BitVec 24) → Except Nat (Option VPay)
  | none => do
    need 4 (r.lim (some r.dflt) 0)
    .ok none
  | some e => do
    let p ← r.read e
    .ok (some p)

/-! ## The common block (R168 to R171) -/

def loopReg? (e : Engine) (c : BitVec 6) : Option LoopReg :=
  match e with
  | .c => (cReg? c).map .c
  | .a => (aSrc? c).map .a
  | .m => (from? 24 4 c).map .m
  | .v => (from? 0 4 c).map .v
  | .s => (from? 0 4 c).map .s
def LoopReg.code : LoopReg → BitVec 6
  | .c r => cCode r
  | .a r => r.code
  | .m r => fromCode 24 r
  | .v r => fromCode 0 r
  | .s r => fromCode 0 r

def lcrdDst? (e : Engine) (c : BitVec 6) : Option LcrdDst :=
  match e with
  | .c => (cReg? c).map .c
  | .a => (aReg? c).map .a
  | .m => (from? 24 4 c).map .m
  | .v => (from? 0 48 c).map .v
  | .s => (from? 0 4 c).map .s
def LcrdDst.code : LcrdDst → BitVec 6
  | .c r => cCode r
  | .a r => aCode r
  | .m r => fromCode 24 r
  | .v r => fromCode 0 r
  | .s r => fromCode 0 r

def recvDst? (e : Engine) (c : BitVec 6) : Option RecvDst :=
  match e with
  | .c => none
  | .a => (aReg? c).map .a
  | .m => (from? 24 4 c).map .m
  | .v => (from? 0 48 c).map .v
  | .s => (from? 0 4 c).map .s
def RecvDst.code : RecvDst → BitVec 6
  | .a r => aCode r
  | .m r => fromCode 24 r
  | .v r => fromCode 0 r
  | .s r => fromCode 0 r

def qclrQ? (e : Engine) (c : BitVec 6) : Option QclrQ :=
  match e with
  | .c => none
  | .a => if c == 53 then some .aIq else none
  | .m =>
    match from? 29 2 c, from? 31 4 c with
    | some q, _ => some (.mMq q)
    | none, some q => some (.mLq q)
    | none, none => if c == 37 then some .mIq else none
  | .v =>
    match from? 48 4 c with
    | some q => some (.vLq q)
    | none => if c == 54 then some .vIq else none
  | .s =>
    match from? 8 2 c with
    | some q => some (.sSq q)
    | none => if c == 10 then some .sSaq else if c == 11 then some .sIq else none
def QclrQ.code : QclrQ → BitVec 6
  | .aIq => 53
  | .mMq q => fromCode 29 q
  | .mLq q => fromCode 31 q
  | .mIq => 37
  | .vLq q => fromCode 48 q
  | .vIq => 54
  | .sSq q => fromCode 8 q
  | .sSaq => 10
  | .sIq => 11

/-- Opcodes 0x00 to 0x0C. -/
def decodeCommon (r : Raw) : Except Nat Instr :=
  let db : BitVec 12 := r.d ++ r.b
  let ab : BitVec 12 := r.a ++ r.b
  let dab : BitVec 18 := r.d ++ r.a ++ r.b
  match r.op.toNat with
  | 0x00 => do
    need 6 (dab == 0)
    .ok (.nop r.m r.eng)
  | 0x01 => do
    let c ← op4 (loopReg? r.eng r.a)
    need 4 (db != 0)
    .ok (.loop r.m c db)
  | 0x02 => do
    need 4 (db != 0)
    match r.ext with
    | none => .ok (.loopi r.m r.eng (.short r.a) db)
    | some e => do
      need 6 (r.a == 0)
      .ok (.loopi r.m r.eng (.long e) db)
  | 0x03 => do
    need 6 (!dab.getLsbD 16)
    .ok (.br r.m r.eng (dab.getLsbD 17) (dab.extractLsb' 0 16))
  | 0x04 => do
    need 3 (r.eng != .c)
    .ok (.bcq r.m r.eng (dab.getLsbD 17) (dab.getLsbD 16) (dab.extractLsb' 0 16))
  | 0x05 => do
    need 6 (r.d.extractLsb' 4 2 == 0 && ab.extractLsb' 8 4 == 0)
    .ok (.fset r.m r.eng ⟨(r.d.extractLsb' 0 4).toNat, (r.d.extractLsb' 0 4).isLt⟩ (ab.extractLsb' 0 8))
  | 0x06 => do
    need 6 (r.d.extractLsb' 4 2 == 0 && ab.extractLsb' 8 4 == 0)
    .ok (.fwait r.m r.eng ⟨(r.d.extractLsb' 0 4).toNat, (r.d.extractLsb' 0 4).isLt⟩ (ab.extractLsb' 0 8))
  | 0x07 => do
    need 6 (r.d == 0 && ab.extractLsb' 9 3 == 0)
    .ok (.mark r.m r.eng (ab.extractLsb' 0 8) (ab.getLsbD 8))
  | 0x08 => do
    need 6 (dab == 0)
    .ok (.halt r.m r.eng)
  | 0x09 => do
    need 6 (r.d == 0 && r.a == 0 && !r.b.getLsbD 5)
    .ok (.breath r.m r.eng (r.b.extractLsb' 0 5))
  | 0x0A => do
    need 3 (r.eng != .c)
    let q ← op4 (qclrQ? r.eng r.a)
    need 6 (r.d == 0 && r.b == 0)
    .ok (.qclr r.m q)
  | 0x0B => do
    need 3 (r.eng != .c)
    let d ← op4 (recvDst? r.eng r.d)
    need 6 (r.a == 0 && r.b == 0)
    .ok (.recv r.m d)
  | 0x0C => do
    let d ← op4 (lcrdDst? r.eng r.d)
    need 6 (r.a.extractLsb' 2 4 == 0 && r.b == 0)
    .ok (.lcrd r.m d (r.a.extractLsb' 0 2))
  | _ => .error 3

/-! ## C (R172 to R176) -/

/-- The shared form of ADD to ADDQ. -/
def decAlu (r : Raw) (mk : Marks → Fin 32 → Fin 32 → CSrc → Instr) : Except Nat Instr := do
  let d ← op4 (cReg? r.d)
  let a ← op4 (cReg? r.a)
  match r.ext with
  | none => do
    let b ← op4 (cReg? r.b)
    .ok (mk r.m d a (.reg b))
  | some e => do
    need 6 (r.b == 0)
    .ok (mk r.m d a (.imm e))

/-- The immediate of LI and LIH, ALI and AHI. -/
def decImm (r : Raw) : Except Nat Imm :=
  match r.ext with
  | none => .ok (.short (r.a ++ r.b))
  | some e => do
    need 6 (r.a == 0 && r.b == 0)
    .ok (.long e)

/-- The conditional branches of C. -/
def decCBr (r : Raw) (mk : Marks → Fin 32 → Fin 32 → Bool → Bool → BitVec 16 → Instr) : Except Nat Instr := do
  let a ← op4 (cReg? r.a)
  let b ← op4 (cReg? r.b)
  let e := mE r.ext
  need 6 (r.d == 0 && e.extractLsb' 18 6 == 0)
  .ok (mk r.m a b (e.getLsbD 17) (e.getLsbD 16) (e.extractLsb' 0 16))

/-- The payload of LD and ALD. -/
def ldOpt (e : BitVec 24) : LdOpt := ⟨e.extractLsb' 0 21, e.getLsbD 21, e.extractLsb' 22 2⟩
def LdOpt.toE (o : LdOpt) : BitVec 24 := o.sz ++ BitVec.ofBool o.sx ++ o.off
def StOpt.toE (o : StOpt) : BitVec 24 := o.sz ++ 0#1 ++ o.off

/-- A C instruction whose D and A name registers and whose B and payload are used up or Z. -/
def decDA (r : Raw) (mk : Marks → Bool → Fin 32 → Fin 32 → Instr) : Except Nat Instr := do
  let d ← op4 (cReg? r.d)
  let a ← op4 (cReg? r.a)
  need 6 (mNoE r.ext)
  .ok (mk r.m r.ext.isSome d a)

def decD (r : Raw) (mk : Marks → Bool → Fin 32 → Instr) : Except Nat Instr := do
  let d ← op4 (cReg? r.d)
  need 6 (r.a == 0 && mNoE r.ext)
  .ok (mk r.m r.ext.isSome d)

def decA (r : Raw) (mk : Marks → Bool → Fin 32 → Instr) : Except Nat Instr := do
  let a ← op4 (cReg? r.a)
  need 6 (r.d == 0 && mNoE r.ext)
  .ok (mk r.m r.ext.isSome a)

def decodeDir (r : Raw) : Except Nat Instr :=
  match r.b.toNat with
  | 0 => decDA r .open
  | 1 => decDA r .openw
  | 2 => decDA r .close
  | 3 => decDA r .hqry
  | 4 => decDA r .seal
  | 5 => decDA r .rbstg
  | 6 => decD r .rbcmt
  | 7 => decD r .rbabt
  | 8 => decDA r .rclm
  | _ => .error 3

def decodeSyn (r : Raw) : Except Nat Instr :=
  match r.b.toNat with
  | 0 => decA r .sacq
  | 1 => decA r .srel
  | 2 => decDA r .bara
  | 3 => decDA r .barw
  | 4 => decDA r .baraw
  | 5 => decDA r .waitmk
  | 6 => decDA r .domsplit
  | 7 => decD r .domjoin
  | 8 => decDA r .rbndr
  | 9 => decA r .ubndr
  | _ => .error 3

def decodeRdtm (r : Raw) : Except Nat Instr :=
  match r.b.toNat with
  | 0 => decD r .time
  | 1 => do
    let d ← op4 (cReg? r.d)
    need 4 ((r.a.extractLsb' 0 3).toNat ≤ 5)
    need 6 (r.a.extractLsb' 3 3 == 0 && mNoE r.ext)
    .ok (.cyc r.m r.ext.isSome d (r.a.extractLsb' 0 3))
  | 2 => decDA r .acrd
  | 3 => decDA r .stmt
  | _ => .error 3

def decodeSys (r : Raw) : Except Nat Instr :=
  match r.b.toNat with
  | 0 => do
    need 6 (mNoE r.ext)
    .ok (.trap r.m r.ext.isSome (r.d ++ r.a))
  | 1 => do
    need 6 (r.d.extractLsb' 1 5 == 0 && r.a == 0 && mNoE r.ext)
    .ok (.eret r.m r.ext.isSome (r.d.getLsbD 0))
  | 2 => do
    let d ← op4 (cReg? r.d)
    let e ← op4 r.ext
    need 4 (cregKnown (e.extractLsb' 0 12))
    need 6 (r.a == 0 && e.extractLsb' 12 12 == 0)
    .ok (.crr r.m d (e.extractLsb' 0 12))
  | 3 => do
    let a ← op4 (cReg? r.a)
    let e ← op4 r.ext
    need 4 (cregKnown (e.extractLsb' 0 12))
    need 6 (r.d == 0 && e.extractLsb' 12 12 == 0)
    .ok (.crw r.m a (e.extractLsb' 0 12))
  | 4 => do
    let a ← op4 (cReg? r.a)
    match r.ext with
    | none => do
      need 6 (r.d == 0)
      .ok (.tlbi r.m a none)
    | some e => do
      need 4 (e.extractLsb' 0 2 != 3)
      need 6 (r.d == 0 && e.extractLsb' 2 22 == 0)
      .ok (.tlbi r.m a (some (e.extractLsb' 0 2)))
  | 5 => decDA r .snaprd
  | 6 => do
    let d ← op4 (cReg? r.d)
    let a ← op4 (cReg? r.a)
    need 4 (a.val != 31)
    need 6 (mNoE r.ext)
    .ok (.snapwr r.m r.ext.isSome d a)
  | 7 => do
    let a ← op4 (cReg? r.a)
    need 4 (a.val != 31)
    need 6 (r.d.extractLsb' 2 4 == 0 && mNoE r.ext)
    .ok (.wpset r.m r.ext.isSome (r.d.extractLsb' 0 2) a)
  | 8 => decDA r .acsw
  | 9 => decDA r .preempt
  | 10 => decDA r .keysel
  | 11 => decD r .hollow
  | _ => .error 3

/-- Opcodes 0x10 to 0x3F of C. -/
def decodeC (r : Raw) : Except Nat Instr :=
  match r.op.toNat with
  | 0x10 => decAlu r .add
  | 0x11 => decAlu r .sub
  | 0x12 => decAlu r .mul
  | 0x13 => decAlu r .mulh
  | 0x14 => decAlu r .mulhu
  | 0x15 => decAlu r .div
  | 0x16 => decAlu r .divu
  | 0x17 => decAlu r .rem
  | 0x18 => decAlu r .remu
  | 0x19 => decAlu r .and
  | 0x1A => decAlu r .or
  | 0x1B => decAlu r .xor
  | 0x1C => decAlu r .sll
  | 0x1D => decAlu r .srl
  | 0x1E => decAlu r .sra
  | 0x1F => decAlu r .min
  | 0x20 => decAlu r .max
  | 0x21 => decAlu r .minu
  | 0x22 => decAlu r .maxu
  | 0x23 => decAlu r .slt
  | 0x24 => decAlu r .sltu
  | 0x25 => decAlu r .seq
  | 0x26 => decAlu r .sel
  | 0x27 => decAlu r .addq
  | 0x28 => do
    let d ← op4 (cReg? r.d)
    let i ← decImm r
    .ok (.li r.m d i)
  | 0x29 => do
    let d ← op4 (cReg? r.d)
    let i ← decImm r
    .ok (.lih r.m d i)
  | 0x2A => decCBr r .beq
  | 0x2B => decCBr r .bne
  | 0x2C => decCBr r .blt
  | 0x2D => decCBr r .bge
  | 0x2E => decCBr r .bltu
  | 0x2F => decCBr r .bgeu
  | 0x30 => do
    let d ← op4 (cReg? r.d)
    let e := mE r.ext
    need 6 (r.a == 0 && r.b == 0 && e.extractLsb' 18 6 == 0 && !e.getLsbD 16)
    .ok (.jal r.m d (e.getLsbD 17) (e.extractLsb' 0 16))
  | 0x31 => do
    let d ← op4 (cReg? r.d)
    let a ← op4 (cReg? r.a)
    need 6 (r.b.extractLsb' 1 5 == 0)
    .ok (.jalr r.m d a (r.b.getLsbD 0))
  | 0x32 => do
    let d ← op4 (cReg? r.d)
    let a ← op4 (cReg? r.a)
    need 6 (r.b == 0)
    .ok (.ld r.m d a (r.ext.map ldOpt))
  | 0x33 => do
    let a ← op4 (cReg? r.a)
    let b ← op4 (cReg? r.b)
    need 6 (r.d == 0 && !(mE r.ext).getLsbD 21)
    .ok (.st r.m a b (r.ext.map fun e => ⟨e.extractLsb' 0 21, e.extractLsb' 22 2⟩))
  | 0x34 => do
    let d ← op4 (cReg? r.d)
    let a ← op4 (cReg? r.a)
    need 6 (r.b == 0)
    .ok (.ldaq r.m d a)
  | 0x35 => do
    let a ← op4 (cReg? r.a)
    let b ← op4 (cReg? r.b)
    need 6 (r.d == 0)
    .ok (.strl r.m a b)
  | 0x36 => do
    let a ← op4 (cReg? r.a)
    need 4 (r.d.extractLsb' 0 4 != 0)
    need 6 (r.d.extractLsb' 4 2 == 0 && r.b == 0)
    .ok (.cbc r.m (r.d.extractLsb' 0 4) a)
  | 0x37 => do
    let a ← op4 (cReg? r.a)
    need 4 (r.d.extractLsb' 0 4 != 0)
    need 6 (r.d.extractLsb' 4 2 == 0 && r.b == 0)
    .ok (.sendv r.m (r.d.extractLsb' 0 4) a)
  | 0x38 => do
    let x ← op4 (from? 0 3 r.d)
    let a ← op4 (cReg? r.a)
    need 4 (r.b != 0 && r.b.toNat ≤ 16 && a.val + r.b.toNat ≤ 32)
    .ok (.xpush r.m x a r.b)
  | 0x39 => do
    let d ← op4 (cReg? r.d)
    let x ← op4 (from? 0 3 r.a)
    need 6 (r.b == 0)
    .ok (.xpop r.m d x)
  | 0x3A => do
    let d ← op4 (cReg? r.d)
    let x ← op4 (from? 0 3 r.a)
    need 6 (r.b == 0)
    .ok (.xstat r.m d x)
  | 0x3B => decodeDir r
  | 0x3C => decodeSyn r
  | 0x3D => do
    let d ← op4 (cReg? r.d)
    let a ← op4 (cReg? r.a)
    need 4 (a.val ≤ 24)
    need 6 (r.b == 0)
    .ok (.launch r.m d a)
  | 0x3E => decodeRdtm r
  | 0x3F => decodeSys r
  | _ => .error 3

/-! ## A (R177) -/

def decAArith (r : Raw) (mk : Marks → Fin 16 → ASrc → AOp → Instr) : Except Nat Instr := do
  let d ← op4 (aReg? r.d)
  let a ← op4 (aSrc? r.a)
  match r.ext with
  | none => do
    let b ← op4 (aSrc? r.b)
    .ok (mk r.m d a (.src b))
  | some e => do
    need 6 (r.b == 0)
    .ok (mk r.m d a (.imm e))

def decABr (r : Raw) (mk : Marks → ASrc → ASrc → Bool → Bool → BitVec 16 → Instr) : Except Nat Instr := do
  let a ← op4 (aSrc? r.a)
  let b ← op4 (aSrc? r.b)
  let e := mE r.ext
  need 6 (r.d == 0 && e.extractLsb' 18 6 == 0)
  .ok (mk r.m a b (e.getLsbD 17) (e.getLsbD 16) (e.extractLsb' 0 16))

/-- LDQ and LDRO. -/
def decLdq (r : Raw) (mk : Marks → Fin 4 → ASrc → Option (BitVec 24) → Instr) : Except Nat Instr := do
  let q ← op4 (from? 48 4 r.d)
  let a ← op4 (aSrc? r.a)
  need 6 (r.b == 0)
  .ok (mk r.m q a r.ext)

/-- LDQS and LDQX. -/
def decLdq2 (r : Raw) (mk : Marks → Fin 4 → ASrc → ASrc → Option (BitVec 24) → Instr) : Except Nat Instr := do
  let q ← op4 (from? 48 4 r.d)
  let a ← op4 (aSrc? r.a)
  let b ← op4 (aSrc? r.b)
  .ok (mk r.m q a b r.ext)

/-- Opcodes 0x10 to 0x24 of A. -/
def decodeA (r : Raw) : Except Nat Instr :=
  match r.op.toNat with
  | 0x10 => decAArith r .aadd
  | 0x11 => decAArith r .asub
  | 0x12 => decAArith r .aaddq
  | 0x13 => decAArith r .amul
  | 0x14 => decAArith r .asll
  | 0x15 => decAArith r .asrl
  | 0x16 => do
    let d ← op4 (aReg? r.d)
    let i ← decImm r
    .ok (.ali r.m d i)
  | 0x17 => do
    let d ← op4 (aReg? r.d)
    let i ← decImm r
    .ok (.ahi r.m d i)
  | 0x18 => do
    let d ← op4 (aReg? r.d)
    let a ← op4 (aSrc? r.a)
    need 6 (r.b == 0)
    .ok (.amov r.m d a)
  | 0x19 => do
    let d ← op4 (aReg? r.d)
    let a ← op4 (aSrc? r.a)
    need 6 (r.b == 0)
    .ok (.ald r.m d a (r.ext.map ldOpt))
  | 0x1A => decLdq r .ldq
  | 0x1B => decLdq2 r .ldqs
  | 0x1C => decLdq2 r .ldqx
  | 0x1D => decLdq r .ldro
  | 0x1E => do
    let g ← op4 (from? 40 2 r.d)
    let a ← op4 (aSrc? r.a)
    need 6 (r.b == 0)
    .ok (.agc r.m g a (mE r.ext))
  | 0x1F => do
    let g ← op4 (from? 40 2 r.d)
    let q ← op4 (from? 48 4 r.a)
    need 6 (r.b == 0)
    .ok (.agld r.m g q)
  | 0x20 => do
    let g ← op4 (from? 40 2 r.d)
    need 4 (r.a == 52)
    need 6 (r.b == 0)
    .ok (.agsa r.m g)
  | 0x21 => do
    need 4 (r.d == 52)
    let a ← op4 (aSrc? r.a)
    need 6 (r.b == 0)
    .ok (.saq r.m a r.ext)
  | 0x22 => do
    let d ← op4 (from? 32 8 r.d)
    let a ← op4 (aSrc? r.a)
    let e := mE r.ext
    need 4 (!e.getLsbD 1)
    need 6 (r.b == 0 && e.extractLsb' 2 22 == 0)
    .ok (.dset r.m d a (e.getLsbD 0))
  | 0x23 => decABr r .abne
  | 0x24 => decABr r .ablt
  | _ => .error 3

/-! ## V (R178, R179) -/

/-- Two sources and any destination. -/
def decV3 (r : Raw) (rule : VRule) (mk : Marks → VDst → VSrc → VSrc → Option VPay → Instr) : Except Nat Instr := do
  let d ← op4 (vDst? r.d)
  let a ← op4 (vSrc? r.a)
  let b ← op4 (vSrc? r.b)
  let o ← rule.readOpt r.ext
  .ok (mk r.m d a b o)

/-- Two sources and a destination that is also a source. -/
def decVacc (r : Raw) (rule : VRule) (mk : Marks → Fin 48 → VSrc → VSrc → Option VPay → Instr) : Except Nat Instr := do
  let d ← op4 (from? 0 48 r.d)
  let a ← op4 (vSrc? r.a)
  let b ← op4 (vSrc? r.b)
  let o ← rule.readOpt r.ext
  .ok (mk r.m d a b o)

/-- One source; B is Z. -/
def decV2 (r : Raw) (rule : VRule) (mk : Marks → VDst → VSrc → Option VPay → Instr) : Except Nat Instr := do
  let d ← op4 (vDst? r.d)
  let a ← op4 (vSrc? r.a)
  let o ← rule.readOpt r.ext
  need 6 (r.b == 0)
  .ok (mk r.m d a o)

/-- VLI and VLID: A and B are Z. -/
def decVli (r : Raw) (rule : VRule) (mk : Marks → VDst → VPay → Instr) : Except Nat Instr := do
  let d ← op4 (vDst? r.d)
  let p ← rule.read (mE r.ext)
  need 6 (r.a == 0 && r.b == 0)
  .ok (mk r.m d p)

/-- The low three bits of a field, the rest of which is Z. -/
def low3 (c : BitVec 6) : Fin 8 := ⟨(c.extractLsb' 0 3).toNat, (c.extractLsb' 0 3).isLt⟩

/-- The low two bits of a field, the rest of which is Z. -/
def low2 (c : BitVec 6) : Fin 4 := ⟨(c.extractLsb' 0 2).toNat, (c.extractLsb' 0 2).isLt⟩

/-- The bits of a field above its low three, and above its low two, are 0. -/
def top3 (c : BitVec 6) : Bool := c.extractLsb' 3 3 == 0
def top2 (c : BitVec 6) : Bool := c.extractLsb' 2 4 == 0

def decK3 (r : Raw) (mk : Marks → Bool → Fin 8 → Fin 8 → Fin 8 → Instr) : Except Nat Instr := do
  need 6 (top3 r.d && top3 r.a && mNoE r.ext)
  .ok (mk r.m r.ext.isSome (low3 r.d) (low3 r.a) (low3 r.b))

def decK2 (r : Raw) (mk : Marks → Bool → Fin 8 → Fin 8 → Instr) : Except Nat Instr := do
  need 6 (top3 r.d && top3 r.a && r.b.extractLsb' 0 3 == 0 && mNoE r.ext)
  .ok (mk r.m r.ext.isSome (low3 r.d) (low3 r.a))

/-- The KOP group (07 R264): every bit that a sub-operation leaves unused is Z. -/
def decodeKop (r : Raw) : Except Nat Instr :=
  match (r.b.extractLsb' 3 3).toNat with
  | 0 => decK3 r .kand
  | 1 => decK3 r .kor
  | 2 => decK3 r .kxor
  | 3 => decK3 r .kandn
  | 4 => decK2 r .knot
  | 5 => decK2 r .kmov
  | 6 =>
    match r.ext with
    | none => do
      need 6 (top3 r.d && top2 r.a && r.b.extractLsb' 0 3 == 0)
      .ok (.kset r.m (low3 r.d) (low2 r.a))
    | some p => do
      need 4 ((p.extractLsb' 0 9).toNat ≤ 256)
      need 6 (top3 r.d && r.a == 0 && r.b.extractLsb' 0 3 == 0 && p.extractLsb' 9 15 == 0)
      .ok (.ksetImm r.m (low3 r.d) (p.extractLsb' 0 9))
  | _ => do
    need 6 (top2 r.d && top3 r.a && r.b.extractLsb' 0 3 == 0 && mNoE r.ext)
    .ok (.kcnt r.m r.ext.isSome (low2 r.d) (low3 r.a))

/-- Opcodes 0x10 to 0x3B of V (log 30, DEDUCED). -/
def decodeV (r : Raw) : Except Nat Instr :=
  match r.op.toNat with
  | 0x10 => decV3 r vF .vadd
  | 0x11 => decV3 r vF .vsub
  | 0x12 => decV3 r vF .vmul
  | 0x13 => decVacc r vF .vfma
  | 0x14 => decVacc r vF .vfms
  | 0x15 => decV3 r vFI .vmax
  | 0x16 => decV3 r vFI .vmin
  | 0x17 => decV2 r vF .vabs
  | 0x18 => decV2 r vF .vneg
  | 0x19 => decV2 r vF .vrcp
  | 0x1A => decV2 r vF .vrsq
  | 0x1B => decV2 r vF32 .vexp
  | 0x1C => decV2 r vF .vlog2
  | 0x1D => decV2 r vCvtR .vcvt
  | 0x1E => do
    let d ← op4 (vDst? r.d)
    need 4 (d != .discard)
    let g ← op4 (every? 0 4 12 r.a)
    let o ← (vQntR d).readOpt r.ext
    need 6 (r.b == 0)
    .ok (.vqnt r.m d g o)
  | 0x1F => do
    let g ← op4 (every? 0 4 12 r.d)
    let a ← op4 (vSrc? r.a)
    let o ← vDqnR.readOpt r.ext
    need 6 (r.b == 0)
    .ok (.vdqn r.m g a o)
  | 0x20 => decV3 r vAny .vand
  | 0x21 => decV3 r vAny .vor
  | 0x22 => decV3 r vAny .vxor
  | 0x23 => decV2 r vAny .vnot
  | 0x24 => decV3 r vAny .vshl
  | 0x25 => decV3 r vAny .vshr
  | 0x26 => decV3 r vAny .vsra
  | 0x27 => decV3 r vSatI .viadd
  | 0x28 => decV3 r vSatI .visub
  | 0x29 => decV3 r vI .vimul
  | 0x2A => decVacc r vDot .vdot4
  | 0x2B => decV2 r vAny .vpopc
  | 0x2C => decV2 r vAny .vsign
  | 0x2D => do
    let k ← op4 (from? 0 8 r.d)
    let a ← op4 (vSrc? r.a)
    let b ← op4 (vSrc? r.b)
    let o ← vCmpR.readOpt r.ext
    .ok (.vcmp r.m k a b o)
  | 0x2E => decV3 r vSelR .vsel
  | 0x2F => decV2 r vFI .vrsum
  | 0x30 => decV2 r vFI .vrmax
  | 0x31 => decV2 r vBcR .vbc
  | 0x32 => decV3 r vAny .vperm
  | 0x33 => decV3 r vSlideR .vslide
  | 0x34 => decV2 r vAny .vmov
  | 0x35 => decVli r vLiR .vli
  | 0x36 => decVli r vLidR .vlid
  | 0x37 => decodeKop r
  | 0x38 => do
    let d ← op4 (from? 0 4 r.d)
    let a ← op4 (vSrc? r.a)
    let o ← vLaneR.readOpt r.ext
    need 6 (r.b == 0)
    .ok (.vxtr r.m d a o)
  | 0x39 => do
    let d ← op4 (from? 0 48 r.d)
    let e ← op4 (from? 0 4 r.a)
    let o ← vLaneR.readOpt r.ext
    need 6 (r.b == 0)
    .ok (.vins r.m d e o)
  | 0x3A => decV3 r vFI .vclamp
  | 0x3B => decV2 r vRnd .vround
  | _ => .error 3

/-! ## M (R180, 08_matrix) -/

/-- Opcodes 0x10 to 0x1F of M (log 30, DEDUCED). -/
def decodeM (r : Raw) : Except Nat Instr :=
  let x := r.ext.isSome
  let rows := mRows r.ext
  match r.op.toNat with
  | 0x10 =>
    if r.d == 0 && r.a == 0 && r.b == 0 then .ok (.mlease r.m)
    else do
      let p ← op4 (every? 16 2 4 r.d)
      let t ← op4 (tile? r.b)
      if r.a == 0 then .ok (.mleasePlate r.m p none t)
      else do
        let sc ← op4 (every? 16 2 4 r.a)
        .ok (.mleasePlate r.m p (some sc) t)
  | 0x11 => do
    need 6 (r.d == 0 && r.a == 0 && r.b == 0)
    .ok (.mrel r.m)
  | 0x12 => do
    let p ← op4 (every? 16 2 4 r.d)
    let t ← op4 (tile? r.a)
    need 6 (r.b == 0 && mNoE r.ext)
    .ok (.mwld r.m x p t)
  | 0x13 => do
    let p ← op4 (every? 16 2 4 r.d)
    let sc ← op4 (every? 16 2 4 r.a)
    let t ← op4 (tile? r.b)
    need 6 (mNoE r.ext)
    .ok (.mwlds r.m x p sc t)
  | 0x14 => do
    let d ← op4 (acc? x (mRow0 r.ext) r.d)
    let src ← op4 (mSrc? r.a)
    let t ← op4 (mmaTile src r.b)
    need 4 (accRange d rows)
    need 6 ((mmaTiled src || r.b == 0) && mZ [r.d] r.ext)
    .ok (.mma r.m x rows d src t)
  | 0x15 => do
    let d ← op4 (acc? x (mRow0 r.ext) r.d)
    let src ← op4 (mSrc? r.a)
    let sc ← op4 (mSrc? r.b)
    need 4 (mmasSrcOk src sc)
    need 4 (accRange d rows)
    need 6 (mZ [r.d] r.ext)
    .ok (.mmas r.m x rows d src sc)
  | 0x16 => do
    let f ← op4 (acc? x (mRow0 r.ext) r.d)
    let l ← op4 (acc? x (mRowAfter r.d r.ext) r.a)
    need 4 (match f, l with
      | .num p, .num q => decide (p.val ≤ q.val)
      | _, _ => true)
    need 6 (r.b.extractLsb' 1 5 == 0 && mZ [r.d, r.a] r.ext && rows == 0)
    .ok (.mzero r.m x f l (r.b.getLsbD 0))
  | 0x17 => do
    let o ← op4 (acc? x (mRow0 r.ext) r.d)
    let s ← op4 (acc? x (mRowAfter r.d r.ext) r.a)
    need 4 (accRange2 o s rows)
    need 6 (r.b == 0 && mZ [r.d, r.a] r.ext)
    .ok (.msmx r.m x rows o s)
  | 0x18 => do
    let o ← op4 (acc? x (mRow0 r.ext) r.d)
    need 4 (accRange o rows)
    need 6 (r.a == 0 && r.b == 0 && mZ [r.d] r.ext)
    .ok (.msmn r.m x rows o)
  | 0x19 => do
    let d ← op4 (acc? x (mRow0 r.ext) r.d)
    let a ← op4 (acc? x (mRowAfter r.d r.ext) r.a)
    need 4 (accRange2 d a rows)
    need 6 (r.b == 0 && mZ [r.d, r.a] r.ext)
    .ok (.msmg r.m x rows d a)
  | 0x1A => do
    need 4 (r.d == 35)
    let a ← op4 (acc? x (mRow0 r.ext) r.a)
    need 4 (accRange a rows)
    need 6 (r.b.extractLsb' 2 4 == 0 && mZ [r.a] r.ext)
    .ok (.mepi r.m x rows a (r.b.getLsbD 0) (r.b.getLsbD 1))
  | 0x1B =>
    if r.d == 35 then do
      let a ← op4 (acc? x (mRow0 r.ext) r.a)
      need 4 (accRange a rows)
      need 6 (r.b == 0 && mZ [r.a] r.ext)
      .ok (.mmov r.m x rows (.toSq a))
    else do
      let d ← op4 (acc? x (mRow0 r.ext) r.d)
      match every? 0 4 4 r.a, mq? r.a with
      | some g, _ => do
        need 4 (rows == 0)
        need 6 (r.b == 0 && mZ [r.d] r.ext)
        .ok (.mmov r.m x rows (.fromV d g))
      | none, some q => do
        need 4 (accRange d rows)
        need 6 (r.b == 0 && mZ [r.d] r.ext)
        .ok (.mmov r.m x rows (.fromQ d q))
      | none, none => do
        let a ← op4 (acc? x (mRowAfter r.d r.ext) r.a)
        need 4 (accRange2 d a rows)
        need 6 (r.b == 0 && mZ [r.d, r.a] r.ext)
        .ok (.mmov r.m x rows (.rows d a))
  | 0x1C =>
    match from? 24 4 r.d with
    | some e => do
      let a ← op4 (acc? x (mRow0 r.ext) r.a)
      need 6 (r.b.extractLsb' 2 4 == 0 && mZ [r.a] r.ext && rows == 0)
      .ok (.mmova r.m x (.read e a) (r.b.extractLsb' 0 2))
    | none => do
      let d ← op4 (acc? x (mRow0 r.ext) r.d)
      let e ← op4 (from? 24 4 r.a)
      need 6 (r.b.extractLsb' 2 4 == 0 && mZ [r.d] r.ext && rows == 0)
      .ok (.mmova r.m x (.write d e) (r.b.extractLsb' 0 2))
  | 0x1D => do
    let a ← op4 (from? 24 4 r.a)
    let b ← op4 (from? 24 4 r.b)
    let e := mE r.ext
    need 6 (r.d == 0 && e.extractLsb' 0 18 == 0 && e.extractLsb' 20 4 == 0)
    .ok (.mscl r.m a b (r.ext.map fun e => (e.getLsbD 18, e.getLsbD 19)))
  | 0x1E => do
    let a ← op4 (from? 24 4 r.a)
    need 4 (r.b.toNat ≤ 16)
    need 6 (r.d == 0 && mNoE r.ext)
    .ok (.mfmt r.m x a r.b)
  | 0x1F => do
    let d ← op4 (from? 24 4 r.d)
    need 6 (r.a == 0 && r.b == 0)
    .ok (.mstat r.m d)
  | _ => .error 3

/-! ## S (R181, 07 R270) -/

/-- Opcodes 0x10 to 0x14 of S. -/
def decodeS (r : Raw) : Except Nat Instr :=
  match r.op.toNat with
  | 0x10 => do
    let q ← op4 (from? 8 2 r.a)
    need 4 (r.b == 10)
    need 6 (r.d == 0)
    .ok (.stq r.m q)
  | 0x11 => do
    let q ← op4 (from? 8 2 r.a)
    need 4 (r.b == 10)
    need 6 (r.d == 0)
    .ok (.stql r.m q)
  | 0x12 => do
    let v ← op4 (from? 8 2 r.d)
    let i ← op4 (from? 8 2 r.a)
    need 4 (r.b == 10)
    match r.ext with
    | none => .ok (.saeq r.m v i none)
    | some e => do
      let op : BitVec 3 := e.extractLsb' 0 3
      need 4 (op.toNat ≤ 5)
      need 6 (e.extractLsb' 4 20 == 0 && (!e.getLsbD 3 || op == 2 || op == 3))
      .ok (.saeq r.m v i (some ⟨op, e.getLsbD 3⟩))
  | 0x13 => do
    need 6 (r.d == 0 && r.a == 0 && r.b == 0)
    .ok (.sfence r.m)
  | 0x14 => do
    need 4 (r.a == 10)
    need 6 (r.d == 0 && r.b == 0 && (mE r.ext).extractLsb' 12 12 == 0)
    .ok (.stz r.m (r.ext.map (·.extractLsb' 0 12)))
  | _ => .error 3

/-! ## The decoder -/

/-- Details 2 (class) to 6. -/
def decodeRaw (r : Raw) : Except Nat Instr :=
  match xclass r.eng r.op with
  | none => .error 3
  | some k => do
    need 2 (match k with
      | .none => r.ext.isNone
      | .req => r.ext.isSome
      | .opt => true)
    if r.op.toNat ≤ 0x0F then decodeCommon r
    else match r.eng with
      | .c => decodeC r
      | .a => decodeA r
      | .v => decodeV r
      | .m => decodeM r
      | .s => decodeS r

/-- The instruction whose first word is w; w2 is the word after it, read when X = 1 (R142 to R152). -/
def decode (w w2 : IWord) : Except Nat Instr :=
  let f := Fields.ofWord w
  match Engine.ofTag f.eng with
  | none => .error 1
  | some eng =>
    if f.x then do
      let g := Ext.ofWord w2
      need 2 (g.eng == f.eng && !g.x && !f.m.sp && !f.m.sn && !g.m.wp && !g.m.wn)
      decodeRaw ⟨⟨f.m.wp, f.m.wn, g.m.sp, g.m.sn⟩, eng, f.op, f.d, f.a, f.b, some g.e⟩
    else decodeRaw ⟨f.m, eng, f.op, f.d, f.a, f.b, none⟩

/-- The number of words that a first word announces (R142). -/
def wordLen (w : IWord) : Nat := if w.getLsbD 24 then 2 else 1

/-! ## The encoder -/

def xE (x : Bool) : Option (BitVec 24) := if x then some 0 else none
def vE (o : Option VPay) : Option (BitVec 24) := o.map VPay.toE
def bit5 (b : Bool) : BitVec 6 := 0#5 ++ BitVec.ofBool b

def encAlu (m : Marks) (op : BitVec 6) (d a : Fin 32) : CSrc → Raw
  | .reg b => ⟨m, .c, op, cCode d, cCode a, cCode b, none⟩
  | .imm e => ⟨m, .c, op, cCode d, cCode a, 0, some e⟩

def encImm (m : Marks) (eng : Engine) (op d : BitVec 6) : Imm → Raw
  | .short i => ⟨m, eng, op, d, i.extractLsb' 6 6, i.extractLsb' 0 6, none⟩
  | .long e => ⟨m, eng, op, d, 0, 0, some e⟩

def encBrE (kill cut : Bool) (off : BitVec 16) : BitVec 24 :=
  (0 : BitVec 6) ++ BitVec.ofBool kill ++ BitVec.ofBool cut ++ off

def encCBr (m : Marks) (op : BitVec 6) (a b : Fin 32) (kill cut : Bool) (off : BitVec 16) : Raw :=
  ⟨m, .c, op, 0, cCode a, cCode b, some (encBrE kill cut off)⟩

/-- A word of a group: D, A and the sub-operation. -/
def encGrp (m : Marks) (op : BitVec 6) (x : Bool) (d a b : BitVec 6) : Raw := ⟨m, .c, op, d, a, b, xE x⟩

def encAArith (m : Marks) (op : BitVec 6) (d : Fin 16) (a : ASrc) : AOp → Raw
  | .src b => ⟨m, .a, op, aCode d, a.code, b.code, none⟩
  | .imm e => ⟨m, .a, op, aCode d, a.code, 0, some e⟩

def encV3 (m : Marks) (op : BitVec 6) (d : VDst) (a b : VSrc) (o : Option VPay) : Raw :=
  ⟨m, .v, op, d.code, a.code, b.code, vE o⟩
def encV2 (m : Marks) (op : BitVec 6) (d : VDst) (a : VSrc) (o : Option VPay) : Raw :=
  ⟨m, .v, op, d.code, a.code, 0, vE o⟩
def encVacc (m : Marks) (op : BitVec 6) (d : Fin 48) (a b : VSrc) (o : Option VPay) : Raw :=
  ⟨m, .v, op, fromCode 0 d, a.code, b.code, vE o⟩
def encK (m : Marks) (sub : BitVec 3) (x : Bool) (d a : BitVec 6) (b : BitVec 3) : Raw :=
  ⟨m, .v, 0x37, d, a, sub ++ b, xE x⟩

def encMrows (x : Bool) (as : List Acc) (rows : BitVec 6) : Option (BitVec 24) :=
  if x then some (encRows as rows) else none

/-- The 18 bits of a one-word branch. -/
def encBr18 (kill cut : Bool) (off : BitVec 16) : BitVec 18 := BitVec.ofBool kill ++ BitVec.ofBool cut ++ off

/-- The fields of an instruction; none for a step without a word. -/
def Instr.raw : Instr → Option Raw
  | .nop m e => some ⟨m, e, 0x00, 0, 0, 0, none⟩
  | .loop m r len => some ⟨m, r.engine, 0x01, len.extractLsb' 6 6, r.code, len.extractLsb' 0 6, none⟩
  | .loopi m e (.short n) len => some ⟨m, e, 0x02, len.extractLsb' 6 6, n, len.extractLsb' 0 6, none⟩
  | .loopi m e (.long n) len => some ⟨m, e, 0x02, len.extractLsb' 6 6, 0, len.extractLsb' 0 6, some n⟩
  | .br m e kill off =>
    let w := encBr18 kill false off
    some ⟨m, e, 0x03, w.extractLsb' 12 6, w.extractLsb' 6 6, w.extractLsb' 0 6, none⟩
  | .bcq m e kill cut off =>
    let w := encBr18 kill cut off
    some ⟨m, e, 0x04, w.extractLsb' 12 6, w.extractLsb' 6 6, w.extractLsb' 0 6, none⟩
  | .fset m e f n => some ⟨m, e, 0x05, BitVec.ofNat 6 f.val, 0#4 ++ n.extractLsb' 6 2, n.extractLsb' 0 6, none⟩
  | .fwait m e f n => some ⟨m, e, 0x06, BitVec.ofNat 6 f.val, 0#4 ++ n.extractLsb' 6 2, n.extractLsb' 0 6, none⟩
  | .mark m e n nt => some ⟨m, e, 0x07, 0, 0#3 ++ BitVec.ofBool nt ++ n.extractLsb' 6 2, n.extractLsb' 0 6, none⟩
  | .halt m e => some ⟨m, e, 0x08, 0, 0, 0, none⟩
  | .breath m e k => some ⟨m, e, 0x09, 0, 0, 0#1 ++ k, none⟩
  | .qclr m q => some ⟨m, q.engine, 0x0A, 0, q.code, 0, none⟩
  | .recv m d => some ⟨m, d.engine, 0x0B, d.code, 0, 0, none⟩
  | .lcrd m d lv => some ⟨m, d.engine, 0x0C, d.code, 0#4 ++ lv, 0, none⟩
  | .add m d a b => some (encAlu m 0x10 d a b)
  | .sub m d a b => some (encAlu m 0x11 d a b)
  | .mul m d a b => some (encAlu m 0x12 d a b)
  | .mulh m d a b => some (encAlu m 0x13 d a b)
  | .mulhu m d a b => some (encAlu m 0x14 d a b)
  | .div m d a b => some (encAlu m 0x15 d a b)
  | .divu m d a b => some (encAlu m 0x16 d a b)
  | .rem m d a b => some (encAlu m 0x17 d a b)
  | .remu m d a b => some (encAlu m 0x18 d a b)
  | .and m d a b => some (encAlu m 0x19 d a b)
  | .or m d a b => some (encAlu m 0x1A d a b)
  | .xor m d a b => some (encAlu m 0x1B d a b)
  | .sll m d a b => some (encAlu m 0x1C d a b)
  | .srl m d a b => some (encAlu m 0x1D d a b)
  | .sra m d a b => some (encAlu m 0x1E d a b)
  | .min m d a b => some (encAlu m 0x1F d a b)
  | .max m d a b => some (encAlu m 0x20 d a b)
  | .minu m d a b => some (encAlu m 0x21 d a b)
  | .maxu m d a b => some (encAlu m 0x22 d a b)
  | .slt m d a b => some (encAlu m 0x23 d a b)
  | .sltu m d a b => some (encAlu m 0x24 d a b)
  | .seq m d a b => some (encAlu m 0x25 d a b)
  | .sel m d a b => some (encAlu m 0x26 d a b)
  | .addq m d a b => some (encAlu m 0x27 d a b)
  | .li m d i => some (encImm m .c 0x28 (cCode d) i)
  | .lih m d i => some (encImm m .c 0x29 (cCode d) i)
  | .beq m a b k c off => some (encCBr m 0x2A a b k c off)
  | .bne m a b k c off => some (encCBr m 0x2B a b k c off)
  | .blt m a b k c off => some (encCBr m 0x2C a b k c off)
  | .bge m a b k c off => some (encCBr m 0x2D a b k c off)
  | .bltu m a b k c off => some (encCBr m 0x2E a b k c off)
  | .bgeu m a b k c off => some (encCBr m 0x2F a b k c off)
  | .jal m d k off => some ⟨m, .c, 0x30, cCode d, 0, 0, some (encBrE k false off)⟩
  | .jalr m d a k => some ⟨m, .c, 0x31, cCode d, cCode a, bit5 k, none⟩
  | .ld m d a o => some ⟨m, .c, 0x32, cCode d, cCode a, 0, o.map LdOpt.toE⟩
  | .st m a b o => some ⟨m, .c, 0x33, 0, cCode a, cCode b, o.map StOpt.toE⟩
  | .ldaq m d a => some ⟨m, .c, 0x34, cCode d, cCode a, 0, none⟩
  | .strl m a b => some ⟨m, .c, 0x35, 0, cCode a, cCode b, none⟩
  | .cbc m set a => some ⟨m, .c, 0x36, 0#2 ++ set, cCode a, 0, none⟩
  | .sendv m set a => some ⟨m, .c, 0x37, 0#2 ++ set, cCode a, 0, none⟩
  | .xpush m x a n => some ⟨m, .c, 0x38, fromCode 0 x, cCode a, n, none⟩
  | .xpop m d x => some ⟨m, .c, 0x39, cCode d, fromCode 0 x, 0, none⟩
  | .xstat m d x => some ⟨m, .c, 0x3A, cCode d, fromCode 0 x, 0, none⟩
  | .launch m d a => some ⟨m, .c, 0x3D, cCode d, cCode a, 0, none⟩
  | .open m x d a => some (encGrp m 0x3B x (cCode d) (cCode a) 0)
  | .openw m x d a => some (encGrp m 0x3B x (cCode d) (cCode a) 1)
  | .close m x d a => some (encGrp m 0x3B x (cCode d) (cCode a) 2)
  | .hqry m x d a => some (encGrp m 0x3B x (cCode d) (cCode a) 3)
  | .seal m x d a => some (encGrp m 0x3B x (cCode d) (cCode a) 4)
  | .rbstg m x d a => some (encGrp m 0x3B x (cCode d) (cCode a) 5)
  | .rbcmt m x d => some (encGrp m 0x3B x (cCode d) 0 6)
  | .rbabt m x d => some (encGrp m 0x3B x (cCode d) 0 7)
  | .rclm m x d a => some (encGrp m 0x3B x (cCode d) (cCode a) 8)
  | .sacq m x a => some (encGrp m 0x3C x 0 (cCode a) 0)
  | .srel m x a => some (encGrp m 0x3C x 0 (cCode a) 1)
  | .bara m x d a => some (encGrp m 0x3C x (cCode d) (cCode a) 2)
  | .barw m x d a => some (encGrp m 0x3C x (cCode d) (cCode a) 3)
  | .baraw m x d a => some (encGrp m 0x3C x (cCode d) (cCode a) 4)
  | .waitmk m x d a => some (encGrp m 0x3C x (cCode d) (cCode a) 5)
  | .domsplit m x d a => some (encGrp m 0x3C x (cCode d) (cCode a) 6)
  | .domjoin m x d => some (encGrp m 0x3C x (cCode d) 0 7)
  | .rbndr m x d a => some (encGrp m 0x3C x (cCode d) (cCode a) 8)
  | .ubndr m x a => some (encGrp m 0x3C x 0 (cCode a) 9)
  | .time m x d => some (encGrp m 0x3E x (cCode d) 0 0)
  | .cyc m x d k => some (encGrp m 0x3E x (cCode d) (0#3 ++ k) 1)
  | .acrd m x d a => some (encGrp m 0x3E x (cCode d) (cCode a) 2)
  | .stmt m x d a => some (encGrp m 0x3E x (cCode d) (cCode a) 3)
  | .trap m x n => some (encGrp m 0x3F x (n.extractLsb' 6 6) (n.extractLsb' 0 6) 0)
  | .eret m x ab => some (encGrp m 0x3F x (bit5 ab) 0 1)
  | .crr m d n => some ⟨m, .c, 0x3F, cCode d, 0, 2, some ((0 : BitVec 12) ++ n)⟩
  | .crw m a n => some ⟨m, .c, 0x3F, 0, cCode a, 3, some ((0 : BitVec 12) ++ n)⟩
  | .tlbi m a t => some ⟨m, .c, 0x3F, 0, cCode a, 4, t.map fun t => (0 : BitVec 22) ++ t⟩
  | .snaprd m x d a => some (encGrp m 0x3F x (cCode d) (cCode a) 5)
  | .snapwr m x d a => some (encGrp m 0x3F x (cCode d) (cCode a) 6)
  | .wpset m x n a => some (encGrp m 0x3F x (0#4 ++ n) (cCode a) 7)
  | .acsw m x d a => some (encGrp m 0x3F x (cCode d) (cCode a) 8)
  | .preempt m x d a => some (encGrp m 0x3F x (cCode d) (cCode a) 9)
  | .keysel m x d a => some (encGrp m 0x3F x (cCode d) (cCode a) 10)
  | .hollow m x d => some (encGrp m 0x3F x (cCode d) 0 11)
  | .aadd m d a b => some (encAArith m 0x10 d a b)
  | .asub m d a b => some (encAArith m 0x11 d a b)
  | .aaddq m d a b => some (encAArith m 0x12 d a b)
  | .amul m d a b => some (encAArith m 0x13 d a b)
  | .asll m d a b => some (encAArith m 0x14 d a b)
  | .asrl m d a b => some (encAArith m 0x15 d a b)
  | .ali m d i => some (encImm m .a 0x16 (aCode d) i)
  | .ahi m d i => some (encImm m .a 0x17 (aCode d) i)
  | .amov m d a => some ⟨m, .a, 0x18, aCode d, a.code, 0, none⟩
  | .ald m d a o => some ⟨m, .a, 0x19, aCode d, a.code, 0, o.map LdOpt.toE⟩
  | .ldq m q a o => some ⟨m, .a, 0x1A, fromCode 48 q, a.code, 0, o⟩
  | .ldqs m q a b o => some ⟨m, .a, 0x1B, fromCode 48 q, a.code, b.code, o⟩
  | .ldqx m q a b o => some ⟨m, .a, 0x1C, fromCode 48 q, a.code, b.code, o⟩
  | .ldro m q a o => some ⟨m, .a, 0x1D, fromCode 48 q, a.code, 0, o⟩
  | .agc m g a off => some ⟨m, .a, 0x1E, fromCode 40 g, a.code, 0, some off⟩
  | .agld m g q => some ⟨m, .a, 0x1F, fromCode 40 g, fromCode 48 q, 0, none⟩
  | .agsa m g => some ⟨m, .a, 0x20, fromCode 40 g, 52, 0, none⟩
  | .saq m a o => some ⟨m, .a, 0x21, 52, a.code, 0, o⟩
  | .dset m d a ad => some ⟨m, .a, 0x22, fromCode 32 d, a.code, 0, some ((0 : BitVec 23) ++ BitVec.ofBool ad)⟩
  | .abne m a b k c off => some ⟨m, .a, 0x23, 0, a.code, b.code, some (encBrE k c off)⟩
  | .ablt m a b k c off => some ⟨m, .a, 0x24, 0, a.code, b.code, some (encBrE k c off)⟩
  | .vadd m d a b o => some (encV3 m 0x10 d a b o)
  | .vsub m d a b o => some (encV3 m 0x11 d a b o)
  | .vmul m d a b o => some (encV3 m 0x12 d a b o)
  | .vfma m d a b o => some (encVacc m 0x13 d a b o)
  | .vfms m d a b o => some (encVacc m 0x14 d a b o)
  | .vmax m d a b o => some (encV3 m 0x15 d a b o)
  | .vmin m d a b o => some (encV3 m 0x16 d a b o)
  | .vabs m d a o => some (encV2 m 0x17 d a o)
  | .vneg m d a o => some (encV2 m 0x18 d a o)
  | .vrcp m d a o => some (encV2 m 0x19 d a o)
  | .vrsq m d a o => some (encV2 m 0x1A d a o)
  | .vexp m d a o => some (encV2 m 0x1B d a o)
  | .vlog2 m d a o => some (encV2 m 0x1C d a o)
  | .vcvt m d a o => some (encV2 m 0x1D d a o)
  | .vqnt m d g o => some ⟨m, .v, 0x1E, d.code, everyCode 0 4 g, 0, vE o⟩
  | .vdqn m g a o => some ⟨m, .v, 0x1F, everyCode 0 4 g, a.code, 0, vE o⟩
  | .vand m d a b o => some (encV3 m 0x20 d a b o)
  | .vor m d a b o => some (encV3 m 0x21 d a b o)
  | .vxor m d a b o => some (encV3 m 0x22 d a b o)
  | .vnot m d a o => some (encV2 m 0x23 d a o)
  | .vshl m d a b o => some (encV3 m 0x24 d a b o)
  | .vshr m d a b o => some (encV3 m 0x25 d a b o)
  | .vsra m d a b o => some (encV3 m 0x26 d a b o)
  | .viadd m d a b o => some (encV3 m 0x27 d a b o)
  | .visub m d a b o => some (encV3 m 0x28 d a b o)
  | .vimul m d a b o => some (encV3 m 0x29 d a b o)
  | .vdot4 m d a b o => some (encVacc m 0x2A d a b o)
  | .vpopc m d a o => some (encV2 m 0x2B d a o)
  | .vsign m d a o => some (encV2 m 0x2C d a o)
  | .vcmp m k a b o => some ⟨m, .v, 0x2D, fromCode 0 k, a.code, b.code, vE o⟩
  | .vsel m d a b o => some (encV3 m 0x2E d a b o)
  | .vrsum m d a o => some (encV2 m 0x2F d a o)
  | .vrmax m d a o => some (encV2 m 0x30 d a o)
  | .vbc m d a o => some (encV2 m 0x31 d a o)
  | .vperm m d a b o => some (encV3 m 0x32 d a b o)
  | .vslide m d a b o => some (encV3 m 0x33 d a b o)
  | .vmov m d a o => some (encV2 m 0x34 d a o)
  | .vli m d p => some ⟨m, .v, 0x35, d.code, 0, 0, some p.toE⟩
  | .vlid m d p => some ⟨m, .v, 0x36, d.code, 0, 0, some p.toE⟩
  | .kand m x d a b => some (encK m 0 x (fromCode 0 d) (fromCode 0 a) (BitVec.ofNat 3 b.val))
  | .kor m x d a b => some (encK m 1 x (fromCode 0 d) (fromCode 0 a) (BitVec.ofNat 3 b.val))
  | .kxor m x d a b => some (encK m 2 x (fromCode 0 d) (fromCode 0 a) (BitVec.ofNat 3 b.val))
  | .kandn m x d a b => some (encK m 3 x (fromCode 0 d) (fromCode 0 a) (BitVec.ofNat 3 b.val))
  | .knot m x d a => some (encK m 4 x (fromCode 0 d) (fromCode 0 a) 0)
  | .kmov m x d a => some (encK m 5 x (fromCode 0 d) (fromCode 0 a) 0)
  | .kset m d e => some (encK m 6 false (fromCode 0 d) (fromCode 0 e) 0)
  | .ksetImm m d n => some ⟨m, .v, 0x37, fromCode 0 d, 0, 0x30, some ((0 : BitVec 15) ++ n)⟩
  | .kcnt m x d a => some (encK m 7 x (fromCode 0 d) (fromCode 0 a) 0)
  | .vxtr m d a o => some ⟨m, .v, 0x38, fromCode 0 d, a.code, 0, vE o⟩
  | .vins m d e o => some ⟨m, .v, 0x39, fromCode 0 d, fromCode 0 e, 0, vE o⟩
  | .vclamp m d a b o => some (encV3 m 0x3A d a b o)
  | .vround m d a o => some (encV2 m 0x3B d a o)
  | .mlease m => some ⟨m, .m, 0x10, 0, 0, 0, none⟩
  | .mleasePlate m p sc t => some ⟨m, .m, 0x10, everyCode 16 2 p,
      (match sc with
       | none => 0
       | some k => everyCode 16 2 k), t.code, none⟩
  | .mrel m => some ⟨m, .m, 0x11, 0, 0, 0, none⟩
  | .mwld m x p t => some ⟨m, .m, 0x12, everyCode 16 2 p, t.code, 0, xE x⟩
  | .mwlds m x p sc t => some ⟨m, .m, 0x13, everyCode 16 2 p, everyCode 16 2 sc, t.code, xE x⟩
  | .mma m x rows d src t => some ⟨m, .m, 0x14, d.code, src.code, t.code, encMrows x [d] rows⟩
  | .mmas m x rows d src sc => some ⟨m, .m, 0x15, d.code, src.code, sc.code, encMrows x [d] rows⟩
  | .mzero m x f l i => some ⟨m, .m, 0x16, f.code, l.code, bit5 i, encMrows x [f, l] 0⟩
  | .msmx m x rows o s => some ⟨m, .m, 0x17, o.code, s.code, 0, encMrows x [o, s] rows⟩
  | .msmn m x rows o => some ⟨m, .m, 0x18, o.code, 0, 0, encMrows x [o] rows⟩
  | .msmg m x rows d a => some ⟨m, .m, 0x19, d.code, a.code, 0, encMrows x [d, a] rows⟩
  | .mepi m x rows a ovf clr =>
    some ⟨m, .m, 0x1A, 35, a.code, 0#4 ++ BitVec.ofBool clr ++ BitVec.ofBool ovf, encMrows x [a] rows⟩
  | .mmov m x rows (.rows d a) => some ⟨m, .m, 0x1B, d.code, a.code, 0, encMrows x [d, a] rows⟩
  | .mmov m x rows (.toSq a) => some ⟨m, .m, 0x1B, 35, a.code, 0, encMrows x [a] rows⟩
  | .mmov m x rows (.fromV d g) => some ⟨m, .m, 0x1B, d.code, everyCode 0 4 g, 0, encMrows x [d] rows⟩
  | .mmov m x rows (.fromQ d q) => some ⟨m, .m, 0x1B, d.code, q.code, 0, encMrows x [d] rows⟩
  | .mmova m x (.read e a) f => some ⟨m, .m, 0x1C, fromCode 24 e, a.code, 0#4 ++ f, encMrows x [a] 0⟩
  | .mmova m x (.write d e) f => some ⟨m, .m, 0x1C, d.code, fromCode 24 e, 0#4 ++ f, encMrows x [d] 0⟩
  | .mscl m a b o => some ⟨m, .m, 0x1D, 0, fromCode 24 a, fromCode 24 b,
      o.map fun p => (0 : BitVec 4) ++ BitVec.ofBool p.2 ++ BitVec.ofBool p.1 ++ (0 : BitVec 18)⟩
  | .mfmt m x a t => some ⟨m, .m, 0x1E, 0, fromCode 24 a, t, xE x⟩
  | .mstat m d => some ⟨m, .m, 0x1F, fromCode 24 d, 0, 0, none⟩
  | .stq m q => some ⟨m, .s, 0x10, 0, fromCode 8 q, 10, none⟩
  | .stql m q => some ⟨m, .s, 0x11, 0, fromCode 8 q, 10, none⟩
  | .saeq m v i o => some ⟨m, .s, 0x12, fromCode 8 v, fromCode 8 i, 10,
      o.map fun p => (0 : BitVec 20) ++ BitVec.ofBool p.ft ++ p.op⟩
  | .sfence m => some ⟨m, .s, 0x13, 0, 0, 0, none⟩
  | .stz m n => some ⟨m, .s, 0x14, 0, 10, 0, n.map fun n => (0 : BitVec 12) ++ n⟩
  | .engineRun .. => none
  | .operationLanding .. => none
  | .loadResponse .. => none
  | .generatorTableRead .. => none
  | .tableWalk .. => none
  | .timingErrorReplay .. => none
  | .breathSwitch .. => none
  | .gangCompletion .. => none
  | .ringDeadlock .. => none
  | .trapEntry .. => none
  | .commandStart .. => none
  | .copy .. => none
  | .mcast .. => none
  | .gather .. => none
  | .scatter .. => none
  | .prefPromote .. => none
  | .prefDemote .. => none
  | .sigath .. => none
  | .copyxSave .. => none
  | .copyxRestore .. => none
  | .sacc .. => none
  | .allreduce .. => none
  | .reduce .. => none
  | .bcast .. => none
  | .allgather .. => none
  | .alltoall .. => none
  | .commandCompletion .. => none
  | .barrierPost .. => none
  | .resultElementPlace .. => none
  | .phaseCompletion .. => none
  | .barrierRelease .. => none
  | .podReleaseTick .. => none
  | .openwTimeout .. => none
  | .leaseGrant .. => none
  | .leaseIdleEnd .. => none
  | .leaseBudgetEnd .. => none
  | .hostPush .. => none
  | .hostConfigWrite .. => none
  | .dispatchDecision .. => none
  | .gangIssue .. => none
  | .preemptionStop .. => none
  | .gangResume .. => none
  | .dualRunCompare .. => none
  | .capturePreimage .. => none
  | .migrationMove .. => none
  | .migrationCommit .. => none
  | .leafExchange .. => none
  | .dtctlCurChange .. => none
  | .dirtyFlipSettle .. => none
  | .namespaceExport .. => none
  | .namespaceImport .. => none
  | .valevfWrite .. => none
  | .clkdivWrite .. => none
  | .clkdivChange .. => none
  | .hcctlClear .. => none
  | .spdmRequest .. => none
  | .imageChunk .. => none
  | .imageCommit .. => none
  | .mailboxReset .. => none
  | .accountTick .. => none
  | .flitReceive .. => none
  | .remoteAccess .. => none
  | .linkEpochChange .. => none
  | .linkTrainingComplete .. => none
  | .laneRepair .. => none
  | .ptpMessage .. => none
  | .ucieModuleFail .. => none
  | .cxlPortFail .. => none
  | .powerGood .. => none
  | .bringupWatchdog .. => none
  | .hollowEntry .. => none
  | .hollowEntryComplete .. => none
  | .wake .. => none
  | .wakeComplete .. => none
  | .powerLoss .. => none
  | .voltageTrim .. => none
  | .strathRepairNeeded .. => none
  | .scrub .. => none
  | .spareIntoService .. => none
  | .drainComplete .. => none
  | .drainRequest .. => none
  | .unitRetirement .. => none
  | .hbmRefresh .. => none

/-- The words of a set of fields (R142, R145, R146). -/
def Raw.words (r : Raw) : List IWord :=
  match r.ext with
  | none => [Fields.toWord ⟨r.m, r.eng.tag, false, r.op, r.d, r.a, r.b⟩]
  | some e => [Fields.toWord ⟨⟨r.m.wp, r.m.wn, false, false⟩, r.eng.tag, true, r.op, r.d, r.a, r.b⟩,
      Ext.toWord ⟨⟨false, false, r.m.sp, r.m.sn⟩, r.eng.tag, false, e⟩]

/-- The words of an instruction; no words for a step of the part (log 75, DEDUCED). -/
def encode (i : Instr) : List IWord :=
  match Instr.raw i with
  | none => []
  | some r => r.words

/-- Decoding a list of words whose first begins an instruction; a missing word reads as 0 (R156). -/
def decodeWords : List IWord → Except Nat Instr
  | [] => decode 0 0
  | [w] => decode w 0
  | w :: w2 :: _ => decode w w2

/-- The instruction that the decoder reads from the bits of spec/opcode_table.json: bit 0 is the least significant
bit of the first word, and the second word follows (words are little-endian in the store, 00_scope R4). -/
def decodeTableWord (nbits w : Nat) : Option Instr :=
  let bits := if nbits < 64 then w % 2 ^ nbits else w
  match decode (BitVec.ofNat 32 bits) (BitVec.ofNat 32 (bits / 2 ^ 32)) with
  | .ok i => some i
  | .error _ => none

/-! ## What the machine asks of an instruction -/

/-- The engine that issues an instruction. -/
def Instr.engine? (i : Instr) : Option Engine := (Instr.raw i).map Raw.eng

/-- The marks of an instruction. -/
def Instr.marks (i : Instr) : Marks := ((Instr.raw i).map Raw.m).getD Marks.none

/-- The number of words of an instruction. -/
def Instr.nwords (i : Instr) : Nat :=
  match Instr.raw i with
  | none => 0
  | some r => if r.ext.isSome then 2 else 1

end Sys2Proof
end

