-- ==== Sys2Proof/Machine/State.lean ====
section
/-! DEFINITION. The state of the Evril: plain data. One part per agent of the spec; each docstring names the rules
that give the part. The whole package is one State: the core whose turn it is stands in `core`, the cores before and
after it in this cycle in `done` and `todo` (log 3, DESIGN CHOICE). -/

namespace Sys2Proof.Machine

open Sys2Proof

/-! ## Ordering: writes and visible sets (04_ordering R123 to R136) -/

/-- A visible set of writes: bit n stands for the write whose number is n (R129). -/
abbrev View := Nat

/-- Who accesses memory: what is in its visible set, and the writes that it has read or that an older read of it rules out
(R123, R129, R132). -/
structure Party where
  view  : View
  floor : View
  deriving DecidableEq, Repr

/-- The location that a write names, as its writer addressed it: bindings follow these addresses (03 R109, R111). A
descriptor register or a format-table entry is no storage, but a write of one reaches the other engines by the same
chains (06 R242, 02 R83): it stands here as `desc`. -/
inductive Loc where
  | sp  (vale off : Nat)
  | gen (vf va : Nat)
  | desc (core k : Nat)
  deriving DecidableEq, Repr

/-- One single-copy atomic piece of a write (R135), in the write order: where it stands physically, the bytes it
replaced, and, for a channel release, what the release carries (R131). -/
structure Write where
  id  : Nat
  pa  : Nat
  old : List Byte
  loc : Loc
  rel : Option View
  deriving DecidableEq, Repr

/-! ## Queues and tokens (01_machine R22 to R31, R34 to R36) -/

/-- One entry of a queue: reserved while `data` is none; a cut marker; produced in this cycle (R26). -/
structure Slot (α : Type) where
  sid   : Nat
  data  : Option α
  cut   : Bool
  fresh : Bool
  deriving DecidableEq, Repr

/-- A queue, head first, with the number of entries freed in this cycle (R26). -/
structure Fifo (α : Type) where
  slots : List (Slot α)
  freed : Nat
  deriving DecidableEq, Repr

def Fifo.empty {α : Type} : Fifo α := ⟨[], 0⟩

/-- A token: what its signal released, and whether it was produced in this cycle (R22, R26). -/
structure Token where
  view  : View
  fresh : Bool
  deriving DecidableEq, Repr

/-- A token FIFO: tokens, entries reserved by signals not yet delivered, entries freed in this cycle (R22, R24). -/
structure TokFifo where
  toks  : List Token
  resv  : Nat
  freed : Nat
  deriving DecidableEq, Repr

def TokFifo.empty : TokFifo := ⟨[], 0, 0⟩

/-- A flag: its value at the start of the cycle, what this cycle subtracted and added, and what its releases carry
(R27, R28, 04 R130). -/
structure Flag where
  val     : Nat
  sub     : Nat
  inc     : Nat
  view    : View
  incView : View
  deriving DecidableEq, Repr

def Flag.zero : Flag := ⟨0, 0, 0, 0, 0⟩

/-- An entry of saq (07 R269). -/
structure SaqEntry where
  addr : Word
  mask : BitVec 256
  word : Nat
  agsa : Bool
  step : Nat
  gen  : Nat
  rot  : Nat
  row  : Nat
  deriving DecidableEq, Repr

/-- The names of the queues of a core (R29). -/
inductive QId where
  | lq (i : Fin 4)
  | mq (i : Fin 2)
  | sq (i : Fin 2)
  | saq
  | iq (e : Engine)
  | cond (e : Engine)
  deriving DecidableEq, Repr

/-! ## Accumulator rows and the P buffer (03 R103, 08 R282) -/

/-- An accumulator row (R103). -/
structure Row where
  sum   : BitVec 8192
  rmax  : BitVec 32
  rden  : BitVec 32
  ovf   : BitVec 32
  valid : Bool
  int   : Bool
  lz    : Bool
  deriving DecidableEq, Repr

/-- The launch value of a row (R103). -/
def Row.launch : Row := ⟨0, 0xFF800000, 0, 0, true, false, false⟩

/-- A write of some fields of a row. -/
structure RowSet where
  sum   : Option (BitVec 8192) := none
  rmax  : Option (BitVec 32) := none
  rden  : Option (BitVec 32) := none
  ovf   : Option (BitVec 32) := none
  valid : Option Bool := none
  int   : Option Bool := none
  lz    : Option Bool := none
  deriving DecidableEq, Repr

/-- A row after a write of some of its fields. -/
def Row.put (x : Row) (y : RowSet) : Row :=
  { sum := y.sum.getD x.sum, rmax := y.rmax.getD x.rmax, rden := y.rden.getD x.rden, ovf := y.ovf.getD x.ovf
    valid := y.valid.getD x.valid, int := y.int.getD x.int, lz := y.lz.getD x.lz }

/-- A P-buffer row: 256 code bytes and 8 scale containers (08 R282). -/
structure PRow where
  codes : Block
  conts : BitVec 128
  deriving DecidableEq, Repr

/-- The launch value of a P-buffer row: zero bytes, containers 0x00FE. -/
def PRow.launch : PRow := ⟨0, 0x00FE00FE00FE00FE00FE00FE00FE00FE⟩

/-! ## Operations in flight (01 R39, 13 R411) -/

/-- What an operation in flight does when it lands. -/
inductive Land where
  | s (r : Fin 32) (x : Word)
  | h (r : Fin 16) (x : Word)
  | a (r : Fin 16) (x : Word)
  | d (r : Fin 8) (x : Word)
  | e (r : Fin 4) (x : Word)
  | v (r : Fin 48) (x : Block)
  | k (r : Fin 8) (x : BitVec 256)
  | slot (q : QId) (sid : Nat) (x : Block)
  | saq (sid : Nat) (x : SaqEntry)
  | row (r : Nat) (x : Row)
  | rowSet (r : Nat) (x : RowSet)
  | rowAcc (r : Nat) (cols : Nat) (int : Bool) (t : BitVec 8192) (ovf : BitVec 256)
  | rowWithheld (r : Nat)
  | rowOvf (r : Nat) (n : Nat)
  | rowOvfClear (r : Nat)
  /-- MZERO, of the word given, on n rows from r on (08 R310, 13 R412). -/
  | rowsZero (word r n : Nat) (int : Bool)
  | pbuf (r : Nat) (x : PRow)
  | smx (x : BitVec 256)
  | token (f : Fin 10) (view : View)
  | vovf (n : Nat)
  /-- A response that brings no value (13 R416). -/
  | nothing
  deriving DecidableEq, Repr

/-- An operation in flight: the advancing cycles until it lands, counting the landing cycle (R39); the cycle of its issue, which
orders its record (13 R411). -/
structure Pend where
  rem  : Nat
  land : Land
  born : Nat
  deriving DecidableEq, Repr

/-! ## One engine (01 R12 to R20, 13 R410) -/

/-- An active loop level (R194); levels beyond the list are inactive. -/
structure Level where
  start : Nat
  stop  : Nat
  count : Nat
  index : Nat
  deriving DecidableEq, Repr

/-- Why an engine waits: the WAIT codes of R410. -/
inductive Wait where
  | none | token | flag (n : Fin 16) | flagRoom (n : Fin 16) | pop | resv | cond | slip | lease | sync | mem | breath
  | fault | table | replay | join
  deriving DecidableEq, Repr

/-- What an issued instruction still has to do once the operations before it have completed: its MARK, its signals, its
additions to flags; and the advancing cycles, the reads and the remote writes that it waits for (R24, R43; 04 R131). -/
structure MarkWait where
  n    : Option (BitVec 8)
  rem  : Nat
  ids  : List Nat
  wids : List Nat
  toks : List (Fin 10)
  adds : List (Fin 16 × Nat)
  deriving DecidableEq, Repr

/-- One engine of a core. -/
structure Eng where
  pc      : Nat
  walked  : Nat
  levels  : List Level
  live    : Bool
  halted  : Bool
  notified : Bool
  ill     : Bool
  wait    : Wait
  marks   : BitVec 256
  e       : Vector Word 4
  pend    : List Pend
  mkq     : List MarkWait
  view    : View
  floor   : View
  stall   : Option Nat
  replay  : Nat
  /-- Its last cycle was one of a replay (21 R538). -/
  redo    : Bool
  /-- pc, walked count and levels before the skipped words of the run now being settled (R13). -/
  back    : Option (Nat × Nat × List Level)
  deriving DecidableEq, Repr

def Eng.reset : Eng :=
  { pc := 0, walked := 0, levels := [], live := true, halted := false, notified := false, ill := false,
    wait := .none, marks := 0, e := Vector.replicate 4 0, pend := [], mkq := [], view := 0, floor := 0, stall := none,
    replay := 0, redo := false, back := none }

/-! ## Generators (06 R234 to R238, 13 R568) -/

/-- One table entry that a generator holds or reads (R118), and A's visible set when its read began (R119). -/
structure TabEntry where
  index : Nat
  held  : Bool
  rdg   : Bool
  rcy   : Nat
  value : BitVec 32
  view  : View
  deriving DecidableEq, Repr

def TabEntry.none : TabEntry := ⟨0, false, false, 0, 0, 0⟩

structure Gen where
  recd   : Vector Word 16
  step   : Nat
  loaded : Bool
  cur    : TabEntry
  ahead  : TabEntry
  view   : View
  deriving DecidableEq, Repr

def Gen.reset : Gen := ⟨Vector.replicate 16 0, 0, false, .none, .none, 0⟩

/-! ## Plates, leases and M's long operations (08 R282 to R301) -/

/-- The rows of a descriptor pair at one tile (R287, R299). -/
structure TileRef where
  off : Nat
  rp  : Nat
  rot : Nat
  deriving DecidableEq, Repr

/-- A plate's tag (R299). -/
structure PlateTag where
  rows   : TileRef
  wide   : Bool
  scales : Option TileRef
  ident  : Option Nat
  deriving DecidableEq, Repr

/-- What the array carries of a core in a cycle: nothing, a command, a checksum rerun of one (R294, R301). -/
inductive Carry where
  | nothing | command | rerun
  deriving DecidableEq, Repr

/-- The lease state of a core: held, requesting, counted commands of the lease (R282); the plate of a request made by
a plate-form MLEASE (R297); the mark that a freeze ended the lease, so that M's rows wait for a new grant (R295); the cycles still
to run of a checksum rerun (R304, R308); what the array carried in M's last cycle. -/
structure Lease where
  held  : Bool
  req   : Bool
  cnt   : Nat
  plate : Option PlateTag
  cut   : Bool
  rerun : Nat
  carry : Carry
  deriving DecidableEq, Repr

def Lease.none : Lease := ⟨false, false, 0, Option.none, false, 0, .nothing⟩

/-- A multi-row instruction of M under way (R283, 13 R411 kind 7): the word it stands at, cycles run, and its work. -/
inductive OccKind where
  | idle
  | fetch
  | mma (d : Nat) (src : MSrc) (scale : Option MSrc) (tile : Nat) (fmt : BitVec 20) (desc : Vector Word 4)
  | push (out : List Block)
  /-- What the rows still to come send toward their landings, row by row, as (cycles, landing). -/
  | later (rows : List (List (Nat × Land)))
  | fromQ (d : Nat) (q : MQ) (acc : List Block)
  deriving DecidableEq, Repr

structure Occ where
  word  : Nat
  run   : Nat
  total : Nat
  kind  : OccKind
  deriving DecidableEq, Repr

/-- M's sticky status and counts (R317). -/
structure MStat where
  lzs : Bool
  whs : Bool
  rrn : Nat
  whn : Nat
  deriving DecidableEq, Repr

/-! ## What an access sends and books (14 R450; 17 R490) -/

/-- A transfer that waits at, or occupies, a channel group or port: class, unit, account (R490). -/
structure Transfer where
  cls  : Nat
  unit : Nat
  acct : Nat
  deriving DecidableEq, Repr

/-- The request of a remote load: its number, the unit and core that made it, and its target (14 R450). -/
structure FarRead where
  port  : Nat
  tag   : Nat
  unit  : Nat
  core  : CoreId
  user  : Bool
  node  : Nat
  rvf   : Nat
  va    : Nat
  size  : Nat
  deriving DecidableEq, Repr

/-- What an access that faults has nonetheless done: the transfers of its walk, and the request that its target refused (14 R433, R450,
R458). -/
structure Spent where
  moved : List Transfer
  asked : Option FarRead
  deriving DecidableEq, Repr

def Spent.nothing : Spent := ⟨[], none⟩

/-! ## Traps (13 R399 to R409) -/

/-- The record of one cause (R400, R401, 14 R435). -/
structure CauseRec where
  code   : Nat
  unit   : Nat
  imp    : Bool
  detail : Nat
  pc     : Nat
  word   : Word
  addr   : Word
  pos    : Word
  walk   : Word
  /-- What its access has done, until the cause pends. -/
  spent  : Spent := .nothing
  deriving DecidableEq, Repr

/-! ## Asynchronous commands as a core sees them (06 R217 to R220, 13 R405) -/

/-- A result element (09 R330), with what its completion releases (04 R130). -/
structure Result where
  word  : Word
  fault : Bool
  fresh : Bool
  view  : View
  deriving DecidableEq, Repr

/-- One core's side of one asynchronous engine. -/
structure XPort where
  outs  : Nat
  res   : List Result
  souts : Nat
  sres  : List Result
  deriving DecidableEq, Repr

def XPort.empty : XPort := ⟨0, [], 0, []⟩

/-! ## Translation caches (14 R439, R440) -/

/-- A cached leaf: the virtual function whose tables gave it, its page, its size, the entry, and for a remote page the
port and link epoch it is tagged with (R450). -/
structure TlbEntry where
  vf    : Nat
  page  : Nat
  big   : Bool
  leaf  : Word
  eia   : Nat
  port  : Option (Nat × Nat)
  deriving DecidableEq, Repr

/-! ## What C waits for across cycles (09 R346, R356; 13 R419, R428) -/

inductive CWait where
  | none
  | sacq (oid : BitVec 32) (n : Nat)
  | barrier (o : SyncRef) (phase : Nat)
  | released (o : SyncRef) (phase : Nat) (cyc : Nat)
  | departed (o : SyncRef) (phase : Nat) (view : View)
  | answered (x : Word) (view : View)
  | split (colour : Nat)
  | join
  /-- HOLLOW's response, the read of this number, comes at wake (13 R428). -/
  | hollow (read : Nat)
  deriving DecidableEq, Repr

/-- Where a core stands in its placement (01 R45, 13 R422, 16 R475). -/
inductive CoreSt where
  | free | running | stopped | ended
  deriving DecidableEq, Repr

/-! ## One core -/

/-- The engines, registers and queues of a core. -/
structure Regs where
  eC      : Eng
  eA      : Eng
  eM      : Eng
  eV      : Eng
  eS      : Eng
  s       : Vector Word 32
  a       : Vector Word 16
  p       : Vector Word 16
  d       : Vector Word 8
  v       : Vector Block 48
  k       : Vector (BitVec 256) 8
  g       : Vector Gen 2
  f       : Vector Flag 16
  tok     : Vector TokFifo 10
  lq      : Vector (Fifo Block) 4
  mq      : Vector (Fifo Block) 2
  sq      : Vector (Fifo Block) 2
  saq     : Fifo SaqEntry
  iq      : Vector (Fifo Word) 4
  cond    : Vector (Fifo Bool) 4
  nextSid : Nat
  stz     : Nat
  rows    : List (Nat × Row)
  pbuf    : List (Nat × PRow)
  smx     : BitVec 256
  claim   : Option PlateTag
  /-- The resident plate was fetched for this core's claim, and no fetch has taken place since (08 R299). -/
  claimOwn : Bool
  lease   : Lease
  mstat   : MStat
  occ     : Option Occ
  deriving DecidableEq, Repr

/-- The control registers of a core and the rest of what its snapshot header holds (13 R396, R409). -/
structure CReg where
  lvl     : BitVec 2
  shd     : Bool
  gang    : Word
  domm    : Word
  spw     : Word
  slipw   : Nat
  vovf    : BitVec 32
  fmtsrc  : BitVec 16
  fmte    : Vector (BitVec 20) 16
  cause   : Word
  trapPc  : Word
  trapWord : Word
  trapAddr : Word
  trapPos : Word
  eretPc  : Word
  trapWalk : Word
  /-- Causes not yet taken, in the order they arose (R402). -/
  pending : List CauseRec
  acctid  : BitVec 12
  keyslot : BitVec 7
  vfsel   : BitVec 5
  wp      : Vector Word 4
  wpm     : Vector (BitVec 16) 4
  h       : Vector Word 16
  /-- The shadow context's own program counter, loop levels and operations in flight (R402, R403). -/
  sh      : Eng
  cyc0    : Nat
  hcnt    : Vector Word 30
  fwcnt   : Vector Word 16
  twcnt   : Vector Word 10
  hcctl   : Word
  trctl   : Word
  dead    : Nat
  lxa     : Word
  lxold   : Word
  lxnew   : Word
  lxgo    : Nat
  deriving DecidableEq, Repr

/-- What the engines of a core compare with in this cycle (01 R18, R20). -/
structure SlipNow where
  minWalked : Nat
  win       : Nat
  deriving DecidableEq, Repr

/-- One physical core: registers, control registers, its sides of the asynchronous engines, its text and pager store,
its translation caches, and where C waits. -/
structure Core where
  id      : CoreId
  st      : CoreSt
  launch  : Nat
  /-- The pod domain that the core's launch packet names (01 R49, 04 R128). -/
  pod     : Option Nat
  /-- The current domain, and the parents of the splits in force with their DOMM, innermost first (01 R49 to R54). -/
  dom     : Nat
  domUp   : List (Nat × Word)
  frozen  : Bool
  /-- It was frozen, or saved, at the beginning of this cycle (21 R549). -/
  still   : Bool
  r       : Regs
  cr      : CReg
  xp      : Vector XPort 3
  text    : List IWord
  /-- What the instruction store holds: IMG, ITAG and slot base; and the PGIMG of the pager store (16 R475). -/
  held    : Option (Nat × Nat × Nat)
  pgheld  : Option Nat
  pager   : List IWord
  swt     : List (Nat × IWord)
  ctlb    : List TlbEntry
  stlb    : Vector (List TlbEntry) 4
  lastVa  : Vector Nat 4
  /-- The word of the AGC at which A stands, when its record has been read (06 R236). -/
  agc     : Option Nat
  cwait   : CWait
  slip    : SlipNow
  /-- Snapshot words that SNAPWR has written and no part of the core holds: those of the pending region, of inactive levels, of
  entries beyond a count (13 R417). -/
  overlay : List (Nat × Word)
  status  : Word
  deriving DecidableEq, Repr

/-! ## Vales: the shared array and scratchpad side (08 R291 to R304) -/

/-- The plate resident in a vale's array: its tag, its rows of 256 bytes, its scale containers (8 rows of 256), and
whether its checksum has failed twice (R302, R304). -/
structure Plate where
  tag    : PlateTag
  rows   : List Block
  scales : List (BitVec 4096)
  failed : Bool
  deriving DecidableEq, Repr

/-- A grant that is being switched to: the core, the cycles still to run, and how many of the last of them are a rerun of its
refetch (R293, R304). -/
structure Grant where
  core : Nat
  left : Nat
  rerun : Nat
  deriving DecidableEq, Repr

/-- What a vale's array does in a cycle: nothing, switching, a rerun, or the lease of a core (R301). -/
inductive ArrayUse where
  | idle | switch | rerun | lease (core : Nat)
  deriving DecidableEq, Repr

/-- A sealed plate's fetch under way: the core that fetches, the cycles still to run and those held for the split, and who
shares it, as (core, account) (R300; 17 R491). -/
structure SealedFetch where
  core : Nat
  left : Nat
  spent : Nat
  bens : List (Nat × Nat)
  deriving DecidableEq, Repr

/-- A table entry that a walk cache holds: its function, level and intermediate address (14 R441). -/
structure WalkEntry where
  vf    : Nat
  lvl   : Nat
  eia   : Nat
  entry : Word
  deriving DecidableEq, Repr

structure Vale where
  holder  : Option Nat
  pointer : Nat
  grant   : Option Grant
  idle    : Nat
  /-- The lease budget in force for the current lease (R291). -/
  bud     : Nat
  leaseb  : Nat
  plate   : Option Plate
  /-- The rotating pointers of the array, x0, x1 and x2 (17 R492). -/
  rot     : Vector Nat 4
  sfetch  : Option SealedFetch
  /-- The cycles of a freeze save still to run: nobody is granted the array in them (R295). -/
  saving  : Nat
  /-- What the array does in this cycle. -/
  use     : ArrayUse
  vf      : Nat
  vfOn    : Bool
  vfDrain : Bool
  vfNext  : Option Nat
  /-- The cycles of replays of x0, x1 and x2 still to run (21 R538). -/
  xrep    : Vector Nat 3
  /-- The walk cache of the vale's walker, newest first (14 R441). -/
  wcache  : List WalkEntry
  deriving DecidableEq, Repr

/-- A vale at reset: no holder, the pointer at core 7 (R293), LEASEB 64 (R291), VALEVF 0 (20 R525). -/
def Vale.reset : Vale :=
  { holder := none, pointer := 7, grant := none, idle := 0, bud := 64, leaseb := 64, plate := none,
    rot := Vector.replicate 4 0, sfetch := none, saving := 0, use := .idle, vf := 0, vfOn := false, vfDrain := false, vfNext := none
    xrep := Vector.replicate 3 0, wcache := [] }

/-! ## Bindings, reads in flight, walks (03 R109, 13 R411 kind 5, 14 R441) -/

/-- A live binding of bytes to a synchronisation object (03 R109, 09 R345). -/
structure Binding where
  base : Loc
  len  : Nat
  oid  : BitVec 32
  gang : Nat
  deriving DecidableEq, Repr

/-- What a response brings. -/
inductive Arrive where
  | reg (l : Land)
  | slot (q : Fin 4) (sid : Nat) (x : Block)
  /-- The record of the AGC at which A stands (06 R236). -/
  | record
  deriving DecidableEq, Repr

/-- A read whose response has not arrived: its engine, what it brings, and the signals it will deliver. -/
structure Read where
  id   : Nat
  core : CoreId
  eng  : Engine
  arr  : Arrive
  word : Nat
  toks : List (Fin 10)
  /-- Its remote loads, as (port, number of the request) (14 R451). -/
  far : List (Nat × Nat)
  /-- Its response may arrive; a waiting OPENW's may not yet (09 R356). -/
  ready : Bool
  /-- What it reads, as (A address, bytes): what a restored core reads again (13 R411 kind 5). -/
  elems : List (Nat × Nat)
  /-- The walked count and loop levels of its engine before it, for a fault of its response (14 R451). -/
  was   : Nat × List Level
  /-- The cycle of its issue, which orders its record (13 R411). -/
  born  : Nat
  deriving DecidableEq, Repr

/-- A prefetch walk under way (14 R440): the core, the stream and the page. -/
structure Walk where
  id   : Nat
  core : CoreId
  strm : Fin 4
  page : Nat
  deriving DecidableEq, Repr

/-! ## Virtual functions: translation state (14 R434 to R454) -/

/-- The three words of an event ring (22 R556). -/
structure Ring where
  evrc : Word
  tail : Nat
  head : Nat
  drop : Nat
  /-- The writes that made its records: what a read of EVRP acquires (R557). -/
  rel  : View
  deriving DecidableEq, Repr

def Ring.reset : Ring := ⟨12, 0, 0, 0, 0⟩

structure VFun where
  s1tb    : Word
  /-- What C had seen at the last TLBI of the function: later walks read the tables under it (13 R416). -/
  seen    : View
  segb    : Vector Word 3
  segl    : Vector Word 3
  migctl  : Word
  dtctl   : Word
  dtb     : Vector Word 3
  pagerlv : BitVec 2
  /-- Reserve frames that moves and exchanges have allocated and not returned, as (tier, intermediate address) (R444, R448). -/
  taken   : List (Nat × Nat)
  /-- Reserve frames lost to plain stores of the leaf that named them, as (tier, intermediate address) (R445). -/
  lost    : List (Nat × Nat)
  pgimg   : Word
  saveb   : Word
  savel   : Word
  /-- The address of a namespace export under way, and of an import; NSI reads −1 after a refusal (16 R465). -/
  nsx     : Word
  nsi     : Word
  acfg    : Word
  ownt    : Word
  ring    : Ring
  /-- The function has been moved to another package (14 R455, R456). -/
  moved   : Bool
  deriving DecidableEq, Repr

def VFun.reset : VFun :=
  { s1tb := 0, seen := 0, segb := Vector.replicate 3 0, segl := Vector.replicate 3 0, migctl := 0, dtctl := 0,
    dtb := Vector.replicate 3 0, pagerlv := 1, taken := [], lost := [], pgimg := 0, saveb := 0, savel := 0, nsx := 0, nsi := 0
    acfg := 0x0000001000100010, ownt := 0, ring := .reset, moved := false }

/-- A page move under way (14 R444): the leaf read at its start, both frames, its cause. -/
structure Move where
  id    : Nat
  vf    : Nat
  va    : Nat
  leafAt : Nat
  leaf  : Word
  toTier : Nat
  frame : Nat
  mark  : Bool
  acct  : Nat
  cmd   : Option Nat
  deriving DecidableEq, Repr

/-! ## Sealed objects (09 R352 to R358) -/

/-- A sealed object: its identity, its bytes, what it was sealed with, its creator's account, what its SEAL released,
and whether it has been reclaimed (its bytes stay sealed until RCLM pops the event). -/
structure Obj where
  ident : Nat
  vf    : Nat
  base  : Nat
  size  : Nat
  ext   : Vector (BitVec 32) 4
  fmt   : Word
  scalep : Word
  acct  : Nat
  view  : View
  live  : Bool
  deriving DecidableEq, Repr

/-- A remote write on its way by a port, not yet acknowledged: the number of the write; the unit, core, gang and function
that made it, and the command, if one did; its target; what it releases (R131; 20 R521). -/
structure FarWrite where
  port  : Nat
  wid   : Nat
  unit  : Nat
  core  : CoreId
  cmd   : Option Nat
  key   : Nat
  vf    : Nat
  node  : Nat
  rvf   : Nat
  va    : Nat
  bytes : List Byte
  rel   : Option View
  deriving DecidableEq, Repr

/-- The updates of a SAEQ that has issued, not yet performed (07 R277): the number of the write that stands for them; the core, gang,
function and account of S; operation and FT; the elements, as (A address, place, value). -/
structure SaWork where
  wid   : Nat
  core  : CoreId
  key   : Nat
  vf    : Nat
  acct  : Nat
  op    : Nat
  ft    : Bool
  elems : List (Word × Nat × Nat)
  deriving DecidableEq, Repr

/-- What leaves the package: toward a remote node, the host or the platform (log 17, DESIGN CHOICE). -/
inductive Sent where
  | write (w : FarWrite)
  | load (r : FarRead)
  | podTick (oid : BitVec 32) (phase tick : Nat)
  /-- An epoch announcement on a port (20 R520). -/
  | epoch (port : Nat)
  /-- The answer to a remote access, with the code of its fault or 0, and with the translation that the requester may keep, or 0;
  and the replay request of a bad flit (14 R450, 20 R516). -/
  | reply (port : Nat) (bytes : List Byte) (code : Nat) (leaf : Word)
  | retry (port : Nat)
  /-- Credits that go back in a flit of their own (20 R517). -/
  | credit (port : Nat)
  /-- A timing message of a port: a Sync, its Follow_Up with the Sync's time, a Delay_Req, the Delay_Resp with its time (20 R527). -/
  | timing (port : Nat) (kind : Nat) (time : Nat)
  deriving DecidableEq, Repr

/-- A flit that has left a port: a number of its own, the fields of its header, what it carries, and how often it has left (20 R516). -/
structure TxFlit where
  key   : Nat
  cls   : Nat
  typ   : BitVec 5
  epoch : Nat
  seq   : Nat
  cred  : Nat
  ccls  : Nat
  len   : Nat
  body  : Sent
  tries : Nat
  deriving DecidableEq, Repr

/-! ## Synchronisation objects and domains (09 R341 to R350, 01 R49 to R54) -/

/-- An open phase of an arrival barrier: its number, arrivals, bytes, what they released, and the remote writes among it that
are not yet performed (R343). -/
structure Phase where
  k     : Nat
  arr   : Nat
  bytes : Nat
  view  : View
  wids  : List Nat
  deriving DecidableEq, Repr

/-- The sequencer registers of a plain (R349). -/
structure Bugle where
  space : Word
  ph0   : Word
  ph1   : Word
  deriving DecidableEq, Repr

def Bugle.reset : Bugle := ⟨0x710, 0x7654321076543210, 0x7654321076543210⟩

/-- A completed phase: what it released; the cycle in which its release began, none before a pod tick; and the sequencer
registers of the plains as they stood then (R349, R350, R351). -/
structure PastPhase where
  k    : Nat
  view : View
  t0   : Option Nat
  set  : Vector Bugle 4
  deriving DecidableEq, Repr

/-- An SREL that has issued: its n is added once the remote writes among what it carries are performed (R346). -/
structure HeldRel where
  n    : Nat
  view : View
  wids : List Nat
  deriving DecidableEq, Repr

/-- A synchronisation object: its identity, the gang and core that made it, its pod domain; an arrival barrier's
expected counts, completed phases, the highest phase named; a flag object's value, releases and waiters in order. Phases
are counted without wrapping; a phase number of 32 bits names the nearest (R343). -/
structure SyncObj where
  oid     : BitVec 32
  gang    : Nat
  owner   : CoreId
  pod     : Option Nat
  na      : Nat
  nb      : Nat
  ph      : Nat
  named   : Option Nat
  phases  : List Phase
  past    : List PastPhase
  value   : Nat
  view    : View
  /-- Waiting cores, with their gangs and the values they wait for, in order. -/
  waiters : List (CoreId × Nat × Nat)
  /-- Releases of a flag object that wait for remote writes, in order. -/
  rels    : List HeldRel
  deriving DecidableEq, Repr

/-- A domain: its gang, level, depth, members by rank; its barrier's completed phases, the arrivals of the current one, what
they released and the remote writes among it that are not yet performed; what the commands tagged to phases wrote (R137);
the members that have split or joined. -/
structure Domain where
  id      : Nat
  gang    : Nat
  level   : Nat
  depth   : Nat
  members : List CoreId
  parent  : Option Nat
  ph      : Nat
  arrived : List CoreId
  view    : View
  wids    : List Nat
  tagged  : List (Nat × View)
  past    : List PastPhase
  splits  : List (CoreId × Nat)
  joins   : List CoreId
  deriving DecidableEq, Repr

/-- A pod-scope release that waits for its tick of the global timer (R351). -/
structure PodTick where
  obj   : SyncRef
  phase : Nat
  tick  : Nat
  deriving DecidableEq, Repr

/-! ## Commands of the asynchronous engines (09 R325 to R340) -/

/-- How far a command has come: pushed; started; its writes performed; its post waiting for a later phase; posted, its
flag to be added; complete, its result to be placed. -/
inductive CmdStage where
  | queued | started | performed | posting | posted | complete
  deriving DecidableEq, Repr

/-- A command: its engine and pusher; the register and word index of its push; its words; what the push carried, its
account, level, windows, domain and superstep; how far it has come; what it wrote; the remote writes that its push carries,
or that it has made itself, and that are not yet performed; the fields of its result. -/
structure Cmd where
  id     : Nat
  x      : Fin 3
  core   : CoreId
  gang   : Nat
  shadow : Bool
  reg    : Nat
  pc     : Nat
  words  : List Word
  view   : View
  floor  : View
  acct   : Nat
  lvl    : Nat
  spw    : Word
  dom    : Nat
  /-- The index of a COLL among those its member has pushed in this domain, which an instance begins at one number for all its
  members (R340). -/
  seq    : Nat
  tag    : Option Nat
  held   : List Nat
  stage  : CmdStage
  wrote  : View
  wids   : List Nat
  bytes  : Nat
  detail : Nat
  elems  : Nat
  fault  : Option Nat
  /-- Its elements done before a pause (13 R420); what it has read and keeps: an index list, a selection, a collective's values; the
  sums of a scatter; and how far a collective's member has come: reading, having read, writing (09 R335 to R340). -/
  upto   : Nat
  data   : List Nat
  sums   : List (Nat × Nat)
  phase  : Nat
  /-- The cycles that its engine has spent on it, and those among whom they are split, as (key, account) (17 R491, R492). -/
  work   : Nat
  bens   : List (Nat × Nat)
  deriving DecidableEq, Repr

/-- A waiting OPENW (R356): its core, the record of its response, its name, its limit on the global timer. -/
structure OpenW where
  core  : CoreId
  read  : Nat
  dest  : Nat
  name  : List Byte
  limit : Option Nat
  deriving DecidableEq, Repr

/-! ## The name directory (09 R352 to R358) -/

/-- A name bound to an object in a namespace, and what the commit or bind that made the binding released (R130). -/
structure Name where
  vf    : Nat
  name  : List Byte
  ident : Nat
  view  : View
  deriving DecidableEq, Repr

/-- An open handle of a gang. -/
structure Handle where
  gang  : Nat
  idx   : Nat
  ident : Nat
  deriving DecidableEq, Repr

/-- A staged pair of a gang: the object to bind, or none to unbind the name. -/
structure Staged where
  gang  : Nat
  name  : List Byte
  ident : Option Nat
  deriving DecidableEq, Repr

/-- A reclamation event of a virtual function (R353). -/
structure Reclaim where
  vf    : Nat
  ident : Nat
  base  : Nat
  size  : Nat
  acct  : Nat
  deriving DecidableEq, Repr

/-! ## Sealed images, events and errors (18 R504, 22 R554 to R564) -/

/-- A sealed-image record: the ranges of scratch bytes of a vale, as (offset, length), that a copy out of a sealed object
wrote (18 R504). -/
structure ImageRec where
  vale  : Nat
  ident : Nat
  ranges : List (Nat × Nat)
  gang  : Nat
  deriving DecidableEq, Repr

/-- An event that has arisen and is to be delivered: its source, kind and payload, and the global timer then (22 R554). -/
structure Alert where
  src     : Nat
  kind    : Nat
  payload : List Nat
  time    : Nat
  /-- The ring's EVRC as it stood when the event arose, where it has been written since (22 R556). -/
  evrc    : Option Word
  deriving DecidableEq, Repr


/-! ## Launches and gangs (16 R462 to R480, 19 R506, R507, 22 R559) -/

/-- An accepted packet: its launch identity, its words, the identities read at RESL, when it was accepted, what its push
released (16 R466 to R469). -/
structure Packed where
  launch : Nat
  words  : Vector Word 8
  objs   : List Nat
  born   : Nat
  view   : View
  deriving DecidableEq, Repr

/-- A dispatch queue: QCFG, its FIFO, DROP and REFU, its round count (16 R462 to R464, R472). -/
structure Queue where
  cfg   : Word
  fifo  : List Packed
  drop  : Nat
  refu  : Nat
  round : Nat
  deriving DecidableEq, Repr

/-- A queue at reset: WGT 1, OWNER 16. -/
def Queue.reset : Queue := ⟨0x10008, [], 0, 0, 0⟩

/-- The capture of a launch: its area, its length, the pages captured, those that writes wait for, and
whether it has ended truncated (22 R559, R560). -/
structure Capture where
  area  : Nat
  len   : Nat
  pages : List Nat
  want  : List Nat
  trunc : Bool
  deriving DecidableEq, Repr

/-- A gang: picked and not issued (R471, R475); running; being stopped; stopped. -/
inductive GangSt where
  | chosen | running | stopping | stopped
  deriving DecidableEq, Repr

/-- A placed or stopped gang. `key` tells the runs of a dual launch apart: the launch identity for run 0, 2^32 and 2^33
above it for runs 1 and 2. `cores` stand in index order. -/
structure Gang where
  key    : Nat
  run    : Nat
  pk     : Packed
  vf     : Nat
  owner  : Nat
  cores  : List CoreId
  win    : Nat
  wlen   : Nat
  /-- The length of a core's slot, in 4 KiB units, as the placement read it (R473). -/
  slot   : Nat
  prio   : Nat
  /-- The cycle in which it was last chosen to issue or resume. -/
  since  : Nat
  start  : Nat
  serial : Nat
  st     : GangSt
  stopNo : Nat
  hold   : Bool
  /-- Its free cores are kept for it, since this place in the order of such decisions (R471). -/
  kept   : Option Nat
  /-- The near address of its save area, and the cores as they stood at the stop. -/
  area   : Option Nat
  saved  : List Core
  /-- Its cores that have pre-empted it themselves and stop at the boundary where they stand (13 R419). -/
  quit   : List CoreId
  /-- While it is stopped: the reads and waiting OPENWs of its cores, and the vales in which another gang has taken its
  window. -/
  reads  : List Read
  openws : List OpenW
  lost   : List Nat
  /-- The core index and both causes of a gang that ended faulted. -/
  fault  : Option (Nat × Nat × Nat)
  aband  : Bool
  resid  : Bool
  view   : View
  /-- What its commands have written (04 R140). -/
  wrote  : View
  /-- Bytes written to generic memory, as (address, byte): kept unperformed for runs 1 and 2 (R478, R479). -/
  log    : List (Nat × Nat)
  capt   : Option Capture
  /-- The scratch bytes that accepted restores have written since its stop, as (core, offset, bytes), oldest first (19 R507). -/
  patch  : List (CoreId × Nat × List Byte)
  /-- Its runs have completed; it waits for the others of its launch. -/
  ended  : Bool
  deriving DecidableEq, Repr

/-- A PREEMPT whose response waits for its gang to stop (19 R506). -/
structure Asked where
  core : CoreId
  read : Nat
  gang : Nat
  deriving DecidableEq, Repr

/-- The dispatch controller. -/
structure Disp where
  queues : List (Nat × Queue)
  gangs  : List Gang
  /-- Completed launches with their status, newest first, at most 4,096 (R470). -/
  dones  : List (Nat × Nat)
  /-- What the dispatcher, as a party, has in its set; what the completion records of those launches carry (04 R123, R140). -/
  party  : Party
  rels   : List (Nat × View)
  /-- The heads that have been chosen and have no placement, in order, as (queue, launch, priority): no launch of such a priority or lower
  issues before them (R471). -/
  head   : List (Nat × Nat × Nat)
  next   : Nat
  pointer : Nat
  serial : Nat
  asked  : List Asked
  deriving DecidableEq, Repr

/-! ## Accounts (17 R485 to R503) -/

/-- The counters of one account (R498). -/
structure Book where
  cyc    : Vector Nat 13
  sto    : Vector Nat 4
  issued : Nat
  compl  : Nat
  stmts  : Nat
  deriving DecidableEq, Repr

def Book.zero : Book := ⟨Vector.replicate 13 0, Vector.replicate 4 0, 0, 0, 0⟩

/-- A unit whose books differ from those of a unit that has been in service since power-good and has never worked: the cycles that it has
booked, those it holds, and its elapsed count, since it entered service (R487, R491; log 22, DEDUCED). -/
structure UnitBook where
  cls     : Nat
  idx     : Nat
  booked  : Nat
  held    : Nat
  elapsed : Nat
  deriving DecidableEq, Repr

/-- A statement that waits for the tick that it will show (R501). -/
structure Pledge where
  core : CoreId
  key  : Nat
  read : Nat
  acct : Nat
  vf   : Nat
  va   : Word
  nonce : List Byte
  deriving DecidableEq, Repr

/-- The accounting unit: the books; the pages last published, their tick and its time; the boot epoch; CONSST and the
violation flag; per class, the units in service and the sum of their elapsed counts; the elapsed count of a unit in service since
power-good; the units with books of their own; the units that have booked this cycle; per store class, the capacity booked so
far. -/
structure Books where
  live   : List (Nat × Book)
  pages  : List (Nat × Book)
  tick   : Nat
  time   : Nat
  epoch  : Word
  consst : Word
  viol   : Bool
  units  : Vector Nat 13
  elapsed : Vector Nat 13
  age    : Nat
  own    : List UnitBook
  now    : List (Nat × Nat)
  stored : Vector Nat 4
  moving : List Transfer
  pledges : List Pledge
  deriving DecidableEq, Repr

/-- The units in service of each class (R486). -/
def unitCounts : Vector Nat 13 := #v[1024, 1024, 1024, 1024, 1024, 128, 128, 128, 128, 32, 8, 12, 1]

def Books.reset : Books :=
  { live := [], pages := [], tick := 0, time := 0, epoch := 0, consst := 0, viol := false, units := unitCounts
    elapsed := Vector.replicate 13 0, age := 0, own := [], now := []
    stored := Vector.replicate 4 0, moving := [], pledges := [] }

/-! ## The platform (20 R510 to R533) -/

/-- A Tsuosh port (R519), with its side of the link layer (R516 to R518). -/
structure Link where
  st    : Nat
  spu   : Bool
  badl  : Nat
  dis   : Bool
  epoch : Nat
  nbr   : Nat
  rtry  : Nat
  dropc : Nat
  /-- Credits held toward the far end, by class (R517). -/
  cred  : Vector Nat 6
  /-- The sequence number of its next flit; the flits that have left and that the far end has not yet freed, oldest first; what waits for a
  credit, as (class, body); the credits to give back, by class. -/
  seq   : Nat
  buf   : List TxFlit
  queue : List (Nat × Sent)
  owed  : Vector Nat 6
  /-- The identity that its last training gave the far end (R518). -/
  own   : Nat
  deriving DecidableEq, Repr

def Link.reset : Link :=
  { st := 0, spu := false, badl := 0, dis := false, epoch := 0, nbr := 0, rtry := 0, dropc := 0, cred := #v[128, 128, 64, 16, 8, 8]
    seq := 0, buf := [], queue := [], owed := Vector.replicate 6 0, own := 0 }

/-- A CXL port (R524). -/
structure Cxl where
  st  : Nat
  ide : Bool
  cap : Nat
  psn : Nat
  /-- The port is one of the set that makes up the steppe tier, whether or not it has failed (R523). -/
  set : Bool
  deriving DecidableEq, Repr

def Cxl.reset : Cxl := ⟨0, false, 0, 0, false⟩

/-- The mailbox (R531). -/
structure Mailbox where
  op  : Nat
  go  : Bool
  res : Nat
  len : Nat
  off : Nat
  buf : List Host.Cell
  deriving DecidableEq, Repr

def Mailbox.reset : Mailbox := ⟨0, false, 0, 0, 0, []⟩

/-- A strath's voltage (21 R537): level in mV, MAXV, replays, and the replays of each unit in a window of 2^20 cycles, with the cycle at which
the window began. -/
structure Strath where
  volt  : Nat
  maxv  : Bool
  rply  : Nat
  late  : List (Nat × Nat)
  since : Nat
  deriving DecidableEq, Repr

def Strath.reset : Strath := ⟨900, false, 0, [], 0⟩

/-- The times of a measurement of the offset from an upstream port (20 R527): a Sync's departure and arrival, a Delay_Req's departure. -/
structure Ptp where
  t1 : Option Nat
  t2 : Option Nat
  t3 : Option Nat
  deriving DecidableEq, Repr

def Ptp.reset : Ptp := ⟨none, none, none⟩

/-- Spare parts of a vale (22 R567). -/
structure Spare where
  csp  : Bool
  rows : Nat
  cols : Nat
  bnk  : Nat
  drn  : Bool
  deriving DecidableEq, Repr

def Spare.reset : Spare := ⟨false, 0, 0, 0, false⟩

/-- The spare map (20 R529): the spares in service by vale, and of the plains; the units that are retired. -/
structure SpareMap where
  spares : List (Nat × Spare)
  vsp    : Vector Nat 4
  gone   : List (Nat × Nat)
  deriving DecidableEq, Repr

def SpareMap.reset : SpareMap := ⟨[], Vector.replicate 4 0, []⟩

/-- The rest of the package: boot, mailbox, images, timer discipline, links, CXL ports, clock, power, spares, keys. -/
structure Plat where
  step   : Nat
  ready  : Bool
  rcv    : Bool
  flt    : Nat
  sver   : Nat
  /-- Nanoseconds at power-good; none before it. -/
  power  : Option Nat
  /-- The fused minimum security version; the flash image; the staging image. -/
  fused  : Nat
  flash  : List Byte
  staging : List Host.Cell
  /-- The bytes of the staging image; a commit was cut off by a loss of power (20 R531). -/
  slen   : Nat
  torn   : Bool
  mbx    : Mailbox
  /-- The measurements taken, as (index, digest) (20 R529, R532). -/
  meas   : List (Nat × List Byte)
  tmctl  : Word
  tmadj  : Word
  lock   : Bool
  ofs    : Int
  good   : Nat
  ptp    : Ptp
  /-- The part of a nanosecond of the global timer, in units of 2^−32 / 17. -/
  part   : Nat
  /-- The rate offset of a package that follows another, in units of 2^−32 (20 R527). -/
  slew   : Int
  nodeid : Nat
  links  : Vector Link 12
  cxl    : Vector Cxl 8
  /-- A port in service has failed (R523). -/
  noSteppe : Bool
  ucie   : Vector Bool 2
  hring  : Ring
  mring  : Ring
  div    : Nat
  divNext : Option Nat
  /-- The cycles for which a written divider has waited; it waits for the wake; it takes effect at the end of this cycle (21 R536). -/
  divAge : Nat
  divHeld : Bool
  divGo  : Bool
  pwr    : Vector (Nat × Nat) 4
  straths : Vector Strath 16
  /-- In an entry into the hollow state, the cores have stopped and the epoch announcements have left (21 R544). -/
  calm   : Bool
  /-- HOLST: 0 running, 1 entering, 2 hollow, 3 waking; intervals; the last one in µs. -/
  hst    : Nat
  hcnt   : Nat
  hlast  : Nat
  wdly   : Nat
  auto   : Bool
  /-- The warning input; since when it stands as it does; when the interval began; whether HOLLOW alone caused it. -/
  warn   : Bool
  warnAt : Nat
  since  : Nat
  /-- The nanoseconds of the last interval. -/
  span   : Nat
  asked  : Bool
  spares : List (Nat × Spare)
  vsp    : Vector Nat 4
  gone   : List (Nat × Nat)
  /-- The spare map that the next bring-up applies (20 R529; log 66, DESIGN CHOICE). -/
  map    : SpareMap
  /-- The spares that are to come into service at their moments, and the HBM rows whose content is being copied, as (channel group,
  row) (22 R565). -/
  coming : List SpareKind
  rows   : List (Nat × Nat)
  /-- Key slots in use: the key, the save counter (13 R424). -/
  keys   : List (Nat × BitVec 256 × Word)
  deriving DecidableEq, Repr

def Plat.reset : Plat :=
  { step := 0, ready := false, rcv := false, flt := 0, sver := 0, power := none, fused := 0, flash := [], staging := []
    slen := 0, torn := false, mbx := .reset, meas := [], tmctl := 0, tmadj := 0, lock := false, ofs := 0, good := 0, ptp := .reset, part := 0, slew := 0, nodeid := 0
    links := Vector.replicate 12 .reset, cxl := Vector.replicate 8 .reset, noSteppe := false
    ucie := Vector.replicate 2 true, hring := .reset, mring := .reset, div := 1, divNext := none, divAge := 0, divHeld := false, divGo := false
    pwr := Vector.replicate 4 (0, 0), straths := Vector.replicate 16 .reset, calm := false, hst := 0, hcnt := 0, hlast := 0
    wdly := 1000, auto := true, warn := false, warnAt := 0, since := 0, span := 0, asked := false, spares := []
    vsp := Vector.replicate 4 0, gone := [], map := .reset, coming := [], rows := [], keys := [] }

def Disp.reset : Disp := { queues := [], gangs := [], dones := [], party := ⟨0, 0⟩, rels := [], head := [], next := 1, pointer := 0, serial := 0, asked := [] }

/-! ## Resets of a core -/

def Regs.reset : Regs :=
  { eC := .reset, eA := .reset, eM := .reset, eV := .reset, eS := .reset
    s := Vector.replicate 32 0, a := Vector.replicate 16 0, p := Vector.replicate 16 0, d := Vector.replicate 8 0
    v := Vector.replicate 48 0, k := Vector.replicate 8 0, g := Vector.replicate 2 .reset
    f := Vector.replicate 16 .zero, tok := Vector.replicate 10 .empty
    lq := Vector.replicate 4 .empty, mq := Vector.replicate 2 .empty, sq := Vector.replicate 2 .empty
    saq := .empty, iq := Vector.replicate 4 .empty, cond := Vector.replicate 4 .empty
    nextSid := 0, stz := 0, rows := [], pbuf := []
    smx := 0xFFFFFFFF3F800000
    claim := none, claimOwn := false, lease := .none, mstat := ⟨false, false, 0, 0⟩, occ := none }

/-- FMTE entries and FMTSRC without .fmt directives (02 R79, R81). -/
def fmteReset : BitVec 20 := 0x80000
def fmtsrcReset : BitVec 16 := 0x0404

def CReg.reset : CReg :=
  { lvl := 0, shd := false, gang := 0, domm := 0, spw := 0, slipw := 512, vovf := 0, fmtsrc := fmtsrcReset
    fmte := Vector.replicate 16 fmteReset
    cause := 0, trapPc := 0, trapWord := 0, trapAddr := 0, trapPos := 0, eretPc := 0, trapWalk := 0, pending := []
    acctid := 0, keyslot := 0, vfsel := 0, wp := Vector.replicate 4 0, wpm := Vector.replicate 4 0
    h := Vector.replicate 16 0, sh := .reset, cyc0 := 0
    hcnt := Vector.replicate 30 0, fwcnt := Vector.replicate 16 0, twcnt := Vector.replicate 10 0
    hcctl := 1, trctl := 0, dead := 0, lxa := 0, lxold := 0, lxnew := 0, lxgo := 0 }

/-- A core that no gang holds (log 1, DESIGN CHOICE). -/
def Core.reset (id : CoreId) : Core :=
  { id := id, st := .free, launch := 0, pod := none, dom := 0, domUp := [], frozen := false, still := false, r := .reset, cr := .reset
    xp := Vector.replicate 3 .empty, text := [], held := none, pgheld := none, pager := [], swt := []
    ctlb := [], stlb := Vector.replicate 4 [], lastVa := Vector.replicate 4 0, agc := none
    cwait := .none, slip := ⟨0, 512⟩, overlay := [], status := 0 }

/-! ## The package -/

/-- Whose turn it is: an engine of the core in focus, or the package's own events at the end of the cycle (log 3, DESIGN CHOICE). -/
inductive Turn where
  | eng (e : Engine)
  | pkg
  deriving DecidableEq, Repr

/-- Why the machine stops with a fault. -/
inductive Fault where
  /-- Raised by every access whose tier physical address lies beyond the 48-bit address space of its tier: no store has
  such a cell (14 R436). Safe: the model stops where the spec names nothing. -/
  | noSuchCell (pa : Nat)
  deriving DecidableEq, Repr

/-- Why the machine gives an instruction no meaning. -/
inductive Refusal where
  /-- Raised by the arms of `exec` whose meaning is not written. Safe: nothing is claimed of such an instruction. -/
  | notModelled (mnemonic : String)
  deriving DecidableEq, Repr

/-- A write of a control register, by CRW, ACSW or WPSET, that takes effect at the end of its cycle: its core, level,
virtual function, register and value (13 R415, R418, R420). -/
structure CtlWrite where
  core : CoreId
  lvl  : Nat
  vf   : Nat
  num  : Nat
  val  : Word
  deriving DecidableEq, Repr

structure State where
  core   : Core
  done   : List Core
  todo   : List Core
  turn   : Turn
  cycle  : Nat
  choice : Nat
  nextId : Nat
  mem    : List Host.Cell
  hist   : List Write
  /-- The writes that every party has in its set: those that the migration engine and leaf exchanges make (14 R444, R448). -/
  base   : View
  binds  : List Binding
  reads  : List Read
  walks  : List Walk
  moves  : List Move
  vfs    : Vector VFun 32
  vales  : List (Nat × Vale)
  objs   : List Obj
  outbox : List Sent
  updates : List SaWork
  syncs  : List SyncObj
  names  : List Name
  handles : List Handle
  staged : List Staged
  reclaims : List Reclaim
  /-- Namespace images that have been exported, with what they hold (16 R465). -/
  exports : List (List Byte × Config.Namespace)
  /-- Sealed-image records, newest first. -/
  copies : List ImageRec
  /-- Events to deliver, oldest first, and the number of events that each source has posted. -/
  alerts : List Alert
  seqs   : List (Nat × Nat)
  /-- Errors to come in the array (22 R562), the failing 64-bit units of storage, and those with a correctable error. -/
  flaws  : List Config.Flaw
  bad    : List Nat
  soft   : List Nat
  /-- Units whose errors have been corrected since the last tick, and how often (22 R563). -/
  fixed  : List (Nat × Nat)
  /-- The global timer in nanoseconds (06 R223). -/
  timer  : Nat
  domains : List Domain
  ticks  : List PodTick
  bugles : Vector Bugle 4
  cmds   : List Cmd
  /-- The number of COLLs that each member has pushed in each domain instance. -/
  colls  : List (CoreId × Nat × Nat)
  openws : List OpenW
  /-- Collectives one of whose members' commands was refused, as (domain, index) (09 R340). -/
  voids  : List (Nat × Nat)
  /-- Gangs that a FREE will free at the completion of COPYX commands, as (command, gang) (19 R508). -/
  frees  : List (Nat × Nat)
  /-- The host's UCIe requesters (04 R123). -/
  hosts  : Vector Party 2
  ctl    : List CtlWrite
  disp   : Disp
  books  : Books
  plat   : Plat
  inputs : List Instr
  deriving DecidableEq, Repr

/-- The machine right after reset: no core placed, nothing listed in memory, every register at the value that the spec
gives it, or at the value that log 1, DESIGN CHOICE names (DESIGN CHOICE). -/
def State.reset : State :=
  { core := Core.reset ⟨0, 0, 0⟩, done := [], todo := [], turn := .pkg, cycle := 0, choice := 0, nextId := 1
    mem := [], hist := [], base := 0, binds := [], reads := [], walks := [], moves := []
    vfs := Vector.replicate 32 .reset, vales := []
    objs := []
    outbox := [], updates := []
    syncs := []
    names := [], handles := [], staged := [], reclaims := [], exports := []
    copies := [], alerts := [], seqs := [], flaws := [], bad := [], soft := [], fixed := [], timer := 0
    domains := [], ticks := [], bugles := Vector.replicate 4 .reset, cmds := [], colls := [], openws := []
    voids := [], frees := [], hosts := Vector.replicate 2 ⟨0, 0⟩, ctl := [], disp := .reset, books := .reset, plat := .reset
    inputs := [] }

end Sys2Proof.Machine
end

