-- ==== Sys2Proof/Machine/Ops.lean ====
section
/-! DEFINITION. The named operations over registers, queues, tokens, flags and memory, and the frame in which every
instruction issues (01_machine R12 to R46, 03_memory, 04_ordering). -/

namespace Sys2Proof.Machine

open Sys2Proof

/-! ## Why an instruction does not issue -/

/-- What stands in the way of an instruction: a stall (R38), or for the pre-image of a page (16 R480); a cycle that advances without issuing (R55, R284); a
precise cause (13 R399); a fault or a refusal of the model. -/
inductive Stop where
  | stall (w : Wait)
  | hold (page : Nat)
  | join (w : Wait)
  | trap (c : CauseRec)
  | fault (f : Fault)
  | refuse (r : Refusal)
  deriving DecidableEq, Repr

/-- Go on, or stall for the reason given. -/
def orStall (c : Bool) (w : Wait) : Except Stop Unit := if c then .ok () else .error (.stall w)

/-! ## Engines of a core -/

/-- The unit number of an engine in CAUSE (13 R400). -/
def engNum : Engine → Nat
  | .c => 0
  | .a => 1
  | .m => 2
  | .v => 3
  | .s => 4

/-- The engine of a unit number. -/
def engOfNum (n : Nat) : Option Engine :=
  match n with
  | 0 => some .c
  | 1 => some .a
  | 2 => some .m
  | 3 => some .v
  | 4 => some .s
  | _ => none

/-- The engine in force: for C, the shadow context's while C runs there (13 R402, R403). -/
def Core.eng (c : Core) : Engine → Eng
  | .c => if c.cr.shd then c.cr.sh else c.r.eC
  | .a => c.r.eA
  | .m => c.r.eM
  | .v => c.r.eV
  | .s => c.r.eS

def Core.setEng (c : Core) (e : Engine) (x : Eng) : Core :=
  match e with
  | .c => if c.cr.shd then { c with cr := { c.cr with sh := x } } else { c with r := { c.r with eC := x } }
  | .a => { c with r := { c.r with eA := x } }
  | .m => { c with r := { c.r with eM := x } }
  | .v => { c with r := { c.r with eV := x } }
  | .s => { c with r := { c.r with eS := x } }

def Core.modEng (c : Core) (e : Engine) (f : Eng → Eng) : Core := c.setEng e (f (c.eng e))

def State.eng (s : State) (e : Engine) : Eng := s.core.eng e
def State.modCore (s : State) (f : Core → Core) : State := { s with core := f s.core }
def State.modEng (s : State) (e : Engine) (f : Eng → Eng) : State := s.modCore (·.modEng e f)
def State.modR (s : State) (f : Regs → Regs) : State := s.modCore fun c => { c with r := f c.r }
def State.modCr (s : State) (f : CReg → CReg) : State := s.modCore fun c => { c with cr := f c.cr }

/-- C runs in the shadow context. -/
def State.inShadow (s : State) : Bool := s.core.cr.shd

/-- The word index at which an engine stands. -/
def State.pcOf (s : State) (e : Engine) : Nat := (s.eng e).pc

/-! ## Tables -/

/-- Place i of a vector, or a value where it has none; the vector with another value there. -/
def vget {α : Type} {n : Nat} (v : Vector α n) (d : α) (i : Nat) : α := v.toArray.getD i d
def vset {α : Type} {n : Nat} (v : Vector α n) (i : Nat) (x : α) : Vector α n := v.setIfInBounds i x
def vmod {α : Type} {n : Nat} (v : Vector α n) (d : α) (i : Nat) (f : α → α) : Vector α n := vset v i (f (vget v d i))


def assocGet {α : Type} (d : α) (k : Nat) : List (Nat × α) → α
  | [] => d
  | (j, x) :: t => if j == k then x else assocGet d k t

def assocSet {α : Type} (k : Nat) (x : α) : List (Nat × α) → List (Nat × α)
  | [] => [(k, x)]
  | (j, y) :: t => if j == k then (k, x) :: t else if k < j then (k, x) :: (j, y) :: t else (j, y) :: assocSet k x t

/-- Every core of the package. -/
def State.mapCores (s : State) (f : Core → Core) : State :=
  { s with core := f s.core, done := s.done.map f, todo := s.todo.map f }

/-- Every core of the package, and those of stopped gangs as they stood at the stop (13 R422). -/
def State.mapHeld (s : State) (f : Core → Core) : State :=
  { s.mapCores f with
    disp := { s.disp with gangs := s.disp.gangs.map fun (g : Gang) => { g with saved := g.saved.map f } } }

/-- Every core, the one in focus last. -/
def State.cores (s : State) : List Core := s.done ++ s.todo ++ [s.core]

/-- Exchanges the core in focus with another. -/
def State.focus (s : State) (c : CoreId) : State :=
  match (s.done ++ s.todo).find? (·.id == c) with
  | none => s
  | some x =>
    let swap := fun (y : Core) => if y.id == c then s.core else y
    { s with core := x, done := s.done.map swap, todo := s.todo.map swap }

/-- Acts with another core in focus, and comes back. -/
def State.onCore (s : State) (c : CoreId) (f : State → State) : State :=
  if s.core.id == c then f s else (f (s.focus c)).focus s.core.id

/-! ## Events (22 R554) -/

/-- An event of a source arises, and waits for its delivery (log 40, PRESUMED). -/
def State.alert (s : State) (src kind : Nat) (payload : List Nat) : State :=
  { s with alerts := s.alerts ++ [⟨src, kind, payload, s.timer, none⟩] }

/-- The CXL port of a steppe address: the ports of the set in service, in ascending order, interleaved at 4 KiB (20 R523). -/
def State.cxlPort (s : State) (pa : Nat) : Nat :=
  let ps := (List.range 8).filter fun i => (s.plat.cxl[i % 8]'(Nat.mod_lt _ (by decide))).set
  if ps.isEmpty then 0 else ps.getD (pa / 4096 % ps.length) 0

/-- The steppe tier answers every access with the uncorrectable data error: a port in service has failed (20 R523). -/
def State.noSteppe (s : State) : Bool := s.plat.noSteppe

/-- An uncorrectable error at a physical address is reported (22 R564); one that an expander reports is counted by its port (20 R524). -/
def State.poison (s : State) (pa : Nat) : State :=
  let t := s.alert 0x4FFF 2 [pa / 2 ^ 48, pa % 2 ^ 48, 1]
  let hit := fun (i : Nat) (c : Cxl) => if t.cxlPort (pa % 2 ^ 48) == i then { c with psn := min (c.psn + 1) 0xFFFF } else c
  if pa / 2 ^ 48 == 1 && !s.noSteppe then { t with plat := { t.plat with cxl := t.plat.cxl.mapIdx hit } } else t

/-! ## The link layer as a sender (20 R516, R517) -/

/-- The class whose credits the next flit gives back: link management with four or more, else the first that has any (log 17, DESIGN
CHOICE). -/
def Link.owes (l : Link) : Nat := if 4 ≤ l.owed[5] then 5 else (l.owed.toList.findIdx (· != 0)) % 6

/-- A flit leaves a port: it takes a credit of its class, carries credits to give back, and stays in the
retry buffer until the far end has freed it (20 R516, R517; log 17, DESIGN CHOICE). -/
def Link.emit (l : Link) (k cls : Nat) (body : Sent) : Link :=
  let c := l.owes
  let n := min (l.owed.toList.getD c 0) 255
  { l with
    cred := l.cred.mapIdx fun i x => if i == cls then x - 1 else x
    owed := l.owed.mapIdx fun i x => if i == c then x - n else x
    seq := l.seq + 1
    buf := l.buf ++ [⟨k, cls, Config.flitType k l.seq, l.epoch, l.seq % 4096, n, c, min 60 (Config.flitLen k l.seq), body, 1⟩] }

/-- A flit of a class is to leave: it waits while no credit of its class is held, behind those of the class that wait (20 R517). -/
def Link.push (l : Link) (k cls : Nat) (body : Sent) : Link :=
  if 0 < l.cred.toList.getD cls 0 && !(l.queue.any fun x => x.1 == cls) then l.emit k cls body
  else { l with queue := l.queue ++ [(cls, body)] }

/-- What waits leaves as far as credits reach, in the order of each class. -/
def Link.drain (l : Link) (k : Nat) : Link := l.queue.foldl (fun l x => l.push k x.1 x.2) { l with queue := [] }

/-- The package sends a flit on a port. -/
def State.sendFlit (s : State) (port cls : Nat) (body : Sent) : State :=
  let out := fun (l : Link) => l.push (12 * s.choice + port) cls body
  { s with plat := { s.plat with links := s.plat.links.mapIdx fun i l => if i == port then out l else l } }

/-- The package sends a flit on every port that is up. -/
def State.sendAll (s : State) (cls : Nat) (body : Nat → Sent) : State :=
  (List.range 12).foldl (fun s i => if (vget s.plat.links .reset i).st == 2 then s.sendFlit i cls (body i) else s) s

/-- What an access that faults has done stays done: its transfers, and its request (14 R450, R458). -/
def State.pay (s : State) (x : Spent) : State :=
  let t := { s with books := { s.books with moving := s.books.moving ++ x.moved } }
  match x.asked with
  | some r => t.sendFlit r.port 0 (.load r)
  | none => t

/-! ## Free values (log 4, DESIGN CHOICE) -/

/-- The counter of free values moves on (log 4, DESIGN CHOICE). -/
def State.tick (s : State) : State := { s with choice := s.choice + 1 }

/-! ## Queues (R30, R35, R36) -/

/-- Room for n more entries, those freed in this cycle not counted (R26). -/
def Fifo.room {α : Type} (q : Fifo α) (cap n : Nat) : Bool := q.slots.length + q.freed + n ≤ cap

/-- Reserves one entry under an identity. -/
def Fifo.reserve {α : Type} (q : Fifo α) (sid : Nat) : Fifo α :=
  { q with slots := q.slots ++ [⟨sid, none, false, false⟩] }

/-- Pushes a whole entry, poppable from the next cycle. -/
def Fifo.push {α : Type} (q : Fifo α) (sid : Nat) (x : α) : Fifo α :=
  { q with slots := q.slots ++ [⟨sid, some x, false, true⟩] }

/-- Pushes a cut marker (R34). -/
def Fifo.pushCut {α : Type} (q : Fifo α) (sid : Nat) : Fifo α :=
  { q with slots := q.slots ++ [⟨sid, none, true, true⟩] }

/-- Fills a reserved entry. -/
def Fifo.fill {α : Type} (q : Fifo α) (sid : Nat) (x : α) (fresh : Bool) : Fifo α :=
  { q with slots := q.slots.map fun t => if t.sid == sid && !t.cut then { t with data := some x, fresh := fresh } else t }

/-- Frees a reserved entry that will never be filled (R25, R41). -/
def Fifo.cancel {α : Type} (q : Fifo α) (sid : Nat) : Fifo α :=
  { slots := q.slots.filter (·.sid != sid), freed := q.freed + (q.slots.filter (·.sid == sid)).length }

/-- Cut markers at the head that a pop passes (R35), and the rest. -/
def dropCuts {α : Type} : List (Slot α) → Nat × List (Slot α)
  | [] => (0, [])
  | t :: ts => if t.cut && !t.fresh then let r := dropCuts ts; (r.1 + 1, r.2) else (0, t :: ts)

/-- The entry that a pop would take, and the queue after it; none while it must wait. -/
def Fifo.pop {α : Type} (q : Fifo α) : Option (α × Fifo α) :=
  let r := dropCuts q.slots
  match r.2 with
  | [] => none
  | t :: ts =>
    match t.data with
    | none => none
    | some x => if t.fresh || t.cut then none else some (x, ⟨ts, q.freed + r.1 + 1⟩)

/-- Discards up to and including the first cut marker (R36); none when no marker can be seen yet. -/
def dropToCut {α : Type} : List (Slot α) → Option (Nat × List (Slot α))
  | [] => none
  | t :: ts =>
    if t.cut then (if t.fresh then none else some (1, ts))
    else (dropToCut ts).map fun r => (r.1 + 1, r.2)

def Fifo.clearToCut {α : Type} (q : Fifo α) : Option (Fifo α) :=
  (dropToCut q.slots).map fun r => ⟨r.2, q.freed + r.1⟩

/-- End of the cycle: what it produced can be seen, what it freed can be reserved (R26; log 71, DEDUCED). -/
def Fifo.commit {α : Type} (q : Fifo α) : Fifo α := ⟨q.slots.map fun t => { t with fresh := false }, 0⟩

/-- Empty but for cut markers (R36). -/
def Fifo.isEmpty {α : Type} (q : Fifo α) : Bool := q.slots.all (·.cut)

def qCap : Nat := 16
def saqCap : Nat := 32

/-- The index of an engine among the iq and condition FIFOs: A, M, V, S. -/
def inIdx : Engine → Fin 4
  | .c => 0
  | .a => 0
  | .m => 1
  | .v => 2
  | .s => 3

/-- Room in a queue. -/
def Regs.qRoom (r : Regs) (q : QId) (n : Nat) : Bool :=
  match q with
  | .lq i => r.lq[i].room qCap n
  | .mq i => r.mq[i].room qCap n
  | .sq i => r.sq[i].room qCap n
  | .saq => r.saq.room saqCap n
  | .iq e => r.iq[inIdx e].room qCap n
  | .cond e => r.cond[inIdx e].room qCap n

/-- Applies one operation, the same for every entry type, to a queue. -/
def Regs.qMap (r : Regs) (q : QId) (f : {α : Type} → Fifo α → Fifo α) : Regs :=
  match q with
  | .lq i => { r with lq := r.lq.set i (f r.lq[i]) }
  | .mq i => { r with mq := r.mq.set i (f r.mq[i]) }
  | .sq i => { r with sq := r.sq.set i (f r.sq[i]) }
  | .saq => { r with saq := f r.saq }
  | .iq e => { r with iq := r.iq.set (inIdx e) (f r.iq[inIdx e]) }
  | .cond e => { r with cond := r.cond.set (inIdx e) (f r.cond[inIdx e]) }

/-- A 256-byte queue. -/
def Regs.blockQ (r : Regs) : QId → Option (Fifo Block)
  | .lq i => some r.lq[i]
  | .mq i => some r.mq[i]
  | .sq i => some r.sq[i]
  | _ => none

def Regs.setBlockQ (r : Regs) (q : QId) (x : Fifo Block) : Regs :=
  match q with
  | .lq i => { r with lq := r.lq.set i x }
  | .mq i => { r with mq := r.mq.set i x }
  | .sq i => { r with sq := r.sq.set i x }
  | _ => r

/-- Reserves an entry of a queue; answers the registers and the entry's identity. -/
def Regs.qReserve (r : Regs) (q : QId) : Regs × Nat :=
  ({ r.qMap q (fun {_} x => x.reserve r.nextSid) with nextSid := r.nextSid + 1 }, r.nextSid)

/-- Pushes a cut marker into a queue. -/
def Regs.qCut (r : Regs) (q : QId) : Regs :=
  { r.qMap q (fun {_} x => x.pushCut r.nextSid) with nextSid := r.nextSid + 1 }

/-- Fills an entry of a 256-byte queue. -/
def Regs.qFill (r : Regs) (q : QId) (sid : Nat) (x : Block) (fresh : Bool) : Regs :=
  match r.blockQ q with
  | none => r
  | some f => r.setBlockQ q (f.fill sid x fresh)

/-- Pops a 256-byte queue. -/
def Regs.qPop (r : Regs) (q : QId) : Except Stop (Block × Regs) :=
  match r.blockQ q with
  | none => .error (.stall .pop)
  | some f =>
    match f.pop with
    | none => .error (.stall .pop)
    | some (x, f') => .ok (x, r.setBlockQ q f')

/-- Pops an engine's iq. -/
def Regs.iqPop (r : Regs) (e : Engine) : Except Stop (Word × Regs) :=
  match r.iq[inIdx e].pop with
  | none => .error (.stall .pop)
  | some (x, f) => .ok (x, { r with iq := r.iq.set (inIdx e) f })

/-- Pops an engine's condition FIFO. -/
def Regs.condPop (r : Regs) (e : Engine) : Except Stop (Bool × Regs) :=
  match r.cond[inIdx e].pop with
  | none => .error (.stall .cond)
  | some (x, f) => .ok (x, { r with cond := r.cond.set (inIdx e) f })

/-! ## Tokens (R21 to R26) -/

/-- The token FIFO on which an engine waits: 2e for its previous neighbour, 2e + 1 for its next (22 R551). -/
def waitFifo (e : Engine) (next : Bool) : Fin 10 :=
  match e, next with
  | .c, false => 0
  | .c, true => 1
  | .a, false => 2
  | .a, true => 3
  | .m, false => 4
  | .m, true => 5
  | .v, false => 6
  | .v, true => 7
  | .s, false => 8
  | .s, true => 9

/-- The neighbours in the ring C → A → M → V → S → C (R21). -/
def nextEng : Engine → Engine
  | .c => .a
  | .a => .m
  | .m => .v
  | .v => .s
  | .s => .c

def prevEng : Engine → Engine
  | .c => .s
  | .a => .c
  | .m => .a
  | .v => .m
  | .s => .v

/-- The token FIFO into which an engine signals: SN reaches the next engine's FIFO from its previous neighbour. -/
def signalFifo (e : Engine) (next : Bool) : Fin 10 :=
  if next then waitFifo (nextEng e) false else waitFifo (prevEng e) true

/-- Pops a token: what it carries, and the registers after. -/
def Regs.tokPop (r : Regs) (f : Fin 10) : Except Stop (View × Regs) :=
  match r.tok[f].toks with
  | t :: ts =>
    if t.fresh then .error (.stall .token)
    else .ok (t.view, { r with tok := r.tok.set f { r.tok[f] with toks := ts, freed := r.tok[f].freed + 1 } })
  | [] => .error (.stall .token)

/-- Room for one signal (R24): 8 entries. -/
def TokFifo.hasRoom (t : TokFifo) : Bool := t.toks.length + t.resv + t.freed < 8

def Regs.tokReserve (r : Regs) (f : Fin 10) : Except Stop Regs :=
  if r.tok[f].hasRoom then .ok { r with tok := r.tok.set f { r.tok[f] with resv := r.tok[f].resv + 1 } }
  else .error (.stall .resv)

/-- Delivers a reserved token. -/
def Regs.tokDeliver (r : Regs) (f : Fin 10) (view : View) : Regs :=
  { r with tok := r.tok.set f { r.tok[f] with resv := r.tok[f].resv - 1, toks := r.tok[f].toks ++ [⟨view, true⟩] } }

def TokFifo.commit (t : TokFifo) : TokFifo :=
  { toks := t.toks.map fun x => { x with fresh := false }, resv := t.resv, freed := 0 }

/-- The FIFOs that an instruction's waits name, and those that its signals name. -/
def waitList (e : Engine) (m : Marks) : List (Fin 10) :=
  (if m.wp then [waitFifo e false] else []) ++ (if m.wn then [waitFifo e true] else [])

def signalList (e : Engine) (m : Marks) : List (Fin 10) :=
  (if m.sp then [signalFifo e false] else []) ++ (if m.sn then [signalFifo e true] else [])

/-! ## Flags (R27, R28) -/

/-- Adds to a flag; the addition counts from the next cycle (log 34, DEDUCED). -/
def Flag.add (f : Flag) (n : Nat) (view : View) : Flag := { f with inc := f.inc + n, incView := f.incView ||| view }

/-- Room for an addition: fN + n ≤ 255, what this cycle subtracted not yet counted (R26; log 34, DEDUCED). -/
def Flag.room (f : Flag) (n : Nat) : Bool := f.val + f.sub + f.inc + n ≤ 255

def Flag.commit (f : Flag) : Flag :=
  { val := f.val + f.inc, sub := 0, inc := 0, view := f.view ||| f.incView, incView := 0 }

/-! ## Accumulator rows and P buffer -/

def Regs.row (r : Regs) (i : Nat) : Row := assocGet Row.launch i r.rows
def Regs.setRow (r : Regs) (i : Nat) (x : Row) : Regs := { r with rows := assocSet i x r.rows }
def Regs.prow (r : Regs) (i : Nat) : PRow := assocGet PRow.launch i r.pbuf
def Regs.setPRow (r : Regs) (i : Nat) (x : PRow) : Regs := { r with pbuf := assocSet i x r.pbuf }

/-- Sum j of a row. -/
def rowSum (x : BitVec 8192) (j : Nat) : BitVec 32 := x.extractLsb' (32 * j) 32

/-- Puts n values of w bits together, value 0 lowest. -/
def packLanes (w : Nat) (g : Nat → Nat) : Nat → Nat
  | 0 => 0
  | n + 1 => packLanes w g n + (g n % 2 ^ w) <<< (w * n)

/-- A counter of 32 bits that stops at its top (R77, R78). -/
def satAdd32 (x : BitVec 32) (n : Nat) : BitVec 32 :=
  if x.toNat + n < 2 ^ 32 then BitVec.ofNat 32 (x.toNat + n) else 0xFFFFFFFF

/-- One sum of a row after one t value: the new sum and whether an element saturated (R85, R86). -/
def accOne (int : Bool) (acc t : BitVec 32) : BitVec 32 × Bool :=
  if int then
    let x := acc.toInt + t.toInt
    if x < -(2 ^ 31) then (BitVec.ofInt 32 (-(2 ^ 31)), true)
    else if x > 2 ^ 31 - 1 then (BitVec.ofInt 32 (2 ^ 31 - 1), true)
    else (BitVec.ofInt 32 x, false)
  else add32 acc t

/-- The number of j below n for which p holds. -/
def countTo (p : Nat → Bool) : Nat → Nat
  | 0 => 0
  | n + 1 => countTo p n + (if p n then 1 else 0)

/-- A row after the t values of one streamed row (08 R306). -/
def Row.accumulate (x : Row) (cols : Nat) (int : Bool) (t : BitVec 8192) (ovf : BitVec 256) : Row :=
  let one := fun j => accOne int (rowSum x.sum j) (rowSum t j)
  { x with
    sum := BitVec.ofNat 8192 (packLanes 32 (fun j => if j < cols then (one j).1.toNat else (rowSum x.sum j).toNat) 256)
    ovf := satAdd32 x.ovf (countTo (fun j => (one j).2 || ovf.getLsbD j) cols) }

/-! ## Landing (R39) -/

def Regs.land (r : Regs) (e : Engine) : Land → Regs
  | .s i x => { r with s := r.s.set i x }
  | .h _ _ => r
  | .a i x => { r with a := r.a.set i x }
  | .d i x => { r with d := r.d.set i x }
  | .e i x =>
    match e with
    | .m => { r with eM := { r.eM with e := r.eM.e.set i x } }
    | .v => { r with eV := { r.eV with e := r.eV.e.set i x } }
    | .s => { r with eS := { r.eS with e := r.eS.e.set i x } }
    | .c => r
    | .a => r
  | .v i x => { r with v := r.v.set i x }
  | .k i x => { r with k := r.k.set i x }
  | .slot q sid x => r.qFill q sid x true
  | .saq sid x => { r with saq := r.saq.fill sid x true }
  | .row i x => r.setRow i x
  | .rowSet i x =>
    { r.setRow i ((r.row i).put x) with
      mstat := if x.lz == some true then { r.mstat with lzs := true } else r.mstat }
  | .rowAcc i cols int t ovf => r.setRow i ((r.row i).accumulate cols int t ovf)
  | .rowWithheld i =>
    { r.setRow i { r.row i with valid := false } with
      mstat := { r.mstat with whs := true, whn := min (r.mstat.whn + 1) 0xFFFF } }
  | .rowOvf i n => r.setRow i { r.row i with ovf := satAdd32 (r.row i).ovf n }
  | .rowOvfClear i => r.setRow i { r.row i with ovf := 0 }
  | .rowsZero _ a n int => (List.range n).foldl (fun r k => r.setRow (a + k) { Row.launch with int := int }) r
  | .pbuf i x => r.setPRow i x
  | .smx x => { r with smx := x }
  | .token f view => r.tokDeliver f view
  | .vovf _ => r
  | .nothing => r

/-- An operation of engine e lands. A signal carries what its engine has seen when it is delivered (04 R131). -/
def Core.land (c : Core) (e : Engine) (l : Land) : Core :=
  match l with
  | .h i x => { c with cr := { c.cr with h := c.cr.h.set i x } }
  | .vovf n => { c with cr := { c.cr with vovf := satAdd32 c.cr.vovf n } }
  | .token f view => { c with r := c.r.tokDeliver f (view ||| (c.eng e).view) }
  | l => { c with r := c.r.land e l }

/-- A waiting mark, signal or addition comes about: the engine's set holds the mark, the signals go out, the flags rise, each
with what the engine has seen (R24, R27, R43). -/
def Core.retireMark (c : Core) (e : Engine) (m : MarkWait) : Core :=
  let c1 := c.modEng e fun x => { x with marks := x.marks ||| (m.n.elim 0 fun n => 1#256 <<< n.toNat) }
  let c2 := m.toks.foldl (fun c f => { c with r := c.r.tokDeliver f (c.eng e).view }) c1
  m.adds.foldl (fun c a => { c with r := { c.r with f := c.r.f.set a.1 (c.r.f[a.1].add a.2 (c.eng e).view) } }) c2

/-- What waits comes about once the operations before it have completed. -/
def Core.retireMarks (c : Core) (e : Engine) : Core :=
  let ready := fun (m : MarkWait) => m.rem == 0 && m.ids.isEmpty && m.wids.isEmpty
  let due := (c.eng e).mkq.filter ready
  due.foldl (fun c m => c.retireMark e m) (c.modEng e fun x => { x with mkq := x.mkq.filter fun m => !ready m })

/-- One advancing cycle of an engine's operations in flight: each comes one cycle nearer, and those due land (R39). -/
def Core.settle (c : Core) (e : Engine) : Core :=
  let ps := (c.eng e).pend
  let c1 := c.modEng e fun x =>
    { x with
      pend := (ps.filter fun p => 1 < p.rem).map fun p => { p with rem := p.rem - 1 }
      mkq := x.mkq.map fun m => { m with rem := m.rem - 1 } }
  ((ps.filter fun p => p.rem ≤ 1).foldl (fun c p => c.land e p.land) c1).retireMarks e

def State.settle (s : State) (e : Engine) : State := s.modCore (·.settle e)

/-- Whether an operation survives a taken branch with kill = 1 (R25, R41): its signals do. -/
def Land.survives : Land → Bool
  | .token _ _ => true
  | _ => false

/-- The entry that a cancelled operation frees. -/
def Land.slotOf : Land → Option (QId × Nat)
  | .slot q sid _ => some (q, sid)
  | _ => none

/-- Cancels the operations of an engine that have not landed, and the additions to flags that wait for remote writes (R41); reads on
their way among them (log 28, DEDUCED). -/
def Core.cancel (c : Core) (e : Engine) : Core :=
  let ps := (c.eng e).pend
  let c1 := c.modEng e fun x =>
    { x with pend := ps.filter fun p => p.land.survives, mkq := x.mkq.map fun m => { m with adds := [] } }
  ps.foldl (fun c p => match p.land.slotOf with
    | some (q, sid) => { c with r := c.r.qMap q (fun {_} x => x.cancel sid) }
    | none => c) c1

/-- The writes of an engine of the core in focus that are not yet performed: remote writes not yet acknowledged (20 R521), and updates of
SAEQ (07 R277; log 77, DESIGN CHOICE). -/
def State.unacked (s : State) (e : Engine) : List Nat :=
  ((s.updates.filter fun u => e == .s && u.core == s.core.id && u.key == s.core.launch).map SaWork.wid) ++ s.outbox.filterMap fun x => match x with
    | .write w => if w.core == s.core.id && w.unit == engNum e && w.key == s.core.launch then some w.wid else none
    | _ => none

/-- Signals of an engine go out: at once, or, while remote writes of its own are unacknowledged, once these are performed (R24;
04 R131). -/
def State.sendToks (s : State) (e : Engine) (fs : List (Fin 10)) : State :=
  let wids := s.unacked e
  if fs.isEmpty then s
  else if wids.isEmpty then fs.foldl (fun s f => s.modR fun x => x.tokDeliver f (s.eng e).view) s
  else s.modEng e fun x => { x with mkq := x.mkq ++ [⟨none, 0, [], wids, fs, []⟩] }

/-- Reads that will not arrive leave what waits for them (R41, R43). -/
def State.dropIds (s : State) (e : Engine) (ids : List Nat) : State :=
  s.modCore fun c => (c.modEng e fun x =>
    { x with mkq := x.mkq.map fun m => { m with ids := m.ids.filter fun i => !ids.contains i } }).retireMarks e

/-- Cancels what an engine has in flight, reads among them; the signals of those reads are delivered, and marks no longer wait for
them (R25, R41, R43; log 28, DEDUCED). -/
def State.cancel (s : State) (e : Engine) : State :=
  let mine := s.reads.filter fun r => r.core == s.core.id && r.eng == e
  let s1 := { s.modCore (·.cancel e) with reads := s.reads.filter fun r => !(r.core == s.core.id && r.eng == e) }
  (mine.foldl (fun s r =>
    let s := match r.arr with
      | .slot q sid _ => s.modR fun x => x.qMap (.lq q) (fun {_} y => y.cancel sid)
      | _ => s
    s.sendToks e r.toks) s1).dropIds e (mine.map Read.id)

/-- Engine e's result lands at the end of its L-th advancing cycle, this one the first (R39). -/
def State.post (s : State) (e : Engine) (lat : Nat) (l : Land) : State :=
  if lat ≤ 1 then s.modCore (·.land e l)
  else s.modEng e fun x => { x with pend := x.pend ++ [⟨lat - 1, l, s.cycle⟩] }

/-! ## Registers -/

/-- A C register: s0 to s31, or h0 to h15 in the shadow context (13 R403). -/
def State.sReg (s : State) (r : Fin 32) : Word :=
  if s.inShadow then s.core.cr.h[r.val % 16]'(Nat.mod_lt _ (by decide)) else s.core.r.s[r]

/-- The landing of a C result. -/
def State.cLand (s : State) (r : Fin 32) (x : Word) : Land :=
  if s.inShadow then .h ⟨r.val % 16, Nat.mod_lt _ (by decide)⟩ x else .s r x

/-- Writes a C register with latency L. -/
def State.putC (s : State) (lat : Nat) (r : Fin 32) (x : Word) : State := s.post .c lat (s.cLand r x)

/-- A source of A (05 R158). -/
def State.aSrc (s : State) : ASrc → Word
  | .a r => s.core.r.a[r]
  | .p r => s.core.r.p[r]

/-- An e register of M, V or S (log 31, DEDUCED). -/
def State.eReg (s : State) (e : Engine) (r : Fin 4) : Word := (s.eng e).e[r]

/-! ## Loops and branches (R32, R33, R194 to R196) -/

/-- The end of the innermost active level, when pc has reached it: the next iteration, or out of the level (R195).
The levels are given innermost first (log 29, DEDUCED). -/
def loopEndRev : Nat → List Level → Nat × List Level
  | pc, [] => (pc, [])
  | pc, l :: ls =>
    if pc != l.stop then (pc, l :: ls)
    else if l.index + 1 < l.count then (l.start, { l with index := l.index + 1 } :: ls)
    else loopEndRev pc ls

def Eng.loopEnd (x : Eng) : Eng :=
  let r := loopEndRev x.pc x.levels.reverse
  { x with pc := r.1, levels := r.2.reverse }

/-- A transfer to a target: levels whose bodies it leaves, and those inside them, are deactivated (R33, R196). -/
def keepLevels (target : Nat) : List Level → List Level
  | [] => []
  | l :: ls => if l.start ≤ target && target < l.stop then l :: keepLevels target ls else []

def Eng.jump (x : Eng) (target : Nat) : Eng := { x with pc := target, levels := keepLevels target x.levels }

/-- An engine's own word. -/
def ownWordOf (e : Engine) (w : IWord) : Bool := Engine.ofTag (w.extractLsb' 25 3) == some e

/-- The engine after passing over n words that are not its own. -/
def Eng.over (x : Eng) (n : Nat) : Eng := ({ x with pc := x.pc + n, walked := x.walked + n } : Eng).loopEnd

/-- The run of an engine, with room for that many words, comes to a word index (R13). -/
def Eng.runMeets (e : Engine) (text : List IWord) (target : Nat) : Nat → Nat → Eng → Bool
  | 0, _, x => x.pc == target
  | k + 1, room, x =>
    let w := text.getD x.pc 0
    let n := wordLen w
    x.pc == target || (n ≤ room && !ownWordOf e w && Eng.runMeets e text target k (room - n) (x.over n))

/-! ## Cut markers (R34) -/

/-- The data queues that an engine produces. -/
def cutQueues : Engine → List QId
  | .c => [.iq .a, .iq .m, .iq .v, .iq .s]
  | .a => [.lq 0, .lq 1, .lq 2, .lq 3, .saq]
  | .m => [.sq 1]
  | .v => [.mq 0, .mq 1, .sq 0]
  | .s => []

/-- A taken branch with cut = 1 pushes a marker into each. -/
def State.pushCuts (s : State) (e : Engine) : Except Stop State := do
  orStall ((cutQueues e).all fun q => s.core.r.qRoom q 1) .resv
  .ok (s.modR fun r => (cutQueues e).foldl (fun r q => r.qCut q) r)

/-! ## The frame of an issue (R13, R23 to R25, R39 to R41) -/

/-- What a body answers when it issues: the state, whether control transfers, how many words a loop of count 0 passes
over, after how many advancing cycles its
signals are delivered (R24), or that they go with a response. -/
structure Done where
  st   : State
  jump : Option Nat := none
  skip : Nat := 0
  lat  : Nat := 1
  resp : Option Nat := none
  own  : Bool := false

/-- An engine acquires what a release carried (04 R130). -/
def State.acquire (s : State) (e : Engine) (view : View) : State :=
  s.modEng e fun x => { x with view := x.view ||| view }

/-- Pops the tokens that the instruction waits for; each is an acquire of the core object (R23, 04 R130). -/
def popWaits (e : Engine) : List (Fin 10) → State → Except Stop State
  | [], s => .ok s
  | f :: fs, s =>
    match s.core.r.tokPop f with
    | .error x => .error x
    | .ok (view, r) => popWaits e fs ({ s with core := { s.core with r := r } }.acquire e view)

/-- Reserves an entry for each signal (R24). -/
def reserveSignals : List (Fin 10) → State → Except Stop State
  | [], s => .ok s
  | f :: fs, s =>
    match s.core.r.tokReserve f with
    | .error x => .error x
    | .ok r => reserveSignals fs { s with core := { s.core with r := r } }

/-- Delivers the signals of an issued instruction: now, after its latency, or with its response; and not before the engine's
remote writes are performed (R24). A signal releases the engine's whole visible set (04 R131). -/
def deliverSignals (e : Engine) (fs : List (Fin 10)) (d : Done) : State :=
  if d.own then d.st
  else match d.resp with
  | some k => { d.st with reads := d.st.reads.map fun r => if r.id == k then { r with toks := fs } else r }
  | none =>
    let wids := d.st.unacked e
    if fs.isEmpty || wids.isEmpty then fs.foldl (fun s f => s.post e d.lat (.token f (s.eng e).view)) d.st
    else d.st.modEng e fun x => { x with mkq := x.mkq ++ [⟨none, d.lat - 1, [], wids, fs, []⟩] }

/-- The event source of a core's instruction trace (22 R554). -/
def traceSource (c : CoreId) : Nat := 0x1000 + (c.plain * 32 + c.vale) * 8 + c.core

/-- A taken transfer of the engine that TRCTL names, from a word to another, is traced (22 R555). -/
def State.trace (s : State) (e : Engine) (pc target : Nat) : State :=
  let t := s.core.cr.trctl
  if t.getLsbD 0 && (t.extractLsb' 1 3).toNat == engNum e then
    s.alert (traceSource s.core.id) 1 [pc, target, (s.eng e).walked]
  else s

/-- An engine has walked to the end of some words: at the end of a loop body the walk goes back, which is traced (R195; 22
R555). -/
def closeLoops (e : Engine) (s : State) : State :=
  let pc := s.pcOf e
  let t := s.modEng e Eng.loopEnd
  if t.pcOf e == pc then t else t.trace e (pc - 1) (t.pcOf e)

/-- The program counter, walked count and loop levels after an issue (R15, R195, R196). The shadow context walks the
pager store and adds nothing to C's walked count. -/
def retire (e : Engine) (words skip : Nat) (jump : Option Nat) (s : State) : State :=
  let pc := s.pcOf e
  let t := s.modEng e fun x => { x with walked := x.walked + words, wait := .none, back := none }
  match jump with
  | some p => (t.modEng e fun x => x.jump p).trace e pc p
  | none => closeLoops e (t.modEng e fun x => { x with pc := pc + words + skip })

/-- An engine that does not issue in this cycle keeps everything but its WAIT code, and has walked nothing (R13). One that has
arrived at its BREATH stays there (R55; log 33, DEDUCED). -/
def stalled (e : Engine) (w : Wait) (s : State) : State :=
  s.modEng e fun x =>
    match x.back with
    | none => { x with wait := if x.wait == .breath then .breath else w }
    | some (pc, walked, levels) => { x with pc := pc, walked := walked, levels := levels, wait := w, back := none }

/-- An advancing cycle in which an engine waits without issuing: its operations in flight go on (R284), and the words
before it have been walked. -/
def joined (e : Engine) (w : Wait) (s : State) : State :=
  (s.settle e).modEng e fun x => { x with wait := w, back := none }

/-! ## Taking a trap (13 R400 to R404) -/

/-- The priority of a cause (13 R399): lower is taken first. -/
def causePrio (code unit : Nat) : Nat :=
  match code with
  | 0x3E => 1
  | 0x01 => 2
  | 0x02 => 3
  | 0x03 => 3
  | 0x04 => 4
  | 0x05 => 4
  | 0x14 => if unit == 1 then 5 else 7
  | 0x16 => 5
  | 0x17 => 5
  | 0x18 => 5
  | 0x20 => if unit == 1 then 5 else 6
  | 0x08 => 6
  | 0x21 => 6
  | 0x22 => 6
  | 0x23 => 6
  | 0x24 => 6
  | 0x06 => 8
  | 0x30 => 9
  | 0x38 => 10
  | 0x07 => 11
  | _ => if unit == 0 then 4 else if unit == 1 then 5 else if unit == 4 then 7 else 4

/-- Whether a cause comes before another: by priority, then by unit (13 R399). -/
def causeBefore (x y : CauseRec) : Bool :=
  let p := causePrio x.code x.unit
  let q := causePrio y.code y.unit
  p < q || (p == q && x.unit < y.unit)

/-- The pending cause that is taken first. -/
def firstCause : List CauseRec → Option CauseRec
  | [] => none
  | c :: cs =>
    match firstCause cs with
    | none => some c
    | some d => if causeBefore d c then some d else some c

/-- Removes one copy of a cause. -/
def dropCause (c : CauseRec) : List CauseRec → List CauseRec
  | [] => []
  | d :: ds => if d == c then ds else d :: dropCause c ds

/-- CAUSE for a record (13 R400). -/
def causeWord (c : CauseRec) (ch : Bool) (plv : BitVec 2) (more : Bool) : Word :=
  BitVec.ofNat 64 (c.code % 256 + (c.unit % 8) <<< 8 + c.imp.toNat <<< 11 + ch.toNat <<< 12 + plv.toNat <<< 13
    + more.toNat <<< 15 + (c.detail % 65536) <<< 16)

/-- The last word index that the engine may stand at: of the instruction store, or of the pager store (05 R156,
13 R403). -/
def State.lastWord (s : State) (e : Engine) : Nat := if e == .c && s.inShadow then 4095 else 32767

/-- The word at an index of the text that an engine walks; words beyond the text are 0 (05 R156). -/
def State.wordAt (s : State) (e : Engine) (i : Nat) : IWord :=
  (if e == .c && s.inShadow then s.core.pager else s.core.text).getD i 0

/-- The words of the instruction at an index, as TRAPWORD records them (05 R154; log 38, DEDUCED). -/
def State.trapWordAt (s : State) (e : Engine) (i : Nat) : Word :=
  let w := s.wordAt e i
  if wordLen w == 2 && i < s.lastWord e then s.wordAt e (i + 1) ++ w else 0#32 ++ w

/-- A cause of an engine at the word where it stands. -/
def causeAt (s : State) (e : Engine) (code detail : Nat) : CauseRec :=
  { code := code, unit := engNum e, imp := false, detail := detail, pc := s.pcOf e, word := s.trapWordAt e (s.pcOf e)
    addr := 0, pos := 0, walk := 0 }

/-- The cause of an engine's instruction at another word. -/
def CauseRec.atWord (c : CauseRec) (s : State) (e : Engine) (pc : Nat) : CauseRec :=
  { c with pc := pc, word := s.trapWordAt e pc }

/-- The level of the shadow context of a core: PAGERLV of its virtual function (13 R395). -/
def State.pagerLevel (s : State) : BitVec 2 :=
  (s.vfs[(assocGet Vale.reset (s.core.id.plain * 32 + s.core.id.vale) s.vales).vf % 32]'(Nat.mod_lt _ (by decide))).pagerlv

/-- Trap entry (13 R402): C takes the pending cause of highest priority; the engines freeze where they stand, the
trap registers record the cause, ERETPC is the C word that has not issued, the level becomes PAGERLV's, and C runs
from word 0 of the pager store; a trace event is posted where TRCTL.TRP is set (22 R555). With nothing pending, nothing
changes (log 13, DEDUCED; log 32, DEDUCED). -/
def takeTrap (eret : Nat) (s : State) : State :=
  match firstCause s.core.cr.pending with
  | none => s
  | some c =>
    let rest := dropCause c s.core.cr.pending
    let x := s.core.r.eC
    let w := causeWord c x.halted s.core.cr.lvl (!rest.isEmpty)
    let s := if s.core.cr.trctl.getLsbD 4 then s.alert (traceSource s.core.id) 2 [w.toNat, c.pc] else s
    s.modCr fun r =>
      { r with
        cause := w
        trapPc := BitVec.ofNat 64 c.pc
        trapWord := c.word
        trapAddr := c.addr
        trapPos := c.pos
        trapWalk := c.walk
        eretPc := BitVec.ofNat 64 (eret % 2 ^ 15)
        pending := rest
        lvl := s.pagerLevel
        shd := true
        sh := { Eng.reset with live := true, view := x.view, floor := x.floor } }

/-- Gangs whose double trap the package has yet to end: the core's status says faulted (13 R404). The core stops with
its snapshot kept, and `status` records both causes for the dispatcher (log 31, DEDUCED). -/
def doubleTrap (code : Nat) (s : State) : State :=
  s.modCore fun c =>
    { c with st := .stopped, frozen := true
             status := BitVec.ofNat 64 (0x80000000 + (c.cr.cause.toNat % 256) <<< 8 + code % 256) }

/-- A cause comes about: what its access has done stays done, and a data error is reported (14 R450, R458; 22 R564). -/
def State.report (s : State) (c : CauseRec) : State := (if c.code == 0x3E then s.poison c.walk.toNat else s).pay c.spent

/-- The cause as it pends. -/
def CauseRec.bare (c : CauseRec) : CauseRec := { c with walk := if c.code == 0x3E then 0 else c.walk, spent := .nothing }

/-- A precise cause of an engine's own instruction. C takes a trap at once, its own cause among those pending (R402), and has
walked nothing in the cycle (R13; log 13, DEDUCED); in the shadow context it is a double trap (R404). Another engine halts before the
instruction, and its cause pends until C's next boundary. -/
def raise (e : Engine) (c : CauseRec) (s : State) : State :=
  let s := s.report c
  let c := c.bare
  let s := if c.code == 0x01 then s.modEng e fun x => { x with ill := true } else s
  match e with
  | .c =>
    if s.inShadow then doubleTrap c.code s
    else
      let s := (stalled .c .none s).modEng .c fun x => { x with wait := .none }
      takeTrap c.pc (s.modCr fun r => { r with pending := r.pending ++ [c] })
  | e =>
    (stalled e .fault s).modCr fun r => { r with pending := r.pending ++ [c] }

/-! ## Issue -/

/-- An engine may issue only when nothing of R38 that lies outside the instruction holds it: a halt, a fault of its
own, the freeze of its core, a response it waits for, a replay, a long operation of M, slip (R18; log 35, DEDUCED). -/
def gate (e : Engine) (words : Nat) (s : State) : Except Stop Unit := do
  let x := s.eng e
  orStall (s.core.st == .running && !s.core.frozen) .none
  orStall (!x.halted) .none
  orStall (s.inShadow || !(s.core.cr.pending.any fun c => c.unit == engNum e)) .fault
  orStall (e == .c || !s.core.cr.shd) .none
  orStall x.stall.isNone .mem
  orStall (x.replay == 0) .replay
  orStall (!(e == .m && s.core.r.occ.isSome)) .none
  orStall (!(e == .m && s.core.r.lease.cut && !s.core.r.lease.held)) .lease
  orStall (s.inShadow || x.walked + words - 1 < s.core.slip.minWalked + s.core.slip.win) .slip

/-- A write waits for the pre-image of a page: its gang's capture wants the page (22 R560). -/
def wantPage (page : Nat) (s : State) : State :=
  { s with disp := { s.disp with gangs := s.disp.gangs.map fun g =>
      if g.key == s.core.launch then
        { g with capt := g.capt.map fun c => if c.want.contains page then c else { c with want := c.want ++ [page] } }
      else g } }

/-- The outcome of a stop (log 13, DEDUCED). -/
def stopped (e : Engine) (st : Stop) (s : State) : Host.Outcome State Fault Refusal :=
  match st with
  | .stall w => .next (stalled e w s)
  | .hold p => .next (wantPage p (stalled e .mem s))
  | .join w => .next (joined e w s)
  | .trap c => .next (raise e c s)
  | .fault f => .fault f
  | .refuse r => .refused r

/-- The cycle in which an instruction of engine e issues: the engine's operations come due (R39), the waits pop and
the signals reserve (R23, R24), the body acts, the signals go out, and the engine moves on (log 37, DEDUCED). -/
def issueRun (e : Engine) (words : Nat) (m : Marks) (body : State → Except Stop Done) (s : State) :
    Except Stop State := do
  gate e words s
  let s1 ← popWaits e (waitList e m) (s.settle e)
  let s2 ← reserveSignals (signalList e m) s1
  let d ← body s2
  .ok (retire e words d.skip d.jump (deliverSignals e (signalList e m) d))

/-- In the shadow context a word with a dependence mark is a double trap (13 R404; log 31, DEDUCED). -/
def shadowBars (e : Engine) (m : Marks) (s : State) : Bool :=
  e == .c && s.inShadow && (m.wp || m.wn || m.sp || m.sn)

/-- Issue of an instruction by its engine; a stop leaves it unissued (R13, R25). -/
def issue (e : Engine) (words : Nat) (m : Marks) (body : State → Except Stop Done) (s : State) :
    Host.Outcome State Fault Refusal :=
  if shadowBars e m s then .next (doubleTrap 0x01 s)
  else match issueRun e words m body s with
    | .ok t => .next t
    | .error st => stopped e st s

/-- Issue of an instruction that the shadow context does not admit: there it is a double trap (13 R404). -/
def issueKernel (e : Engine) (words : Nat) (m : Marks) (body : State → Except Stop Done) (s : State) :
    Host.Outcome State Fault Refusal :=
  if e == .c && s.inShadow then .next (doubleTrap 0x01 s) else issue e words m body s

/-- A body that only changes the state. -/
def doneOf (s : State) : Except Stop Done := .ok { st := s }

/-- A branch that is not taken goes on to the word after it, which must lie in the store (05 R156; log 38, DEDUCED). -/
def fallsThrough (e : Engine) (words : Nat) (c : Option Nat) (s : State) : Except Stop Unit :=
  if c.isNone && s.lastWord e < s.pcOf e + words then .error (.trap (causeAt s e 0x01 7)) else .ok ()

/-- Issue of a branch: `cond` reads the settled state, `eff` is what the branch does beside moving pc. A taken branch
with kill = 1 acts on the state in which nothing of this engine in flight lands (R41; log 28, DEDUCED). -/
def issueBranch (e : Engine) (words : Nat) (m : Marks) (kill : Bool) (cond : State → Except Stop (Option Nat))
    (eff : Bool → State → Except Stop State) (s : State) : Host.Outcome State Fault Refusal :=
  if shadowBars e m s then .next (doubleTrap 0x01 s)
  else match issueRun e words m (fun t => do
      let c ← cond t
      fallsThrough e words c t
      let t ← eff c.isSome t
      .ok { st := t, jump := c }) s with
  | .error st => stopped e st s
  | .ok t =>
    if !kill then .next t
    else
      match cond (s.settle e) with
      | .ok (some target) =>
        match issueRun e words m (fun u => do
            let u ← eff true u
            .ok { st := u, jump := some target }) (s.cancel e) with
        | .ok t => .next t
        | .error st => stopped e st s
      | _ => .next t

end Sys2Proof.Machine
end

