-- ==== Sys2Proof/Machine/Mem.lean ====
section
/-! DEFINITION. Storage and its order: the cells of every store, the write order of each byte, visible sets, reads and
releases (03_memory R92 to R112, 04_ordering R123 to R136). -/

namespace Sys2Proof.Machine

open Sys2Proof

/-! ## Cells -/

/-- What a byte that nothing has written reads as (log 2, DESIGN CHOICE). -/
def unlisted : Byte := 0

/-- The form in which memory is held: addresses strictly rising, and no cell equal to an unlisted byte (log 2, DESIGN
CHOICE). -/
def Memory.wf : List Host.Cell → Bool
  | [] => true
  | [(_, b)] => b != unlisted
  | (a, b) :: (a', b') :: t => b != unlisted && a < a' && Memory.wf ((a', b') :: t)

/-- The byte at an address (log 2, DESIGN CHOICE). -/
def Memory.read : List Host.Cell → Nat → Byte
  | [], _ => unlisted
  | (a, b) :: t, k => if a == k then b else if k < a then unlisted else Memory.read t k

/-- Writes the byte at an address, keeping the form (log 2, DESIGN CHOICE). -/
def Memory.write : List Host.Cell → Nat → Byte → List Host.Cell
  | [], k, x => if x == unlisted then [] else [(k, x)]
  | (a, b) :: t, k, x =>
    if a == k then (if x == unlisted then t else (k, x) :: t)
    else if k < a then (if x == unlisted then (a, b) :: t else (k, x) :: (a, b) :: t)
    else (a, b) :: Memory.write t k x

/-- n bytes from an address on. -/
def Memory.readN (m : List Host.Cell) (a : Nat) : Nat → List Byte
  | 0 => []
  | n + 1 => Memory.read m a :: Memory.readN m (a + 1) n

/-- Writes bytes from an address on. -/
def Memory.writeN (m : List Host.Cell) (a : Nat) : List Byte → List Host.Cell
  | [] => m
  | b :: bs => Memory.writeN (Memory.write m a b) (a + 1) bs

/-! ## Where each store stands (log 14, DESIGN CHOICE) -/

/-- The near, steppe and host tiers: 48-bit tier physical addresses, 0, 1 and 2 (log 14, DESIGN CHOICE). -/
def tierBase (t : Nat) : Nat := t * 2 ^ 48
/-- The scratchpads: 8 MiB per vale (log 14, DESIGN CHOICE). -/
def scratchBase (vale : Nat) : Nat := 3 * 2 ^ 48 + vale * 2 ^ 23

/-- The index of a vale in the package. -/
def CoreId.valeIdx (c : CoreId) : Nat := c.plain * 32 + c.vale

def State.valeIdx (s : State) : Nat := CoreId.valeIdx s.core.id

def State.vale (s : State) (v : Nat) : Vale := assocGet Vale.reset v s.vales
def State.setVale (s : State) (v : Nat) (x : Vale) : State := { s with vales := assocSet v x s.vales }
def State.modVale (s : State) (v : Nat) (f : Vale → Vale) : State := s.setVale v (f (s.vale v))

/-! ## Values and bytes (00_scope R4) -/

/-- A value of little-endian bytes. -/
def bytesVal : List Byte → Nat
  | [] => 0
  | b :: bs => b.toNat + 256 * bytesVal bs

/-- The n low bytes of a value, little-endian. -/
def valBytes (x : Nat) : Nat → List Byte
  | 0 => []
  | n + 1 => BitVec.ofNat 8 (x % 256) :: valBytes (x / 256) n

/-! ## The write order (R125) -/

/-- Whether a write touches one of n bytes at pa. -/
def Write.touches (w : Write) (pa n : Nat) : Bool := w.pa < pa + n && pa < w.pa + w.old.length

/-- A visible set without the writes that fail a test (log 73, DESIGN CHOICE). -/
def carry (p : Write → Bool) (v : View) : List Write → View
  | [] => 0
  | w :: ws => (if v.testBit w.id && p w then 1 <<< w.id else 0) ||| carry p v ws

/-- The writes to a piece, newest first, that a read may pass over: those newer than every write to it in the set (log 73, DESIGN CHOICE). -/
def newerThan (v : View) (pa n : Nat) : List Write → List Write
  | [] => []
  | w :: ws =>
    if w.touches pa n then (if v.testBit w.id then [] else w :: newerThan v pa n ws) else newerThan v pa n ws

/-- Undoes one write on the n bytes at pa. -/
def undoOne (w : Write) (pa : Nat) (bs : List Byte) : List Byte :=
  bs.mapIdx fun i b => if w.pa ≤ pa + i && pa + i < w.pa + w.old.length then w.old.getD (pa + i - w.pa) 0 else b

/-- What a read of one atomic piece answers: the bytes, the newest write that it returns, the party and the state. -/
structure PieceRead where
  bytes : List Byte
  last  : Option Write
  party : Party
  st    : State

/-- A read of one single-copy atomic piece that now holds some bytes (R126, R132, R135): of the values at moments since
the newest write in the party's set, one; which one is free (log 5, DESIGN CHOICE; log 73, DESIGN CHOICE). -/
def readHist (s : State) (p : Party) (pa n : Nat) (now : List Byte) : PieceRead :=
  let newer := newerThan (p.view ||| p.floor ||| s.base) pa n s.hist
  let k := if newer.isEmpty then 0 else Config.readPick s.choice % (newer.length + 1)
  let hidden := newer.filter fun w => (newer.take k).any fun x => x.id == w.id
  let bytes := hidden.foldl (fun bs w => undoOne w pa bs) now
  let seen := s.hist.filter fun w => w.touches pa n && !hidden.contains w
  { bytes := bytes
    last := seen.head?
    party := { p with floor := seen.foldl (fun v w => v ||| 1 <<< w.id) p.floor }
    st := if newer.isEmpty then s else s.tick }

/-- A read of one piece of storage (log 5, DESIGN CHOICE; log 74, DEDUCED). -/
def readPiece (s : State) (p : Party) (pa n : Nat) : PieceRead := readHist s p pa n (Memory.readN s.mem pa n)

/-- A read of consecutive bytes in pieces of n (log 5, DESIGN CHOICE). -/
def readPieces (s : State) (p : Party) (pa n : Nat) : Nat → List Byte × Party × State
  | 0 => ([], p, s)
  | k + 1 =>
    let r := readPiece s p pa n
    let t := readPieces r.st r.party (pa + n) n k
    (r.bytes ++ t.1, t.2.1, t.2.2)

/-- A write to scratch bytes ends the sealed-image records that cover them (18 R504). -/
def endImages (pa n : Nat) (xs : List ImageRec) : List ImageRec :=
  xs.filter fun x => !(x.ranges.any fun r =>
    pa < scratchBase x.vale + r.1 + r.2 && scratchBase x.vale + r.1 < pa + n)

/-- The number that the next write takes. -/
def State.nextWrite (s : State) : Nat :=
  match s.hist with
  | [] => 0
  | w :: _ => w.id + 1

/-- The 64-bit units that n bytes from pa on touch. -/
def unitsOf (pa n : Nat) : List Nat := if n == 0 then [] else (List.range ((pa + n - 1) / 8 - pa / 8 + 1)).map (pa / 8 + ·)

/-- Units with an error after a write of n bytes: one that it covers whole has none any more (22 R564). -/
def renewed (pa n : Nat) (us : List Nat) : List Nat := us.filter fun u => !(pa ≤ 8 * u && 8 * u + 8 ≤ pa + n)

/-- A write of consecutive bytes under a number: they take the newest place in their write orders. -/
def writeAt (id : Nat) (s : State) (pa : Nat) (bs : List Byte) (loc : Loc) (rel : Option View) : State :=
  { s with
    copies := endImages pa bs.length s.copies
    mem := Memory.writeN s.mem pa bs
    bad := renewed pa bs.length s.bad
    soft := renewed pa bs.length s.soft
    hist := ⟨id, pa, Memory.readN s.mem pa bs.length, loc, rel⟩ :: s.hist }

/-- A write of one atomic piece (log 15, DEDUCED; log 73, DESIGN CHOICE; log 74, DEDUCED). -/
def writePiece (s : State) (pa : Nat) (bs : List Byte) (loc : Loc) (rel : Option View) : State :=
  writeAt s.nextWrite s pa bs loc rel

/-- The number of a write, or of more bytes of the piece of the write before it (04 R135). -/
def State.writeNo (s : State) (more : Bool) : Nat := if more then s.nextWrite - 1 else s.nextWrite

/-- Where the write order of a register of a core that reaches another engine by chains alone is kept: k is 0 to 7 for
d0 to d7 (06 R242), 8 to 23 for FMTE0 to FMTE15, 24 for FMTSRC (02 R83; log 14, DESIGN CHOICE). -/
def descCell (c : CoreId) (k : Nat) : Nat := 8 * 2 ^ 48 + (((c.plain * 32 + c.vale) * 8 + c.core) * 32 + k) * 8

/-- A write that every party has in its set (log 21, DEDUCED). -/
def State.announce (s : State) (id : Nat) : State := { s with base := s.base ||| 1 <<< id }

/-- Where the write order of a byte of another package stands: it lies in no store here (log 14, DESIGN CHOICE). -/
def farCell (node rvf va : Nat) : Nat := 10 * 2 ^ 48 + ((node % 1024 * 32 + rvf % 32) * 2 ^ 55 + va) * 2 ^ 8

/-- A remote write takes its number when it leaves; it changes no byte here (14 R450; log 17, DESIGN CHOICE). -/
def State.farPiece (s : State) (node rvf va : Nat) (loc : Loc) (rel : Option View) : State :=
  { s with hist := ⟨s.nextWrite, farCell node rvf va, [], loc, rel⟩ :: s.hist }

/-- A write that is to be performed later has a number by which releases wait for it; it stands at no byte. -/
def State.laterPiece (s : State) (loc : Loc) : State := { s with hist := ⟨s.nextWrite, 0, [], loc, none⟩ :: s.hist }

/-- The number of a core, and the core of a number. -/
def coreNum (c : CoreId) : Nat := (c.plain * 32 + c.vale) * 8 + c.core
def coreAt (n : Nat) : CoreId := ⟨n / 256, n / 8 % 32, n % 8⟩

/-- The party of an engine of the core in focus (R123). -/
def State.party (s : State) (e : Engine) : Party := ⟨(s.eng e).view, (s.eng e).floor⟩

def State.setParty (s : State) (e : Engine) (p : Party) : State :=
  s.modEng e fun x => { x with view := p.view, floor := p.floor }

/-- An engine reads one piece (log 5, DESIGN CHOICE; log 74, DEDUCED). -/
def State.readBy (s : State) (e : Engine) (pa n : Nat) : List Byte × Option Write × State :=
  let r := readPiece s (s.party e) pa n
  (r.bytes, r.last, r.st.setParty e r.party)

/-- An engine writes one piece, or more bytes of the piece that it has just written; its own write joins its set (R129). -/
def State.writeBy (s : State) (e : Engine) (pa : Nat) (bs : List Byte) (loc : Loc) (rel : Option View) (more : Bool := false) : State :=
  (writeAt (s.writeNo more) s pa bs loc rel).modEng e fun x => { x with view := x.view ||| 1 <<< s.writeNo more }

/-! ## Data errors (22 R562 to R564) -/

/-- The cause of a read that meets an uncorrectable error: imprecise, with no address; `walk` carries the unit to the
event that `raise` posts (R564). -/
def errorCause (s : State) (e : Engine) (unit : Nat) : CauseRec :=
  { causeAt s e 0x3E 0 with imp := true, walk := BitVec.ofNat 64 (unit * 8) }

/-- A correctable error of a unit is corrected, and counts toward the event of its tick (R563). -/
def State.corrected (s : State) (u : Nat) : State :=
  { s with soft := s.soft.filter (· != u), fixed := assocSet u (assocGet 0 u s.fixed + 1) s.fixed }

/-- The unit whose uncorrectable error a read of n bytes meets; any, where the steppe tier has failed (R564; 20 R523). -/
def State.badRead (s : State) (pa n : Nat) : Option Nat :=
  if s.noSteppe && pa / 2 ^ 48 == 1 then some (pa / 8)
  else if s.bad.isEmpty then none
  else (unitsOf pa n).find? fun u => s.bad.contains u

/-- A read of n bytes corrects the correctable errors of the units that it touches (R563). -/
def State.fixSoft (s : State) (pa n : Nat) : State :=
  if s.soft.isEmpty then s else (s.soft.filter fun u => (unitsOf pa n).contains u).foldl State.corrected s

/-- A read of n bytes: it stops on an uncorrectable error, or where the steppe tier has failed (20 R523), and a correctable
one is corrected (R563; log 18, DESIGN CHOICE). -/
def State.okRead (s : State) (e : Engine) (pa n : Nat) : Except Stop State :=
  match s.badRead pa n with
  | some u => .error (.trap (errorCause s e u))
  | none => .ok (s.fixSoft pa n)

/-- The unit whose uncorrectable error a write of n bytes meets: one that it does not cover whole, or any, where the steppe tier has failed
(R564; 20 R523). -/
def State.badWrite (s : State) (pa n : Nat) : Option Nat :=
  if s.noSteppe && pa / 2 ^ 48 == 1 then some (pa / 8)
  else if s.bad.isEmpty then none
  else (unitsOf pa n).find? fun u => s.bad.contains u && !(pa ≤ 8 * u && 8 * u + 8 ≤ pa + n)

/-- The 64-bit unit of a core's instruction store, or of its pager store, that holds a word (R562; log 18, DESIGN CHOICE). -/
def storeUnit (c : CoreId) (pager : Bool) (w : Nat) : Nat :=
  9 * 2 ^ 45 + (CoreId.valeIdx c * 8 + c.core) * 2 ^ 15 + (if pager then 2 ^ 14 else 0) + w / 2

/-- The unit with an uncorrectable error among those of n words that engine e fetches from its text (R564; log 18, DESIGN
CHOICE). -/
def State.badFetch (s : State) (e : Engine) (pc n : Nat) : Option Nat :=
  if s.bad.isEmpty then none
  else ((List.range n).map fun i => storeUnit s.core.id (e == .c && s.inShadow) (pc + i)).find? s.bad.contains

/-- The pieces (address, bytes) of a write cover a unit whole. -/
def coversUnit (ps : List (Nat × Nat)) (u : Nat) : Bool :=
  (List.range 8).all fun i => ps.any fun p => p.1 ≤ 8 * u + i && 8 * u + i < p.1 + p.2

/-- A write of pieces: one that covers a failing unit whole clears its error; a narrower one is treated as a read of
it (R564; log 18, DESIGN CHOICE). -/
def State.okWrite (s : State) (e : Engine) (ps : List (Nat × Nat)) : Except Stop State :=
  if s.noSteppe && ps.any fun p => p.1 / 2 ^ 48 == 1 then .error (.trap (errorCause s e ((ps.map Prod.fst).headD 0 / 8)))
  else if s.bad.isEmpty then .ok s
  else
    let hit := s.bad.filter fun u => ps.any fun p => (unitsOf p.1 p.2).contains u
    match hit.find? fun u => !coversUnit ps u with
    | some u => .error (.trap (errorCause s e u))
    | none => .ok { s with bad := s.bad.filter fun u => !hit.contains u }

/-! ## Bindings and what releases carry (R127, R131; 03 R109) -/

/-- Whether a binding covers a location. -/
def Binding.covers (b : Binding) (l : Loc) : Bool :=
  match b.base, l with
  | .sp v o, .sp v' o' => v == v' && o ≤ o' && o' < o + b.len
  | .gen f a, .gen f' a' => f == f' && a ≤ a' && a' < a + b.len
  | _, _ => false

/-- The live binding of a byte. -/
def State.bindingOf (s : State) (l : Loc) : Option Binding := s.binds.find? (·.covers l)

/-- The object to which a byte is bound; none for the domain object. -/
def State.objectOf (s : State) (l : Loc) : Option (BitVec 32) := (s.bindingOf l).map Binding.oid

/-- What a release of an object carries of a visible set. -/
def State.carryObj (s : State) (oid : BitVec 32) (v : View) : View :=
  carry (fun w => s.objectOf w.loc == some oid) v s.hist

/-- What a release of a domain object carries: writes to bytes bound to no object. -/
def State.carryDomain (s : State) (v : View) : View := carry (fun w => (s.objectOf w.loc).isNone) v s.hist

/-! ## Scratch addresses (03 R94 to R101) -/

/-- rot_addr(o, r, c) (R96). -/
def rotAddr (o r c : Nat) : Nat :=
  if c == 0 then o
  else
    let bank := (o / 64 % 32 + c * r) % 32
    o / 2048 * 2048 + bank * 64 + o % 64

/-- SPW's fields (R99). -/
def spwBase (w : Word) : Nat := (w.extractLsb' 0 11).toNat
def spwLen (w : Word) : Nat := (w.extractLsb' 16 12).toNat
def spwSlot (w : Word) : Nat := (w.extractLsb' 32 12).toNat
def spwPos (w : Word) : Nat := (w.extractLsb' 44 3).toNat

/-- A scratch offset lies in a vale window. -/
def inWindow (spw : Word) (o : Nat) : Bool := spwBase spw * 4096 ≤ o && o < (spwBase spw + spwLen spw) * 4096

/-- The cell of a scratch offset of a vale (log 14, DESIGN CHOICE). -/
def scratchCell (vale o : Nat) : Nat := scratchBase vale + o % 2 ^ 23

end Sys2Proof.Machine
end

