-- ==== Sys2Proof/Machine/Translate.lean ====
section
/-! DEFINITION. Address translation and the accesses of a core's engines to generic and scratch memory (14 R430 to
R442, 03 R101 to R112, 06 R190 to R212). -/

namespace Sys2Proof.Machine

open Sys2Proof

/-! ## Stage 2 (R436, R437) -/

def VFun.segEn (f : VFun) (t : Fin 3) : Bool := f.segl[t].getLsbD 0
def VFun.segLen (f : VFun) (t : Fin 3) : Nat := (f.segl[t].extractLsb' 16 32).toNat * 65536
def VFun.segMres (f : VFun) (t : Fin 3) : Nat := (f.segl[t].extractLsb' 48 16).toNat * 2 ^ 24
def VFun.segBase (f : VFun) (t : Fin 3) : Nat := (f.segb[t].extractLsb' 16 32).toNat * 65536

/-- The tier of a LOC code below 3. -/
def tierOf (loc : Nat) : Option (Fin 3) := if h : loc < 3 then some ⟨loc, h⟩ else none

/-- Stage 2 of an intermediate address: the tier physical address, or none (the segment fault) (log 14, DESIGN CHOICE). -/
def stage2 (f : VFun) (t : Fin 3) (ia : Nat) : Option Nat :=
  if f.segEn t && ia < f.segLen t then some (f.segBase t + ia) else none

/-- A leaf with MIG = 0 must not overlap the migration reserve. -/
def clearOfReserve (f : VFun) (t : Fin 3) (page size : Nat) : Bool :=
  f.segMres t == 0 || page + size ≤ f.segLen t - f.segMres t || f.segLen t ≤ page

/-! ## Leaves (R431, R432) -/

def leafV (e : Word) : Bool := e.getLsbD 0
def leafLeaf (e : Word) : Bool := e.getLsbD 1
def leafWr (e : Word) : Bool := e.getLsbD 2
def leafUsr (e : Word) : Bool := e.getLsbD 3
def leafMig (e : Word) : Bool := e.getLsbD 4
def leafMot (e : Word) : Bool := e.getLsbD 5
def leafLoc (e : Word) : Nat := (e.extractLsb' 6 2).toNat
def leafOa (e : Word) : Nat := (e.extractLsb' 16 32).toNat * 65536
def leafNode (e : Word) : Nat := (e.extractLsb' 16 10).toNat
def leafRvf (e : Word) : Nat := (e.extractLsb' 26 5).toNat

/-- The Z bits of an entry read at level n are 0. -/
def entryZ (n : Nat) (e : Word) : Bool :=
  if !leafLeaf e then e.extractLsb' 2 14 == 0 && e.extractLsb' 48 16 == 0
  else e.extractLsb' 8 8 == 0 &&
    (if leafLoc e == 3 then e.extractLsb' 31 17 == 0 else n != 2 || e.extractLsb' 16 13 == 0)

/-! ## The walk (R433) -/

/-- A fault of translation: its code, and where the walk ended (R435). -/
structure XFault where
  code : Nat
  lvl  : Nat
  mot  : Bool
  epc  : Bool
  eia  : Nat
  deriving DecidableEq, Repr

/-- Code 0 stands for no cause: the address passes stage 2 and names no cell of its tier (log 14, DESIGN CHOICE). -/
def noCell (pa : Nat) : XFault := ⟨0, 0, false, false, pa⟩

/-- TRAPWALK for a fault (R435). -/
def XFault.walkWord (x : XFault) : Word :=
  BitVec.ofNat 64 (x.lvl + x.mot.toNat <<< 2 + x.epc.toNat <<< 3 + (x.eia % 2 ^ 48) <<< 8)

/-- The index of an address in the level-n table (R430). -/
def walkIndex (va n : Nat) : Nat := va / 2 ^ (16 + 13 * (3 - n)) % 8192

/-- Where an access lands. -/
inductive PLoc where
  | cell (pa : Nat)
  | remote (node rvf : Nat)
  deriving DecidableEq, Repr

/-- The checks on a leaf at level n that do not depend on the access (R433). -/
def leafFault (n eia : Nat) (e : Word) : Option XFault :=
  if n == 1 || (n == 2 && leafMig e) || (leafMot e && !leafMig e) then some ⟨0x10, n, false, false, eia⟩
  else if leafMot e then some ⟨0x10, n, true, false, eia⟩
  else none

/-- Permissions and stage 2 of a leaf for an access (R433, R437). -/
def useLeaf (f : VFun) (user write : Bool) (va : Nat) (t : TlbEntry) : Except XFault PLoc :=
  let e := t.leaf
  let n := if t.big then 2 else 3
  let size := if t.big then 2 ^ 29 else 2 ^ 16
  if user && !leafUsr e then .error ⟨0x11, n, false, false, t.eia⟩
  else if write && !leafWr e then .error ⟨0x11, n, false, false, t.eia⟩
  else match tierOf (leafLoc e) with
    | none => .ok (.remote (leafNode e) (leafRvf e))
    | some tier =>
      match stage2 f tier (leafOa e + va % size) with
      | none => .error ⟨0x12, n, false, false, t.eia⟩
      | some pa =>
        if !leafMig e && !clearOfReserve f tier (leafOa e) size then .error ⟨0x12, n, false, false, t.eia⟩
        else if 2 ^ 48 ≤ pa then .error (noCell pa)
        else .ok (.cell (tierBase tier.val + pa))

/-! ## Transfers (17 R490) -/

/-- An access is a transfer at a channel group of the near tier (log 20, PRESUMED) or at a CXL port. -/
def State.transfer (s : State) (pa acct : Nat) : State :=
  let add := fun (c u : Nat) => { s with books := { s.books with moving := s.books.moving ++ [⟨c, u, acct⟩] } }
  match pa / 2 ^ 48 with
  | 0 => add 9 (pa / 256 % 32)
  | 1 => add 10 (s.cxlPort (pa % 2 ^ 48))
  | _ => s

/-! ### Walkers (R441, R458) -/

/-- Who walks: the vale whose walk cache serves the walk, and the account to which its reads book. The walks of the directory, the
dispatcher and remote parties use no cache; those of a remote party have no account here (log 16, DESIGN CHOICE). -/
structure Walker where
  vale : Option Nat
  acct : Option Nat
  deriving DecidableEq, Repr

/-- A walk that uses no cache and books to nobody. -/
def Walker.bare : Walker := ⟨none, none⟩

/-- A walk for a vale and an account. -/
def walkerOf (v a : Nat) : Walker := ⟨some v, some a⟩

/-- A walk without a cache for an account. -/
def walkFor (a : Nat) : Walker := ⟨none, some a⟩

/-- The table entry that a walk cache holds. -/
def State.walkHit (s : State) (w : Walker) (vf n eia : Nat) : Option Word :=
  w.vale.bind fun v => ((s.vale v).wcache.find? fun c => c.vf == vf && c.lvl == n && c.eia == eia).map WalkEntry.entry

/-- A walk cache keeps the table entries of levels 1 and 2 that its walks read, 64 of them, the newest first (log 16, DESIGN
CHOICE). -/
def State.walkKeep (s : State) (w : Walker) (vf n eia : Nat) (e : Word) : State :=
  match w.vale with
  | none => s
  | some x => s.modVale x fun v =>
    { v with wcache := (⟨vf, n, eia, e⟩ :: v.wcache.filter fun c => !(c.vf == vf && c.lvl == n && c.eia == eia)).take 64 }

/-- The read of a table entry: from the walk cache, or from memory by the party, which has what C had seen at the function's last
TLBI (R443). -/
def readEntry (w : Walker) (vf : Nat) (f : VFun) (n eia pa : Nat) (p : Party) (s : State) : Word × Party × State :=
  match s.walkHit w vf n eia with
  | some e => (e, p, s)
  | none =>
    let x := readPiece s { p with view := p.view ||| f.seen } (tierBase 0 + pa) 8
    (BitVec.ofNat 64 (bytesVal x.bytes), { x.party with view := p.view },
      match w.acct with
      | none => x.st
      | some a => x.st.transfer (tierBase 0 + pa) a)

/-- The read of a table entry meets an uncorrectable error, or corrects others (22 R563, R564). -/
def entryError (w : Walker) (vf n eia pa : Nat) (s : State) : Bool × State :=
  if (s.walkHit w vf n eia).isSome then (false, s) else (s.bad.contains ((tierBase 0 + pa) / 8), s.fixSoft (tierBase 0 + pa) 8)

/-- Walks from the table at intermediate address t, at level 4 − k (R433; log 16, DESIGN CHOICE). -/
def walkFrom (w : Walker) (vf : Nat) (f : VFun) (va : Nat) : Nat → Nat → Party → State → Except XFault TlbEntry × Party × State
  | 0, t, p, s => (.error ⟨0x10, 3, false, false, t⟩, p, s)
  | k + 1, t, p, s =>
    let n := 3 - k
    let eia := t + 8 * walkIndex va n
    match stage2 f 0 eia with
    | none => (.error ⟨0x12, n, false, false, eia⟩, p, s)
    | some pa =>
      if 2 ^ 48 ≤ pa then (.error (noCell pa), p, s)
      else if (entryError w vf n eia pa s).1 then (.error ⟨0x3E, n, false, false, tierBase 0 + pa⟩, p, s)
      else
        let (e, p1, s1) := readEntry w vf f n eia pa p (entryError w vf n eia pa s).2
        if !leafV e || !entryZ n e then (.error ⟨0x10, n, false, false, eia⟩, p1, s1)
        else if !leafLeaf e then
          if k == 0 then (.error ⟨0x10, 3, false, false, eia⟩, p1, s1)
          else walkFrom w vf f va k (leafOa e) p1 (s1.walkKeep w vf n eia e)
        else match leafFault n eia e with
          | some x => (.error x, p1, s1)
          | none =>
            let big := n == 2
            let size := if big then 2 ^ 29 else 2 ^ 16
            (.ok ⟨vf, va / size * size, big, e, eia, none⟩, p1, s1)

/-- The walk of an address in the tables of a virtual function. -/
def walkVa (w : Walker) (vf : Nat) (f : VFun) (va : Nat) (p : Party) (s : State) : Except XFault TlbEntry × Party × State :=
  if va / 2 ^ 55 != 0 then (.error ⟨0x10, 0, false, false, 0⟩, p, s)
  else if !f.s1tb.getLsbD 0 then (.error ⟨0x10, 0, false, false, 0⟩, p, s)
  else walkFrom w vf f va 3 ((f.s1tb.extractLsb' 16 32).toNat * 65536) p s

/-- A cached leaf covers an address of a function. -/
def TlbEntry.hits (t : TlbEntry) (vf va : Nat) : Bool :=
  t.vf == vf && va / (if t.big then 2 ^ 29 else 2 ^ 16) * (if t.big then 2 ^ 29 else 2 ^ 16) == t.page

/-- A TLB after the use of an entry: most recently used first, n entries (R439, R440; log 16, DESIGN CHOICE). -/
def tlbUse (n : Nat) (t : TlbEntry) (ts : List TlbEntry) : List TlbEntry :=
  (t :: ts.filter fun x => !(x.vf == t.vf && x.page == t.page && x.big == t.big)).take n

/-- The virtual function of a vale. -/
def State.vfunOf (s : State) (vf : Nat) : VFun := s.vfs[vf % 32]'(Nat.mod_lt _ (by decide))

/-- The virtual function of the core in focus (20 R525). -/
def State.vf (s : State) : Nat := (s.vale s.valeIdx).vf % 32

/-- The port toward a neighbour that is up (20 R518). -/
def State.portTo (s : State) (node : Nat) : Option Nat :=
  (List.range 12).find? fun i =>
    let l := s.plat.links[i % 12]'(Nat.mod_lt _ (by decide))
    l.st == 2 && l.nbr == node

/-- A leaf as a TLB caches it: a remote one is tagged with the port toward its node and that port's epoch (R450). -/
def State.tagLeaf (s : State) (t : TlbEntry) : TlbEntry :=
  if leafLoc t.leaf == 3 then
    { t with port := (s.portTo (leafNode t.leaf)).map fun i => (i, (s.plat.links[i % 12]'(Nat.mod_lt _ (by decide))).epoch) }
  else t

/-- What translation answers. -/
structure Xlated where
  res   : Except XFault PLoc
  cache : List TlbEntry
  party : Party
  st    : State

/-- Stages 1 and 2 of an address, by the cache or by a walk (R433 to R442; log 16, DESIGN CHOICE). -/
def xlate (w : Walker) (s : State) (p : Party) (vf : Nat) (user write : Bool) (n : Nat) (cache : List TlbEntry) (va : Nat) : Xlated :=
  let f := s.vfunOf vf
  if va / 2 ^ 55 != 0 then ⟨.error ⟨0x10, 0, false, false, 0⟩, cache, p, s⟩
  else match cache.find? (·.hits vf va) with
    | some t => ⟨useLeaf f user write va t, tlbUse n t cache, p, s⟩
    | none =>
      match walkVa w vf f va p s with
      | (.error x, p', s') => ⟨.error x, cache, p', s'⟩
      | (.ok t, p', s') => ⟨useLeaf f user write va t, tlbUse n (s'.tagLeaf t) cache, p', s'⟩

/-! ## The caches of a core -/

/-- The translation cache that an access uses: C's TLB, or a stream TLB (0 g0, 1 g1, 2 A's other loads, 3 S). -/
inductive TlbId where
  | c
  | strm (i : Fin 4)
  deriving DecidableEq, Repr

def Core.tlb (c : Core) : TlbId → List TlbEntry
  | .c => c.ctlb
  | .strm i => c.stlb[i]

def Core.setTlb (c : Core) (t : TlbId) (x : List TlbEntry) : Core :=
  match t with
  | .c => { c with ctlb := x }
  | .strm i => { c with stlb := c.stlb.set i x }

def tlbSize : TlbId → Nat
  | .c => 64
  | .strm _ => 4

/-- The prefetch walk that the use of a page begins (R440). -/
def State.prefetch (s : State) (t : TlbId) (va : Nat) : State :=
  match t with
  | .c => s
  | .strm i =>
    let last := s.core.lastVa[i]
    let s1 := s.modCore fun c => { c with lastVa := c.lastVa.set i va }
    let next := if va < last then va / 65536 * 65536 - 65536 else va / 65536 * 65536 + 65536
    let cached := (s.core.tlb t).any (·.hits s.vf next)
    let queued := s.walks.any fun w => w.core == s.core.id && w.strm == i && w.page == next
    if cached || queued || (va < last && va / 65536 == 0) then s1
    else { s1 with walks := s1.walks ++ [⟨s1.nextId, s1.core.id, i, next⟩], nextId := s1.nextId + 1 }

/-! ## The leaf of a page -/

/-- The entry of level n, counting k levels still to walk, that an address reaches; none when the walk fails: where it would for an
access, but for permissions, a page marked to migrate on touch, and a level-3 entry with V = 0 (R448; log 21, DEDUCED). -/
def leafWalk (s : State) (f : VFun) (va : Nat) : Nat → Nat → Option (Nat × Nat × Word)
  | 0, _ => none
  | k + 1, t =>
    let n := 3 - k
    match stage2 f 0 (t + 8 * walkIndex va n) with
    | none => none
    | some pa =>
      let e : Word := BitVec.ofNat 64 (bytesVal (Memory.readN s.mem (tierBase 0 + pa) 8))
      if 2 ^ 48 ≤ pa || s.bad.contains ((tierBase 0 + pa) / 8) then none
      else if k == 0 && !leafV e then some (n, tierBase 0 + pa, e)
      else if !leafV e || !entryZ n e then none
      else if leafLeaf e then
        (if n == 1 || (n == 2 && leafMig e) || (leafMot e && !leafMig e) then none else some (n, tierBase 0 + pa, e))
      else if k == 0 then none
      else leafWalk s f va k (leafOa e)

/-- The level, place and value of the leaf of an address in a function's tables. -/
def State.leafOf (s : State) (vf va : Nat) : Option (Nat × Nat × Word) :=
  let f := s.vfunOf vf
  if va / 2 ^ 55 != 0 || !f.s1tb.getLsbD 0 then none
  else leafWalk s f va 3 ((f.s1tb.extractLsb' 16 32).toNat * 65536)

/-- The size of the page of an address, by its leaf. -/
def State.pageSize (s : State) (vf va : Nat) : Nat :=
  match s.leafOf vf va with
  | some (2, _, _) => 2 ^ 29
  | _ => 2 ^ 16

/-- A page that a move or an exchange under way holds: its writes stall (R444, R448). -/
def State.moving (s : State) (vf va : Nat) : Bool :=
  (s.moves.any fun m => m.vf == vf && m.va / 65536 == va / 65536) ||
  (s.cores.any fun c => c.cr.lxgo == 1 && (s.vale (CoreId.valeIdx c.id)).vf % 32 == vf &&
    c.cr.lxa.toNat / s.pageSize vf va == va / s.pageSize vf va)

/-- Writes to a byte stall while the content of the HBM row that holds it is copied to a spare row: a row has the bytes of its channel group
in an aligned block of 64 KiB (22 R565; log 27, PRESUMED). -/
def State.rowHeld (s : State) : PLoc → Bool
  | .cell pa => pa / 2 ^ 48 == 0 && s.plat.rows.contains (pa / 256 % 32, pa / 65536)
  | .remote _ _ => false

/-- The walker of a vale has 32 walks outstanding: an access that needs another waits (R441; log 16, DESIGN CHOICE). -/
def State.walksFull (s : State) (vale : Nat) : Bool := 32 ≤ s.walks.countP fun w => CoreId.valeIdx w.core == vale

/-! ## The runs and captures of a launch (16 R478, R480; 22 R560) -/

def State.gang (s : State) (key : Nat) : Option Gang := s.disp.gangs.find? (·.key == key)

def State.modGang (s : State) (key : Nat) (f : Gang → Gang) : State :=
  { s with disp := { s.disp with gangs := s.disp.gangs.map fun g => if g.key == key then f g else g } }

/-- A page of a gang's capture area. -/
def Capture.own (c : Capture) (page : Nat) : Bool := c.area ≤ page && page < c.area + c.len

/-- A gang other than that of a key waits for the pre-image of a page of a function: other writes to the page stall (22 R560). -/
def State.claimed (s : State) (key : Option Nat) (vf va : Nat) : Bool :=
  s.disp.gangs.any fun g => some g.key != key && g.vf == vf &&
    ((g.capt.map fun c => c.want.contains (va / 65536 * 65536)).getD false)

/-- The page whose pre-image a gang's write must wait for. -/
def State.uncaptured (s : State) (key va : Nat) (loc : PLoc) : Option Nat :=
  let page := va / 65536 * 65536
  match loc, (s.gang key).bind Gang.capt with
  | .cell _, some c => if c.trunc || c.pages.contains page || c.own page then none else some page
  | _, _ => none

/-- The writes of a gang are kept unperformed: it is run 1 or 2 of a dual launch. -/
def State.keeps (s : State) (key : Nat) : Bool := ((s.gang key).map fun (g : Gang) => decide (1 ≤ g.run)).getD false

/-- A gang whose writes are logged: a run of a dual launch (log 58, DEDUCED). -/
def Gang.dual (g : Gang) : Bool := g.pk.words[0].getLsbD 14

/-- A write of a gang joins its log. -/
def State.logWrite (s : State) (key va : Nat) (bs : List Byte) : State :=
  if ((s.gang key).map Gang.dual).getD false then
    s.modGang key fun g => { g with log := bs.zipIdx.foldl (fun l b => assocSet (va + b.2) b.1.toNat l) g.log }
  else s

/-! ## Leaves that name reserve frames (R444, R445) -/

/-- An entry of a table: the address that it translates, its near address, its value. -/
structure Entry where
  va    : Nat
  place : Nat
  val   : Word
  deriving DecidableEq, Repr

/-- The valid entries of the level-n table of an address, at an intermediate address. A valid entry has a listed first byte. -/
def tableEntries (s : State) (f : VFun) (n : Nat) (t : Nat × Nat) : List Entry :=
  s.mem.filterMap fun c =>
    let ia := c.1 - f.segBase 0
    if c.2.getLsbD 0 && ia % 8 == 0 && t.2 ≤ ia && ia < t.2 + 65536 && stage2 f 0 ia == some c.1 then
      some ⟨t.1 + (ia - t.2) / 8 * 2 ^ (16 + 13 * (3 - n)), c.1, BitVec.ofNat 64 (bytesVal (Memory.readN s.mem c.1 8))⟩
    else none

/-- The tables that entries name, as (address, intermediate address). -/
def subTables (es : List Entry) : List (Nat × Nat) := es.filterMap fun e => if leafLeaf e.val then none else some (e.va, leafOa e.val)

/-- The level-3 leaves with MIG = 1 of a function. -/
def migLeaves (s : State) (f : VFun) : List Entry :=
  if !f.s1tb.getLsbD 0 then []
  else
    let l1 := tableEntries s f 1 (0, (f.s1tb.extractLsb' 16 32).toNat * 65536)
    let l2 := (subTables l1).flatMap (tableEntries s f 2)
    let l3 := (subTables l2).flatMap (tableEntries s f 3)
    l3.filter fun e => leafLeaf e.val && leafMig e.val

/-- The bytes of a write as they change a leaf. -/
def changesLeaf (pa : Nat) (bs : List Byte) (l : Entry) : Bool :=
  (List.range 8).any fun i =>
    pa ≤ l.place + i && l.place + i < pa + bs.length && bs.getD (l.place + i - pa) 0 != BitVec.ofNat 8 (l.val.toNat / 256 ^ i)

/-- A plain store that changes a leaf with MIG = 1 loses its frame: it stays out of the reserve until the package is
reset, and an event tells of it (R445, 22 R554). -/
def spillOne (pa : Nat) (bs : List Byte) (s : State) (i : Fin 32) : State :=
  let f := s.vfs[i]
  let hit := (migLeaves s f).filter fun l => changesLeaf pa bs l
  if hit.isEmpty then s
  else
    hit.foldl (fun s l => s.alert (0x2000 + i.val) 3 [l.va, leafOa l.val, 0])
      { s with vfs := s.vfs.set i { f with lost := f.lost ++ hit.map fun l => (leafLoc l.val, leafOa l.val) } }

/-- One of the doublewords that n bytes touch looks like a leaf with MIG = 1. -/
def maybeMig (s : State) (pa n : Nat) : Bool :=
  (List.range ((pa + n - 1) / 8 - pa / 8 + 1)).any fun i =>
    let e : Byte := Memory.read s.mem ((pa / 8 + i) * 8)
    e.getLsbD 0 && e.getLsbD 1 && e.getLsbD 4

def State.spill (s : State) (pa : Nat) (bs : List Byte) : State :=
  if pa / 2 ^ 48 == 0 && maybeMig s pa bs.length then (List.finRange 32).foldl (spillOne pa bs) s else s

/-! ## Remote accesses leave (17 R490; 20 R517) -/

/-- A remote access leaves as a request, one of a COLL as collective traffic, a transfer of an account at its Tsuosh port. -/
def State.transferOut (s : State) (port acct : Nat) (body : Sent) (cls : Nat := 0) : State :=
  let t : State := { s with books := { s.books with moving := s.books.moving ++ [⟨11, port, acct⟩] } }
  t.sendFlit port cls body

/-- A cause of translation at an engine's word. -/
def xCause (s : State) (e : Engine) (va : Word) (x : XFault) : CauseRec :=
  { causeAt s e x.code 0 with addr := va, walk := x.walkWord }

/-- The transfers that a state has beyond those of an earlier one. -/
def State.movedSince (t s : State) : List Transfer := t.books.moving.drop s.books.moving.length

/-- A fault of translation as an engine meets it, with what its walk has read (R458; log 14, DESIGN CHOICE). -/
def xStop (s : State) (e : Engine) (va : Word) (x : XFault) (moved : List Transfer) : Stop :=
  if x.code == 0 then .fault (.noSuchCell x.eia)
  else if x.code == 0x3E then .trap { errorCause s e (x.eia / 8) with spent := ⟨moved, none⟩ }
  else .trap { xCause s e va x with spent := ⟨moved, none⟩ }

/-- What the target of a remote access answers: no fault, or a translation fault, which may be migrate on touch, a permission or a segment
fault, with where its walk ended (R433; log 8, DESIGN CHOICE). An access that no port carries asks no target (R451; 20 R518). -/
def farFault (s : State) (node : Nat) : Option XFault :=
  let n := Config.remoteFault s.choice
  match n % 4, s.portTo node with
  | 0, _ => none
  | _, none => none
  | k, some _ => some ⟨0x0F + k, n / 4 % 4, k == 1 && (n / 16).testBit 0, false, n / 32⟩

/-- The request of an access through a remote leaf: it leaves by the port toward the node (R450). -/
def State.askFar (s : State) (unit : Nat) (core : CoreId) (user : Bool) (node rvf va n : Nat) : Option FarRead :=
  (s.portTo node).map fun port => ⟨port, s.choice, unit, core, user, node, rvf, va, n⟩

/-- Translation for an engine of the core in focus, with its cause on a fault (log 16, DESIGN CHOICE). -/
def State.translate (s : State) (e : Engine) (t : TlbId) (write : Bool) (va : Word) : Except Stop (PLoc × State) :=
  let cache := s.core.tlb t
  let x := xlate (walkerOf s.valeIdx s.core.cr.acctid.toNat) s (s.party e) s.vf (s.core.cr.lvl == 0) write (tlbSize t) cache va.toNat
  let go := fun (u : State) => ((u.setParty e x.party).modCore (·.setTlb t x.cache)).prefetch t va.toNat
  if va.toNat / 2 ^ 55 == 0 && s.walksFull s.valeIdx && !cache.any (·.hits s.vf va.toNat) then .error (.stall .mem)
  else match x.res with
  | .error f => .error (xStop s e va f (x.st.movedSince s))
  | .ok loc =>
    if write && s.moving s.vf va.toNat then .error (.stall .mem)
    else match loc with
      | .cell _ => .ok (loc, go x.st)
      | .remote node rvf =>
        match farFault s node with
        | some f =>
          let ask := s.askFar (engNum e) s.core.id (s.core.cr.lvl == 0) node rvf va.toNat 0
          let out := (ask.map fun r => (⟨11, r.port, s.core.cr.acctid.toNat⟩ : Transfer)).toList
          .error (.trap { xCause s e va f with spent := ⟨x.st.movedSince s ++ out, ask⟩ })
        | none => .ok (loc, go x.st.tick)

/-- A write that has passed its checks waits for the pre-image of its page (22 R560), and for the copy of its HBM row (R565). -/
def State.preimage (s : State) (va : Word) (loc : PLoc) : Except Stop Unit :=
  match s.uncaptured s.core.launch va.toNat loc with
  | some p => .error (.hold p)
  | none => if s.claimed (some s.core.launch) s.vf va.toNat || s.rowHeld loc then .error (.stall .mem) else .ok ()

/-! ## Sealed bytes (03 R112) -/

/-- The 64 KiB pages that a range touches. -/
def pagesOf (base size : Nat) : List Nat :=
  if size == 0 then [] else (List.range ((base + size - 1) / 65536 - base / 65536 + 1)).map fun i => (base / 65536 + i) * 65536

/-- Where the first byte of a 64 KiB page of a function stands, by its tables. -/
def State.pageCell (s : State) (vf page : Nat) : Option Nat :=
  (s.leafOf vf page).bind fun (n, _, e) =>
    (if leafV e then tierOf (leafLoc e) else none).bind fun t =>
      (stage2 (s.vfunOf vf) t (leafOa e + if n == 2 then page % 2 ^ 29 else 0)).map fun a => tierBase t.val + a

/-- A byte of storage belongs to an object whose bytes are sealed, whatever address names it. -/
def State.sealedCell (s : State) (pa : Nat) : Bool :=
  s.objs.any fun o => (pagesOf o.base o.size).any fun p =>
    match s.pageCell o.vf p with
    | some q => q ≤ pa && pa < q + 65536 && o.base ≤ p + (pa - q) && p + (pa - q) < o.base + o.size
    | none => false

/-- Byte i of a translated access. -/
def PLoc.byte (i : Nat) : PLoc → PLoc
  | .cell pa => .cell (pa + i)
  | .remote n r => .remote n r

/-- A byte of a virtual function's generic space, which lies at `loc`, is sealed: it belongs to an object by its address, or by its
place in storage. -/
def State.isSealed (s : State) (vf va : Nat) (loc : PLoc) : Bool :=
  (s.objs.any fun o => o.vf == vf && o.base ≤ va && va < o.base + o.size) ||
  (match loc with
   | .cell pa => s.sealedCell pa
   | .remote _ _ => false)

/-- One of n bytes from an address on is sealed. -/
def State.sealedRange (s : State) (vf va : Nat) (loc : PLoc) (n : Nat) : Bool :=
  (List.range n).any fun i => s.isSealed vf (va + i) (loc.byte i)

/-! ## Dirty tracking (14 R453, R454) -/

/-- Sets a bit of a byte of physical memory; the hardware's mark is a write of no party. -/
def setBitAt (s : State) (pa bit : Nat) : State :=
  let b := Memory.read s.mem pa
  { s with mem := Memory.write s.mem pa (b ||| (1#8 <<< bit)) }

/-- The byte and the bit of a function's current bitmap that stand for a physical address; none where the tier is not
tracked. -/
def State.dirtyCell (s : State) (vf : Nat) (pa : Nat) : Option (Nat × Nat) :=
  let f := s.vfunOf vf
  match tierOf (pa / 2 ^ 48) with
  | none => none
  | some t =>
    if !f.dtctl.getLsbD t.val then none
    else
      let off := pa % 2 ^ 48 - f.segBase t
      let size := (f.segLen t + 32767) / 32768
      let gap := (size + 255) / 256 * 256
      let base := (f.dtb[t].extractLsb' 8 40).toNat * 256 + (if f.dtctl.getLsbD 3 then gap else 0)
      some (tierBase 0 + base + off / 4096 / 8, off / 4096 % 8)

/-- Marks a performed write at an address of a tier in the function's current bitmap. -/
def State.markDirty (s : State) (vf : Nat) (pa : Nat) : State :=
  match s.dirtyCell vf pa with
  | none => s
  | some (a, bit) => setBitAt s a bit

/-! ## Watchpoints (13 R420) -/

/-- The first byte of an access that a watchpoint matches. -/
def wpMatch (wp : Word) (mask : BitVec 16) (addr n : Nat) (write : Bool) : Option Nat :=
  let kind := (wp.extractLsb' 56 2).toNat
  if (write && kind % 2 == 1) || (!write && kind / 2 == 1) then
    let base := wp.toNat % 2 ^ 55 / 16 * 16 + (if wp.getLsbD 63 then 2 ^ 63 else 0)
    (List.range n).find? (fun i => base ≤ addr + i && addr + i < base + 16 && mask.getLsbD (addr + i - base))
      |>.map (addr + ·)
  else none

/-- The watchpoint that an access meets: its number and the first matching byte (log 35, DEDUCED). -/
def CReg.watch (r : CReg) (addr n : Nat) (write : Bool) : Option (Nat × Nat) :=
  (List.range 4).findSome? fun i =>
    (wpMatch (r.wp[i % 4]'(Nat.mod_lt _ (by decide))) (r.wpm[i % 4]'(Nat.mod_lt _ (by decide))) addr n write).map fun a => (i, a)

/-- Puts a watchpoint's cause among those that pend: one cause stands for one instruction, that of its lowest-numbered watchpoint (22 R558;
log 35, DEDUCED). -/
def addWatch (c : CauseRec) (ps : List CauseRec) : List CauseRec :=
  match ps.find? fun p => p.code == 0x38 && p.unit == c.unit with
  | none => ps ++ [c]
  | some p => if c.detail < p.detail then ps.map fun q => if q == p then c else q else ps

/-- Records the watchpoint that an access of an engine meets; the access has been performed (R420). -/
def State.noteWatch (s : State) (e : Engine) (addr n : Nat) (write : Bool) : State :=
  if s.inShadow then s
  else match s.core.cr.watch addr n write with
    | none => s
    | some (i, a) => s.modCr fun r => { r with pending := addWatch { causeAt s e 0x38 i with addr := BitVec.ofNat 64 a } r.pending }

/-! ## Accesses to generic memory -/

/-- Bytes that a remote Evril returns (R450): free (log 8, DESIGN CHOICE). -/
def remoteBytes (s : State) : Nat → List Byte × State
  | 0 => ([], s)
  | n + 1 =>
    let r := remoteBytes s.tick n
    (Config.remoteByte s.choice :: r.1, r.2)

/-- The fault of a remote load that no port carries (R451; 20 R518): the remote epoch fault of A, the translation fault of
C, TRAPWALK.EPC set. -/
def epochCause (s : State) (e : Engine) (va : Word) : CauseRec :=
  xCause s e va ⟨if e == .a then 0x18 else 0x10, 0, false, true, 0⟩

/-- A read of n bytes, within a page, by an engine: the bytes, the newest write returned, the port and number of a remote read. -/
def State.loadGen (s : State) (e : Engine) (t : TlbId) (va : Word) (n : Nat) :
    Except Stop (List Byte × Option Write × List (Nat × Nat) × State) := do
  let (loc, s1) ← s.translate e t false va
  match loc with
  | .cell pa =>
    let s1 ← s1.okRead e pa n
    let (bs, w, s2) := s1.readBy e pa n
    .ok (bs, w, [], (s2.noteWatch e va.toNat n false).transfer pa s2.core.cr.acctid.toNat)
  | .remote node rvf =>
    match s1.askFar (engNum e) s1.core.id (s1.core.cr.lvl == 0) node rvf va.toNat n with
    | none => .error (.trap (epochCause s1 e va))
    | some ask =>
      let (bs, s2) := remoteBytes { s1 with outbox := s1.outbox ++ [Sent.load ask] } n
      .ok (bs, none, [(ask.port, ask.tag)],
        (s2.noteWatch e va.toNat n false).transferOut ask.port s2.core.cr.acctid.toNat (.load ask))

/-- A dropped remote write: the port counts it, and an event tells the engine, the launch, the address and the port
(20 R521, 22 R554; log 64, DEDUCED). -/
def State.dropWrite (s : State) (vf unit launch va port : Nat) : State :=
  let up := fun (l : Link) => { l with dropc := min (l.dropc + 1) 0xFFFF }
  { s with plat := { s.plat with links := s.plat.links.mapIdx fun i l => if i == port then up l else l } }.alert
    (0x3000 + vf) 1 [unit, launch, va, port]

/-- A write toward a remote node, whose port, number and target are still to be set: it leaves by the port toward the node, a
transfer of an account there, or is dropped (R451; 20 R518; log 17, DESIGN CHOICE). -/
def State.sendWrite (s : State) (w : FarWrite) (acct : Nat) (cls : Nat := 0) : State :=
  let t := s.farPiece w.node w.rvf w.va (.gen w.vf w.va) w.rel
  match s.portTo w.node with
  | some port =>
    let out := Sent.write { w with port := port, wid := s.nextWrite }
    { t with outbox := t.outbox ++ [out] }.transferOut port acct out cls
  | none => t.dropWrite w.vf w.unit (w.key % 2 ^ 32) w.va 0xFFFF

/-- A remote write of an engine of the core in focus. -/
def State.farWrite (s : State) (e : Engine) (node rvf va : Nat) (bs : List Byte) (rel : Option View) : FarWrite :=
  { port := 0, wid := 0, unit := engNum e, core := s.core.id, cmd := none, key := s.core.launch, vf := s.vf, node := node
    rvf := rvf, va := va, bytes := bs, rel := rel }

/-- A write of one atomic piece, or of more bytes of the piece before it, by an engine at a translated address, with what it releases. The writes of run 1 or 2 of
a dual launch are kept, not performed (16 R478; log 15, DEDUCED). -/
def State.putLoc (s : State) (e : Engine) (loc : PLoc) (va : Word) (bs : List Byte) (rel : Option View) (more : Bool := false) : State :=
  let key := s.core.launch
  let s := s.logWrite key va.toNat bs
  if s.keeps key then s.noteWatch e va.toNat bs.length true
  else match loc with
  | .cell pa =>
    ((((s.spill pa bs).writeBy e pa bs (.gen s.vf va.toNat) rel more).markDirty s.vf pa).transfer pa
      s.core.cr.acctid.toNat).noteWatch e va.toNat bs.length true
  | .remote node rvf =>
    (s.sendWrite (s.farWrite e node rvf va.toNat bs rel) s.core.cr.acctid.toNat).noteWatch e va.toNat bs.length true

/-- The pieces of physical storage that a write to a location touches. -/
def PLoc.pieces (n : Nat) : PLoc → List (Nat × Nat)
  | .cell pa => [(pa, n)]
  | .remote _ _ => []

/-! ## Responses (06 R190, R232) -/

/-- A read is on its way: its record, whose number a LOAD_RESPONSE names. -/
def State.await (s : State) (e : Engine) (arr : Arrive) (far : List (Nat × Nat)) (elems : List (Nat × Nat) := []) :
    State × Nat :=
  ({ s with
      reads := s.reads ++ [⟨s.nextId, s.core.id, e, arr, s.pcOf e, [], far, true, elems,
        ((s.eng e).walked, (s.eng e).levels), s.cycle⟩]
      nextId := s.nextId + 1 }, s.nextId)

/-- A read that its engine waits for (a response stall, R190). -/
def State.awaitReg (s : State) (e : Engine) (l : Land) (far : List (Nat × Nat)) (elems : List (Nat × Nat) := []) :
    State × Nat :=
  let r := s.await e (.reg l) far elems
  (r.1.modEng e fun x => { x with stall := some r.2 }, r.2)

/-! ## Objects and their scopes (04 R127, R128; 09 R341) -/

def oidKind (o : BitVec 32) : Nat := (o.extractLsb' 28 4).toNat
def oidScope (o : BitVec 32) : Nat := (o.extractLsb' 25 3).toNat
def oidPlain (o : BitVec 32) : Nat := (o.extractLsb' 21 2).toNat
def oidVale (o : BitVec 32) : Nat := (o.extractLsb' 16 5).toNat

def State.syncObj (s : State) (o : BitVec 32) : Option SyncObj := s.syncs.find? (·.oid == o)

/-- The scope of an object contains a core (R128; log 59, DEDUCED). -/
def scopeHas (x : SyncObj) (c : CoreId) (pod : Option Nat) : Bool :=
  match oidScope x.oid with
  | 0 => x.owner == c
  | 1 => oidPlain x.oid == c.plain && oidVale x.oid == c.vale
  | 2 => oidPlain x.oid == c.plain
  | 3 => true
  | 4 => x.pod.isSome && x.pod == pod
  | _ => false

/-- The core in focus may name an object (R128). -/
def State.inScope (s : State) (o : BitVec 32) : Bool :=
  match s.syncObj o with
  | some x => scopeHas x s.core.id s.core.pod
  | none => false

/-- The channel object to which a byte is bound. -/
def State.channelOf (s : State) (l : Loc) : Option (BitVec 32) :=
  match s.objectOf l with
  | some o => if oidKind o == 3 then some o else none
  | none => none

end Sys2Proof.Machine
end

