-- ==== Sys2Proof/Machine/Operands.lean ====
section
/-! DEFINITION. Operand forms: how each engine reads its sources and writes its destinations (05_encoding R157 to R167,
06 R202, R203, R229, 07 R244). -/

namespace Sys2Proof.Machine

open Sys2Proof

/-- The second source of a C operation (05 R173). -/
def State.cSrc (s : State) : CSrc → Word
  | .reg r => s.sReg r
  | .imm i => sextW i

/-- The second source of an A operation. -/
def State.aOp (s : State) : AOp → Word
  | .src r => s.aSrc r
  | .imm i => sextW i

/-- The value of an immediate of LI and ALI. -/
def immVal : Imm → Word
  | .short i => sextW i
  | .long i => sextW i

/-- How far LIH and AHI shift, and what they shift in (06 R207). -/
def immShift (x : Word) : Imm → Word
  | .short i => (x <<< (12 : Nat)) ||| zextW i
  | .long i => (x <<< (24 : Nat)) ||| zextW i

/-- The number of words of an operand that may need an extension word. -/
def csrcWords : CSrc → Nat
  | .reg _ => 1
  | .imm _ => 2
def aopWords : AOp → Nat
  | .src _ => 1
  | .imm _ => 2
def immWords : Imm → Nat
  | .short _ => 1
  | .long _ => 2
def optWords {α : Type} : Option α → Nat
  | none => 1
  | some _ => 2
def xWords (x : Bool) : Nat := if x then 2 else 1

/-- The count register of a LOOP (05 R170). -/
def State.loopReg (s : State) : LoopReg → Word
  | .c r => s.sReg r
  | .a r => s.aSrc r
  | .m r => s.eReg .m r
  | .v r => s.eReg .v r
  | .s r => s.eReg .s r

/-- n copies of a w-bit value in a block. -/
def splat (w : Nat) (x : Nat) : Block := BitVec.ofNat 2048 (packLanes w (fun _ => x) (2048 / w))

/-- What RECV writes: a register, or, on V, the entry in every 64 bits of a v register (06 R202). -/
def recvLand (x : Word) : RecvDst → Land
  | .a r => .a r x
  | .m r => .e r x
  | .v r => .v r (splat 64 x.toNat)
  | .s r => .e r x

/-- What LCRD writes (06 R203). -/
def State.lcrdLand (s : State) (x : Word) : LcrdDst → Land
  | .c r => s.cLand r x
  | .a r => .a r x
  | .m r => .e r x
  | .v r => .v r (splat 32 x.toNat)
  | .s r => .e r x

/-- The queue that QCLR names. -/
def qclrId : QclrQ → QId
  | .aIq => .iq .a
  | .mMq q => .mq q
  | .mLq q => .lq q
  | .mIq => .iq .m
  | .vLq q => .lq q
  | .vIq => .iq .v
  | .sSq q => .sq q
  | .sSaq => .saq
  | .sIq => .iq .s

/-! ## V lanes (05 R161, R166; 07 R244) -/

/-- Lane j of w bits. -/
def lane (w : Nat) (x : Block) (j : Nat) : Nat := (x.extractLsb' (w * j) w).toNat

/-- A block of lanes. -/
def ofLanes (w : Nat) (g : Nat → Nat) : Block := BitVec.ofNat 2048 (packLanes w g (2048 / w))

/-- The code of lane index j in a type (R161). -/
def laneIndex (t : Fmt) (j : Nat) : Nat :=
  match t with
  | .i8 => j % 256
  | .i32 => j
  | _ => (toFmt (.ofInt j) t true).1

/-- A V source that needs no pop. -/
def State.vPlain (s : State) (t : Fmt) : VSrc → Block
  | .v r => s.core.r.v[r]
  | .zero => 0
  | .lane => ofLanes t.width (laneIndex t)
  | .lq _ => 0
  | .iq => 0

/-- A V source, popped at issue when it is a queue (R159). -/
def State.vRead (s : State) (t : Fmt) (a : VSrc) : Except Stop (Block × State) :=
  match a with
  | .lq q => do
    let (x, r) ← s.core.r.qPop (.lq q)
    .ok (x, s.modR fun _ => r)
  | .iq => do
    let (x, r) ← s.core.r.iqPop .v
    .ok (splat t.width (x.toNat % 2 ^ t.width), s.modR fun _ => r)
  | a => .ok (s.vPlain t a, s)

/-- A queue that a V source names. -/
def vsrcQueue : VSrc → Bool
  | .lq _ => true
  | .iq => true
  | _ => false

/-- Two V sources: one queue named twice gives one entry to both (R160). -/
def State.vRead2 (s : State) (t : Fmt) (a b : VSrc) : Except Stop (Block × Block × State) := do
  let (x, s1) ← s.vRead t a
  if vsrcQueue a && a == b then .ok (x, x, s1)
  else
    let (y, s2) ← s1.vRead t b
    .ok (x, y, s2)

/-- The active lanes of a payload: bit j of the mask, inverted or not; every lane for k0 (R166). -/
def State.vActive (s : State) (p : VPay) (j : Nat) : Bool :=
  if p.msk == 0 then true else (s.core.r.k[p.msk].getLsbD j) != p.inv

/-- The queue of a V destination. -/
def vdstQ : VDst → Option QId
  | .sq0 => some (.sq 0)
  | .mq q => some (.mq q)
  | .v _ => none
  | .discard => none

/-- The prior value of a destination. -/
def State.vOld (s : State) : VDst → Block
  | .v r => s.core.r.v[r]
  | _ => 0

/-- Reserves the entry of a queue destination (07 R245); answers its identity. -/
def State.vReserve (s : State) (d : VDst) : Except Stop (Option (QId × Nat) × State) :=
  match vdstQ d with
  | none => .ok (none, s)
  | some q =>
    if s.core.r.qRoom q 1 then
      let r := s.core.r.qReserve q
      .ok (some (q, r.2), s.modR fun _ => r.1)
    else .error (.stall .resv)

/-- Sends a whole result to its destination with latency L (07 R244, R245). -/
def State.vPut (s : State) (d : VDst) (slot : Option (QId × Nat)) (lat : Nat) (x : Block) : State :=
  match slot with
  | some (q, sid) => s.post .v lat (.slot q sid x)
  | none =>
    match d with
    | .v r => s.post .v lat (.v r x)
    | _ => s

/-- The result of a lane form: active lanes computed, inactive ones kept, zeroed, or zero in a queue (R167, R244). -/
def State.vMerge (s : State) (d : VDst) (p : VPay) (w : Nat) (g : Nat → Nat) : Block :=
  let old := s.vOld d
  ofLanes w fun j =>
    if s.vActive p j then g j
    else match d with
      | .v _ => if p.zm then 0 else lane w old j
      | _ => 0

/-! ## M operands (05 R162, 08 R287, R290) -/

/-- The number of a row operand (R148, R162). -/
def State.accNum (s : State) : Acc → Nat
  | .num r => r.val
  | .e r => (s.eReg .m r).toNat % 512

/-- The tile index of an operand (R287). -/
def State.tileNum (s : State) : Tile → Nat
  | .zero => 0
  | .e r => (s.eReg .m r).toNat % 2 ^ 32

/-- The queue that an M source names. -/
def mqId : MQ → QId
  | .mq q => .mq q
  | .lq q => .lq q

/-- A descriptor pair (d2k, d2k+1). -/
def State.pair (s : State) (k : Fin 4) : Word × Word :=
  (s.core.r.d[2 * k.val]'(by omega), s.core.r.d[2 * k.val + 1]'(by omega))

/-! ## Registers that other engines see by chains alone (06 R242, 02 R83) -/

/-- Notes that an engine writes register k of those of `descCell`, which held `old`: the new value takes its place
among the values that another engine may see. -/
def State.noteDesc (s : State) (e : Engine) (k : Nat) (old : Word) : State :=
  let w : Write := ⟨s.nextWrite, descCell s.core.id k, valBytes old.toNat 8, .desc s.core.id.core k, none⟩
  { s with hist := w :: s.hist }.modEng e fun x => { x with view := x.view ||| 1 <<< s.nextWrite }

/-- The value of such a register, now `now`, that an engine sees: the newest one that a chain carried to it, or a later
one, whole (log 36, DESIGN CHOICE). -/
def State.seeDesc (s : State) (e : Engine) (k : Nat) (now : Word) : Word × State :=
  let r := readHist s (s.party e) (descCell s.core.id k) 8 (valBytes now.toNat 8)
  (BitVec.ofNat 64 (bytesVal r.bytes), r.st.setParty e r.party)

/-- The value that M sees in a descriptor register (log 36, DESIGN CHOICE). -/
def State.descRead (s : State) (k : Fin 8) : Word × State := s.seeDesc .m k.val s.core.r.d[k]

/-! ## The format table (02 R79 to R83) -/

/-- An entry's fields (R79). -/
def fmtA (x : BitVec 20) : BitVec 6 := x.extractLsb' 0 6
def fmtB (x : BitVec 20) : BitVec 6 := x.extractLsb' 6 6
def fmtO (x : BitVec 20) : BitVec 6 := x.extractLsb' 12 6
def fmtScm (x : BitVec 20) : Bool := x.getLsbD 18
def fmtSat (x : BitVec 20) : Bool := x.getLsbD 19

/-- The number of the entry that FMTSRC chooses for M or V (R81, R82): a loop level active in the engine, else the
fixed entry. -/
def State.fmtIndex (s : State) (e : Engine) (src : Word) : Fin 16 :=
  let w := if e == .v then src >>> (8 : Nat) else src
  let lv := (w.extractLsb' 0 3).toNat
  let fixed := (w.extractLsb' 4 4).toNat
  let n := if lv < 4 then
      match (s.eng e).levels[lv]? with
      | some l => l.index
      | none => fixed
    else fixed
  ⟨n % 16, Nat.mod_lt _ (by decide)⟩

/-- The active entry of M or V: its number, the entry whole, the state. -/
def State.fmtEntry (s : State) (e : Engine) : Fin 16 × BitVec 20 × State :=
  let (src, s1) := s.seeDesc e 24 (zextW s.core.cr.fmtsrc)
  let i := s1.fmtIndex e src
  let (x, s2) := s1.seeDesc e (8 + i.val) (zextW s.core.cr.fmte[i])
  (i, x.setWidth 20, s2)

/-- The format-entry cause (R80, 13 R400). -/
def fmtCause (s : State) (e : Engine) (i : Fin 16) (check : Nat) : Stop :=
  .trap (causeAt s e 0x08 (i.val + check <<< 4))

end Sys2Proof.Machine
end

