-- ==== Sys2Proof/Machine/Flags.lean ====
section
/-! DEFINITION. Saturation, overflow counts and comparisons: what the spec computes beside a result (02 R75 to R78,
06 R204 to R208, 07 R250, R262). The Evril has no condition codes; f0 to f15 are counting semaphores (01 R27). -/

namespace Sys2Proof.Machine

open Sys2Proof

/-- first of sat(x, −2^63, 2^63 − 1) as a doubleword (R75, R204). -/
def satW (x : Int) : Word :=
  if x < -(2 ^ 63) then BitVec.ofInt 64 (-(2 ^ 63))
  else if x > 2 ^ 63 - 1 then BitVec.ofInt 64 (2 ^ 63 - 1)
  else BitVec.ofInt 64 x

/-- first of sat(x, lowest, highest) of a w-bit integer type. -/
def satInt (w : Nat) (x : Int) : Nat :=
  let lo : Int := -(2 ^ (w - 1))
  let hi : Int := 2 ^ (w - 1) - 1
  ((BitVec.ofInt w (if x < lo then lo else if x > hi then hi else x))).toNat

/-- x as a w-bit integer, its low bits kept (00_scope R8). -/
def wrapInt (w : Nat) (x : Int) : Nat := (BitVec.ofInt w x).toNat

/-- A w-bit lane as a signed integer. -/
def laneInt (w : Nat) (x : Nat) : Int := (BitVec.ofNat w x).toInt

/-- The conditions of VCMP on values: eq, ne, lt, le, gt, ge, un, ord (R262). -/
def cmpNum (c : Nat) (x y : Num) : Bool :=
  let un := x.isNan || y.isNan
  match c with
  | 0 => x.eq y
  | 1 => un || !(x.eq y)
  | 2 => x.lt y
  | 3 => x.le y
  | 4 => y.lt x
  | 5 => y.le x
  | 6 => un
  | _ => !un

/-- What additions that wait for remote writes will add to a flag of a core. -/
def Core.flagHeld (c : Core) (f : Fin 16) : Nat :=
  let sum := fun (x : Eng) => x.mkq.foldl (fun n m => m.adds.foldl (fun n a => if a.1 == f then n + a.2 else n) n) 0
  sum c.r.eC + sum c.r.eS

/-- FSET: room in the flag, and the addition, which releases the core object: at once, or once the remote writes that it carries are
performed (01 R27, R28; 04 R131). -/
def State.flagAdd (s : State) (e : Engine) (f : Fin 16) (n : Nat) : Except Stop State := do
  orStall (s.core.r.f[f].room (n + s.core.flagHeld f)) (.flagRoom f)
  let wids := s.unacked e
  .ok (if wids.isEmpty then s.modR fun r => { r with f := r.f.set f (r.f[f].add n (s.eng e).view) }
    else s.modEng e fun x => { x with mkq := x.mkq ++ [⟨none, 0, [], wids, [], [(f, n)]⟩] })

/-- FWAIT: tests the flag without this cycle's additions, subtracts, and acquires what was released to it. -/
def State.flagTake (s : State) (e : Engine) (f : Fin 16) (n : Nat) : Except Stop State := do
  let x := s.core.r.f[f]
  orStall (n ≤ x.val) (.flag f)
  .ok ((s.modR fun r => { r with f := r.f.set f { x with val := x.val - n, sub := x.sub + n } }).acquire e x.view)

end Sys2Proof.Machine
end

