-- ==== Sys2Proof/Machine/Common.lean ====
section
/-! DEFINITION. The common block, opcodes 0x00 to 0x0C (05 R168 to R171, 06 R193 to R203). -/

namespace Sys2Proof.Machine

open Sys2Proof

/-- NOP (R193). -/
def execNop (m : Marks) (e : Engine) (s : State) : Host.Outcome State Fault Refusal :=
  issue e 1 m doneOf s

/-- Opens the innermost free level over the len words from start on (R194). -/
def openLoop (e : Engine) (words len count : Nat) (s : State) : Except Stop Done :=
  let x := s.eng e
  if count == 0 then .ok { st := s, skip := len }
  else if 4 ≤ x.levels.length then .error (.trap (causeAt s e 0x04 0))
  else
    let start := x.pc + words
    .ok { st := s.modEng e fun x => { x with levels := x.levels ++ [⟨start, start + len, count, 0⟩] } }

/-- LOOP (R194). -/
def execLoop (m : Marks) (r : LoopReg) (len : BitVec 12) (s : State) : Host.Outcome State Fault Refusal :=
  issue r.engine 1 m (fun t => openLoop r.engine 1 len.toNat ((t.loopReg r).toNat % 2 ^ 32) t) s

/-- The words and the count of a LOOPI. -/
def loopiWords : LoopCnt → Nat
  | .short _ => 1
  | .long _ => 2
def loopiCount : LoopCnt → Nat
  | .short n => n.toNat
  | .long n => n.toNat

/-- LOOPI (R194). -/
def execLoopi (m : Marks) (e : Engine) (n : LoopCnt) (len : BitVec 12) (s : State) :
    Host.Outcome State Fault Refusal :=
  issue e (loopiWords n) m (fun t => openLoop e (loopiWords n) len.toNat (loopiCount n) t) s

/-- The target of a branch whose first word an engine stands at (R169). -/
def branchTarget (s : State) (e : Engine) (off : BitVec 16) : Nat := ((s.pcOf e : Int) + off.toInt).toNat

/-- BR (R197). -/
def execBr (m : Marks) (e : Engine) (kill : Bool) (off : BitVec 16) (s : State) : Host.Outcome State Fault Refusal :=
  if e == .c && s.inShadow then .next (doubleTrap 0x01 s)
  else issueBranch e 1 m kill (fun t => .ok (some (branchTarget t e off))) (fun _ t => .ok t) s

/-- BCQ (R197, R34). -/
def execBcq (m : Marks) (e : Engine) (kill cut : Bool) (off : BitVec 16) (s : State) :
    Host.Outcome State Fault Refusal :=
  if e == .c && s.inShadow then .next (doubleTrap 0x01 s)
  else issueBranch e 1 m kill
    (fun t => do
      let (b, _) ← t.core.r.condPop e
      .ok (if b then some (branchTarget t e off) else none))
    (fun taken t => do
      let (_, r) ← t.core.r.condPop e
      let t := t.modR fun _ => r
      if taken && cut then t.pushCuts e else .ok t) s

/-- FSET (R198; log 34, DEDUCED). -/
def execFset (m : Marks) (e : Engine) (f : Fin 16) (n : BitVec 8) (s : State) : Host.Outcome State Fault Refusal :=
  issueKernel e 1 m (fun t => do
    let t ← t.flagAdd e f n.toNat
    .ok { st := t }) s

/-- FWAIT (R198). -/
def execFwait (m : Marks) (e : Engine) (f : Fin 16) (n : BitVec 8) (s : State) : Host.Outcome State Fault Refusal :=
  issueKernel e 1 m (fun t => do
    let t ← t.flagTake e f n.toNat
    .ok { st := t }) s

/-- The reads of an engine of the core in focus whose responses have not arrived. -/
def State.readsOf (s : State) (e : Engine) : List Nat :=
  (s.reads.filter fun r => r.core == s.core.id && r.eng == e).map Read.id

/-- The advancing cycles until the last operation of an engine has landed. -/
def State.lastLand (s : State) (e : Engine) : Nat :=
  ((s.eng e).pend.foldl (fun n (p : Pend) => max n p.rem) 0).max
    ((s.eng e).mkq.foldl (fun n (x : MarkWait) => max n x.rem) 0)

/-- Every earlier operation of an engine has completed its effects. -/
def State.drained (s : State) (e : Engine) : Bool :=
  (s.eng e).pend.isEmpty && (s.eng e).mkq.isEmpty && (s.readsOf e).isEmpty && (s.unacked e).isEmpty

/-- An engine halts (R17, R44, R45). -/
def State.halt (s : State) (e : Engine) (notify : Bool) : State :=
  s.modEng e fun x => { x with halted := true, live := false, notified := notify }

/-- MARK without notify: it issues, and retires when the operations before it have completed (R43, R199). -/
def plainMark (e : Engine) (n : BitVec 8) (toks : List (Fin 10)) (t : State) : State :=
  (t.modEng e fun x => { x with mkq := x.mkq ++ [⟨some n, t.lastLand e, t.readsOf e, t.unacked e, toks, []⟩] }).modCore (·.retireMarks e)

/-- MARK (R43, R44, R199). The signals of a plain MARK go out when it retires. A notify MARK waits, its cycles
advancing, until the operations before it have completed; it then retires and its engine halts. -/
def execMark (m : Marks) (e : Engine) (n : BitVec 8) (notify : Bool) (s : State) : Host.Outcome State Fault Refusal :=
  issueKernel e 1 m (fun t =>
    if notify then
      if t.drained e then
        .ok { st := (t.modEng e fun x => { x with marks := x.marks ||| (1#256 <<< n.toNat) }).halt e true }
      else .error (.join .none)
    else .ok { st := plainMark e n (signalList e m) t, own := true }) s

/-- HALT (R45, R199): it waits as a MARK does, and halts its engine. -/
def execHalt (m : Marks) (e : Engine) (s : State) : Host.Outcome State Fault Refusal :=
  issueKernel e 1 m (fun t => if t.drained e then .ok { st := t.halt e false } else .error (.join .none)) s

/-- An engine arrives at its BREATH: its waits pop and its signals reserve once; the cycles it waits advance, so that
what it has in flight completes (R55). BREATH_SWITCH moves it on (R56; log 33, DEDUCED). -/
def arriveBreath (e : Engine) (m : Marks) (s : State) : Except Stop State := do
  gate e 1 s
  if (s.eng e).wait == .breath then .ok (joined e .breath s)
  else
    let s1 ← popWaits e (waitList e m) (s.settle e)
    let s2 ← reserveSignals (signalList e m) s1
    .ok (s2.modEng e fun x => { x with wait := .breath, back := none })

/-- BREATH (R200, R55; log 33, DEDUCED). -/
def execBreath (m : Marks) (e : Engine) (_k : BitVec 5) (s : State) : Host.Outcome State Fault Refusal :=
  if e == .c && s.inShadow then .next (doubleTrap 0x01 s)
  else match arriveBreath e m s with
    | .ok t => .next t
    | .error st => stopped e st s

/-- Discards the entries of a queue up to its first cut marker (R36). -/
def State.clearQueue (s : State) (q : QId) : Except Stop State :=
  let r := s.core.r
  match q with
  | .lq i => match r.lq[i].clearToCut with
    | some f => .ok (s.modR fun r => { r with lq := r.lq.set i f })
    | none => .error (.stall .pop)
  | .mq i => match r.mq[i].clearToCut with
    | some f => .ok (s.modR fun r => { r with mq := r.mq.set i f })
    | none => .error (.stall .pop)
  | .sq i => match r.sq[i].clearToCut with
    | some f => .ok (s.modR fun r => { r with sq := r.sq.set i f })
    | none => .error (.stall .pop)
  | .saq => match r.saq.clearToCut with
    | some f => .ok (s.modR fun r => { r with saq := f })
    | none => .error (.stall .pop)
  | .iq e => match r.iq[inIdx e].clearToCut with
    | some f => .ok (s.modR fun r => { r with iq := r.iq.set (inIdx e) f })
    | none => .error (.stall .pop)
  | .cond e => match r.cond[inIdx e].clearToCut with
    | some f => .ok (s.modR fun r => { r with cond := r.cond.set (inIdx e) f })
    | none => .error (.stall .pop)

/-- QCLR (R201). -/
def execQclr (m : Marks) (q : QclrQ) (s : State) : Host.Outcome State Fault Refusal :=
  issue q.engine 1 m (fun t => do
    let t ← t.clearQueue (qclrId q)
    .ok { st := t }) s

/-- RECV (R202). -/
def execRecv (m : Marks) (d : RecvDst) (s : State) : Host.Outcome State Fault Refusal :=
  issue d.engine 1 m (fun t => do
    let (x, r) ← t.core.r.iqPop d.engine
    .ok { st := (t.modR fun _ => r).post d.engine 1 (recvLand x d) }) s

/-- The iteration index of a level; an inactive level reads as 0 (R203). -/
def State.loopIndex (s : State) (e : Engine) (lv : Nat) : Word :=
  match (s.eng e).levels[lv]? with
  | some l => BitVec.ofNat 64 l.index
  | none => 0

/-- LCRD (R203). -/
def execLcrd (m : Marks) (d : LcrdDst) (lv : BitVec 2) (s : State) : Host.Outcome State Fault Refusal :=
  issueKernel d.engine 1 m (fun t =>
    .ok { st := t.post d.engine 1 (t.lcrdLand (t.loopIndex d.engine lv.toNat) d) }) s

end Sys2Proof.Machine
end

