-- ==== Sys2Proof/Machine/CInt.lean ====
section
/-! DEFINITION. C's integer operations and immediates (06 R204 to R207). -/

namespace Sys2Proof.Machine

open Sys2Proof

/-- The shared form of ADD to ADDQ: the result of the two sources, and of sD's prior value, lands after L cycles. -/
def aluOp (m : Marks) (d a : Fin 32) (b : CSrc) (lat : Nat) (f : Word → Word → Word → Word) (s : State) :
    Host.Outcome State Fault Refusal :=
  issue .c (csrcWords b) m
    (fun t => .ok { st := t.putC lat d (f (t.sReg a) (t.cSrc b) (t.sReg d)), lat := lat }) s

/-- ADD (R204). -/
def addRes (a b _d : Word) : Word := a + b
def execAdd (m : Marks) (d a : Fin 32) (b : CSrc) (s : State) : Host.Outcome State Fault Refusal :=
  aluOp m d a b 1 addRes s

/-- SUB (R204). -/
def subRes (a b _d : Word) : Word := a - b
def execSub (m : Marks) (d a : Fin 32) (b : CSrc) (s : State) : Host.Outcome State Fault Refusal :=
  aluOp m d a b 1 subRes s

/-- MUL (R204). -/
def mulRes (a b _d : Word) : Word := a * b
def execMul (m : Marks) (d a : Fin 32) (b : CSrc) (s : State) : Host.Outcome State Fault Refusal :=
  aluOp m d a b 3 mulRes s

/-- MULH (R204). -/
def mulhRes (a b _d : Word) : Word := BitVec.ofInt 64 (a.toInt * b.toInt / 2 ^ 64)
def execMulh (m : Marks) (d a : Fin 32) (b : CSrc) (s : State) : Host.Outcome State Fault Refusal :=
  aluOp m d a b 3 mulhRes s

/-- MULHU (R204). -/
def mulhuRes (a b _d : Word) : Word := BitVec.ofNat 64 (a.toNat * b.toNat / 2 ^ 64)
def execMulhu (m : Marks) (d a : Fin 32) (b : CSrc) (s : State) : Host.Outcome State Fault Refusal :=
  aluOp m d a b 3 mulhuRes s

/-- DIV (R204, R205). -/
def divRes (a b _d : Word) : Word := if b == 0 then BitVec.ofInt 64 (-1) else BitVec.ofInt 64 (a.toInt.tdiv b.toInt)
def execDiv (m : Marks) (d a : Fin 32) (b : CSrc) (s : State) : Host.Outcome State Fault Refusal :=
  aluOp m d a b 12 divRes s

/-- DIVU (R204, R205). -/
def divuRes (a b _d : Word) : Word := if b == 0 then BitVec.ofInt 64 (-1) else BitVec.ofNat 64 (a.toNat / b.toNat)
def execDivu (m : Marks) (d a : Fin 32) (b : CSrc) (s : State) : Host.Outcome State Fault Refusal :=
  aluOp m d a b 12 divuRes s

/-- REM (R204, R205). -/
def remRes (a b _d : Word) : Word := if b == 0 then a else BitVec.ofInt 64 (a.toInt - b.toInt * a.toInt.tdiv b.toInt)
def execRem (m : Marks) (d a : Fin 32) (b : CSrc) (s : State) : Host.Outcome State Fault Refusal :=
  aluOp m d a b 12 remRes s

/-- REMU (R204, R205). -/
def remuRes (a b _d : Word) : Word := if b == 0 then a else BitVec.ofNat 64 (a.toNat - b.toNat * (a.toNat / b.toNat))
def execRemu (m : Marks) (d a : Fin 32) (b : CSrc) (s : State) : Host.Outcome State Fault Refusal :=
  aluOp m d a b 12 remuRes s

/-- AND (R204). -/
def andRes (a b _d : Word) : Word := a &&& b
def execAnd (m : Marks) (d a : Fin 32) (b : CSrc) (s : State) : Host.Outcome State Fault Refusal :=
  aluOp m d a b 1 andRes s

/-- OR (R204). -/
def orRes (a b _d : Word) : Word := a ||| b
def execOr (m : Marks) (d a : Fin 32) (b : CSrc) (s : State) : Host.Outcome State Fault Refusal :=
  aluOp m d a b 1 orRes s

/-- XOR (R204). -/
def xorRes (a b _d : Word) : Word := a ^^^ b
def execXor (m : Marks) (d a : Fin 32) (b : CSrc) (s : State) : Host.Outcome State Fault Refusal :=
  aluOp m d a b 1 xorRes s

/-- SLL (R204). -/
def sllRes (a b _d : Word) : Word := a <<< (b.toNat % 64)
def execSll (m : Marks) (d a : Fin 32) (b : CSrc) (s : State) : Host.Outcome State Fault Refusal :=
  aluOp m d a b 1 sllRes s

/-- SRL (R204). -/
def srlRes (a b _d : Word) : Word := a >>> (b.toNat % 64)
def execSrl (m : Marks) (d a : Fin 32) (b : CSrc) (s : State) : Host.Outcome State Fault Refusal :=
  aluOp m d a b 1 srlRes s

/-- SRA (R204). -/
def sraRes (a b _d : Word) : Word := a.sshiftRight (b.toNat % 64)
def execSra (m : Marks) (d a : Fin 32) (b : CSrc) (s : State) : Host.Outcome State Fault Refusal :=
  aluOp m d a b 1 sraRes s

/-- MIN (R204). -/
def minRes (a b _d : Word) : Word := if a.slt b then a else b
def execMin (m : Marks) (d a : Fin 32) (b : CSrc) (s : State) : Host.Outcome State Fault Refusal :=
  aluOp m d a b 1 minRes s

/-- MAX (R204). -/
def maxRes (a b _d : Word) : Word := if a.slt b then b else a
def execMax (m : Marks) (d a : Fin 32) (b : CSrc) (s : State) : Host.Outcome State Fault Refusal :=
  aluOp m d a b 1 maxRes s

/-- MINU (R204). -/
def minuRes (a b _d : Word) : Word := if a.ult b then a else b
def execMinu (m : Marks) (d a : Fin 32) (b : CSrc) (s : State) : Host.Outcome State Fault Refusal :=
  aluOp m d a b 1 minuRes s

/-- MAXU (R204). -/
def maxuRes (a b _d : Word) : Word := if a.ult b then b else a
def execMaxu (m : Marks) (d a : Fin 32) (b : CSrc) (s : State) : Host.Outcome State Fault Refusal :=
  aluOp m d a b 1 maxuRes s

/-- SLT (R204). -/
def sltRes (a b _d : Word) : Word := bitW (a.slt b)
def execSlt (m : Marks) (d a : Fin 32) (b : CSrc) (s : State) : Host.Outcome State Fault Refusal :=
  aluOp m d a b 1 sltRes s

/-- SLTU (R204). -/
def sltuRes (a b _d : Word) : Word := bitW (a.ult b)
def execSltu (m : Marks) (d a : Fin 32) (b : CSrc) (s : State) : Host.Outcome State Fault Refusal :=
  aluOp m d a b 1 sltuRes s

/-- SEQ (R204). -/
def seqRes (a b _d : Word) : Word := bitW (a == b)
def execSeq (m : Marks) (d a : Fin 32) (b : CSrc) (s : State) : Host.Outcome State Fault Refusal :=
  aluOp m d a b 1 seqRes s

/-- SEL: a when sD is not 0, else b. -/
def selRes (a b d : Word) : Word := if d == 0 then b else a
def execSel (m : Marks) (d a : Fin 32) (b : CSrc) (s : State) : Host.Outcome State Fault Refusal :=
  aluOp m d a b 1 selRes s

/-- ADDQ (R204). -/
def addqRes (a b _d : Word) : Word := satW (a.toInt + b.toInt)
def execAddq (m : Marks) (d a : Fin 32) (b : CSrc) (s : State) : Host.Outcome State Fault Refusal :=
  aluOp m d a b 1 addqRes s

/-- LI (R207). -/
def execLi (m : Marks) (d : Fin 32) (i : Imm) (s : State) : Host.Outcome State Fault Refusal :=
  issue .c (immWords i) m (fun t => .ok { st := t.putC 1 d (immVal i) }) s

/-- LIH (R207). -/
def execLih (m : Marks) (d : Fin 32) (i : Imm) (s : State) : Host.Outcome State Fault Refusal :=
  issue .c (immWords i) m (fun t => .ok { st := t.putC 1 d (immShift (t.sReg d) i) }) s

end Sys2Proof.Machine
end

