-- ==== Sys2Proof/Machine/CCtl.lean ====
section
/-! DEFINITION. C's branches, jumps, condition bits and inbound values (06 R208 to R210, R215, R216). -/

namespace Sys2Proof.Machine

open Sys2Proof

/-- The illegal-instruction cause at an engine's word, with a detail code (05 R152, R154). -/
def illegalCause (s : State) (e : Engine) (detail : Nat) : CauseRec :=
  causeAt s e 0x01 detail

/-- The shared form of BEQ to BGEU (R208). -/
def condBr (m : Marks) (a b : Fin 32) (kill cut : Bool) (off : BitVec 16) (p : Word → Word → Bool) (s : State) :
    Host.Outcome State Fault Refusal :=
  issueBranch .c 2 m kill
    (fun t => .ok (if p (t.sReg a) (t.sReg b) then some (branchTarget t .c off) else none))
    (fun taken t => if taken && cut && !t.inShadow then t.pushCuts .c else .ok t) s

/-- BEQ (R208). -/
def beqTaken (a b : Word) : Bool := a == b
def execBeq (m : Marks) (a b : Fin 32) (kill cut : Bool) (off : BitVec 16) (s : State) :
    Host.Outcome State Fault Refusal :=
  condBr m a b kill cut off beqTaken s

/-- BNE (R208). -/
def bneTaken (a b : Word) : Bool := a != b
def execBne (m : Marks) (a b : Fin 32) (kill cut : Bool) (off : BitVec 16) (s : State) :
    Host.Outcome State Fault Refusal :=
  condBr m a b kill cut off bneTaken s

/-- BLT (R208). -/
def bltTaken (a b : Word) : Bool := a.slt b
def execBlt (m : Marks) (a b : Fin 32) (kill cut : Bool) (off : BitVec 16) (s : State) :
    Host.Outcome State Fault Refusal :=
  condBr m a b kill cut off bltTaken s

/-- BGE (R208). -/
def bgeTaken (a b : Word) : Bool := !(a.slt b)
def execBge (m : Marks) (a b : Fin 32) (kill cut : Bool) (off : BitVec 16) (s : State) :
    Host.Outcome State Fault Refusal :=
  condBr m a b kill cut off bgeTaken s

/-- BLTU (R208). -/
def bltuTaken (a b : Word) : Bool := a.ult b
def execBltu (m : Marks) (a b : Fin 32) (kill cut : Bool) (off : BitVec 16) (s : State) :
    Host.Outcome State Fault Refusal :=
  condBr m a b kill cut off bltuTaken s

/-- BGEU (R208). -/
def bgeuTaken (a b : Word) : Bool := !(a.ult b)
def execBgeu (m : Marks) (a b : Fin 32) (kill cut : Bool) (off : BitVec 16) (s : State) :
    Host.Outcome State Fault Refusal :=
  condBr m a b kill cut off bgeuTaken s

/-- JAL (R209). -/
def execJal (m : Marks) (d : Fin 32) (kill : Bool) (off : BitVec 16) (s : State) : Host.Outcome State Fault Refusal :=
  issueBranch .c 2 m kill (fun t => .ok (some (branchTarget t .c off)))
    (fun _ t => .ok (t.putC 1 d (BitVec.ofNat 64 (t.pcOf .c + 2)))) s

/-- JALR (R209): a target outside the store is detail 7, and nothing is written (05 R156). -/
def execJalr (m : Marks) (d a : Fin 32) (kill : Bool) (s : State) : Host.Outcome State Fault Refusal :=
  issueBranch .c 1 m kill
    (fun t =>
      if (t.sReg a).toNat ≤ t.lastWord .c then .ok (some (t.sReg a).toNat)
      else .error (.trap (illegalCause t .c 7)))
    (fun _ t => .ok (t.putC 1 d (BitVec.ofNat 64 (t.pcOf .c + 1)))) s

/-- The engines of a set: bit 0 A, bit 1 M, bit 2 V, bit 3 S (R215). -/
def setEngines (set : BitVec 4) : List Engine :=
  (if set.getLsbD 0 then [.a] else []) ++ (if set.getLsbD 1 then [.m] else []) ++
    (if set.getLsbD 2 then [.v] else []) ++ (if set.getLsbD 3 then [.s] else [])

/-- Pushes a value into the iq of an engine. -/
def Regs.pushIq (r : Regs) (e : Engine) (x : Word) : Regs :=
  { r with iq := r.iq.set (inIdx e) (r.iq[inIdx e].push r.nextSid x), nextSid := r.nextSid + 1 }

/-- Pushes a bit into the condition FIFO of an engine. -/
def Regs.pushCond (r : Regs) (e : Engine) (x : Bool) : Regs :=
  { r with cond := r.cond.set (inIdx e) (r.cond[inIdx e].push r.nextSid x), nextSid := r.nextSid + 1 }

/-- CBC (R215). -/
def execCbc (m : Marks) (set : BitVec 4) (a : Fin 32) (s : State) : Host.Outcome State Fault Refusal :=
  issueKernel .c 1 m (fun t => do
    orStall ((setEngines set).all fun e => t.core.r.qRoom (.cond e) 1) .resv
    .ok { st := t.modR fun r => (setEngines set).foldl (fun r e => r.pushCond e (t.sReg a != 0)) r }) s

/-- SENDV (R216). -/
def execSendv (m : Marks) (set : BitVec 4) (a : Fin 32) (s : State) : Host.Outcome State Fault Refusal :=
  issueKernel .c 1 m (fun t => do
    orStall ((setEngines set).all fun e => t.core.r.qRoom (.iq e) 1) .resv
    .ok { st := t.modR fun r => (setEngines set).foldl (fun r e => r.pushIq e (t.sReg a)) r }) s

end Sys2Proof.Machine
end

