-- ==== Sys2Proof/Machine/CMem.lean ====
section
/-! DEFINITION. C's loads and stores (06 R211 to R213). -/

namespace Sys2Proof.Machine

open Sys2Proof

/-- The size in bytes of an SZ code. -/
def szBytes (sz : BitVec 2) : Nat := 2 ^ sz.toNat

/-- Size, sign extension and offset of a load; 8 bytes at offset 0 without a payload (05 R174). -/
def ldSize : Option LdOpt → Nat
  | none => 8
  | some o => szBytes o.sz
def ldSigned : Option LdOpt → Bool
  | none => false
  | some o => o.sx
def ldOff : Option LdOpt → Word
  | none => 0
  | some o => sextW o.off
def stSize : Option StOpt → Nat
  | none => 8
  | some o => szBytes o.sz
def stOff : Option StOpt → Word
  | none => 0
  | some o => sextW o.off

/-- The first two checks of an access (R212): bits 63:55, then natural alignment. -/
def checkGen (s : State) (e : Engine) (va : Word) (n : Nat) : Except Stop Unit :=
  if va.toNat / 2 ^ 55 != 0 then .error (.trap (xCause s e va ⟨0x10, 0, false, false, 0⟩))
  else if va.toNat % n != 0 then .error (.trap { causeAt s e 0x13 0 with addr := va })
  else .ok ()

/-- A value of n bytes as a doubleword. -/
def extend (n : Nat) (sx : Bool) (bs : List Byte) : Word :=
  let x := bytesVal bs
  if sx && x ≥ 2 ^ (8 * n - 1) then BitVec.ofInt 64 ((x : Int) - 2 ^ (8 * n)) else BitVec.ofNat 64 x

/-- LD (R211, R212): C waits for the response, which writes sD (R190). -/
def execLd (m : Marks) (d a : Fin 32) (o : Option LdOpt) (s : State) : Host.Outcome State Fault Refusal :=
  issue .c (optWords o) m (fun t => do
    let va := t.sReg a + ldOff o
    checkGen t .c va (ldSize o)
    let (bs, _, far, t1) ← t.loadGen .c .c va (ldSize o)
    let (t2, k) := t1.awaitReg .c (t.cLand d (extend (ldSize o) (ldSigned o) bs)) far [(va.toNat, ldSize o)]
    .ok { st := t2, resp := some k }) s

/-- A store of C: translated, then refused on sealed bytes (R212, 03 R112). -/
def storeC (t : State) (va : Word) (n : Nat) : Except Stop (PLoc × State) := do
  checkGen t .c va n
  let (loc, t1) ← t.translate .c .c true va
  if t.sealedRange t.vf va.toNat loc n then
    .error (.trap { causeAt t .c 0x15 0 with addr := va })
  else
    let t2 ← t1.okWrite .c (loc.pieces n)
    .ok (loc, t2)

/-- ST (R211 to R213): a store that passes its checks waits for the pre-image of its page (22 R560). -/
def execSt (m : Marks) (a b : Fin 32) (o : Option StOpt) (s : State) : Host.Outcome State Fault Refusal :=
  issue .c (optWords o) m (fun t => do
    let va := t.sReg a + stOff o
    let (loc, t1) ← storeC t va (stSize o)
    t1.preimage va loc
    .ok { st := t1.putLoc .c loc va (valBytes (t.sReg b).toNat (stSize o)) none }) s

/-- LDAQ (R211, R212): a load, and, where the byte is bound to a channel object, an acquire of what the STRL or STQL
whose value it returns released (04 R130). Where the 8 bytes come from several writes it acquires what the newest of them released (log 84,
DESIGN CHOICE). -/
def execLdaq (m : Marks) (d a : Fin 32) (s : State) : Host.Outcome State Fault Refusal :=
  issue .c 1 m (fun t => do
    let va := t.sReg a
    checkGen t .c va 8
    let (bs, w, far, t1) ← t.loadGen .c .c va 8
    match t.channelOf (.gen t.vf va.toNat) with
    | none =>
      let (t2, k) := t1.awaitReg .c (t.cLand d (extend 8 false bs)) far [(va.toNat, 8)]
      .ok { st := t2, resp := some k }
    | some o =>
      if !t.inScope o then .error (.trap { causeAt t .c 0x28 0 with addr := va })
      else
        let got : View := (w.bind Write.rel).getD 0
        let (t2, k) := (t1.acquire .c got).awaitReg .c (t.cLand d (extend 8 false bs)) far [(va.toNat, 8)]
        .ok { st := t2, resp := some k }) s

/-- STRL (R211 to R213): a store and a release of the channel object bound at its address. It waits for C's remote writes, for the
release takes effect only when what it carries is performed (04 R131; log 77, DESIGN CHOICE). -/
def execStrl (m : Marks) (a b : Fin 32) (s : State) : Host.Outcome State Fault Refusal :=
  issue .c 1 m (fun t => do
    let va := t.sReg a
    let (loc, t1) ← storeC t va 8
    match t.channelOf (.gen t.vf va.toNat) with
    | none => .error (.trap { causeAt t .c 0x28 0 with addr := va })
    | some o =>
      if !t.inScope o then .error (.trap { causeAt t .c 0x28 0 with addr := va })
      else do
        t1.preimage va loc
        orStall (t1.unacked .c).isEmpty .mem
        let rel := t1.carryObj o (t1.eng .c).view ||| 1 <<< t1.nextWrite
        .ok { st := t1.putLoc .c loc va (valBytes (t.sReg b).toNat 8) (some rel) }) s

end Sys2Proof.Machine
end

