-- ==== Sys2Proof/Machine/Access.lean ====
section
/-! DEFINITION. The A engine: address arithmetic, branches, loads, store addresses and descriptor registers (06 R227 to
R233, R240 to R243; 03 R94 to R113). -/

namespace Sys2Proof.Machine

open Sys2Proof

/-! ## A addresses (R227, R101) -/

/-- A scratch A address has bit 63 set. -/
def isScratch (va : Word) : Bool := va.getLsbD 63

/-- The cause of an access outside the window (R101, R227). -/
def windowCause (s : State) (e : Engine) (va : Word) : CauseRec := { causeAt s e 0x14 0 with addr := va }

/-- The cause of a misaligned access (R107). -/
def alignCause (s : State) (e : Engine) (va : Word) : CauseRec := { causeAt s e 0x13 0 with addr := va }

/-- The form of an A address (R227; log 37, DEDUCED). -/
def checkForm (s : State) (e : Engine) (va : Word) : Except Stop Unit :=
  if isScratch va then
    if 2 ^ 23 ≤ va.toNat % 2 ^ 63 then .error (.trap (windowCause s e va)) else .ok ()
  else if va.toNat / 2 ^ 55 != 0 then .error (.trap (xCause s e va ⟨0x10, 0, false, false, 0⟩))
  else .ok ()

/-- The window check of n bytes at an A address of good form (R101). -/
def checkWindow (s : State) (e : Engine) (va : Word) (n : Nat) : Except Stop Unit :=
  let o := va.toNat % 2 ^ 63
  if !isScratch va || (inWindow s.core.cr.spw o && inWindow s.core.cr.spw (o + n - 1)) then .ok ()
  else .error (.trap (windowCause s e va))

/-- The checks of n bytes at an A address before translation, in the order of R233: form, alignment, window (log 37, DEDUCED). -/
def checkA (s : State) (e : Engine) (va : Word) (n align : Nat) : Except Stop Unit := do
  checkForm s e va
  if va.toNat % align != 0 then .error (.trap (alignCause s e va))
  checkWindow s e va n

/-- What a read answers: its bytes, its remote loads as (port, number), the state. -/
structure ARead where
  bytes : List Byte
  far   : List (Nat × Nat)
  st    : State

/-- A read of n bytes, one single-copy atomic piece, at an A address (log 5, DESIGN CHOICE). -/
def State.readA (s : State) (e : Engine) (t : TlbId) (va : Word) (n align : Nat) : Except Stop ARead := do
  checkA s e va n align
  if isScratch va then
    let pa := scratchCell s.valeIdx (va.toNat % 2 ^ 63)
    let s ← s.okRead e pa n
    let r := s.readBy e pa n
    .ok ⟨r.1, [], r.2.2.noteWatch e va.toNat n false⟩
  else
    let (bs, _, far, s1) ← s.loadGen e t va n
    .ok ⟨bs, far, s1⟩

/-- The k elements that a block is made of: each is read in ascending order, and the first that fails stops A (R191).
`at?` gives the address of element j, or none where element j reads nothing and is filled. -/
def readElems (e : Engine) (t : TlbId) (n align : Nat) (fill : List Byte) (addr : Nat → Option Word)
    (onFault : Nat → CauseRec → CauseRec) : Nat → Nat → State → Except Stop ARead
  | 0, _, s => .ok ⟨[], [], s⟩
  | k + 1, j, s =>
    match addr j with
    | none =>
      match readElems e t n align fill addr onFault k (j + 1) s with
      | .error x => .error x
      | .ok r => .ok ⟨fill ++ r.bytes, r.far, r.st⟩
    | some va =>
      match s.readA e t va n align with
      | .error (.trap c) => .error (.trap (onFault j c))
      | .error x => .error x
      | .ok r =>
        match readElems e t n align fill addr onFault k (j + 1) r.st with
        | .error x => .error x
        | .ok r' => .ok ⟨r.bytes ++ r'.bytes, r.far ++ r'.far, r'.st⟩

/-- Bytes as a block, byte 0 lowest. -/
def blockOf (bs : List Byte) : Block := BitVec.ofNat 2048 (bytesVal bs)

/-- The 64 elements of 4 bytes of a block from the addresses given. -/
def State.readBlock (s : State) (t : TlbId) (addr : Nat → Option Word) : Except Stop ARead :=
  readElems .a t 4 4 [0, 0, 0, 0] addr (fun _ c => c) 64 0 s

/-- Reserves an entry of lq for a load (R30). -/
def State.lqReserve (s : State) (q : Fin 4) : Except Stop (Nat × State) := do
  orStall (s.core.r.qRoom (.lq q) 1) .resv
  let r := s.core.r.qReserve (.lq q)
  .ok (r.2, s.modR fun _ => r.1)

/-- A block on its way into the entry that was reserved for it (R232). -/
def lqAwait (q : Fin 4) (sid : Nat) (r : ARead) (elems : List (Nat × Nat)) : Except Stop Done :=
  let w := r.st.await .a (.slot q sid (blockOf r.bytes)) r.far elems
  .ok { st := w.1, resp := some w.2 }

/-- The offset of an A load or SAQ: E, or 0 without a payload. -/
def aOff : Option (BitVec 24) → Word
  | none => 0
  | some o => sextW o

/-! ## Arithmetic (R229) -/

/-- The shared form of AADD to ASRL. -/
def aaluOp (m : Marks) (d : Fin 16) (a : ASrc) (b : AOp) (lat : Nat) (f : Word → Word → Word) (s : State) :
    Host.Outcome State Fault Refusal :=
  issue .a (aopWords b) m (fun t => .ok { st := t.post .a lat (.a d (f (t.aSrc a) (t.aOp b))), lat := lat }) s

/-- AADD. -/
def execAadd (m : Marks) (d : Fin 16) (a : ASrc) (b : AOp) (s : State) : Host.Outcome State Fault Refusal :=
  aaluOp m d a b 1 (fun x y => x + y) s

/-- ASUB. -/
def execAsub (m : Marks) (d : Fin 16) (a : ASrc) (b : AOp) (s : State) : Host.Outcome State Fault Refusal :=
  aaluOp m d a b 1 (fun x y => x - y) s

/-- AADDQ. -/
def execAaddq (m : Marks) (d : Fin 16) (a : ASrc) (b : AOp) (s : State) : Host.Outcome State Fault Refusal :=
  aaluOp m d a b 1 (fun x y => satW (x.toInt + y.toInt)) s

/-- AMUL, L = 2. -/
def execAmul (m : Marks) (d : Fin 16) (a : ASrc) (b : AOp) (s : State) : Host.Outcome State Fault Refusal :=
  aaluOp m d a b 2 (fun x y => x * y) s

/-- ASLL. -/
def execAsll (m : Marks) (d : Fin 16) (a : ASrc) (b : AOp) (s : State) : Host.Outcome State Fault Refusal :=
  aaluOp m d a b 1 (fun x y => x <<< (y.toNat % 64)) s

/-- ASRL. -/
def execAsrl (m : Marks) (d : Fin 16) (a : ASrc) (b : AOp) (s : State) : Host.Outcome State Fault Refusal :=
  aaluOp m d a b 1 (fun x y => x >>> (y.toNat % 64)) s

/-- ALI. -/
def execAli (m : Marks) (d : Fin 16) (i : Imm) (s : State) : Host.Outcome State Fault Refusal :=
  issue .a (immWords i) m (fun t => .ok { st := t.post .a 1 (.a d (immVal i)) }) s

/-- AHI. -/
def execAhi (m : Marks) (d : Fin 16) (i : Imm) (s : State) : Host.Outcome State Fault Refusal :=
  issue .a (immWords i) m (fun t => .ok { st := t.post .a 1 (.a d (immShift (t.aSrc (.a d)) i)) }) s

/-- AMOV. -/
def execAmov (m : Marks) (d : Fin 16) (a : ASrc) (s : State) : Host.Outcome State Fault Refusal :=
  issue .a 1 m (fun t => .ok { st := t.post .a 1 (.a d (t.aSrc a)) }) s

/-! ## Branches (R230) -/

/-- The shared form of ABNE and ABLT. -/
def acondBr (m : Marks) (a b : ASrc) (kill cut : Bool) (off : BitVec 16) (p : Word → Word → Bool) (s : State) :
    Host.Outcome State Fault Refusal :=
  issueBranch .a 2 m kill
    (fun t => .ok (if p (t.aSrc a) (t.aSrc b) then some (branchTarget t .a off) else none))
    (fun taken t => if taken && cut then t.pushCuts .a else .ok t) s

/-- ABNE. -/
def execAbne (m : Marks) (a b : ASrc) (kill cut : Bool) (off : BitVec 16) (s : State) :
    Host.Outcome State Fault Refusal :=
  acondBr m a b kill cut off bneTaken s

/-- ABLT. -/
def execAblt (m : Marks) (a b : ASrc) (kill cut : Bool) (off : BitVec 16) (s : State) :
    Host.Outcome State Fault Refusal :=
  acondBr m a b kill cut off bltTaken s

/-! ## Loads (R231 to R233) -/

/-- ALD (R231): A waits for the response. -/
def execAld (m : Marks) (d : Fin 16) (a : ASrc) (o : Option LdOpt) (s : State) : Host.Outcome State Fault Refusal :=
  issue .a (optWords o) m (fun t => do
    let va := t.aSrc a + ldOff o
    let r ← t.readA .a (.strm 2) va (ldSize o) (ldSize o)
    let w := r.st.awaitReg .a (.a d (extend (ldSize o) (ldSigned o) r.bytes)) r.far [(va.toNat, ldSize o)]
    .ok { st := w.1, resp := some w.2 }) s

/-- The 4-byte elements of a block that are read, as a record lists them. -/
def elemList (addr : Nat → Option Word) : List (Nat × Nat) :=
  (List.range 64).filterMap fun j => (addr j).map fun va => (va.toNat, 4)

/-- The address of the 4-byte element j of a contiguous block. -/
def contig (va : Word) (j : Nat) : Option Word := some (va + BitVec.ofNat 64 (4 * j))

/-- LDQ. -/
def execLdq (m : Marks) (q : Fin 4) (a : ASrc) (o : Option (BitVec 24)) (s : State) :
    Host.Outcome State Fault Refusal :=
  issue .a (optWords o) m (fun t => do
    let (sid, t1) ← t.lqReserve q
    let va := t.aSrc a + aOff o
    let r ← t1.readBlock (.strm 2) (contig va)
    lqAwait q sid r [(va.toNat, 256)]) s

/-- LDQS: element j from va + j × int(stride). -/
def execLdqs (m : Marks) (q : Fin 4) (a b : ASrc) (o : Option (BitVec 24)) (s : State) :
    Host.Outcome State Fault Refusal :=
  issue .a (optWords o) m (fun t => do
    let (sid, t1) ← t.lqReserve q
    let va := t.aSrc a + aOff o
    let stride := t.aSrc b
    let addr := fun (j : Nat) => some (va + BitVec.ofNat 64 j * stride)
    let r ← t1.readBlock (.strm 2) addr
    lqAwait q sid r (elemList addr)) s

/-- The address of element j of LDQX; none for the index that reads nothing. -/
def indexed (va : Word) (idx : List Byte) (j : Nat) : Option Word :=
  let x := bytesVal ((idx.drop (4 * j)).take 4)
  if x == 0xFFFFFFFF then none else some (va + BitVec.ofNat 64 (4 * x))

/-- LDQX: the index block is read first, from scratch (R233). -/
def execLdqx (m : Marks) (q : Fin 4) (a b : ASrc) (o : Option (BitVec 24)) (s : State) :
    Host.Outcome State Fault Refusal :=
  issue .a (optWords o) m (fun t => do
    let (sid, t1) ← t.lqReserve q
    let idx := t.aSrc b
    if !isScratch idx then .error (.trap (windowCause t .a idx))
    else
      let x ← t1.readBlock (.strm 2) (contig idx)
      let addr := indexed (t.aSrc a + aOff o) x.bytes
      let r ← x.st.readBlock (.strm 2) addr
      lqAwait q sid r (elemList addr)) s

/-- A byte of generic memory lies in an object that the core's gang holds open (R113): by its own addresses, whatever storage stands behind
another (log 83, DESIGN CHOICE). -/
def State.heldOpen (s : State) (va : Nat) : Bool :=
  s.objs.any fun o => o.vf == s.vf && o.base ≤ va && va < o.base + o.size &&
    s.handles.any fun h => h.gang == s.core.launch && h.ident == o.ident

/-- The first byte of 256 that the read-only path may not read. -/
def roBad (s : State) (va : Word) : Option Nat :=
  (List.range 256).find? fun i => isScratch va || !s.heldOpen (va.toNat + i)

/-- LDRO: as LDQ, on bytes of sealed objects held open (R233). -/
def execLdro (m : Marks) (q : Fin 4) (a : ASrc) (o : Option (BitVec 24)) (s : State) :
    Host.Outcome State Fault Refusal :=
  issue .a (optWords o) m (fun t => do
    let va := t.aSrc a + aOff o
    let (sid, t1) ← t.lqReserve q
    let r ← t1.readBlock (.strm 2) (contig va)
    match roBad t va with
    | some i => .error (.trap { causeAt t .a 0x16 0 with addr := va + BitVec.ofNat 64 (i / 4 * 4) })
    | none => lqAwait q sid r [(va.toNat, 256)]) s

/-! ## Store addresses and descriptor registers (R240 to R242) -/

/-- Pushes an entry into saq. -/
def State.saqPush (s : State) (x : SaqEntry) : Except Stop State := do
  orStall (s.core.r.qRoom .saq 1) .resv
  .ok (s.modR fun r => { r with saq := r.saq.push r.nextSid x, nextSid := r.nextSid + 1 })

/-- SAQ (R240): a full mask; the address is checked when S uses it. -/
def execSaq (m : Marks) (a : ASrc) (o : Option (BitVec 24)) (s : State) : Host.Outcome State Fault Refusal :=
  issue .a (optWords o) m (fun t => do
    let x : SaqEntry :=
      { addr := t.aSrc a + aOff o, mask := BitVec.allOnes 256, word := t.pcOf .a, agsa := false, step := 0, gen := 0
        rot := 0, row := 0 }
    let t1 ← t.saqPush x
    .ok { st := t1 }) s

/-- A write of a descriptor register by A (R242). -/
def State.putDesc (s : State) (d : Fin 8) (x : Word) : State :=
  (s.noteDesc .a d.val s.core.r.d[d]).modR fun r => { r with d := r.d.set d x }

/-- DSET (R241). -/
def execDset (m : Marks) (d : Fin 8) (a : ASrc) (add : Bool) (s : State) : Host.Outcome State Fault Refusal :=
  issue .a 2 m (fun t =>
    .ok { st := t.putDesc d (if add then t.core.r.d[d] + t.aSrc a else t.aSrc a) }) s

end Sys2Proof.Machine
end

