-- ==== Sys2Proof/Machine/Sync.lean ====
section
/-! DEFINITION. Synchronisation objects, domains and the release sequencer: the SYN group and its steps (09 R341 to R351; 01
R43, R49 to R54). -/

namespace Sys2Proof.Machine

open Sys2Proof

/-! ## Waits of C (R346) -/

/-- A cause of C without an address. -/
def cTrap (s : State) (code : Nat) : Stop := .trap (causeAt s .c code 0)

/-- An instruction whose effect comes in two parts: what it asks for when it is first ready to issue, and, cycles later,
the answer with which it issues. `ask` answers, from the state in which it would issue, the change that the question
makes; `fin` issues once `cwait` holds the answer. C waits meanwhile (log 41, DEDUCED). -/
def issueWait (words : Nat) (m : Marks) (ask : State → Except Stop (State → State)) (fin : State → Except Stop Done)
    (s : State) : Host.Outcome State Fault Refusal :=
  if s.inShadow then .next (doubleTrap 0x01 s)
  else if s.core.cwait != .none then issueKernel .c words m fin s
  else
    let probe : Except Stop (State → State) := do
      gate .c words s
      let t ← popWaits .c (waitList .c m) (s.settle .c)
      let t ← reserveSignals (signalList .c m) t
      ask t
    match probe with
    | .error st => stopped .c st s
    | .ok f => issueKernel .c words m fin (f s)

def State.setWait (s : State) (w : CWait) : State := s.modCore fun c => { c with cwait := w }

/-- A core of a gang wakes with an answer, be it stopped or not (log 41, DEDUCED). -/
def State.answer (s : State) (c : CoreId) (gang : Nat) (x : Word) (view : View) : State :=
  s.mapHeld fun k => if k.id == c && k.launch == gang then { k with cwait := .answered x view } else k

/-- Issue on an answer: its releases are acquired, its value goes to sD. -/
def finAnswer (d : Option (Fin 32)) (t : State) : Except Stop Done :=
  match t.core.cwait with
  | .answered x view =>
    let u := (t.acquire .c view).setWait .none
    .ok { st := match d with
      | some r => u.putC 1 r x
      | none => u }
  | _ => .error (.stall .sync)

/-! ## Objects (R341, R342) -/

/-- The OID and the value of a synchronisation operand (R346). -/
def opOid (a : Word) : BitVec 32 := a.extractLsb' 0 32
def opVal (a : Word) : Nat := (a.extractLsb' 32 32).toNat

/-- The object that an instruction of C names, of a kind it accepts: ended or of another kind is a sync-object fault, out
of scope an object-scope fault. -/
def State.named (s : State) (oid : BitVec 32) (kind : Nat) : Except Stop SyncObj :=
  match s.syncObj oid with
  | none => .error (cTrap s 0x2A)
  | some x =>
    if !s.inScope oid then .error (cTrap s 0x28)
    else if oidKind oid != kind then .error (cTrap s 0x2A)
    else .ok x

def State.setObj (s : State) (x : SyncObj) : State :=
  { s with syncs := s.syncs.map fun y => if y.oid == x.oid then x else y }

/-- The writes of some numbers. -/
def viewOf (ids : List Nat) : View := ids.foldl (fun v i => v ||| 1 <<< i) 0

/-- The object that a byte's release or acquire of an object carries (R131). -/
def State.relView (s : State) (oid : BitVec 32) : View := s.carryObj oid (s.eng .c).view

/-! ## Flag objects (R344) -/

/-- Serves the waiters of a flag object strictly in order. -/
def serveFlag : Nat → SyncObj → State → SyncObj × State
  | 0, x, s => (x, s)
  | k + 1, x, s =>
    match x.waiters with
    | (c, g, n) :: ws =>
      if n ≤ x.value then serveFlag k { x with value := x.value - n, waiters := ws } (s.answer c g 0 x.view) else (x, s)
    | [] => (x, s)

/-- A changed flag object: its waiters are served. -/
def State.putFlag (s : State) (x : SyncObj) : State :=
  let r := serveFlag x.waiters.length x s
  r.2.setObj r.1

/-- SACQ (R346). -/
def execSacq (m : Marks) (x : Bool) (a : Fin 32) (s : State) : Host.Outcome State Fault Refusal :=
  issueWait (xWords x) m
    (fun t => do
      let w := t.sReg a
      let o ← t.named (opOid w) 2
      .ok fun u => (u.setWait (.sacq o.oid (opVal w))).putFlag
        { o with waiters := o.waiters ++ [(u.core.id, u.core.launch, opVal w)] })
    (finAnswer none) s

/-- The remote writes of C to bytes bound to an object that are not yet performed (R131). -/
def State.unackedOf (s : State) (oid : BitVec 32) : List Nat :=
  let mine := s.unacked .c
  (s.hist.filter fun w => mine.contains w.id && s.objectOf w.loc == some oid).map Write.id

/-- The remote writes of C to bytes bound to no object that are not yet performed (R131). -/
def State.unackedFree (s : State) : List Nat :=
  let mine := s.unacked .c
  (s.hist.filter fun w => mine.contains w.id && (s.objectOf w.loc).isNone).map Write.id

/-- The releases of a flag object whose remote writes are performed add their n, in order. -/
def SyncObj.land (x : SyncObj) : SyncObj :=
  let due := x.rels.filter fun r => r.wids.isEmpty
  { x with
    value := due.foldl (fun n r => n + r.n) x.value
    view := due.foldl (fun v r => v ||| r.view) x.view
    rels := x.rels.filter fun r => !r.wids.isEmpty }

/-- SREL (R346): adds n once the writes bound to the object are performed, and releases them. Its overflow test counts the n of SRELs that
still wait for theirs (log 87, DESIGN CHOICE). -/
def execSrel (m : Marks) (x : Bool) (a : Fin 32) (s : State) : Host.Outcome State Fault Refusal :=
  issueKernel .c (xWords x) m (fun t => do
    let w := t.sReg a
    let o ← t.named (opOid w) 2
    let wids := t.unackedOf o.oid
    if 2 ^ 32 ≤ o.value + o.rels.foldl (fun n r => n + r.n) 0 + opVal w then .error (cTrap t 0x2A)
    else
      let y : SyncObj := { o with rels := o.rels ++ [⟨opVal w, t.relView o.oid, wids⟩] }
      .ok { st := t.putFlag y.land }) s

/-! ## Arrival barriers (R343) -/

/-- A phase number of 32 bits as its distance from a barrier's PH, signed. -/
def phaseDiff (ph k : Nat) : Int := (BitVec.ofNat 32 k - BitVec.ofNat 32 ph).toInt

/-- The phase of a barrier that a number names, counted without wrapping. -/
def phaseAbs (ph k : Nat) : Nat := ((ph : Int) + phaseDiff ph k).toNat

def SyncObj.phase (x : SyncObj) (k : Nat) : Phase := (x.phases.find? (·.k == k)).getD ⟨k, 0, 0, 0, []⟩

def SyncObj.setPhase (x : SyncObj) (p : Phase) : SyncObj :=
  { x with phases := x.phases.filter (·.k != p.k) ++ [p] }

/-- Phase k or a later one has been named. -/
def SyncObj.name (x : SyncObj) (k : Nat) : SyncObj :=
  { x with named := some (match x.named with
      | none => k
      | some n => Nat.max n k) }

/-- What an arrival of n arrivals and b bytes at a phase does: waits for a later phase, overruns, or counts. -/
inductive Arrival where
  | wait
  | overrun
  | ok (x : SyncObj)

/-- `wids` are the remote writes among what is released that are not yet performed. -/
def SyncObj.arrive (x : SyncObj) (k32 n b : Nat) (view : View) (wids : List Nat) : Arrival :=
  let d := phaseDiff x.ph k32
  if d < 0 then .overrun
  else if 3 < d then .wait
  else
    let k := phaseAbs x.ph k32
    let p := x.phase k
    if x.na < p.arr + n || x.nb < p.bytes + b then .overrun
    else .ok ((x.setPhase { p with arr := p.arr + n, bytes := p.bytes + b, view := p.view ||| view, wids := p.wids ++ wids }).name k)

/-- The current phase of a barrier is complete: its arrivals and bytes, and every write that they carry is performed. -/
def SyncObj.due (x : SyncObj) : Bool :=
  oidKind x.oid == 1 && (x.phase x.ph).arr == x.na && (x.phase x.ph).bytes == x.nb && (x.phase x.ph).wids.isEmpty &&
    (match x.named with
     | some n => x.ph ≤ n
     | none => false)

/-! ## Remote writes that are performed (R129, R131; 20 R521) -/

/-- What waits for some remote writes in an engine waits for them no longer. -/
def Eng.clearWids (x : Eng) (ids : List Nat) : Eng :=
  { x with mkq := x.mkq.map fun m => { m with wids := m.wids.filter fun i => !ids.contains i } }

/-- What waits for some remote writes on a core waits for them no longer; what C's frozen kernel context holds comes about once C has
returned to it (R42). -/
def Core.clearWids (c : Core) (ids : List Nat) : Core :=
  let d := if c.cr.shd then { c with r := { c.r with eC := c.r.eC.clearWids ids } } else c
  ((d.modEng .c (·.clearWids ids)).retireMarks .c |>.modEng .s (·.clearWids ids)).retireMarks .s

/-- Remote writes are performed, or dropped: releases that wait for them wait no longer, and carry those that are performed (R131;
20 R521; log 17, DESIGN CHOICE). -/
def State.clearWids (s : State) (done : Bool) (ids : List Nat) : State :=
  let left := fun (l : List Nat) => l.filter fun i => !ids.contains i
  let gain := fun (v : View) (l : List Nat) => if done then v ||| viewOf (l.filter ids.contains) else v
  let t := { s.mapHeld (·.clearWids ids) with
    domains := s.domains.map fun (d : Domain) => { d with view := gain d.view d.wids, wids := left d.wids }
    cmds := s.cmds.map fun (c : Cmd) => { c with view := gain c.view c.wids, wids := left c.wids }
    syncs := s.syncs.map fun (x : SyncObj) =>
      { x with
        phases := x.phases.map fun (p : Phase) => { p with view := gain p.view p.wids, wids := left p.wids }
        rels := x.rels.map fun (r : HeldRel) => { r with view := gain r.view r.wids, wids := left r.wids } } }
  t.syncs.foldl (fun u (x : SyncObj) => if x.rels.any fun r => r.wids.isEmpty then u.putFlag x.land else u) t

/-- A remote write joins the set of the party that made it (R129): an engine, or a command, which has then written it. -/
def State.ownWrite (s : State) (w : FarWrite) : State :=
  let see := fun (x : Eng) => { x with view := x.view ||| 1 <<< w.wid }
  match w.cmd with
  | some k => { s with cmds := s.cmds.map fun c =>
      if c.id == k then { c with view := c.view ||| 1 <<< w.wid, wrote := c.wrote ||| 1 <<< w.wid } else c }
  | none => s.mapHeld fun c =>
      if c.id == w.core && c.launch == w.key then
        (if w.unit == 0 then
          { c with r := { c.r with eC := see c.r.eC }, cr := { c.cr with sh := see c.cr.sh } }
        else { c with r := { c.r with eS := see c.r.eS } })
      else c

/-! ## Domains (01 R49 to R54) -/

def State.domain (s : State) (id : Nat) : Option Domain := s.domains.find? (·.id == id)
def State.setDomain (s : State) (d : Domain) : State :=
  { s with domains := s.domains.map fun x => if x.id == d.id then d else x }

def dommLevel (w : Word) : Nat := (w.extractLsb' 0 3).toNat
def dommDepth (w : Word) : Nat := (w.extractLsb' 3 2).toNat
def dommRank (w : Word) : Nat := (w.extractLsb' 8 16).toNat
def dommSize (w : Word) : Nat := (w.extractLsb' 24 16).toNat
def dommPhase (w : Word) : Bool := w.getLsbD 40
def dommStep (w : Word) : Nat := (w.extractLsb' 41 23).toNat

/-- DOMM from its fields (R50; log 59, DEDUCED). -/
def mkDomm (level depth rank size : Nat) (phase : Bool) (step : Nat) : Word :=
  BitVec.ofNat 64 (level % 8 + (depth % 4) <<< 3 + (rank % 65536) <<< 8 + (size % 65536) <<< 24 + phase.toNat <<< 40 +
    (step % 2 ^ 23) <<< 41)

/-- DOMM with other PHASE and STEP. -/
def dommSet (w : Word) (phase : Bool) (step : Nat) : Word :=
  mkDomm (dommLevel w) (dommDepth w) (dommRank w) (dommSize w) phase step

/-- The narrowest level that contains a set of cores: core, vale, plain, package (R49; log 59, DEDUCED). -/
def levelOf : List CoreId → Nat
  | [] => 0
  | c :: cs =>
    if cs.all (· == c) then 0
    else if cs.all fun d => d.plain == c.plain && d.vale == c.vale then 1
    else if cs.all fun d => d.plain == c.plain then 2
    else 3

/-- The core in focus arrives at its domain's barrier: its arrival releases the writes bound to no object (R131; log 43, DEDUCED). -/
def State.domArrive (s : State) (view : View) : State :=
  match s.domain s.core.dom with
  | none => s
  | some d =>
    let wids := s.unackedFree
    (s.setDomain { d with
      arrived := d.arrived ++ [s.core.id], view := d.view ||| s.carryDomain view
      wids := d.wids ++ wids }).modCr fun r => { r with domm := dommSet r.domm true (dommStep r.domm) }

/-- A command tagged to a phase of a domain whose writes are not all performed at their destinations (R137, R326). -/
def State.tagPending (s : State) (dom ph : Nat) : Bool :=
  s.cmds.any fun c => c.dom == dom && c.tag == some ph && (c.stage == .queued || c.stage == .started || !c.wids.isEmpty)

/-- The current phase of a domain's barrier is complete: its arrivals have come and are performed, as are the commands tagged to
it. -/
def State.domDue (s : State) (d : Domain) : Bool :=
  d.arrived.length == d.members.length && d.members.length != 0 && d.wids.isEmpty && !s.tagPending d.id d.ph

/-- What the commands tagged to a phase of a domain have written: to those still listed, what has been noted of the others
(R137). -/
def State.tagViews (s : State) (d : Domain) : View :=
  s.cmds.foldl (fun v c => if c.dom == d.id && c.tag == some d.ph then v ||| c.wrote else v) (assocGet 0 d.ph d.tagged)

/-- What a domain's phase carries: the writes that its arrivals released, and those of the commands tagged to it, to bytes bound to
no object (R131, R137). -/
def State.phaseView (s : State) (d : Domain) : View := d.view ||| s.carryDomain (s.tagViews d)

/-! ## The release sequencer (R349 to R351) -/

/-- PHV of a vale in a plain's registers. -/
def Bugle.phv (b : Bugle) (v : Nat) : Nat := ((if v < 16 then b.ph0 else b.ph1).toNat / 2 ^ (4 * (v % 16))) % 8
def Bugle.spacing (b : Bugle) : Nat := let n := (b.space.extractLsb' 0 8).toNat; if n == 0 then 1 else n
def Bugle.nph (b : Bugle) : Nat := (b.space.extractLsb' 8 3).toNat + 1

def State.bugle (s : State) (p : Nat) : Bugle := s.bugles[p % 4]'(Nat.mod_lt _ (by decide))

/-- The level of what a wait names, and the plain whose settings a wider release uses (log 59, DEDUCED). -/
def State.relScope (s : State) (o : SyncRef) : Nat × Nat :=
  match o with
  | .obj oid => (oidScope oid, oidPlain oid)
  | .dom id =>
    match s.domain id with
    | none => (0, 0)
    | some d => (d.level, d.members.foldl (fun n c => Nat.min n c.plain) 3)

/-- The cycles from the beginning of a release to the phase of a core's vale, by the settings with which the release began (R349,
R350; log 7, DESIGN CHOICE). -/
def State.relDelay (s : State) (o : SyncRef) (set : Vector Bugle 4) (c : CoreId) : Nat :=
  let (lv, p) := s.relScope o
  if lv ≤ 1 then 0
  else
    let b := vget set .reset (if lv == 2 then c.plain else p)
    (if lv == 2 then b.phv c.vale else b.phv c.vale + c.plain) % b.nph * b.spacing

/-- The completed phase that a wait names. -/
def State.pastOf (s : State) (o : SyncRef) (k : Nat) : Option PastPhase :=
  match o with
  | .obj oid => (s.syncObj oid).bind fun x => x.past.find? (·.k == k)
  | .dom id => (s.domain id).bind fun d => d.past.find? (·.k == k)

/-- The number of a core in the package. -/
def CoreId.index (c : CoreId) : Nat := CoreId.valeIdx c * 8 + c.core

/-- A core that waits for a phase whose release has begun gets its cycle of resumption: d is drawn for it alone (log 7, DESIGN
CHOICE). -/
def schedule (s : State) (c : Core) : Core :=
  match c.cwait with
  | .barrier o k =>
    match s.pastOf o k with
    | some p => match p.t0 with
      | some t0 =>
        let d := Config.releaseDelay (s.choice * 1024 + (CoreId.index c.id)) % 4
        { c with cwait := .released o k (t0 + s.relDelay o p.set c.id + d) }
      | none => c
    | none => c
  | _ => c

/-- Every waiter of releases that have begun is scheduled. -/
def State.scheduleAll (s : State) : State := (s.mapCores (schedule s)).tick

/-- A barrier whose current phase completes: its release begins in a cycle, or, with none, at a tick. -/
def SyncObj.finish (x : SyncObj) (t0 : Option Nat) (set : Vector Bugle 4) : SyncObj :=
  { x with
    ph := x.ph + 1
    phases := x.phases.filter (·.k != x.ph)
    past := ⟨x.ph, (x.phase x.ph).view, t0, set⟩ :: x.past }

/-- Another package has completed a phase of a pod-scope barrier, and sends the tick of its release (R351; log 7, DESIGN CHOICE). -/
def State.podDone (s : State) (o : SyncRef) (phase tick : Nat) : State :=
  let t := { s with ticks := s.ticks ++ [⟨o, phase, tick⟩] }
  match o with
  | .dom _ => s
  | .obj oid =>
    if oidScope oid != 4 then s
    else match s.syncObj oid with
      | none => s
      | some x => if x.ph == phase then t.setObj (x.finish none s.bugles) else t

/-- PHASE_COMPLETION (R51, R137, R343): the barrier's current phase is complete; its release begins with the next cycle,
or, at pod scope, at a tick of the global timer, 2,000 ns on, which goes out on every port (log 7, DESIGN CHOICE). -/
def execPhaseCompletion (o : SyncRef) (s : State) : Host.Outcome State Fault Refusal :=
  match o with
  | .obj oid =>
    match s.syncObj oid with
    | none => .next s
    | some x =>
      if !x.due then .next s
      else
        let pod := oidScope oid == 4
        let s1 := s.setObj (x.finish (if pod then none else some (s.cycle + 1)) s.bugles)
        if pod then
          .next ({ s1 with ticks := s1.ticks ++ [(⟨o, x.ph, s1.timer + 2000⟩ : PodTick)] }.sendAll 5 fun _ => .podTick oid x.ph (s1.timer + 2000))
        else .next s1.scheduleAll
  | .dom id =>
    match s.domain id with
    | none => .next s
    | some d =>
      if !s.domDue d then .next s
      else
        .next ((s.setDomain { d with
          ph := d.ph + 1, arrived := [], view := 0, wids := [], tagged := d.tagged.filter fun p => p.1 != d.ph
          past := ⟨d.ph, s.phaseView d, some (s.cycle + 1), s.bugles⟩ :: d.past }).scheduleAll)

/-- POD_RELEASE_TICK (R351): the global timer reaches the tick of a pod-scope release. -/
def execPodReleaseTick (o : SyncRef) (s : State) : Host.Outcome State Fault Refusal :=
  match s.ticks.find? fun t => t.obj == o && t.tick ≤ s.timer, o with
  | some t, .obj oid =>
    match s.syncObj oid with
    | none => .next { s with ticks := s.ticks.filter (· != t) }
    | some x =>
      .next (({ s with ticks := s.ticks.filter (· != t) }.setObj { x with
        past := x.past.map fun (p : PastPhase) => if p.k == t.phase then { p with t0 := some (s.cycle + 1), set := s.bugles } else p }).scheduleAll)
  | _, _ => .next s

/-- BARRIER_RELEASE (R350): a waiting core resumes; its departure acquires the phase (R130). -/
def execBarrierRelease (c : CoreId) (s : State) : Host.Outcome State Fault Refusal :=
  .next (s.mapCores fun k =>
    if k.id == c then
      match k.cwait with
      | .released o ph cyc =>
        if cyc ≤ s.cycle + 1 then
          { k with cwait := .departed o ph (((s.pastOf o ph).map PastPhase.view).getD 0) }
        else k
      | _ => k
    else k)

/-! ## BARA, BARW, BARAW (R346) -/

/-- C begins to wait for a phase. -/
def State.waitPhase (s : State) (o : SyncRef) (k : Nat) : State :=
  s.modCore fun c => schedule s { c with cwait := .barrier o k }

/-- A departure: it acquires the phase; a domain barrier's sets PHASE and STEP (R51). -/
def State.depart (s : State) (o : SyncRef) (view : View) : State × Word :=
  let t := (s.acquire .c view).setWait .none
  match o with
  | .obj oid => (t, BitVec.ofNat 64 (((t.syncObj oid).map SyncObj.ph).getD 0 % 2 ^ 32))
  | .dom _ =>
    let k := dommStep t.core.cr.domm + 1
    (t.modCr fun r => { r with domm := dommSet r.domm false k }, BitVec.ofNat 64 (k % 2 ^ 23))

/-- Issue on a departure. -/
def finDepart (d : Fin 32) (t : State) : Except Stop Done :=
  match t.core.cwait with
  | .departed o _ view =>
    let (u, x) := t.depart o view
    .ok { st := u.putC 1 d x }
  | .answered x _ => .ok { st := (t.setWait .none).putC 1 d x }
  | _ => .error (.stall .sync)

/-- BARA. -/
def execBara (m : Marks) (x : Bool) (d a : Fin 32) (s : State) : Host.Outcome State Fault Refusal :=
  issueKernel .c (xWords x) m (fun t => do
    let w := t.sReg a
    if opOid w == 0 then
      if dommPhase t.core.cr.domm then .error (cTrap t 0x2A)
      else
        let k := dommStep t.core.cr.domm
        .ok { st := (t.domArrive (t.eng .c).view).putC 1 d (BitVec.ofNat 64 k) }
    else
      let o ← t.named (opOid w) 1
      let wids := t.unackedOf o.oid
      match o.arrive (opVal w) 1 0 (t.relView o.oid) wids with
      | .wait => .error (.stall .sync)
      | .overrun => .error (cTrap t 0x2B)
      | .ok y => .ok { st := (t.setObj y).putC 1 d (BitVec.ofNat 64 (opVal w)) }) s

/-- BARW. A phase below PH that lies before the first one has been completed as far as a comparison modulo 2^32 tells, and released
nothing (R343; log 43, DEDUCED). -/
def execBarw (m : Marks) (x : Bool) (d a : Fin 32) (s : State) : Host.Outcome State Fault Refusal :=
  issueWait (xWords x) m
    (fun t => do
      let w := t.sReg a
      if opOid w == 0 then
        if !dommPhase t.core.cr.domm then .error (cTrap t 0x2A)
        else
          match t.domain t.core.dom with
          | none => .error (cTrap t 0x2A)
          | some dm => .ok fun u =>
            let k := if dm.arrived.contains u.core.id then dm.ph else dm.ph - 1
            u.waitPhase (.dom dm.id) k
      else
        let o ← t.named (opOid w) 1
        if (o.ph : Int) + phaseDiff o.ph (opVal w) < 0 then .ok fun u => u.setWait (.departed (.obj o.oid) 0 0)
        else
        .ok fun u =>
          let k := phaseAbs o.ph (opVal w)
          (u.setObj (o.name k)).waitPhase (.obj o.oid) k)
    (finDepart d) s

/-- The change that a BARAW on the current domain barrier makes when it arrives (log 43, DEDUCED). -/
def askDomain (t : State) : Except Stop (State → State) :=
  if dommPhase t.core.cr.domm then .error (cTrap t 0x2A)
  else
    match t.domain t.core.dom with
    | none => .error (cTrap t 0x2A)
    | some dm => .ok fun u => (u.domArrive (t.eng .c).view).waitPhase (.dom dm.id) dm.ph

/-- BARAW. -/
def execBaraw (m : Marks) (x : Bool) (d a : Fin 32) (s : State) : Host.Outcome State Fault Refusal :=
  issueWait (xWords x) m
    (fun t => do
      let w := t.sReg a
      if opOid w == 0 then askDomain t
      else
        let o ← t.named (opOid w) 1
        let wids := t.unackedOf o.oid
        match o.arrive (opVal w) 1 0 (t.relView o.oid) wids with
        | .wait => .error (.stall .sync)
        | .overrun => .error (cTrap t 0x2B)
        | .ok y => .ok fun u => (u.setObj y).waitPhase (.obj o.oid) (phaseAbs o.ph (opVal w)))
    (finDepart d) s

/-! ## WAITMK (R347) -/

/-- The engines of a WAITMK set, with their bits. -/
def markSet (w : Word) : List (Engine × Nat) :=
  [(Engine.c, 8), (Engine.a, 9), (Engine.m, 10), (Engine.v, 11), (Engine.s, 12)].filter fun p => w.getLsbD p.2

/-- WAITMK. -/
def execWaitmk (m : Marks) (x : Bool) (d a : Fin 32) (s : State) : Host.Outcome State Fault Refusal :=
  issueKernel .c (xWords x) m (fun t => do
    let w := t.sReg a
    let n := (w.extractLsb' 0 8).toNat
    let es := markSet w
    let got := fun (p : Engine × Nat) => (t.eng p.1).marks.getLsbD n
    orStall (es.all fun p => got p || (t.eng p.1).halted) .sync
    let r := es.foldl (fun (r : Nat) p => if got p then r else r + 2 ^ p.2) 0
    .ok { st := t.putC 1 d (BitVec.ofNat 64 r) }) s

/-! ## DOMSPLIT and DOMJOIN (01 R53, R54) -/

/-- The sub-domains of a split, one per colour, ranks in the old order; and each member's new DOMM. -/
def splitDomain (dm : Domain) (s : State) : State :=
  let colours := (dm.splits.map Prod.snd).eraseDups
  let group := fun (col : Nat) => dm.members.filter fun c => dm.splits.contains (c, col)
  let add := fun (s : State) (col : Nat) =>
    let ms := group col
    let d : Domain :=
      { id := s.nextId, gang := dm.gang, level := levelOf ms, depth := dm.depth + 1, members := ms, parent := some dm.id
        ph := 0, arrived := [], view := 0, wids := [], tagged := [], past := [], splits := [], joins := [] }
    { s with domains := s.domains ++ [d], nextId := s.nextId + 1 }.mapCores fun c =>
      if ms.contains c.id then
        let w := mkDomm d.level d.depth (ms.idxOf c.id) ms.length false 0
        { c with dom := d.id, domUp := (dm.id, c.cr.domm) :: c.domUp, cr := { c.cr with domm := w }
                 cwait := .answered w 0 }
      else c
  (colours.foldl add s).setDomain { dm with splits := [] }

/-- The core in focus has left the barrier of its domain and joins the split. -/
def State.joinSplit (s : State) (colour : Nat) (view : View) : State :=
  let (t, _) := s.depart (.dom s.core.dom) view
  let t := t.setWait (.split colour)
  match t.domain t.core.dom with
  | none => t
  | some dm =>
    let dm := { dm with splits := dm.splits ++ [(t.core.id, colour)] }
    if dm.splits.length == dm.members.length then splitDomain dm t else t.setDomain dm

/-- DOMSPLIT (R53, R346): a BARAW on the current domain barrier, then the split once every member has issued it. -/
def execDomsplit (m : Marks) (x : Bool) (d a : Fin 32) (s : State) : Host.Outcome State Fault Refusal :=
  let s := match s.core.cwait with
    | .departed (.dom _) _ view => s.joinSplit (((s.settle .c).sReg a).toNat % 256) view
    | _ => s
  issueWait (xWords x) m
    (fun t => if dommDepth t.core.cr.domm == 3 then .error (cTrap t 0x05) else askDomain t)
    (finAnswer (some d)) s

/-- Every member of the parent has joined: each gets its parent's DOMM back, STEP advanced by one, and a new instance of the parent
begins, whose collectives are counted anew, from a number that no member has used (R54; 09 R340; log 43, DEDUCED). -/
def joinDomain (up : Domain) (s : State) : State :=
  let mine := s.colls.filter fun (p : CoreId × Nat × Nat) => p.2.1 == up.id
  let next := mine.foldl (fun (n : Nat) (p : CoreId × Nat × Nat) => max n p.2.2) 0
  ({ s with colls := (s.colls.filter fun (p : CoreId × Nat × Nat) => p.2.1 != up.id) ++ up.members.map fun i => (i, up.id, next) }.setDomain { up with joins := [], ph := up.ph + 1 }).mapCores fun c =>
    if up.members.contains c.id then
      match c.domUp with
      | (id, w) :: rest =>
        let w := dommSet w false (dommStep w + 1)
        { c with dom := id, domUp := rest, cr := { c.cr with domm := w }, cwait := .answered w 0 }
      | [] => c
    else c

/-- The core in focus has left the barrier of its sub-domain and joins its parent. -/
def State.joinUp (s : State) (view : View) : State :=
  let (t, _) := s.depart (.dom s.core.dom) view
  let t := t.setWait .join
  match (t.domain t.core.dom).bind fun d => d.parent.bind t.domain with
  | none => t
  | some up =>
    let up := { up with joins := up.joins ++ [t.core.id] }
    if up.joins.length == up.members.length then joinDomain up t else t.setDomain up

/-- DOMJOIN (R54, R346). -/
def execDomjoin (m : Marks) (x : Bool) (d : Fin 32) (s : State) : Host.Outcome State Fault Refusal :=
  let s := match s.core.cwait with
    | .departed (.dom _) _ view => s.joinUp view
    | _ => s
  issueWait (xWords x) m
    (fun t => if dommDepth t.core.cr.domm == 0 then .error (cTrap t 0x05) else askDomain t)
    (finAnswer (some d)) s

/-! ## Bindings (03 R109, R110; R348) -/

/-- Reads n doublewords from an aligned address by C's own accesses (R191, R212). -/
def readWords (va : Word) : Nat → State → Except Stop (List Word × State)
  | 0, s => .ok ([], s)
  | n + 1, s => do
    checkGen s .c va 8
    let (bs, _, _, s1) ← s.loadGen .c .c va 8
    let (ws, s2) ← readWords (va + 8) n s1
    .ok (BitVec.ofNat 64 (bytesVal bs) :: ws, s2)

/-- Two ranges of one space overlap. -/
def rangesMeet (a : Loc) (n : Nat) (b : Loc) (k : Nat) : Bool :=
  match a, b with
  | .sp v o, .sp w p => v == w && decide (o < p + k ∧ p < o + n)
  | .gen f x, .gen g y => f == g && decide (x < y + k ∧ y < x + n)
  | _, _ => false

/-- The lowest slot of an object's home unit that is free (R342; log 12, DESIGN CHOICE). -/
def State.freeSlot (s : State) (scope plain vale : Nat) : Option Nat :=
  let local' := scope ≤ 1
  let cap := if local' then 512 else 1024
  let mine := s.syncs.filter fun x =>
    decide (oidScope x.oid ≤ 1) == local' && oidPlain x.oid == plain && oidVale x.oid == vale
  (List.range cap).find? fun i => !(mine.any fun x => (x.oid.extractLsb' 0 16).toNat == i)

/-- An OID (R341; log 12, DESIGN CHOICE). -/
def mkOid (kind scope plain vale idx : Nat) : BitVec 32 :=
  BitVec.ofNat 32 (idx % 65536 + (vale % 32) <<< 16 + (plain % 4) <<< 21 + (scope % 8) <<< 25 + (kind % 16) <<< 28)

/-- A bind record (R348). -/
structure BindRec where
  base  : Word
  len   : Nat
  oid   : BitVec 32
  kind  : Nat
  scope : Nat
  dw3   : Word

def bindRec (ws : List Word) : BindRec :=
  let w2 := ws.getD 2 0
  { base := ws.getD 0 0, len := (ws.getD 1 0).toNat, oid := w2.extractLsb' 0 32, kind := (w2.extractLsb' 32 3).toNat
    scope := (w2.extractLsb' 35 3).toNat, dw3 := ws.getD 3 0 }

/-- Whether a bind record is well formed (log 43, DEDUCED). -/
def BindRec.ok (b : BindRec) (w2 : Word) (pod : Bool) : Bool :=
  w2.extractLsb' 38 26 == 0 &&
    (if b.oid != 0 then b.kind == 0 && b.scope == 0 && b.dw3 == 0
     else 1 ≤ b.kind && b.kind ≤ 3 && b.scope ≤ 4 && (b.scope != 4 || pod) &&
      (match b.kind with
       | 1 => b.dw3.extractLsb' 16 16 == 0
       | 2 => b.dw3.extractLsb' 32 32 == 0
       | _ => b.dw3 == 0))

/-- The location at which a range begins. An address beyond the scratch space names no bindable byte. -/
def State.baseLoc (s : State) (va : Word) : Loc :=
  if isScratch va then .sp s.valeIdx (va.toNat % 2 ^ 63) else .gen s.vf va.toNat

/-- A range that may be bound by the core in focus: whole granules, in the own vale's scratch windows or in generic
space, meeting no live binding, within the gang's 256 (03 R109, R110; log 43, DEDUCED). -/
def State.bindable (s : State) (base : Word) (len : Nat) : Bool :=
  let l := s.baseLoc base
  base.toNat % 256 == 0 && len % 256 == 0 &&
    (if isScratch base then
       base.toNat % 2 ^ 63 + len ≤ 2 ^ 23 && inWindow s.core.cr.spw (base.toNat % 2 ^ 63) &&
         inWindow s.core.cr.spw (base.toNat % 2 ^ 63 + len - 1)
     else base.toNat + len ≤ 2 ^ 55) &&
    !(s.binds.any fun b => rangesMeet b.base b.len l len) &&
    (s.binds.countP fun b => b.gang == s.core.launch) < 256

/-- Creates the object of a bind record; none when no slot is free or the gang has 256. -/
def State.create (s : State) (b : BindRec) : Option (BitVec 32 × State) :=
  let vale := if b.scope ≤ 1 then s.core.id.vale else 0
  if 256 ≤ s.syncs.countP fun x => x.gang == s.core.launch then none
  else match s.freeSlot b.scope s.core.id.plain vale with
    | none => none
    | some i =>
      let oid := mkOid b.kind b.scope s.core.id.plain vale i
      let x : SyncObj :=
        { oid := oid, gang := s.core.launch, owner := s.core.id, pod := s.core.pod
          na := if b.kind == 1 then (b.dw3.extractLsb' 0 16).toNat else 0
          nb := if b.kind == 1 then (b.dw3.extractLsb' 32 32).toNat else 0
          ph := 0, named := none, phases := [], past := []
          value := if b.kind == 2 then (b.dw3.extractLsb' 0 32).toNat else 0, view := 0, waiters := [], rels := [] }
      some (oid, { s with syncs := s.syncs ++ [x] })

/-- RBNDR (R348). A range that cannot be bound takes the binding fault before a full unit answers 0 (log 88, DESIGN CHOICE). -/
def execRbndr (m : Marks) (x : Bool) (d a : Fin 32) (s : State) : Host.Outcome State Fault Refusal :=
  issueKernel .c (xWords x) m (fun t => do
    let (ws, t1) ← readWords (t.sReg a) 4 t
    let b := bindRec ws
    let bind := fun (u : State) (oid : BitVec 32) =>
      if b.len == 0 then u
      else { u with binds := u.binds ++ [⟨u.baseLoc b.base, b.len, oid, u.core.launch⟩] }
    let reply := fun (u : State) (v : Word) =>
      let (w, k) := u.awaitReg .c (u.cLand d v) []
      (.ok { st := w, resp := some k } : Except Stop Done)
    if !b.ok (ws.getD 2 0) t1.core.pod.isSome then .error (cTrap t1 0x29)
    else if b.len != 0 && !t1.bindable b.base b.len then .error (cTrap t1 0x29)
    else if b.oid == 0 then
      match t1.create b with
      | none => reply t1 0
      | some (oid, u) => reply (bind u oid) (zextW oid)
    else match t1.syncObj b.oid with
      | none => .error (cTrap t1 0x2A)
      | some _ =>
        if !t1.inScope b.oid then .error (cTrap t1 0x28) else reply (bind t1 b.oid) (zextW b.oid)) s

/-- UBNDR (R346, 03 R110). -/
def execUbndr (m : Marks) (x : Bool) (a : Fin 32) (s : State) : Host.Outcome State Fault Refusal :=
  issueKernel .c (xWords x) m (fun t => do
    let l := t.baseLoc (t.sReg a)
    if t.binds.any fun b => b.base == l && b.gang == t.core.launch then
      .ok { st := { t with binds := t.binds.filter fun b => !(b.base == l && b.gang == t.core.launch) } }
    else .error (cTrap t 0x29)) s

end Sys2Proof.Machine
end

