-- ==== Sys2Proof/Machine/Dir.lean ====
section
/-! DEFINITION. The name directory and sealed objects: the DIR group and OPENW_TIMEOUT (09 R352 to R358). -/

namespace Sys2Proof.Machine

open Sys2Proof

/-! ## Liveness (R353) -/

/-- An object is bound to a name, held by a handle or by a staged pair. -/
def State.liveObj (s : State) (x : Nat) : Bool :=
  (s.names.any fun n => n.ident == x) || (s.handles.any fun h => h.ident == x) ||
    s.staged.any fun p => p.ident == some x

/-- Objects that are no longer live are reclaimed: their events are queued, their image records end, their bytes stay
sealed (R353, 18 R504). -/
def State.reclaim (s : State) : State :=
  let dead := s.objs.filter fun o => o.live && !s.liveObj o.ident
  { s with
    objs := s.objs.map fun o => if o.live && !s.liveObj o.ident then { o with live := false } else o
    copies := s.copies.filter fun c => !(dead.any fun o => o.ident == c.ident)
    reclaims := s.reclaims ++ dead.map fun o => ⟨o.vf, o.ident, o.base, o.size, o.acct⟩ }

/-- The lowest free handle of a gang (log 12, DESIGN CHOICE). -/
def State.freeHandle (s : State) (gang : Nat) : Option Nat :=
  (List.range 4096).find? fun i => !(s.handles.any fun h => h.gang == gang && h.idx == i)

/-- The object that a gang's handle holds. -/
def State.handleObj (s : State) (gang idx : Nat) : Option Obj :=
  (s.handles.find? fun h => h.gang == gang && h.idx == idx).bind fun h => s.objs.find? fun o => o.ident == h.ident

/-- A status value in sD (R355). -/
def status (n : Int) : Word := BitVec.ofInt 64 n

/-- The answer of a DIR instruction comes with its response (R190; log 41, DEDUCED). -/
def dirReply (d : Fin 32) (u : State) (x : Word) : Except Stop Done :=
  let r := u.awaitReg .c (u.cLand d x) []
  .ok { st := r.1, resp := some r.2 }

/-- The name directory serves no operation of a function while its namespace is exported or imported (16 R465). -/
def State.dirBusy (s : State) : Bool :=
  let f := s.vfunOf s.vf
  f.nsx != 0 || (f.nsi != 0 && f.nsi != 0xFFFFFFFFFFFFFFFF)

/-- Some instructions take the privilege fault in a run of a dual launch (16 R478). -/
def barDual (s : State) : Except Stop Unit :=
  if ((s.gang s.core.launch).map Gang.dual).getD false then .error (cTrap s 0x02) else .ok ()

/-- Issue of a DIR instruction; `bar` where a dual run may not issue it, which is so of those that release. They wait for C's remote
writes (04 R131; log 41, DEDUCED; log 77, DESIGN CHOICE). -/
def issueDir (bar : Bool) (words : Nat) (m : Marks) (body : State → Except Stop Done) (s : State) :
    Host.Outcome State Fault Refusal :=
  issueKernel .c words m (fun t => do
    if bar then barDual t
    orStall (!t.dirBusy) .sync
    orStall (!bar || (t.unacked .c).isEmpty) .mem
    body t) s

/-- Reads a name record: none where its length lies outside 1 to 64 (log 42, DEDUCED). -/
def readName (va : Word) (s : State) : Except Stop (Option (List Byte) × State) := do
  let (ws, s1) ← readWords va 1 s
  let n := (ws.getD 0 0).toNat
  if n == 0 || 64 < n then .ok (none, s1)
  else
    let (xs, s2) ← readWords (va + 8) ((n + 7) / 8) s1
    .ok (some ((xs.flatMap fun x => valBytes x.toNat 8).take n), s2)

/-- What opening a name does at one point of the directory's order: the handle, what it acquires, the state. -/
def State.openName (s : State) (gang vf : Nat) (name : List Byte) : Except Int (Nat × View × State) :=
  match s.names.find? fun n => n.vf == vf && n.name == name with
  | none => .error (-1)
  | some n =>
    match s.objs.find? fun o => o.ident == n.ident with
    | none => .error (-1)
    | some o =>
      match s.freeHandle gang with
      | none => .error (-2)
      | some i => .ok (i, o.view ||| n.view, { s with handles := s.handles ++ [⟨gang, i, o.ident⟩] })

/-- An open by C: its answer and its acquire (R357). -/
def openNow (d : Fin 32) (name : List Byte) (u : State) : Except Stop Done :=
  match u.openName u.core.launch u.vf name with
  | .error e => dirReply d u (status e)
  | .ok (i, view, u1) => dirReply d (u1.acquire .c view) (BitVec.ofNat 64 i)

/-- OPEN. -/
def execOpen (m : Marks) (x : Bool) (d a : Fin 32) (s : State) : Host.Outcome State Fault Refusal :=
  issueDir false (xWords x) m (fun t => do
    let (name, t1) ← readName (t.sReg a) t
    match name with
    | none => dirReply d t1 (status (-6))
    | some n => openNow d n t1) s

/-- OPENW: an unbound name is waited for, up to sD µs; its response comes when the name is bound, or at the limit (log 41, DEDUCED). -/
def execOpenw (m : Marks) (x : Bool) (d a : Fin 32) (s : State) : Host.Outcome State Fault Refusal :=
  issueDir false (xWords x) m (fun t => do
    let lim := (t.sReg d).toNat % 2 ^ 32
    let (name, t1) ← readName (t.sReg a) t
    match name with
    | none => dirReply d t1 (status (-6))
    | some n =>
      match t1.openName t1.core.launch t1.vf n with
      | .error (-1) =>
        if lim == 0 then dirReply d t1 (status (-1))
        else
          let (u, k) := t1.awaitReg .c (t1.cLand d 0) []
          let limit := if lim == 0xFFFFFFFF then none else some (u.timer + lim * 1000)
          .ok { st := { u with
                  reads := u.reads.map fun (r : Read) => if r.id == k then { r with ready := false } else r
                  openws := u.openws ++ [⟨u.core.id, k, d.val, n, limit⟩] }
                resp := some k }
      | _ => openNow d n t1) s

/-- A waiting OPENW gets its answer. -/
def State.settleOpenw (s : State) (w : OpenW) (x : Word) (view : View) : State :=
  let s1 := { s with
    openws := s.openws.filter fun y => y.read != w.read
    reads := s.reads.map fun (r : Read) =>
      if r.id == w.read then { r with ready := true, arr := .reg (.s ⟨w.dest % 32, Nat.mod_lt _ (by decide)⟩ x) } else r }
  s1.onCore w.core fun u => u.acquire .c view

/-- The waiting OPENWs whose names are bound take effect in the order they began (R356). -/
def settleOpenws : List OpenW → State → State
  | [], s => s
  | w :: ws, s =>
    let s1 := match s.cores.find? fun c => c.id == w.core with
      | none => s
      | some c =>
        match s.openName c.launch ((s.vale (CoreId.valeIdx c.id)).vf % 32) w.name with
        | .error (-1) => s
        | .error e => s.settleOpenw w (status e) 0
        | .ok (i, view, u) => u.settleOpenw w (BitVec.ofNat 64 i) view
    settleOpenws ws s1

/-- OPENW_TIMEOUT (R356): the limit of a core's waiting OPENW has passed. -/
def execOpenwTimeout (c : CoreId) (s : State) : Host.Outcome State Fault Refusal :=
  match s.openws.find? fun w => w.core == c && (match w.limit with
      | some l => l ≤ s.timer
      | none => false) with
  | none => .next s
  | some w => .next (s.settleOpenw w (status (-3)) 0)

/-- CLOSE. -/
def execClose (m : Marks) (x : Bool) (d a : Fin 32) (s : State) : Host.Outcome State Fault Refusal :=
  issueDir false (xWords x) m (fun t =>
    let h := (t.sReg a).toNat
    if t.handles.any fun y => y.gang == t.core.launch && y.idx == h then
      dirReply d ({ t with handles := t.handles.filter fun y => !(y.gang == t.core.launch && y.idx == h) }.reclaim) 0
    else dirReply d t (status (-4))) s

/-! ## Pages of a range -/

/-- A party that has every write in its set: the directory's own reads of the tables. -/
def State.allParty (s : State) : Party := ⟨2 ^ s.nextWrite - 1, 0⟩

/-- The tier in which the page of an address lies, with the tables of a function; a page marked to migrate on touch
counts. -/
def State.pageTier (s : State) (vf va : Nat) : Option Nat :=
  let f := s.vfunOf vf
  let ok := fun (leaf : Word) (off : Nat) => match tierOf (leafLoc leaf) with
    | none => none
    | some t => (stage2 f t (leafOa leaf + off)).map fun _ => t.val
  match (walkVa .bare vf f va s.allParty s).1 with
  | .ok t => ok t.leaf (va % (if t.big then 2 ^ 29 else 2 ^ 16))
  | .error x =>
    if x.mot then
      match stage2 f 0 x.eia with
      | none => none
      | some pa => ok (BitVec.ofNat 64 (bytesVal (Memory.readN s.mem (tierBase 0 + pa) 8))) (va % 2 ^ 16)
    else none

/-- The walks by which the directory finds the pages of a range read the tables for an account (14 R458). -/
def State.walkPages (s : State) (vf acct : Nat) (pages : List Nat) : State :=
  pages.foldl (fun s p => (walkVa (walkFor acct) vf (s.vfunOf vf) p s.allParty s).2.2) s

/-- HQRY. -/
def execHqry (m : Marks) (x : Bool) (d a : Fin 32) (s : State) : Host.Outcome State Fault Refusal :=
  issueDir false (xWords x) m (fun t =>
    let w := t.sReg a
    let sel := (w.extractLsb' 12 4).toNat
    if w.extractLsb' 16 48 != 0 || 8 ≤ sel then dirReply d t (status (-6))
    else match t.handleObj t.core.launch (w.toNat % 4096) with
      | none => dirReply d t (status (-4))
      | some o => dirReply d (if sel == 7 then t.walkPages o.vf t.core.cr.acctid.toNat (pagesOf o.base o.size) else t) (match sel with
        | 0 => BitVec.ofNat 64 o.base
        | 1 => BitVec.ofNat 64 o.size
        | 2 => o.ext[1] ++ o.ext[0]
        | 3 => o.ext[3] ++ o.ext[2]
        | 4 => o.fmt
        | 5 => o.scalep
        | 6 => BitVec.ofNat 64 o.ident
        | _ => bitW ((pagesOf o.base o.size).all fun p => t.pageTier o.vf p == some 0))) s

/-! ## SEAL (R354 to R357) -/

/-- A seal record is well formed. -/
def sealOk (ws : List Word) : Bool :=
  let base := (ws.getD 0 0).toNat
  let size := (ws.getD 1 0).toNat
  let w4 := ws.getD 4 0
  let sp := (ws.getD 5 0).toNat
  base % 256 == 0 && size % 256 == 0 && 256 ≤ size && base + size ≤ 2 ^ 55 && w4.extractLsb' 6 58 == 0 &&
    (Fmt.ofCode (w4.extractLsb' 0 6)).isSome && (sp == 0 || (base ≤ sp && sp < base + size)) && ws.getD 6 0 == 0 &&
    ws.getD 7 0 == 0

/-- What SEAL releases: the writes to the object's bytes. -/
def State.carryRange (s : State) (vf base size : Nat) (v : View) : View :=
  carry (fun w => match w.loc with
    | .gen f a => f == vf && base ≤ a && a < base + size
    | _ => false) v s.hist

/-- Writes that the package has accepted for the bytes of an object stand to be performed: of a SAEQ, of an STMT. Its SEAL waits for them
(03 R112; log 77, DESIGN CHOICE). -/
def State.owesTo (s : State) (o : Obj) : Bool :=
  let t := { s with objs := [o] }
  (s.updates.any fun w => w.elems.any fun x => t.sealedRange w.vf x.1.toNat (.cell x.2.1) 4) ||
    s.books.pledges.any fun p => match (xlate .bare s s.allParty p.vf false true 0 [] p.va.toNat).res with
      | .ok loc => t.sealedRange p.vf (p.va.toNat + 32) (loc.byte 32) 522
      | .error _ => false

/-- SEAL. -/
def execSeal (m : Marks) (x : Bool) (d a : Fin 32) (s : State) : Host.Outcome State Fault Refusal :=
  issueDir true (xWords x) m (fun t => do
    let va := t.sReg a
    let (ws, t1) ← readWords va 8 t
    let base := (ws.getD 0 0).toNat
    let size := (ws.getD 1 0).toNat
    let vf := t1.vf
    let t1 := if va.toNat % 64 != 0 || !sealOk ws then t1 else t1.walkPages vf t1.core.cr.acctid.toNat (pagesOf base size)
    if va.toNat % 64 != 0 || !sealOk ws then dirReply d t1 (status (-6))
    else if !((pagesOf base size).all fun p => match t1.pageTier vf p with
        | some n => n < 2
        | none => false) then dirReply d t1 (status (-9))
    else if (t1.objs.any fun o => o.vf == vf && decide (o.base < base + size ∧ base < o.base + o.size)) ||
        t1.binds.any fun b => rangesMeet b.base b.len (.gen vf base) size then dirReply d t1 (status (-7))
    else if 65536 ≤ t1.objs.countP fun o => o.live then dirReply d t1 (status (-5))
    else match t1.freeHandle t1.core.launch with
      | none => dirReply d t1 (status (-2))
      | some h =>
        let half := fun (i : Nat) (hi : Bool) => (ws.getD i 0).extractLsb' (if hi then 32 else 0) 32
        let o : Obj :=
          { ident := t1.nextId % 2 ^ 32, vf := vf, base := base, size := size
            ext := #v[half 2 false, half 2 true, half 3 false, half 3 true], fmt := ws.getD 4 0, scalep := ws.getD 5 0
            acct := t1.core.cr.acctid.toNat, view := t1.carryRange vf base size (t1.eng .c).view, live := true }
        orStall (!t1.owesTo o) .mem
        dirReply d { t1 with
          nextId := t1.nextId + 1, objs := t1.objs ++ [o]
          handles := t1.handles ++ [⟨t1.core.launch, h, o.ident⟩] } (BitVec.ofNat 64 h)) s

/-! ## Rebinding (R352, R356) -/

/-- RBSTG. -/
def execRbstg (m : Marks) (x : Bool) (d a : Fin 32) (s : State) : Host.Outcome State Fault Refusal :=
  issueDir true (xWords x) m (fun t => do
    let va := t.sReg a
    let (ws, t1) ← readWords va 1 t
    let (name, t2) ← readName (va + 8) t1
    let w := ws.getD 0 0
    let unb := w.getLsbD 63
    let g := t2.core.launch
    match name with
    | none => dirReply d t2 (status (-6))
    | some n =>
      if w.extractLsb' 12 51 != 0 || (unb && w.extractLsb' 0 12 != 0) then dirReply d t2 (status (-6))
      else
        let o := t2.handleObj g (w.toNat % 4096)
        if !unb && o.isNone then dirReply d t2 (status (-4))
        else
          let rest := t2.staged.filter fun p => !(p.gang == g && p.name == n)
          let mine := rest.countP fun p => p.gang == g
          if 64 ≤ mine then dirReply d t2 (status (-8))
          else
            let p : Staged := ⟨g, n, if unb then none else o.map Obj.ident⟩
            dirReply d ({ t2 with staged := rest ++ [p] }.reclaim) (BitVec.ofNat 64 (mine + 1))) s

/-- One pair of a commit: the name is bound, or unbound (log 42, DEDUCED). -/
def applyPair (vf : Nat) (view : Nat → View) (p : Staged) (ns : List Name) : List Name :=
  let rest := ns.filter fun n => !(n.vf == vf && n.name == p.name)
  match p.ident with
  | none => rest
  | some x => rest ++ [⟨vf, p.name, x, view x⟩]

/-- RBCMT: every staged pair at one point (log 42, DEDUCED). -/
def execRbcmt (m : Marks) (x : Bool) (d : Fin 32) (s : State) : Host.Outcome State Fault Refusal :=
  issueDir true (xWords x) m (fun t =>
    let g := t.core.launch
    let ps := t.staged.filter fun p => p.gang == g
    let view := fun (x : Nat) => match t.objs.find? fun o => o.ident == x with
      | some o => t.carryRange o.vf o.base o.size (t.eng .c).view
      | none => 0
    let ns := ps.foldl (fun ns p => applyPair t.vf view p ns) t.names
    if 65536 < ns.length then dirReply d t (status (-5))
    else
      let u := { t with names := ns, staged := t.staged.filter fun p => p.gang != g }.reclaim
      dirReply d (settleOpenws u.openws u) (BitVec.ofNat 64 ps.length)) s

/-- RBABT. -/
def execRbabt (m : Marks) (x : Bool) (d : Fin 32) (s : State) : Host.Outcome State Fault Refusal :=
  issueDir true (xWords x) m (fun t =>
    let g := t.core.launch
    let n := t.staged.countP fun p => p.gang == g
    dirReply d ({ t with staged := t.staged.filter fun p => p.gang != g }.reclaim) (BitVec.ofNat 64 n)) s

/-- Stores doublewords at consecutive addresses by C, checked before any is written. -/
def storeWords (va : Word) : List Word → State → Except Stop State
  | [], s => .ok s
  | w :: ws, s => do
    let (loc, s1) ← storeC s va 8
    let s2 ← storeWords (va + 8) ws s1
    s1.preimage va loc
    .ok (s2.putLoc .c loc va (valBytes w.toNat 8) none)

/-- RCLM. -/
def execRclm (m : Marks) (x : Bool) (d a : Fin 32) (s : State) : Host.Outcome State Fault Refusal :=
  issueDir true (xWords x) m (fun t => do
    match t.reclaims.find? fun r => r.vf == t.vf with
    | none => dirReply d t 0
    | some r =>
      let ws := [r.ident, r.base, r.size, r.acct].map (BitVec.ofNat 64)
      let u ← storeWords (t.sReg a) ws t
      dirReply d { u with
        reclaims := u.reclaims.filter fun y => y.ident != r.ident
        objs := u.objs.filter fun o => o.ident != r.ident } 1) s

end Sys2Proof.Machine
end

