-- ==== Sys2Proof/Machine/Migrate.lean ====
section
/-! DEFINITION. Page moves between the near and steppe tiers, the leaf exchange, invalidation and dirty-bitmap changes (14
R442 to R454). -/

namespace Sys2Proof.Machine

open Sys2Proof

/-! ## Invalidation (R442) -/

/-- Drops a page of a function from every translation cache of the package. Walks under way read the tables when they
complete, so none of them keeps an older leaf (log 51, DEDUCED). -/
def State.invalidate (s : State) (vf va : Nat) : State :=
  let keep := fun (ts : List TlbEntry) => ts.filter fun t => !t.hits vf va
  s.mapCores fun c => { c with ctlb := keep c.ctlb, stlb := c.stlb.map keep }

/-! ## Writes that every party sees -/

/-- A write of the migration engine (log 21, DEDUCED). -/
def State.writeAll (s : State) (pa : Nat) (bs : List Byte) (loc : Loc) : State :=
  (writePiece s pa bs loc none).announce s.nextWrite

/-- Bitmap marks of n written bytes: one for each 4 KiB block. -/
def State.markRange (s : State) (vf pa n : Nat) : State :=
  (List.range ((pa + n + 4095) / 4096 - pa / 4096)).foldl (fun s i => s.markDirty vf (max pa ((pa / 4096 + i) * 4096))) s

/-- Bitmap marks of a copied frame. -/
def State.markFrame (s : State) (vf pa : Nat) : State := s.markRange vf pa 65536

/-! ## Reserves (R436, R444) -/

/-- The free reserve frames of a tier: those that no leaf names, no move or exchange has allocated and kept, and no store has lost. -/
def State.freeFrames (s : State) (vf : Nat) (t : Fin 3) : List Nat :=
  let f := s.vfunOf vf
  let used := ((migLeaves s f).filter fun l => leafLoc l.val == t.val).map fun l => leafOa l.val
  ((List.range (f.segMres t / 65536)).map fun i => f.segLen t - f.segMres t + 65536 * i).filter fun a =>
    f.segEn t && !used.contains a && !f.taken.contains (t.val, a) && !f.lost.contains (t.val, a) &&
      !(s.moves.any fun m => m.vf == vf && m.toTier == t.val && m.frame == a)

def State.modVf (s : State) (vf : Nat) (f : VFun → VFun) : State :=
  { s with vfs := s.vfs.mapIdx fun i x => if i == vf % 32 then f x else x }

/-- A frame is allocated: it stays out of the reserve until the engine returns it (R444, R448). -/
def State.takeFrame (s : State) (vf tier ia : Nat) : State :=
  s.modVf vf fun f => { f with taken := if f.taken.contains (tier, ia) then f.taken else f.taken ++ [(tier, ia)] }

/-- A frame returns to its reserve (R444, R448). -/
def State.returnFrame (s : State) (vf tier ia : Nat) : State :=
  s.modVf vf fun f => { f with taken := f.taken.filter (· != (tier, ia)) }

/-! ## Leaves that move -/

/-- A leaf of level 3 that a walk accepts, migrate on touch aside (R433). -/
def usableLeaf (n : Nat) (e : Word) : Bool := n == 3 && leafV e && leafLeaf e && entryZ 3 e && (!leafMot e || leafMig e)

/-- A leaf that names another frame of another tier, MOT cleared (R444). -/
def moveLeaf (e : Word) (tier frame : Nat) : Word :=
  BitVec.ofNat 64 (e.toNat % 32 + tier <<< 6 + (e.toNat / 256 % 256) <<< 8 + frame + (e.toNat / 2 ^ 48) <<< 48)

/-- A leaf with MOT cleared. -/
def unmarkLeaf (e : Word) : Word := e &&& ~~~(0x20#64)

/-! ## Moves (R444) -/

/-- Updates of a SAEQ are still to be performed in a frame (07 R277). -/
def State.updatesIn (s : State) (pa : Nat) : Bool := s.updates.any fun w => w.elems.any fun x => pa ≤ x.2.1 && x.2.1 < pa + 65536

/-- What a move to a tier would do with a page: nothing, clear its mark (R337), or copy it to a free frame. -/
inductive MovePlan where
  | skip
  | busy
  | mark (leafAt : Nat) (leaf : Word)
  | copy (leafAt : Nat) (leaf : Word) (frame : Nat)

def State.planMove (s : State) (vf va dest : Nat) : MovePlan :=
  match s.leafOf vf va, tierOf dest with
  | some (n, pa, e), some t =>
    if !usableLeaf n e || !leafMig e || 2 ≤ leafLoc e then .skip
    else if s.moving vf va then .busy
    else match tierOf (leafLoc e) with
      | none => .skip
      | some from' =>
        match stage2 (s.vfunOf vf) from' (leafOa e) with
        | none => .skip
        | some a =>
        if s.updatesIn (tierBase from'.val + a) then .busy
        else if leafLoc e == dest then (if dest == 0 && leafMot e then .mark pa e else .skip)
        else if (s.vfunOf vf).lost.contains (leafLoc e, leafOa e) then .skip
        else match (s.freeFrames vf t).find? fun a => (stage2 (s.vfunOf vf) t a).isSome with
          | none => .skip
          | some a => .copy pa e a
  | _, _ => .skip

/-- A move starts: writes to the page stall until it is settled (log 48, DESIGN CHOICE; log 72, DEDUCED). -/
def State.startMove (s : State) (vf va dest leafAt : Nat) (leaf : Word) (frame acct : Nat) (cmd : Option Nat) : State :=
  { s with
    moves := s.moves ++ [⟨s.nextId, vf, va / 65536 * 65536, leafAt, leaf, dest, frame, false, acct, cmd⟩]
    nextId := s.nextId + 1 }

/-- The physical address of a frame of a function. -/
def State.framePa (s : State) (vf tier ia : Nat) : Option Nat :=
  (tierOf tier).bind fun t => (stage2 (s.vfunOf vf) t ia).map fun a => tierBase tier + a

/-- A frame lies in the steppe tier, and that has failed (20 R523). -/
def State.lostFrame (s : State) (pa : Nat) : Bool := s.noSteppe && pa / 2 ^ 48 == 1

/-- A frame cannot be read: it has an uncorrectable error (22 R564; 20 R523). -/
def State.badFrame (s : State) (pa : Nat) : Bool := s.bad.any (fun u => pa ≤ 8 * u && 8 * u < pa + 65536) || s.lostFrame pa

/-- Where the first such error of a frame is. -/
def State.badPa (s : State) (pa : Nat) : Nat := ((s.bad.find? fun u => pa ≤ 8 * u && 8 * u < pa + 65536).map (8 * ·)).getD pa

/-- A move commits: it copies the page, and rewrites the leaf when that is still as it was read (R444). Answers whether
the page has moved (log 21, DEDUCED). -/
def State.commitMove (s : State) (m : Move) : Bool × State :=
  let s1 := { s with moves := s.moves.filter fun x => x.id != m.id }
  let now : Word := BitVec.ofNat 64 (bytesVal (Memory.readN s.mem m.leafAt 8))
  match s.framePa m.vf (leafLoc m.leaf) (leafOa m.leaf), s.framePa m.vf m.toTier m.frame with
  | some src, some dst =>
    if now != m.leaf then (false, s1)
    else if s.badFrame src then (false, s1.poison (s.badPa src))
    else if s.lostFrame dst then (false, s1.poison dst)
    else
      let bytes := Memory.readN s1.mem src 65536
      let s2 := (((s1.fixSoft src 65536).writeAll dst bytes (.gen m.vf m.va)).markFrame m.vf dst).transfer src m.acct
      let leaf := moveLeaf m.leaf m.toTier m.frame
      let s3 := ((s2.transfer dst m.acct).takeFrame m.vf m.toTier m.frame).returnFrame m.vf (leafLoc m.leaf) (leafOa m.leaf)
      (true, ((s3.writeAll m.leafAt (valBytes leaf.toNat 8) (.gen m.vf m.va)).markDirty m.vf m.leafAt).invalidate m.vf m.va)
  | _, _ => (false, s1)

/-- A near page marked to migrate on touch loses its mark (R337, R446). -/
def State.commitMark (s : State) (vf va leafAt : Nat) (leaf : Word) : State :=
  ((s.writeAll leafAt (valBytes (unmarkLeaf leaf).toNat 8) (.gen vf va)).markDirty vf leafAt).invalidate vf va

/-- An object that a waiting or placed launch lists has bytes in a page of a function: the engine does not demote it by its
own choice (16 R470; log 48, DESIGN CHOICE). -/
def State.listed (s : State) (vf va : Nat) : Bool :=
  let ids := (s.disp.queues.flatMap fun q => (q.2.fifo.take 1).flatMap Packed.objs) ++
    (s.disp.gangs.filter fun g => !g.ended).flatMap fun g => g.pk.objs
  s.objs.any fun o => o.vf == vf && ids.contains o.ident && o.base < va / 65536 * 65536 + 65536 &&
    va / 65536 * 65536 < o.base + o.size

/-- MIGRATION_MOVE (R444): the engine starts a move by its own choice, where MIGCTL lets it (log 48, DESIGN CHOICE). -/
def execMigrationMove (vf : Nat) (va : Word) (near : Bool) (s : State) : Host.Outcome State Fault Refusal :=
  if !(s.vfunOf vf).migctl.getLsbD 0 || (!near && s.listed vf va.toNat) then .next s
  else
    let dest := if near then 0 else 1
    match s.planMove vf va.toNat dest with
    | .copy pa e a => .next (s.startMove vf va.toNat dest pa e a 1 none)
    | _ => .next s

/-- MIGRATION_COMMIT (R444). A move by the engine's own choice posts its event (22 R554). -/
def execMigrationCommit (k : Nat) (s : State) : Host.Outcome State Fault Refusal :=
  match s.moves.find? fun m => m.id == k with
  | none => .next s
  | some m =>
    let (moved, t) := s.commitMove m
    .next (if moved && m.cmd.isNone then t.alert (0x2000 + m.vf) 2 [m.va, leafOa m.leaf, m.frame] else t)

/-! ## The leaf exchange (R448, R449) -/

/-- The content of a frame that a leaf names: of a remote one, free (log 8, DESIGN CHOICE). -/
def State.frameOf (s : State) (vf : Nat) (e : Word) : List Byte × State :=
  match s.framePa vf (leafLoc e) (leafOa e) with
  | some pa => (Memory.readN s.mem pa 65536, s.fixSoft pa 65536)
  | none => if leafLoc e == 3 then remoteBytes s 65536 else (List.replicate 65536 0, s)

/-- Fills the frame that a leaf names; one that is remote, or fails stage 2, is not filled (log 91, DESIGN CHOICE). -/
def State.fillFrame (s : State) (vf va : Nat) (e : Word) (bytes : List Byte) : State :=
  match s.framePa vf (leafLoc e) (leafOa e) with
  | some pa => (s.writeAll pa bytes (.gen vf va)).markFrame vf pa
  | none => s

/-- The write of a copied frame is a transfer where there is a frame to fill. -/
def State.transferFill (s : State) (vf acct : Nat) (e : Word) : State :=
  match s.framePa vf (leafLoc e) (leafOa e) with
  | some pa => s.transfer pa acct
  | none => s

/-- What an exchange answers: LXGO, LXOLD, LXNEW, and the state. -/
structure Exchanged where
  status : Nat
  old    : Word
  new    : Word
  st     : State

/-- The frame of the leaf that an exchange replaces cannot be read: where its error is (22 R564). -/
def State.exchangeError (s : State) (vf n : Nat) (e : Word) : Option Nat :=
  if !leafV e || n != 3 then none
  else (s.framePa vf (leafLoc e) (leafOa e)).bind fun pa => if s.badFrame pa then some (s.badPa pa) else none

/-- The frame of the leaf that an exchange writes lies in the steppe tier, and that has failed: where (20 R523). -/
def State.fillError (s : State) (vf : Nat) (e : Word) : Option Nat :=
  (s.framePa vf (leafLoc e) (leafOa e)).filter s.lostFrame

/-- A leaf names a remote frame that no port leads to: its copy fails as an access in flight at a change of the epoch does (R451; 20 R518). -/
def State.lostFar (s : State) (e : Word) : Bool := leafV e && leafLoc e == 3 && (s.portTo (leafNode e)).isNone

/-- The copy out of, or into, a frame that a leaf names is a transfer: at a channel group or CXL port, or at the Tsuosh port by which its
request leaves (17 R490). The migration engine is unit 8 of such a request (log 17, DESIGN CHOICE). -/
def State.copyOf (s : State) (vf acct : Nat) (va : Nat) (e : Word) : State :=
  match s.framePa vf (leafLoc e) (leafOa e) with
  | some pa => s.transfer pa acct
  | none =>
    if leafLoc e != 3 then s
    else match s.askFar 8 (coreAt 0) false (leafNode e) (leafRvf e) va 65536 with
      | some r => s.transferOut r.port acct (.load r)
      | none => s

/-- The exchange of R448: its transfers book to an account (R458; log 21, DEDUCED). -/
def State.exchange (s : State) (vf acct : Nat) (lxa old new : Word) : Exchanged :=
  let va := lxa.toNat
  let refuse := fun (n : Nat) (t : State) => (⟨n, old, new, t⟩ : Exchanged)
  let page := va / 65536 * 65536
  match s.leafOf vf va with
  | none => refuse 4 s
  | some (n, leafAt, e) =>
    if n == 2 && leafMig new then refuse 4 s
    else if e != old then ⟨3, e, new, s⟩
    else
      let put := fun (leaf : Word) (t : State) =>
        (⟨2, leaf, leaf, ((t.writeAll leafAt (valBytes leaf.toNat 8) (.gen vf va)).markDirty vf leafAt).invalidate vf va⟩ :
          Exchanged)
      let kept := leafV e && leafMig e
      if leafV new && leafMig new then
        match s.exchangeError vf n e, tierOf (leafLoc new) with
        | some pa, _ => refuse 4 (s.poison pa)
        | none, none => refuse 4 s
        | none, some t =>
          if t.val == 2 || s.lostFar e || (s.vfunOf vf).segMres t == 0 then refuse 4 s
          else match s.freeFrames vf t with
            | [] => refuse 5 s
            | a :: _ =>
              let leaf := new &&& ~~~(0xFFFFFFFF0000#64) ||| BitVec.ofNat 64 a
              match s.fillError vf leaf with
              | some pa => refuse 4 (s.poison pa)
              | none =>
              let (bytes, t1) := if leafV e then s.frameOf vf e else (List.replicate 65536 0, s)
              let t2 := if leafV e then t1.copyOf vf acct page e else t1
              let t3 := if kept then t2.takeFrame vf (leafLoc e) (leafOa e) else t2
              put leaf (((t3.takeFrame vf t.val a).fillFrame vf va leaf bytes).transferFill vf acct leaf)
      else if kept && !leafMig new then
        match (if leafV new then (s.exchangeError vf n e).or (s.fillError vf new) else none) with
        | some pa => refuse 4 (s.poison pa)
        | none =>
          let (bytes, t1) := s.frameOf vf e
          let t2 := if leafV new then (((t1.copyOf vf acct page e).fillFrame vf va new bytes).transferFill vf acct new) else s
          put new (t2.returnFrame vf (leafLoc e) (leafOa e))
      else put new (if kept then s.takeFrame vf (leafLoc e) (leafOa e) else s)

/-- LEAF_EXCHANGE (R448): the exchange that a core's LXGO asks for, once the writes to the page are performed, booked to that core's account (R458). -/
def execLeafExchange (c : CoreId) (s : State) : Host.Outcome State Fault Refusal :=
  match s.cores.find? fun k => k.id == c with
  | none => .next s
  | some k =>
    let v := CoreId.valeIdx c
    let vf := (s.vale v).vf % 32
    let busy := ((s.leafOf vf k.cr.lxa.toNat).bind fun l => s.framePa vf (leafLoc l.2.2) (leafOa l.2.2)).any s.updatesIn
    if k.cr.lxgo != 1 || busy then .next s
    else
      let acct := k.cr.acctid.toNat
      let w := walkVa (walkerOf v acct) vf (s.vfunOf vf) k.cr.lxa.toNat s.allParty s
      let t := match w.1 with
        | .error x => if x.code == 0x3E then w.2.2.poison x.eia else w.2.2
        | .ok _ => w.2.2
      let x := t.exchange vf acct k.cr.lxa k.cr.lxold k.cr.lxnew
      .next (x.st.onCore c fun u => u.modCr fun r => { r with lxgo := x.status, lxold := x.old, lxnew := x.new })

/-! ## Dirty bitmaps (R453, R454) -/

/-- DTCTL with other EN and CUR, and FLP. -/
def mkDtctl (en : Nat) (cur flp : Bool) : Word := BitVec.ofNat 64 (en % 8 + cur.toNat <<< 3 + flp.toNat <<< 4)

/-- DTCTL_CUR_CHANGE (R454): the bitmap changes, and FLP reads 1 until the change is settled. -/
def execDtctlCurChange (vf : Nat) (cur : Bool) (s : State) : Host.Outcome State Fault Refusal :=
  .next (s.modVf vf fun f =>
    if f.dtctl.getLsbD 3 == cur then f else { f with dtctl := mkDtctl (f.dtctl.toNat % 8) cur true })

/-- DIRTY_FLIP_SETTLE (R454): every earlier write has set its bit when it was performed. -/
def execDirtyFlipSettle (vf : Nat) (s : State) : Host.Outcome State Fault Refusal :=
  .next (s.modVf vf fun f => { f with dtctl := mkDtctl (f.dtctl.toNat % 8) (f.dtctl.getLsbD 3) false })

end Sys2Proof.Machine
end

