-- ==== Sys2Proof/Machine/Port.lean ====
section
/-! DEFINITION. Commands as C and the engines see them: XPUSH, XPOP, XSTAT, the checks of COMMAND_START, completion, posts and
result elements (06 R217 to R220; 09 R325 to R331; 13 R405). -/

namespace Sys2Proof.Machine

open Sys2Proof

/-! ## Fields of a command (R325) -/

def Cmd.word (c : Cmd) (i : Nat) : Word := c.words.getD i 0
/-- n bits of word i from bit lo on. -/
def Cmd.bits (c : Cmd) (i lo n : Nat) : Nat := ((c.word i).extractLsb' lo n).toNat
def Cmd.typ (c : Cmd) : Nat := c.bits 0 56 8
def Cmd.ben (c : Cmd) : Bool := c.bits 0 49 1 == 1
def Cmd.stepBit (c : Cmd) : Bool := c.bits 0 50 1 == 1
def Cmd.fen (c : Cmd) : Bool := c.bits 0 51 1 == 1
def Cmd.flag (c : Cmd) : Fin 16 := ⟨c.bits 0 52 4 % 16, Nat.mod_lt _ (by decide)⟩

/-- The command that a type names on an engine (05 R176). -/
inductive CmdKind where
  | copy | mcast | gather | scatter | pref | sigath | copyx | sacc | coll
  deriving DecidableEq, Repr

def Cmd.kind (c : Cmd) : Option CmdKind :=
  match c.x.val, c.typ with
  | 0, 1 => some .copy
  | 0, 2 => some .mcast
  | 0, 3 => some .gather
  | 0, 4 => some .scatter
  | 0, 7 => some .pref
  | 0, 8 => some .sigath
  | 0, 9 => some .copyx
  | 1, 5 => some .sacc
  | 2, 6 => some .coll
  | _, _ => none

/-- The words of a command. -/
def CmdKind.count : CmdKind → Nat
  | .copy => 13 | .mcast => 15 | .gather => 14 | .scatter => 14 | .pref => 4 | .sigath => 10 | .copyx => 5 | .sacc => 6
  | .coll => 6

/-! ### The tile block (R332) -/

def Cmd.es (c : Cmd) : Nat := c.bits 0 47 2
def Cmd.esize (c : Cmd) : Nat := 2 ^ c.es
def Cmd.srot (c : Cmd) : Nat := c.bits 0 42 5
def Cmd.drot (c : Cmd) : Nat := c.bits 0 37 5
def Cmd.svl (c : Cmd) : Nat := c.bits 0 29 8
def Cmd.dvl (c : Cmd) : Nat := c.bits 0 21 8
def Cmd.ext (c : Cmd) (i : Nat) : Nat := c.bits (4 + i / 2) (32 * (i % 2)) 32
def Cmd.org (c : Cmd) (i : Nat) : Nat := c.bits (6 + i / 2) (32 * (i % 2)) 32
/-- A signed stride: half `hi` of word i. -/
def Cmd.stride (c : Cmd) (i : Nat) (hi : Bool) : Int := ((c.word i).extractLsb' (if hi then 32 else 0) 32).toInt
def Cmd.sstd (c : Cmd) (i : Nat) : Int :=
  match i with
  | 1 => c.stride 8 false
  | 2 => c.stride 8 true
  | _ => c.stride 9 false
def Cmd.dstd (c : Cmd) (i : Nat) : Int :=
  match i with
  | 1 => c.stride 9 true
  | 2 => c.stride 10 false
  | _ => c.stride 10 true
def Cmd.tl (c : Cmd) (i : Nat) : Nat := c.bits 11 (16 * i) 16
/-- The elements of the tile, and its size T. -/
def Cmd.tileElems (c : Cmd) : Nat := c.tl 0 * c.tl 1 * c.tl 2 * c.tl 3
def Cmd.tileBytes (c : Cmd) : Nat := c.tileElems * c.esize

/-- A vale code: bit 7 clear leaves the others Z. -/
def valeCodeOk (x : Nat) : Bool := 128 ≤ x || x == 0

/-- A tile breaks R97: a scratch side with a rotation code, a row pitch and a row length. -/
def rotBad (scratch : Bool) (rot : Nat) (pitch : Int) (len : Nat) : Bool :=
  scratch && rot != 0 && (pitch % 2048 != 0 || 2048 < len)

/-- The fields of a tile command lie inside their limits. -/
def Cmd.tileOk (c : Cmd) (k : CmdKind) : Bool :=
  c.bits 0 0 19 == 0 && (k == .scatter || c.bits 0 19 2 == 0) && c.es != 3 && c.bits 12 32 32 == 0 &&
    valeCodeOk c.svl && valeCodeOk c.dvl &&
    (isScratch (c.word 2) || (c.svl == 0 && c.srot == 0)) && (isScratch (c.word 3) || (c.dvl == 0 && c.drot == 0)) &&
    ((List.range 4).all fun i => c.ext i != 0 && c.tl i != 0) && c.tileBytes ≤ 2 ^ 31

/-! ### Whether a command is refused (R327) -/

/-- A command's own fields are well formed. `size` is the number of members of its domain (log 47, DEDUCED). The DEXT1 of a SCATTER may be 0
(log 86, DESIGN CHOICE). -/
def Cmd.fieldsOk (c : Cmd) (k : CmdKind) (size : Nat) : Bool :=
  match k with
  | .copy => c.tileOk k
  | .mcast => c.tileOk k && c.dvl == 0 && isScratch (c.word 3) && (c.word 13 != 0 || c.word 14 != 0)
  | .gather => c.tileOk k && c.bits 13 23 41 == 0 && c.bits 13 0 2 == 0
  | .scatter =>
    c.tileOk k && c.bits 13 23 9 == 0 && c.bits 13 0 2 == 0 && (c.bits 0 20 1 == 0 || c.es == 2) &&
      (c.bits 0 20 1 == 1 || c.bits 0 19 1 == 0)
  | .pref =>
    c.bits 0 0 47 == 0 && c.es < 2 && !c.ben && c.bits 2 0 16 == 0 && c.bits 3 0 16 == 0 && c.word 3 != 0 &&
      (c.word 3).toNat ≤ 2 ^ 31
  | .sigath =>
    c.bits 0 0 21 == 0 && c.bits 0 29 18 == 0 && c.es != 3 && valeCodeOk c.dvl && c.bits 2 0 3 == 0 &&
      c.bits 3 0 8 == 0 && c.bits 4 0 8 == 0 && 256 ≤ c.bits 4 0 32 && c.bits 4 0 32 ≤ 65536 && 1 ≤ c.bits 4 32 32 &&
      c.bits 4 32 32 ≤ 2 ^ 24 && c.bits 6 0 7 ≤ 64 && c.bits 6 7 9 == 0 && c.bits 6 28 36 == 0 && isScratch (c.word 7) &&
      c.bits 8 0 2 == 0 && c.bits 9 32 32 == 0
  | .copyx =>
    2 ≤ c.lvl && c.bits 0 0 32 == 0 && !c.ben && c.bits 2 0 8 == 0 && !isScratch (c.word 2) && c.bits 3 20 12 == 0 && c.bits 3 52 12 == 0 &&
      1 ≤ c.bits 3 32 20 && c.bits 3 32 20 ≤ 100352 && c.bits 3 0 20 + c.bits 3 32 20 ≤ 100352 &&
      c.bits 4 23 9 == 0 && c.bits 4 56 8 == 0 && c.bits 4 0 12 == 0 && c.bits 4 32 12 == 0
  | .sacc =>
    c.bits 0 0 45 == 0 && c.bits 0 46 3 < 6 && (c.bits 0 45 1 == 0 || c.bits 0 46 3 == 2 || c.bits 0 46 3 == 3) &&
      c.bits 2 0 2 == 0 && c.bits 3 0 2 == 0 && c.bits 5 0 24 != 0 && c.bits 5 24 40 == 0
  | .coll =>
    let op := c.bits 0 46 3
    let red := c.bits 0 43 3
    let root := c.bits 0 27 16
    c.bits 0 0 27 == 0 && op < 5 && red < 6 && (op < 2 || red == 0) && (op == 1 || op == 2 || root == 0) &&
      (size == 0 || root < size) && c.bits 2 0 2 == 0 && c.bits 3 0 2 == 0 && c.bits 4 0 32 ≤ 2 ^ 28 &&
      c.bits 4 32 32 == 0 && (op == 4 || c.word 5 == 0)

/-- A command is refused. -/
def Cmd.refused (c : Cmd) (size : Nat) : Bool :=
  match c.kind with
  | none => true
  | some k =>
    c.words.length != k.count || (!c.ben && c.word 1 != 0) || (c.shadow && (c.fen || c.ben)) || !c.fieldsOk k size

/-- A command whose tile breaks R97: the descriptor fault, before any element (log 46, DESIGN CHOICE). -/
def Cmd.rotFault (c : Cmd) : Bool :=
  match c.kind with
  | some .copy | some .mcast | some .gather | some .scatter =>
    rotBad (isScratch (c.word 2)) c.srot (c.sstd 1) (c.tl 0 * c.esize) ||
      rotBad (isScratch (c.word 3)) c.drot (c.dstd 1) (c.tl 0 * c.esize)
  | _ => false

/-! ## Ports of a core (R217 to R220) -/

def Core.modPort (c : Core) (x : Fin 3) (f : XPort → XPort) : Core := { c with xp := c.xp.set x (f c.xp[x]) }
def State.modPort (s : State) (x : Fin 3) (f : XPort → XPort) : State := s.modCore (·.modPort x f)

/-- The superstep to which a push with STEP = 1 is tagged: the next one whose barrier its core arrives at (R326). -/
def State.pushTag (s : State) : Option Nat :=
  (s.domain s.core.dom).map fun d => if d.arrived.contains s.core.id then d.ph + 1 else d.ph

/-- Those among whom a command's cycles are split: an MCAST's named vales (17 R492), with the account of the gang's
lowest core there. -/
def State.mcastBens (s : State) (c : Cmd) : List (Nat × Nat) :=
  ((List.range 128).filter fun v => (if v < 64 then (c.word 13).getLsbD v else (c.word 14).getLsbD (v - 64))).map fun v =>
    let here := (((s.gang c.gang).map Gang.cores).getD []).find? fun i => CoreId.valeIdx i == v
    let acct := (here.bind fun i => s.cores.find? fun k => k.id == i).map fun k => k.cr.acctid.toNat
    (v, acct.getD c.acct)

/-- The commands of one collective. -/
def Cmd.mates (c d : Cmd) : Bool := c.kind == some .coll && d.kind == some .coll && d.dom == c.dom && d.seq == c.seq

/-- A member of a collective whose command has been pushed: its rank, and the account of its push (17 R492). -/
def State.collShare (s : State) (c : Cmd) : Nat × Nat :=
  ((((s.domain c.dom).map Domain.members).getD []).findIdx (· == c.core), c.acct)

/-- Those among whom a command's cycles are split: an MCAST's vales; a COLL's members that have pushed, this one among them. -/
def State.cmdBens (s : State) (c : Cmd) : List (Nat × Nat) :=
  match c.kind with
  | some .mcast => s.mcastBens c
  | some .coll => (s.cmds.filter c.mates).map s.collShare ++ [s.collShare c]
  | _ => []

/-- A command enters the port: the other members of its collective share with it, each by the account of its own push (17 R492). -/
def State.addCmd (s : State) (c : Cmd) : State :=
  { s with
    cmds := (s.cmds.map fun d => if c.mates d then { d with bens := d.bens ++ [s.collShare c] } else d) ++ [{ c with bens := s.cmdBens c }]
    nextId := s.nextId + 1 }

/-- Every member of a collective has pushed, and all for one account: its cycles are not split (09 R359). -/
def State.oneOwner (s : State) (c : Cmd) : Bool :=
  c.kind == some .coll && c.bens.length == (((s.domain c.dom).map Domain.members).getD []).length && c.bens.all fun b => b.2 == c.acct

/-- A command as C pushes it. -/
def State.newCmd (s : State) (x : Fin 3) (a : Fin 32) (n : Nat) : Cmd :=
  let words := (List.range n).map fun i => s.sReg ⟨(a.val + i) % 32, Nat.mod_lt _ (by decide)⟩
  let seq := ((s.colls.find? fun p => p.1 == s.core.id && p.2.1 == s.core.dom).map fun p => p.2.2).getD 0
  let w0 := words.headD 0
  { id := s.nextId, x := x, core := s.core.id, gang := s.core.launch, shadow := s.inShadow, reg := a.val, pc := s.pcOf .c
    words := words, view := (s.eng .c).view, floor := 0, acct := s.core.cr.acctid.toNat, lvl := s.core.cr.lvl.toNat
    spw := s.core.cr.spw, dom := s.core.dom, seq := seq, tag := if w0.getLsbD 50 then s.pushTag else none
    held := (s.handles.filter fun h => h.gang == s.core.launch).map Handle.ident, stage := .queued, wrote := 0
    wids := s.unacked .c
    bytes := 0, detail := 0, elems := 0, fault := none, upto := 0, data := [], sums := [], phase := 0
    work := 0, bens := [] }

/-- The COLLs that the core in focus has pushed in its domain instance count one more. -/
def State.countColl (s : State) : State :=
  let mine := fun (p : CoreId × Nat × Nat) => p.1 == s.core.id && p.2.1 == s.core.dom
  let n := ((s.colls.find? mine).map fun p => p.2.2).getD 0
  { s with colls := s.colls.filter (fun p => !mine p) ++ [(s.core.id, s.core.dom, n + 1)] }

/-- The commands that a core may have outstanding on an engine. -/
def xCap (shadow : Bool) : Nat := if shadow then 2 else 8

def XPort.outstanding (p : XPort) (shadow : Bool) : Nat := if shadow then p.souts else p.outs

/-- One command more or one less is outstanding. -/
def XPort.count (p : XPort) (shadow : Bool) (f : Nat → Nat) : XPort :=
  if shadow then { p with souts := f p.souts } else { p with outs := f p.outs }

/-- XPUSH (R217, R218): the push is a release of C's whole visible set toward the command (04 R134). -/
def execXpush (m : Marks) (x : Fin 3) (a : Fin 32) (n : BitVec 6) (s : State) : Host.Outcome State Fault Refusal :=
  issue .c 1 m (fun t => do
    let sh := t.inShadow
    orStall (t.core.xp[x].outstanding sh < xCap sh) .resv
    let c := t.newCmd x a n.toNat
    let t1 := t.addCmd c
    let t2 := if c.kind == some .coll then t1.countColl else t1
    .ok { st := t2.modPort x fun p => p.count sh (· + 1) }) s

/-- A result element (R330). -/
def resultWord (r : Result) : Word := r.word

/-- XPOP (R219): an acquire of the bytes that the element reports. -/
def execXpop (m : Marks) (d : Fin 32) (x : Fin 3) (s : State) : Host.Outcome State Fault Refusal :=
  issue .c 1 m (fun t =>
    let sh := t.inShadow
    let p := t.core.xp[x]
    match if sh then p.sres else p.res with
    | r :: rs =>
      if r.fresh then .error (.stall .pop)
      else
        let q := (if sh then { p with sres := rs } else { p with res := rs }).count sh (· - 1)
        .ok { st := ((t.modPort x fun _ => q).acquire .c r.view).putC 1 d (resultWord r) }
    | [] => .error (.stall .pop)) s

/-- XSTAT's value (R220; log 76, DEDUCED). -/
def State.xstat (s : State) (x : Fin 3) : Word :=
  let sh := s.inShadow
  let p := s.core.xp[x]
  let rs := if sh then p.sres else p.res
  let busy := s.cmds.any fun c => c.core == s.core.id && c.x == x && c.stage != .queued && c.stage != .complete
  BitVec.ofNat 64 (p.outstanding sh + rs.length <<< 4 + (rs.any Result.fault).toNat <<< 8 + busy.toNat <<< 9)

/-- XSTAT (log 76, DEDUCED). -/
def execXstat (m : Marks) (d : Fin 32) (x : Fin 3) (s : State) : Host.Outcome State Fault Refusal :=
  issue .c 1 m (fun t => .ok { st := t.putC 1 d (t.xstat x) }) s

/-! ## The engines' side -/

def State.cmd (s : State) (k : Nat) : Option Cmd := s.cmds.find? (·.id == k)
def State.setCmd (s : State) (c : Cmd) : State := { s with cmds := s.cmds.map fun d => if d.id == c.id then c else d }

/-- Commands pushed earlier by the same core to the same engine, on the same path. -/
def State.earlier (s : State) (c : Cmd) : List Cmd :=
  s.cmds.filter fun d => d.core == c.core && d.x == c.x && d.shadow == c.shadow && d.id < c.id

/-- A command ends with a fault record: the record's cause and element (log 46, DESIGN CHOICE). -/
def Cmd.fail (c : Cmd) (code elem : Nat) : Cmd := { c with stage := .complete, fault := some code, bytes := elem, detail := code }

/-- A refused COLL leaves its collective without a member (log 47, DEDUCED). -/
def State.voidColl (s : State) (c : Cmd) : State :=
  if c.kind == some .coll then { s with voids := s.voids ++ [(c.dom, c.seq)] } else s

/-- Another COPYX of the same key slot is under way (19 R508). -/
def State.slotBusy (s : State) (c : Cmd) : Bool :=
  c.kind == some .copyx && s.cmds.any fun d =>
    d.kind == some .copyx && d.id != c.id && d.stage == .started && d.bits 0 42 6 == c.bits 0 42 6

/-- A command may start: those that its core pushed to the engine before it have started (R328), and the remote writes that its push
carries are performed (04 R131). -/
def State.canStart (s : State) (c : Cmd) : Bool :=
  c.stage == .queued && c.wids.isEmpty && ((s.earlier c).all fun d => d.stage != .queued) && !s.slotBusy c

/-- COMMAND_START (R327): the engine starts the command or refuses it (log 46, DESIGN CHOICE). -/
def execCommandStart (k : Nat) (s : State) : Host.Outcome State Fault Refusal :=
  match s.cmd k with
  | none => .next s
  | some c =>
    if !s.canStart c then .next s
    else
      let size := ((s.domain c.dom).map fun d => d.members.length).getD 0
      .next (if c.refused size then (s.setCmd (c.fail 0x31 0)).voidColl c
        else if c.rotFault then s.setCmd (c.fail 0x20 0)
        else s.setCmd { c with stage := .started })

/-- The bytes that a command's post carries (R333 to R340). -/
def Cmd.postBytes (c : Cmd) : Nat :=
  match c.kind with
  | some .copy | some .gather | some .scatter => c.tileBytes
  | some .sacc => 4 * c.bits 5 0 24
  | some .mcast | some .sigath | some .coll | some .pref | some .copyx | none => c.bytes

/-- A command completes after its post: its flag, unless that stands at 255; then its element waits (R329). -/
def State.finishCmd (s : State) (c : Cmd) : State :=
  match s.cores.find? fun k => k.id == c.core with
  | none => s.setCmd { c with stage := .complete }
  | some k =>
    if !c.fen then s.setCmd { c with stage := .complete }
    else
      let f := k.r.f[c.flag]
      if f.room (1 + k.flagHeld c.flag) then
        (s.setCmd { c with stage := .complete }).onCore c.core fun u => u.modR fun r =>
          { r with f := r.f.set c.flag { f with val := f.val + 1, view := f.view ||| c.wrote } }
      else s.setCmd { c with stage := .posted }

/-- A command's failed post: the writes stand, the record gives the element count (R331). -/
def Cmd.failPost (c : Cmd) (code : Nat) : Cmd := c.fail code c.elems

/-- A command posts its bytes to the barrier of word 1. -/
def State.postCmd (s : State) (c : Cmd) : State :=
  let oid := c.word 1 |>.extractLsb' 0 32
  let pod := (s.cores.find? fun k => k.id == c.core).bind Core.pod
  match s.syncObj oid with
  | none => s.setCmd (c.failPost 0x2A)
  | some x =>
    if !scopeHas x c.core pod then s.setCmd (c.failPost 0x28)
    else if oidKind oid != 1 then s.setCmd (c.failPost 0x2A)
    else match x.arrive (c.bits 1 32 32) 0 c.postBytes c.wrote [] with
      | .wait => s.setCmd { c with stage := .posting }
      | .overrun => s.setCmd (c.failPost 0x2B)
      | .ok y => (s.setObj y).finishCmd c

/-- A command's pause on a watchpoint lasts until its trap has been taken and its handler has returned (13 R420). The stop of
its core ends the pause: the commands of a stopped core run to completion (R422). -/
def State.paused (s : State) (c : Cmd) : Bool :=
  (s.cores.find? fun k => k.id == c.core).elim false fun k =>
    k.st == .running && !k.frozen && (k.cr.pending.any (fun p => p.code == 0x38 && p.unit == 5 + c.x.val) ||
      (k.cr.shd && k.cr.cause.toNat % 2048 == 0x38 + (5 + c.x.val) * 256))

/-- COMMAND_COMPLETION (R329): a command whose writes are performed at their destinations posts, adds to its flag and queues its element; one
that waits for its flag adds to it once it may (log 46, DESIGN CHOICE). -/
def execCommandCompletion (k : Nat) (s : State) : Host.Outcome State Fault Refusal :=
  match s.cmd k with
  | none => .next s
  | some c =>
    .next (if s.paused c || !c.wids.isEmpty then s
      else match c.stage with
      | .performed => if c.ben then s.postCmd c else s.finishCmd c
      | .posted => s.finishCmd c
      | _ => s)

/-- BARRIER_POST (R343): a post that waits for a later phase is counted once it may be. -/
def execBarrierPost (k : Nat) (s : State) : Host.Outcome State Fault Refusal :=
  match s.cmd k with
  | none => .next s
  | some c => .next (if c.stage == .posting then s.postCmd c else s)

/-- The result element of a complete command (R330). -/
def Cmd.result (c : Cmd) : Result :=
  { word := BitVec.ofNat 64 (c.bytes % 2 ^ 32 + (c.detail % 65536) <<< 32 + c.typ <<< 48 + c.fault.isSome.toNat <<< 63)
    fault := c.fault.isSome, fresh := false, view := c.wrote }

/-- The imprecise cause of a fault record: the command fault, or the uncorrectable error that its read met (R331; 22
R564). -/
def Cmd.cause (c : Cmd) (code : Nat) : CauseRec :=
  { code := if code == 0x3E then 0x3E else 0x30, unit := 5 + c.x.val, imp := true
    detail := if code == 0x3E then 0 else c.reg + code <<< 8, pc := c.pc, word := 0, addr := 0, pos := 0, walk := 0 }

/-- The element of a complete command enters its core's result FIFO; a fault record raises its cause, but not on the
shadow path (R331; 13 R405). -/
def placeResult (c : Cmd) (u : State) : State :=
  let v := u.modPort c.x fun p =>
    if c.shadow then { p with sres := p.sres ++ [c.result] } else { p with res := p.res ++ [c.result] }
  match c.fault with
  | some code => if c.shadow then v else v.modCr fun r => { r with pending := r.pending ++ [(c.cause code).atWord v .a c.pc] }
  | none => v

/-- A command's element may be placed: its writes are performed, those pushed before it have been placed, and its cycles are booked
(log 76, DEDUCED). -/
def State.canPlace (s : State) (c : Cmd) : Bool :=
  c.stage == .complete && c.wids.isEmpty && c.work == 0 && (s.earlier c).isEmpty

/-- What a command tagged to a phase has written stays noted for that phase (04 R137). -/
def State.noteTag (s : State) (c : Cmd) : State :=
  match c.tag with
  | none => s
  | some k => { s with domains := s.domains.map fun d =>
      if d.id == c.dom then { d with tagged := assocSet k (assocGet 0 k d.tagged ||| c.wrote) d.tagged } else d }

/-- RESULT_ELEMENT_PLACE (R329; log 76, DEDUCED). -/
def execResultElementPlace (k : Nat) (s : State) : Host.Outcome State Fault Refusal :=
  match s.cmd k with
  | none => .next s
  | some c =>
    .next (if s.canPlace c then
      ({ s.noteTag c with cmds := s.cmds.filter fun d => d.id != c.id }.modGang c.gang fun g =>
        { g with wrote := g.wrote ||| c.wrote }).onCore c.core (placeResult c) else s)

end Sys2Proof.Machine
end

