-- ==== Sys2Proof/Machine/Split.lean ====
section
/-! DEFINITION. The books of a unit: a cycle booked, a cycle held, and the split of shared work (17 R487, R491, R492). -/

namespace Sys2Proof.Machine

open Sys2Proof

def State.modBooks (s : State) (f : Books → Books) : State := { s with books := f s.books }

def Books.modBook (b : Books) (acct : Nat) (f : Book → Book) : Books :=
  { b with live := assocSet acct (f (assocGet Book.zero acct b.live)) b.live }

def addAt (v : Vector Nat 13) (k n : Nat) : Vector Nat 13 := v.mapIdx fun i x => if i == k then x + n else x
def addStore (v : Vector Nat 4) (k n : Nat) : Vector Nat 4 := v.mapIdx fun i x => if i == k then x + n else x

/-- n cycles of units of a class are booked to an account (R498). -/
def Books.credit (b : Books) (k acct n : Nat) : Books := b.modBook acct fun x => { x with cyc := addAt x.cyc k n }

/-! ## One unit (R487) -/

def UnitBook.of (u : UnitBook) (k i : Nat) : Bool := u.cls == k && u.idx == i

/-- The books of unit i of class k change; a unit that had none of its own has booked every cycle so far. -/
def Books.modUnit (b : Books) (k i : Nat) (f : UnitBook → UnitBook) : Books :=
  { b with own :=
      if b.own.any (·.of k i) then b.own.map fun u => if u.of k i then f u else u
      else b.own ++ [f ⟨k, i, b.age, 0, b.age⟩] }

/-- The cycle of unit i of class k is booked. -/
def Books.book (b : Books) (k i acct : Nat) : Books :=
  { (b.credit k acct 1).modUnit k i fun u => { u with booked := u.booked + 1 } with now := (k, i) :: b.now }

/-- The cycle of unit i of class k is held for a split (R491). -/
def Books.hold (b : Books) (k i : Nat) : Books :=
  { b.modUnit k i fun u => { u with held := u.held + 1 } with now := (k, i) :: b.now }

def IDLE : Nat := 0
def OVERHEAD : Nat := 1
def SWITCH : Nat := 2
def HELD : Nat := 3

/-- What is left of each class's cycle books to IDLE, and every elapsed count rises (R487; log 22, DEDUCED). -/
def Books.closeCycle (gone : List (Nat × Nat)) (b : Books) : Books :=
  let b1 := (List.range 13).foldl (fun b k => b.credit k IDLE (b.units.toList.getD k 0 - b.now.countP fun x => x.1 == k)) b
  let out := fun (u : UnitBook) => gone.contains (if u.cls < 5 then (0, u.idx) else (u.cls, u.idx))
  { b1 with
    elapsed := b1.elapsed.mapIdx fun i x => x + b1.units.toList.getD i 0
    age := b1.age + 1
    own := b1.own.map fun u =>
      if out u then u
      else { u with elapsed := u.elapsed + 1, booked := if b1.now.contains (u.cls, u.idx) then u.booked else u.booked + 1 }
    now := [] }

/-! ## Splits (R491) -/

/-- Puts a beneficiary among others in ascending key. -/
def insertBen (x : Nat × Nat) : List (Nat × Nat) → List (Nat × Nat)
  | [] => [x]
  | y :: ys => if x.1 ≤ y.1 then x :: y :: ys else y :: insertBen x ys

/-- The beneficiaries in ascending key, beginning at the first key at or above the pointer. -/
def rotateBens (p : Nat) (bs : List (Nat × Nat)) : List (Nat × Nat) :=
  let sorted := bs.foldr insertBen []
  sorted.filter (fun b => p ≤ b.1) ++ sorted.filter fun b => b.1 < p

/-- Work of n held cycles of unit i of class k is split; the pointer after it. -/
def Books.split (b : Books) (k i n p : Nat) (bs : List (Nat × Nat)) : Books × Nat :=
  if bs.isEmpty then (b, p)
  else
    let share := n / bs.length
    let extra := n % bs.length
    let order := rotateBens p bs
    let b1 := bs.foldl (fun b x => b.credit k x.2 share) b
    let b2 := (order.take extra).foldl (fun b x => b.credit k x.2 1) b1
    (b2.modUnit k i fun u => { u with booked := u.booked + n, held := u.held - n },
     if extra == 0 then p else ((((order.take extra).getLast?).map Prod.fst).getD 0 + 1) % 65536)

/-- A vale's unit splits work: pointer i of the vale (0 the array, 1 to 3 its engines), its class k. -/
def State.splitWork (s : State) (v i k n : Nat) (bs : List (Nat × Nat)) : State :=
  let x := s.vale v
  let (b, p) := s.books.split k v n (x.rot[i % 4]'(Nat.mod_lt _ (by decide))) bs
  { s with books := b }.setVale v { x with rot := x.rot.mapIdx fun j y => if j == i then p else y }

end Sys2Proof.Machine
end

