-- ==== Sys2Proof/Machine/Gen.lean ====
section
/-! DEFINITION. The generators of A: AGC, AGLD, AGSA, and the table reads of the indirect dimension (06 R234 to R239,
03 R114 to R119). -/

namespace Sys2Proof.Machine

open Sys2Proof

/-! ## The record (R234) -/

def Gen.bits (g : Gen) (dw lo n : Nat) (h : dw < 16 := by decide) : Nat := (g.recd[dw].extractLsb' lo n).toNat

def Gen.base (g : Gen) : Word := g.recd[0]
def Gen.ext (g : Gen) (i : Nat) : Nat :=
  match i with
  | 0 => g.bits 1 0 32
  | 1 => g.bits 1 32 32
  | 2 => g.bits 2 0 32
  | _ => g.bits 2 32 32
def Gen.org (g : Gen) (i : Nat) : Nat :=
  match i with
  | 0 => g.bits 3 0 32
  | 1 => g.bits 3 32 32
  | 2 => g.bits 4 0 32
  | _ => g.bits 4 32 32
def Gen.std (g : Gen) (i : Nat) : Int :=
  match i with
  | 1 => (g.recd[5].extractLsb' 0 32).toInt
  | 2 => (g.recd[5].extractLsb' 32 32).toInt
  | 3 => (g.recd[6].extractLsb' 0 32).toInt
  | _ => 0
def Gen.tl (g : Gen) (i : Nat) : Nat :=
  match i with
  | 0 => g.bits 6 32 16
  | 1 => g.bits 6 48 16
  | 2 => g.bits 7 0 16
  | _ => g.bits 7 16 16
def Gen.es (g : Gen) : Nat := g.bits 7 32 2
def Gen.rot (g : Gen) : Nat := g.bits 7 34 5
def Gen.ind (g : Gen) : Nat := g.bits 7 40 2
def Gen.sh (g : Gen) : Nat := g.bits 7 42 4
def Gen.ps (g : Gen) : Int := g.recd[8].toInt
def Gen.tbase (g : Gen) : Nat := g.bits 9 0 23
def Gen.tlen (g : Gen) : Nat := g.bits 9 32 32
def Gen.fill (g : Gen) : Nat := g.bits 10 0 32
/-- The element size in bytes. -/
def Gen.esize (g : Gen) : Nat := 2 ^ g.es
/-- The number of steps N. -/
def Gen.steps (g : Gen) : Nat := g.tl 0 * g.tl 1 * g.tl 2 * g.tl 3

/-- The failing check of AGC on a record, in the order of the check numbers of R400 (log 37, DEDUCED). A TBASE that is not a multiple of 4,
and an extent of 0, fail none (log 79, DESIGN CHOICE). -/
def Gen.check (g : Gen) : Option Nat :=
  let z := g.bits 7 39 1 == 0 && g.bits 7 46 18 == 0 && g.bits 9 23 9 == 0 && g.bits 10 32 32 == 0 &&
    g.recd[11] == 0 && g.recd[12] == 0 && g.recd[13] == 0 && g.recd[14] == 0 && g.recd[15] == 0 &&
    (isScratch g.base || g.rot == 0)
  if !z then some 1
  else if isScratch g.base && g.rot != 0 && (g.std 1 % 2048 != 0 || 2048 < g.tl 0 * 256) then some 3
  else if g.es == 3 || g.steps == 0 then some 6
  else if g.ind == 0 && (g.sh != 0 || g.tlen != 0) then some 8
  else none

/-! ## The walk of the tile (R235) -/

/-- The step indices k0 to k3 of a step, dimension 0 fastest. -/
def Gen.idx (g : Gen) (s i : Nat) : Nat :=
  match i with
  | 0 => s % g.tl 0
  | 1 => s / g.tl 0 % g.tl 1
  | 2 => s / (g.tl 0 * g.tl 1) % g.tl 2
  | _ => s / (g.tl 0 * g.tl 1 * g.tl 2) % g.tl 3

/-- Elements of a block. -/
def Gen.perBlock (g : Gen) : Nat := 256 / g.esize

/-- Coordinate i of a step: for dimension 0, that of element 0 of its block. -/
def Gen.coord (g : Gen) (s i : Nat) : Nat :=
  if i == 0 then g.org 0 + g.idx s 0 * g.perBlock else g.org i + g.idx s i

/-- The row index of a step for rot_addr. -/
def Gen.row (g : Gen) (s : Nat) : Nat := g.idx s 1 + g.tl 1 * (g.idx s 2 + g.tl 2 * g.idx s 3)

/-- How many elements of the block of a step lie inside the extents: they are its first ones. -/
def Gen.inside (g : Gen) (s : Nat) : Nat :=
  if g.coord s 1 < g.ext 1 && g.coord s 2 < g.ext 2 && g.coord s 3 < g.ext 3 then
    min g.perBlock (g.ext 0 - g.coord s 0)
  else 0

/-- The table index of the indirect coordinate (R116). -/
def Gen.tabIdx (g : Gen) (s : Nat) : Nat := g.coord s g.ind / 2 ^ g.sh

/-- A table index whose entry is read at all (R238). -/
def Gen.tabOk (g : Gen) (i : Nat) : Bool := i * 2 ^ g.sh < g.ext g.ind && i < g.tlen

/-- What dimension i contributes to the address; e is the table entry of the indirect dimension. -/
def Gen.part (g : Gen) (s e i : Nat) : Int :=
  if i == g.ind then (e : Int) * g.ps + (g.coord s i % 2 ^ g.sh : Nat) * g.std i else (g.coord s i : Nat) * g.std i

/-- The address of element j of the block of a step, before rot_addr. -/
def Gen.addr (g : Gen) (s e j : Nat) : Word :=
  g.base + BitVec.ofInt 64 (((g.coord s 0 + j) * g.esize : Nat) + g.part s e 1 + g.part s e 2 + g.part s e 3)

/-- An A address after rot_addr; a generic one stays as it is. -/
def rotA (va : Word) (row c : Nat) : Word :=
  if isScratch va && c != 0 then
    BitVec.ofNat 64 (va.toNat / 2 ^ 23 * 2 ^ 23 + rotAddr (va.toNat % 2 ^ 23) row c)
  else va

/-! ## Table reads (R118, R238) -/

def State.gen (s : State) (g : Fin 2) : Gen := s.core.r.g[g]
def State.setGen (s : State) (g : Fin 2) (x : Gen) : State := s.modR fun r => { r with g := r.g.set g x }

/-- A read of the entry for an index begins under a visible set; its first cycle is counted when this one ends. -/
def TabEntry.start (view : View) (i : Nat) : TabEntry := ⟨i, false, true, 0, 0, view⟩

/-- The scratch offset of a table entry, aligned or not (log 79, DESIGN CHOICE). -/
def Gen.tabAddr (g : Gen) (i : Nat) : Nat := g.tbase + 4 * i

/-- An entry's read ends: the entry is held. What A has acquired since the read began orders nothing toward it (R119). An entry
outside the window is never read (R101). -/
def finishRead (g : Gen) (t : TabEntry) (s : State) : TabEntry × State :=
  let o := g.tabAddr t.index
  if o + 4 ≤ 2 ^ 23 && inWindow s.core.cr.spw o && inWindow s.core.cr.spw (o + 3) then
    let r := readPiece s ⟨t.view, (s.eng .a).floor⟩ (scratchCell s.valeIdx o) 4
    ({ t with held := true, rdg := false, rcy := 0, value := BitVec.ofNat 32 (bytesVal r.bytes) },
      r.st.modEng .a fun x => { x with floor := r.party.floor })
  else ({ t with held := true, rdg := false, rcy := 0, value := 0 }, s)

/-- The reads of a generator that have run for n cycles end (R118). -/
def State.endReads (s : State) (g : Fin 2) (n : Nat) : State :=
  let x := s.gen g
  let (c, s1) := if x.cur.rdg && n ≤ x.cur.rcy then finishRead x x.cur s else (x.cur, s)
  let (a, s2) := if x.ahead.rdg && n ≤ x.ahead.rcy then finishRead x x.ahead s1 else (x.ahead, s1)
  s2.setGen g { x with cur := c, ahead := a }

/-- GENERATOR_TABLE_READ: a table read of a generator of the core in focus ends in its sixth cycle (R118). -/
def execGeneratorTableRead (g : Fin 2) (s : State) : Host.Outcome State Fault Refusal := .next (s.endReads g 6)

/-- A cycle of A that counts for table reads: one in which A advances, or waits for a table read. -/
def Gen.tick (x : Gen) : Gen :=
  let up := fun (t : TabEntry) => if t.rdg then { t with rcy := t.rcy + 1 } else t
  { x with cur := up x.cur, ahead := up x.ahead }

/-- The entry of a generator for an index, if it is held or being read. -/
def Gen.entry (x : Gen) (i : Nat) : Option TabEntry :=
  if (x.cur.held || x.cur.rdg) && x.cur.index == i then some x.cur
  else if (x.ahead.held || x.ahead.rdg) && x.ahead.index == i then some x.ahead
  else none

/-! ## Producing a block (R237 to R239) -/

/-- TRAPPOS for a generator's position (R401). -/
def genPos (g : Fin 2) (step elem : Nat) : Word :=
  BitVec.ofNat 64 (step % 2 ^ 32 + (elem % 256) <<< 32 + g.val <<< 40 + 1 <<< 41)

/-- A cause at element j of the generator's step (log 37, DEDUCED). -/
def genCause (s : State) (g : Fin 2) (code detail j : Nat) : CauseRec :=
  { causeAt s .a code detail with pos := genPos g (s.gen g).step j }

/-- The stall of an AGLD or AGSA that waits for a table read: the read that it needs starts now when none is under way
(R118). -/
inductive TabNeed where
  | entry (e : Nat)
  | wait (g : Gen)
  | fault (code : Nat) (addr : Word)

/-- The table entry that the current step needs; a read that starts has what A had seen at the AGC (03 R119; log 79, DESIGN CHOICE). Reads in their sixth cycle have ended. An
index beyond the table names no address (log 79, DESIGN CHOICE). -/
def Gen.need (x : Gen) (spw : Word) : TabNeed :=
  if x.ind == 0 || x.inside x.step == 0 then .entry 0
  else
    let i := x.tabIdx x.step
    if x.tlen ≤ i then .fault 0x17 0
    else match x.entry i with
      | none => .wait { x with ahead := .start x.view i }
      | some t =>
        if t.rdg then .wait x
        else
          let o := x.tabAddr i
          if o + 4 ≤ 2 ^ 23 && inWindow spw o && inWindow spw (o + 3) then .entry t.value.toNat
          else .fault 0x14 (BitVec.ofNat 64 (2 ^ 63 + o % 2 ^ 23))

/-- After the block of a step: its index is the current one, the entry after it is read ahead, the step advances; the
last step goes back to step 0, whose entry is then the next one (R118, R237). -/
def Gen.advance (x : Gen) : Gen :=
  let last := x.steps ≤ x.step + 1
  let next := if last then 0 else x.step + 1
  if x.ind == 0 then { x with step := next }
  else
    let i := x.tabIdx x.step
    let moved := (x.ahead.held || x.ahead.rdg) && x.ahead.index == i
    let cur := if moved then x.ahead else x.cur
    let ahead := if moved then TabEntry.none else x.ahead
    let want := if last then x.tabIdx 0 else i + 1
    let have' := fun (t : TabEntry) => (t.held || t.rdg) && t.index == want
    if have' ahead || (last && have' cur) || !x.tabOk want then { x with step := next, cur := cur, ahead := ahead }
    else { x with step := next, cur := cur, ahead := .start x.view want }

/-- Pieces that stand one after the other become one. -/
def joinPieces : List (Nat × Nat) → List (Nat × Nat)
  | [] => []
  | (a, n) :: t =>
    match joinPieces t with
    | (b, m) :: u => if a + n == b then (a, n + m) :: u else (a, n) :: (b, m) :: u
    | [] => [(a, n)]

/-- What the read of a step's block reads. -/
def Gen.pieces (x : Gen) (e : Nat) : List (Nat × Nat) :=
  let n := if x.ind != 0 && e == 0xFFFFFFFF then 0 else x.inside x.step
  joinPieces ((List.range n).map fun j => ((rotA (x.addr x.step e j) (x.row x.step) x.rot).toNat, x.esize))

/-- Reads the whole block of the current step: elements inside the extents from memory, in 4-byte pieces where they
are aligned, the rest fill (R114, R235; 04 R135). -/
def genRead (t : State) (g : Fin 2) (x : Gen) (e : Nat) : Except Stop ARead :=
  let absent := x.ind != 0 && e == 0xFFFFFFFF
  let n := if absent then 0 else x.inside x.step
  let at' := fun j => rotA (x.addr x.step e j) (x.row x.step) x.rot
  let pos := fun (k : Nat) (j : Nat) (c : CauseRec) => { c with pos := genPos g x.step (k * j) }
  let fill := valBytes x.fill x.esize
  if (x.addr x.step e 0).toNat % 4 == 0 then
    let k := 4 / x.esize
    let whole := n / k
    match readElems .a (.strm ⟨g.val, by omega⟩) 4 4 fill (fun j => some (at' (k * j))) (pos k) whole 0 t with
    | .error y => .error y
    | .ok a =>
      match readElems .a (.strm ⟨g.val, by omega⟩) x.esize x.esize fill
          (fun j => if j < n then some (at' j) else none) (pos 1) (x.perBlock - k * whole) (k * whole) a.st with
      | .error y => .error y
      | .ok b => .ok ⟨a.bytes ++ b.bytes, a.far ++ b.far, b.st⟩
  else
    readElems .a (.strm ⟨g.val, by omega⟩) x.esize x.esize fill
      (fun j => if j < n then some (at' j) else none) (pos 1) x.perBlock 0 t

/-- The wait of AGLD and AGSA on a table read, then their work on the entry; a generator that no AGC has loaded
faults (R237). -/
def withEntry (g : Fin 2) (t : State) (f : State → Gen → Nat → Except Stop Done) : Except Stop Done :=
  let t1 := t.endReads g 5
  let x := t1.gen g
  if x.steps == 0 then .error (.trap (genCause t g 0x20 (6 + g.val <<< 4) 0))
  else match x.need t1.core.cr.spw with
    | .fault code va => .error (.trap { genCause t g code 0 0 with addr := va })
    | .wait _ => .error (.stall .table)
    | .entry e => do
      let t2 ← if x.ind != 0 && x.inside x.step != 0 then
          t1.okRead .a (scratchCell t1.valeIdx (x.tabAddr (x.tabIdx x.step))) 4
        else .ok t1
      f t2 x e

/-- The read that a stalled AGLD or AGSA starts (log 37, DEDUCED). -/
def noteNeed (g : Fin 2) (o : Host.Outcome State Fault Refusal) : Host.Outcome State Fault Refusal :=
  match o with
  | .next t =>
    if (t.eng .a).wait == .table then
      match (t.gen g).need t.core.cr.spw with
      | .wait x => .next (t.setGen g x)
      | _ => .next t
    else .next t
  | o => o

/-- AGLD (R237). -/
def execAgld (m : Marks) (g : Fin 2) (q : Fin 4) (s : State) : Host.Outcome State Fault Refusal :=
  noteNeed g (issue .a 1 m (fun t => withEntry g t fun t x e => do
    let (sid, t1) ← t.lqReserve q
    let r ← genRead t1 g x e
    lqAwait q sid { r with st := r.st.setGen g x.advance } (x.pieces e)) s)

/-- The byte mask of a block whose first n elements are inside. -/
def prefixMask (bytes : Nat) : BitVec 256 := BitVec.ofNat 256 (2 ^ bytes - 1)

/-- AGSA (R237). -/
def execAgsa (m : Marks) (g : Fin 2) (s : State) : Host.Outcome State Fault Refusal :=
  noteNeed g (issue .a 1 m (fun t => withEntry g t fun t x e => do
    let absent := x.ind != 0 && e == 0xFFFFFFFF
    let n := if absent then 0 else x.inside x.step
    let turned := isScratch x.base && x.rot != 0
    let y : SaqEntry :=
      { addr := x.addr x.step e 0, mask := prefixMask (n * x.esize), word := t.pcOf .a, agsa := true, step := x.step
        gen := g.val, rot := if turned then x.rot else 0, row := if turned then x.row x.step else 0 }
    let t1 ← t.saqPush y
    .ok { st := t1.setGen g x.advance }) s)

/-- A descriptor fault of AGC (R236, R400; log 37, DEDUCED). -/
def agcFault (s : State) (g : Fin 2) (check : Nat) : Stop := .trap (causeAt s .a 0x20 (check + g.val <<< 4))

/-- The 16 doublewords of a record. -/
def recordOf (bs : List Byte) : Vector Word 16 :=
  Vector.ofFn fun i => BitVec.ofNat 64 (bytesVal ((bs.drop (8 * i.val)).take 8))

/-- The read of a record begins where A first stalls at its AGC, the word pc (R236). -/
def noteRecord (pc : Nat) (o : Host.Outcome State Fault Refusal) : Host.Outcome State Fault Refusal :=
  match o with
  | .next t =>
    if (t.eng .a).wait == .mem && t.core.agc != some pc && !(t.reads.any fun r => r.core == t.core.id && r.arr == .record) then
      let (u, k) := t.await .a .record []
      .next { u with reads := u.reads.map fun (r : Read) => if r.id == k then { r with word := pc } else r }
    else .next t
  | o => o

/-- AGC (R236): A stalls until the record has been read, then it issues; the first table entry's read starts at its issue. -/
def execAgc (m : Marks) (g : Fin 2) (a : ASrc) (off : BitVec 24) (s : State) : Host.Outcome State Fault Refusal :=
  noteRecord (s.pcOf .a) (issue .a 2 m (fun t => do
    let va := t.aSrc a + sextW off
    if !isScratch va || va.toNat % 64 != 0 then .error (agcFault t g 7)
    else
      orStall (t.core.agc == some (t.pcOf .a)) .mem
      let r ← readElems .a (.strm 2) 4 4 [] (contig va) (fun _ c => c) 32 0 t
      let x : Gen := { Gen.reset with recd := recordOf r.bytes, loaded := true, view := (t.eng .a).view }
      match x.check with
      | some n => .error (agcFault t g n)
      | none =>
        let i := x.tabIdx 0
        let x := if x.ind != 0 && x.tabOk i then { x with ahead := .start x.view i } else x
        .ok { st := (r.st.setGen g x).modCore fun c => { c with agc := none } }) s)

end Sys2Proof.Machine
end

