-- ==== Sys2Proof/Machine/Vec.lean ====
section
/-! DEFINITION. The V engine: arithmetic, functions, logic, masks, reductions, lane moves and constants (07 R244 to R252,
R254, R259 to R268). -/

namespace Sys2Proof.Machine

open Sys2Proof

/-! ## The frame of a lane form (R244) -/

/-- The payload of a V instruction: its own, or the one that its absence stands for (R165). -/
def payOf (r : VRule) (o : Option VPay) : VPay := o.getD r.dfltPay

/-- A lane form with one source: r_j from lane j of A. -/
def vUn (m : Marks) (rule : VRule) (d : VDst) (a : VSrc) (o : Option VPay) (lat : Nat)
    (f : Fmt → BitVec 13 → Nat → Nat) (s : State) : Host.Outcome State Fault Refusal :=
  issue .v (optWords o) m (fun t => do
    let p := payOf rule o
    let (slot, t1) ← t.vReserve d
    let (x, t2) ← t1.vRead p.ty a
    let r := t2.vMerge d p p.ty.width (fun j => f p.ty p.ops (lane p.ty.width x j))
    .ok { st := t2.vPut d slot lat r, lat := lat }) s

/-- A lane form with two sources: r_j from lanes j of A and B. -/
def vBin (m : Marks) (rule : VRule) (d : VDst) (a b : VSrc) (o : Option VPay) (lat : Nat)
    (f : Fmt → BitVec 13 → Nat → Nat → Nat) (s : State) : Host.Outcome State Fault Refusal :=
  issue .v (optWords o) m (fun t => do
    let p := payOf rule o
    let (slot, t1) ← t.vReserve d
    let (x, y, t2) ← t1.vRead2 p.ty a b
    let r := t2.vMerge d p p.ty.width
      (fun j => f p.ty p.ops (lane p.ty.width x j) (lane p.ty.width y j))
    .ok { st := t2.vPut d slot lat r, lat := lat }) s

/-- A lane form that also reads the prior lane of D. -/
def vTri (m : Marks) (rule : VRule) (d : Fin 48) (a b : VSrc) (o : Option VPay) (lat : Nat)
    (f : Fmt → BitVec 13 → Nat → Nat → Nat → Nat) (s : State) : Host.Outcome State Fault Refusal :=
  issue .v (optWords o) m (fun t => do
    let p := payOf rule o
    let (x, y, t2) ← t.vRead2 p.ty a b
    let z := t2.core.r.v[d]
    let r := t2.vMerge (.v d) p p.ty.width
      (fun j => f p.ty p.ops (lane p.ty.width x j) (lane p.ty.width y j) (lane p.ty.width z j))
    .ok { st := t2.vPut (.v d) none lat r, lat := lat }) s

/-- A form whose result is made from whole sources: `f` answers lane j. -/
def vWhole (m : Marks) (rule : VRule) (d : VDst) (a b : VSrc) (o : Option VPay) (lat : Nat)
    (f : Fmt → BitVec 13 → (Nat → Bool) → Block → Block → Nat → Nat) (s : State) : Host.Outcome State Fault Refusal :=
  issue .v (optWords o) m (fun t => do
    let p := payOf rule o
    let (slot, t1) ← t.vReserve d
    let (x, y, t2) ← t1.vRead2 p.ty a b
    let r := t2.vMerge d p p.ty.width (f p.ty p.ops (t2.vActive p) x y)
    .ok { st := t2.vPut d slot lat r, lat := lat }) s

/-! ## Arithmetic (R249, R250) -/

/-- The sign bit of a w-bit lane. -/
def signBit (w : Nat) : Nat := 2 ^ (w - 1)

/-- VADD. -/
def vaddLane (f : Fmt) (a b : Nat) : Nat := roundV f ((decodeFmt f a).add (decodeFmt f b))
def execVadd (m : Marks) (d : VDst) (a b : VSrc) (o : Option VPay) (s : State) : Host.Outcome State Fault Refusal :=
  vBin m vF d a b o 4 (fun f _ x y => vaddLane f x y) s

/-- VSUB. -/
def vsubLane (f : Fmt) (a b : Nat) : Nat := roundV f ((decodeFmt f a).sub (decodeFmt f b))
def execVsub (m : Marks) (d : VDst) (a b : VSrc) (o : Option VPay) (s : State) : Host.Outcome State Fault Refusal :=
  vBin m vF d a b o 4 (fun f _ x y => vsubLane f x y) s

/-- VMUL. -/
def vmulLane (f : Fmt) (a b : Nat) : Nat := roundV f ((decodeFmt f a).mul (decodeFmt f b))
def execVmul (m : Marks) (d : VDst) (a b : VSrc) (o : Option VPay) (s : State) : Host.Outcome State Fault Refusal :=
  vBin m vF d a b o 4 (fun f _ x y => vmulLane f x y) s

/-- VFMA: one rounding. -/
def vfmaLane (f : Fmt) (a b d : Nat) : Nat := roundV f (((decodeFmt f a).mul (decodeFmt f b)).add (decodeFmt f d))
def execVfma (m : Marks) (d : Fin 48) (a b : VSrc) (o : Option VPay) (s : State) : Host.Outcome State Fault Refusal :=
  vTri m vF d a b o 4 (fun f _ x y z => vfmaLane f x y z) s

/-- VFMS. -/
def vfmsLane (f : Fmt) (a b d : Nat) : Nat := roundV f ((decodeFmt f d).sub ((decodeFmt f a).mul (decodeFmt f b)))
def execVfms (m : Marks) (d : Fin 48) (a b : VSrc) (o : Option VPay) (s : State) : Host.Outcome State Fault Refusal :=
  vTri m vF d a b o 4 (fun f _ x y z => vfmsLane f x y z) s

/-- VMAX. -/
def vmaxLane (f : Fmt) (a b : Nat) : Nat :=
  if f.isI then (if laneInt f.width a < laneInt f.width b then b else a)
  else roundV f (numMax (decodeFmt f a) (decodeFmt f b))
def execVmax (m : Marks) (d : VDst) (a b : VSrc) (o : Option VPay) (s : State) : Host.Outcome State Fault Refusal :=
  vBin m vFI d a b o 2 (fun f _ x y => vmaxLane f x y) s

/-- VMIN. -/
def vminLane (f : Fmt) (a b : Nat) : Nat :=
  if f.isI then (if laneInt f.width a < laneInt f.width b then a else b)
  else roundV f (numMin (decodeFmt f a) (decodeFmt f b))
def execVmin (m : Marks) (d : VDst) (a b : VSrc) (o : Option VPay) (s : State) : Host.Outcome State Fault Refusal :=
  vBin m vFI d a b o 2 (fun f _ x y => vminLane f x y) s

/-- VABS. -/
def vabsLane (f : Fmt) (a : Nat) : Nat := if (decodeFmt f a).isNan then nanCode f else a % signBit f.width
def execVabs (m : Marks) (d : VDst) (a : VSrc) (o : Option VPay) (s : State) : Host.Outcome State Fault Refusal :=
  vUn m vF d a o 2 (fun f _ x => vabsLane f x) s

/-- VNEG. -/
def vnegLane (f : Fmt) (a : Nat) : Nat := if (decodeFmt f a).isNan then nanCode f else a ^^^ signBit f.width
def execVneg (m : Marks) (d : VDst) (a : VSrc) (o : Option VPay) (s : State) : Host.Outcome State Fault Refusal :=
  vUn m vF d a o 2 (fun f _ x => vnegLane f x) s

/-- VIADD; OPS bit 0 saturates. -/
def viaddLane (f : Fmt) (sat : Bool) (a b : Nat) : Nat :=
  let x := laneInt f.width a + laneInt f.width b
  if sat then satInt f.width x else wrapInt f.width x
def execViadd (m : Marks) (d : VDst) (a b : VSrc) (o : Option VPay) (s : State) : Host.Outcome State Fault Refusal :=
  vBin m vSatI d a b o 2 (fun f p x y => viaddLane f (p.getLsbD 0) x y) s

/-- VISUB. -/
def visubLane (f : Fmt) (sat : Bool) (a b : Nat) : Nat :=
  let x := laneInt f.width a - laneInt f.width b
  if sat then satInt f.width x else wrapInt f.width x
def execVisub (m : Marks) (d : VDst) (a b : VSrc) (o : Option VPay) (s : State) : Host.Outcome State Fault Refusal :=
  vBin m vSatI d a b o 2 (fun f p x y => visubLane f (p.getLsbD 0) x y) s

/-- VIMUL. -/
def execVimul (m : Marks) (d : VDst) (a b : VSrc) (o : Option VPay) (s : State) : Host.Outcome State Fault Refusal :=
  vBin m vI d a b o 3 (fun f _ x y => wrapInt f.width (laneInt f.width x * laneInt f.width y)) s

/-- VCLAMP: max(−h, min(a, h)), h = abs(b). -/
def vclampLane (f : Fmt) (a b : Nat) : Nat :=
  if f.isI then
    let top : Int := 2 ^ (f.width - 1) - 1
    let h := min (laneInt f.width b).natAbs top.toNat
    let x := laneInt f.width a
    wrapInt f.width (max (-(h : Int)) (min x h))
  else
    let h := (decodeFmt f b).abs
    roundV f (numMax h.neg (numMin (decodeFmt f a) h))
def execVclamp (m : Marks) (d : VDst) (a b : VSrc) (o : Option VPay) (s : State) : Host.Outcome State Fault Refusal :=
  vBin m vFI d a b o 2 (fun f _ x y => vclampLane f x y) s

/-! ## Functions and rounding (R251, R252, R254) -/

/-- VEXP. -/
def execVexp (m : Marks) (d : VDst) (a : VSrc) (o : Option VPay) (s : State) : Host.Outcome State Fault Refusal :=
  vUn m vF32 d a o 8 (fun _ _ x => (expDv (BitVec.ofNat 32 x)).toNat) s

/-- VRCP. -/
def execVrcp (m : Marks) (d : VDst) (a : VSrc) (o : Option VPay) (s : State) : Host.Outcome State Fault Refusal :=
  vUn m vF d a o 8 (fun f _ x => roundV f (rcpNum (decodeFmt f x))) s

/-- VRSQ. -/
def execVrsq (m : Marks) (d : VDst) (a : VSrc) (o : Option VPay) (s : State) : Host.Outcome State Fault Refusal :=
  vUn m vF d a o 8 (fun f _ x => rsqCode f (decodeFmt f x)) s

/-- VLOG2. -/
def execVlog2 (m : Marks) (d : VDst) (a : VSrc) (o : Option VPay) (s : State) : Host.Outcome State Fault Refusal :=
  vUn m vF d a o 8 (fun f _ x => log2Code f (decodeFmt f x)) s

/-- VROUND. -/
def execVround (m : Marks) (d : VDst) (a : VSrc) (o : Option VPay) (s : State) : Host.Outcome State Fault Refusal :=
  vUn m vRnd d a o 4 (fun f p x => roundIntegral f (p.toNat % 4) (decodeFmt f x)) s

/-! ## Logic, shifts and counts (R259, R260, R261) -/

/-- VAND. -/
def execVand (m : Marks) (d : VDst) (a b : VSrc) (o : Option VPay) (s : State) : Host.Outcome State Fault Refusal :=
  vBin m vAny d a b o 2 (fun _ _ x y => x &&& y) s

/-- VOR. -/
def execVor (m : Marks) (d : VDst) (a b : VSrc) (o : Option VPay) (s : State) : Host.Outcome State Fault Refusal :=
  vBin m vAny d a b o 2 (fun _ _ x y => x ||| y) s

/-- VXOR. -/
def execVxor (m : Marks) (d : VDst) (a b : VSrc) (o : Option VPay) (s : State) : Host.Outcome State Fault Refusal :=
  vBin m vAny d a b o 2 (fun _ _ x y => x ^^^ y) s

/-- VNOT. -/
def execVnot (m : Marks) (d : VDst) (a : VSrc) (o : Option VPay) (s : State) : Host.Outcome State Fault Refusal :=
  vUn m vAny d a o 2 (fun f _ x => 2 ^ f.width - 1 - x) s

/-- VSHL: a count of the lane's width or more gives 0. -/
def vshlLane (w a c : Nat) : Nat := if w ≤ c then 0 else a * 2 ^ c % 2 ^ w
def execVshl (m : Marks) (d : VDst) (a b : VSrc) (o : Option VPay) (s : State) : Host.Outcome State Fault Refusal :=
  vBin m vAny d a b o 2 (fun f _ x y => vshlLane f.width x y) s

/-- VSHR. -/
def vshrLane (w a c : Nat) : Nat := if w ≤ c then 0 else a / 2 ^ c
def execVshr (m : Marks) (d : VDst) (a b : VSrc) (o : Option VPay) (s : State) : Host.Outcome State Fault Refusal :=
  vBin m vAny d a b o 2 (fun f _ x y => vshrLane f.width x y) s

/-- VSRA: a count of the lane's width or more gives the top bit everywhere. -/
def vsraLane (w a c : Nat) : Nat := wrapInt w (laneInt w a / 2 ^ min c w)
def execVsra (m : Marks) (d : VDst) (a b : VSrc) (o : Option VPay) (s : State) : Host.Outcome State Fault Refusal :=
  vBin m vAny d a b o 2 (fun f _ x y => vsraLane f.width x y) s

/-- VPOPC. -/
def popNat (w x : Nat) : Nat := countTo (fun i => x.testBit i) w
def execVpopc (m : Marks) (d : VDst) (a : VSrc) (o : Option VPay) (s : State) : Host.Outcome State Fault Refusal :=
  vUn m vAny d a o 2 (fun f _ x => popNat f.width x) s

/-- VSIGN (R260): D is written whole. -/
def signPack (w n : Nat) (act : Nat → Bool) (x : Block) : Block :=
  BitVec.ofNat 2048 (packLanes 1 (fun j => if act j && (lane w x j).testBit (w - 1) then 1 else 0) n)
def execVsign (m : Marks) (d : VDst) (a : VSrc) (o : Option VPay) (s : State) : Host.Outcome State Fault Refusal :=
  issue .v (optWords o) m (fun t => do
    let p := payOf vAny o
    let (slot, t1) ← t.vReserve d
    let (x, t2) ← t1.vRead p.ty a
    .ok { st := t2.vPut d slot 2 (signPack p.ty.width p.ty.lanes (t2.vActive p) x), lat := 2 }) s

/-- VDOT4 (R261): 64 INT32 lanes from INT8 sources. -/
def dot4 (sat : Bool) (x y : Block) (d : Nat) (j : Nat) : Nat :=
  let t := (List.range 4).foldl (fun (n : Int) i => n + laneInt 8 (lane 8 x (4 * j + i)) * laneInt 8 (lane 8 y (4 * j + i))) 0
  if sat then satInt 32 (laneInt 32 d + t) else wrapInt 32 (laneInt 32 d + t)
def execVdot4 (m : Marks) (d : Fin 48) (a b : VSrc) (o : Option VPay) (s : State) : Host.Outcome State Fault Refusal :=
  issue .v (optWords o) m (fun t => do
    let p := payOf vDot o
    let (x, y, t2) ← t.vRead2 .i8 a b
    let z := t2.core.r.v[d]
    let r := t2.vMerge (.v d) p 32 (fun j => dot4 (p.ops.getLsbD 0) x y (lane 32 z j) j)
    .ok { st := t2.vPut (.v d) none 3 r, lat := 3 }) s

/-! ## Compare, select and masks (R262 to R264) -/

/-- One comparison of VCMP: condition, unsigned, two lanes (log 30, DEDUCED). -/
def cmpLane (f : Fmt) (c : Nat) (uns : Bool) (x y : Nat) : Bool :=
  if f.isI then
    if uns then cmpNum c (.ofInt x) (.ofInt y) else cmpNum c (.ofInt (laneInt f.width x)) (.ofInt (laneInt f.width y))
  else cmpNum c (decodeFmt f x) (decodeFmt f y)

/-- The mask that VCMP writes. -/
def cmpMask (p : VPay) (act : Nat → Bool) (old : BitVec 256) (x y : Block) : BitVec 256 :=
  let w := p.ty.width
  BitVec.ofNat 256 (packLanes 1 (fun j =>
    if act j then (cmpLane p.ty (p.ops.toNat % 8) (p.ops.getLsbD 3) (lane w x j) (lane w y j)).toNat
    else if p.zm then 0 else (old.getLsbD j).toNat) p.ty.lanes)

/-- VCMP. -/
def execVcmp (m : Marks) (k : Fin 8) (a b : VSrc) (o : Option VPay) (s : State) : Host.Outcome State Fault Refusal :=
  issue .v (optWords o) m (fun t => do
    let p := payOf vCmpR o
    let (x, y, t1) ← t.vRead2 p.ty a b
    .ok { st := t1.post .v 2 (.k k (cmpMask p (t1.vActive p) t1.core.r.k[k] x y)), lat := 2 }) s

/-- VSEL: kS is named by OPS bits 2:0. -/
def execVsel (m : Marks) (d : VDst) (a b : VSrc) (o : Option VPay) (s : State) : Host.Outcome State Fault Refusal :=
  issue .v (optWords o) m (fun t => do
    let p := payOf vSelR o
    let (slot, t1) ← t.vReserve d
    let (x, y, t2) ← t1.vRead2 p.ty a b
    let ks := t2.core.r.k[p.ops.toNat % 8]'(Nat.mod_lt _ (by decide))
    let w := p.ty.width
    let r := t2.vMerge d p w (fun j => if ks.getLsbD j then lane w x j else lane w y j)
    .ok { st := t2.vPut d slot 2 r, lat := 2 }) s

/-- The shared form of the KOP operations on masks: L = 1. -/
def kOp (m : Marks) (x : Bool) (d a b : Fin 8) (f : BitVec 256 → BitVec 256 → BitVec 256) (s : State) :
    Host.Outcome State Fault Refusal :=
  issue .v (xWords x) m (fun t => .ok { st := t.post .v 1 (.k d (f t.core.r.k[a] t.core.r.k[b])) }) s

/-- KAND. -/
def execKand (m : Marks) (x : Bool) (d a b : Fin 8) (s : State) : Host.Outcome State Fault Refusal :=
  kOp m x d a b (fun p q => p &&& q) s
/-- KOR. -/
def execKor (m : Marks) (x : Bool) (d a b : Fin 8) (s : State) : Host.Outcome State Fault Refusal :=
  kOp m x d a b (fun p q => p ||| q) s
/-- KXOR. -/
def execKxor (m : Marks) (x : Bool) (d a b : Fin 8) (s : State) : Host.Outcome State Fault Refusal :=
  kOp m x d a b (fun p q => p ^^^ q) s
/-- KANDN. -/
def execKandn (m : Marks) (x : Bool) (d a b : Fin 8) (s : State) : Host.Outcome State Fault Refusal :=
  kOp m x d a b (fun p q => p &&& ~~~q) s
/-- KNOT. -/
def execKnot (m : Marks) (x : Bool) (d a : Fin 8) (s : State) : Host.Outcome State Fault Refusal :=
  kOp m x d a a (fun p _ => ~~~p) s
/-- KMOV. -/
def execKmov (m : Marks) (x : Bool) (d a : Fin 8) (s : State) : Host.Outcome State Fault Refusal :=
  kOp m x d a a (fun p _ => p) s

/-- The mask of the first n bits. -/
def firstBits (n : Nat) : BitVec 256 := BitVec.ofNat 256 (2 ^ min n 256 - 1)

/-- KSET from an e register. -/
def execKset (m : Marks) (d : Fin 8) (e : Fin 4) (s : State) : Host.Outcome State Fault Refusal :=
  issue .v 1 m (fun t => .ok { st := t.post .v 1 (.k d (firstBits (t.eReg .v e).toNat)) }) s

/-- KSET from an immediate. -/
def execKsetImm (m : Marks) (d : Fin 8) (n : BitVec 9) (s : State) : Host.Outcome State Fault Refusal :=
  issue .v 2 m (fun t => .ok { st := t.post .v 1 (.k d (firstBits n.toNat)) }) s

/-- KCNT. -/
def execKcnt (m : Marks) (x : Bool) (d : Fin 4) (a : Fin 8) (s : State) : Host.Outcome State Fault Refusal :=
  issue .v (xWords x) m (fun t =>
    .ok { st := t.post .v 1 (.e d (BitVec.ofNat 64 (popNat 256 t.core.r.k[a].toNat))) }) s

/-! ## Reductions (R265) -/

/-- One level of the pairwise tree. -/
def pairUp (f : Nat → Nat → Nat) : List Nat → List Nat
  | x :: y :: t => f x y :: pairUp f t
  | t => t

/-- The tree over at most 2^k values. -/
def treeFold (f : Nat → Nat → Nat) : Nat → List Nat → Nat
  | 0, xs => xs.headD 0
  | k + 1, xs => treeFold f k (pairUp f xs)

/-- VRSUM: wrapping on integers. -/
def rsumOf (f : Fmt) (act : Nat → Bool) (x : Block) : Nat :=
  let add := fun a b => if f.isI then wrapInt f.width (laneInt f.width a + laneInt f.width b) else vaddLane f a b
  treeFold add 8 ((List.range f.lanes).map fun j => if act j then lane f.width x j else 0)
def execVrsum (m : Marks) (d : VDst) (a : VSrc) (o : Option VPay) (s : State) : Host.Outcome State Fault Refusal :=
  vWhole m vFI d a a o 8 (fun f _ act x _ => let r := rsumOf f act x; fun _ => r) s

/-- VRMAX. -/
def rmaxOf (f : Fmt) (act : Nat → Bool) (x : Block) : Nat :=
  let id := if f.isI then signBit f.width else infCode f true
  treeFold (vmaxLane f) 8 ((List.range f.lanes).map fun j => if act j then lane f.width x j else id)
def execVrmax (m : Marks) (d : VDst) (a : VSrc) (o : Option VPay) (s : State) : Host.Outcome State Fault Refusal :=
  vWhole m vFI d a a o 8 (fun f _ act x _ => let r := rmaxOf f act x; fun _ => r) s

/-! ## Moving lanes and constants (R266 to R268) -/

/-- VMOV. -/
def execVmov (m : Marks) (d : VDst) (a : VSrc) (o : Option VPay) (s : State) : Host.Outcome State Fault Refusal :=
  vUn m vAny d a o 1 (fun _ _ x => x) s

/-- VBC. -/
def execVbc (m : Marks) (d : VDst) (a : VSrc) (o : Option VPay) (s : State) : Host.Outcome State Fault Refusal :=
  vWhole m vBcR d a a o 2 (fun f p _ x _ _ => lane f.width x (p.toNat % 256)) s

/-- VPERM. -/
def execVperm (m : Marks) (d : VDst) (a b : VSrc) (o : Option VPay) (s : State) : Host.Outcome State Fault Refusal :=
  vWhole m vAny d a b o 2 (fun f _ _ x y j => lane f.width x (lane f.width y j % f.lanes)) s

/-- VSLIDE. -/
def execVslide (m : Marks) (d : VDst) (a b : VSrc) (o : Option VPay) (s : State) : Host.Outcome State Fault Refusal :=
  vWhole m vSlideR d a b o 2 (fun f p _ x y j =>
    let i := j + p.toNat % 512
    if i < f.lanes then lane f.width x i else lane f.width y (i - f.lanes)) s

/-- VXTR: integers are sign-extended. -/
def execVxtr (m : Marks) (d : Fin 4) (a : VSrc) (o : Option VPay) (s : State) : Host.Outcome State Fault Refusal :=
  issue .v (optWords o) m (fun t => do
    let p := payOf vLaneR o
    let (x, t1) ← t.vRead p.ty a
    let c := lane p.ty.width x (p.ops.toNat % 256)
    let r := if p.ty.isI then BitVec.ofInt 64 (laneInt p.ty.width c) else BitVec.ofNat 64 c
    .ok { st := t1.post .v 2 (.e d r), lat := 2 }) s

/-- VINS. -/
def execVins (m : Marks) (d : Fin 48) (e : Fin 4) (o : Option VPay) (s : State) : Host.Outcome State Fault Refusal :=
  issue .v (optWords o) m (fun t =>
    let p := payOf vLaneR o
    let w := p.ty.width
    let old := t.core.r.v[d]
    let x := (t.eReg .v e).toNat % 2 ^ w
    let r := ofLanes w (fun j => if j == p.ops.toNat % 256 then x else lane w old j)
    .ok { st := t.post .v 2 (.v d r), lat := 2 }) s

/-- A constant in every active lane. -/
def vConst (m : Marks) (d : VDst) (p : VPay) (x : Nat) (s : State) : Host.Outcome State Fault Refusal :=
  issue .v 2 m (fun t => do
    let (slot, t1) ← t.vReserve d
    .ok { st := t1.vPut d slot 1 (t1.vMerge d p p.ty.width (fun _ => x)) }) s

/-- VLI. -/
def execVli (m : Marks) (d : VDst) (p : VPay) (s : State) : Host.Outcome State Fault Refusal :=
  vConst m d p (toFmt (.ofInt p.ops.toInt) p.ty true).1 s

/-- VLID: the pattern at the top of each lane. -/
def lidPattern (w ops : Nat) : Nat := if w == 32 then ops * 2 ^ 19 else if w == 16 then ops * 2 ^ 3 else ops % 256
def execVlid (m : Marks) (d : VDst) (p : VPay) (s : State) : Host.Outcome State Fault Refusal :=
  vConst m d p (lidPattern p.ty.width p.ops.toNat) s

end Sys2Proof.Machine
end

