-- ==== Sys2Proof/Machine/Store.lean ====
section
/-! DEFINITION. The S engine: stores, scatter-accumulate, fences and zero fills (07 R269 to R281). -/

namespace Sys2Proof.Machine

open Sys2Proof

/-! ## Entries of saq (R269, R279) -/

/-- TRAPPOS for a fault of S at an entry. -/
def SaqEntry.pos (x : SaqEntry) : Word :=
  BitVec.ofNat 64 ((if x.agsa then x.step % 2 ^ 32 + x.gen <<< 40 + 1 <<< 41 else 0) + (x.word % 2 ^ 15) <<< 42 + 1 <<< 57)

/-- A stop at an entry: a trap names the producer of the entry. -/
def SaqEntry.blame (x : SaqEntry) : Stop → Stop
  | .trap c => .trap { c with pos := x.pos }
  | y => y

/-- The address of byte i past an entry's address, after its rotation. -/
def SaqEntry.at (x : SaqEntry) (i : Nat) : Word := rotA (x.addr + BitVec.ofNat 64 i) x.row x.rot

/-- The entry that a pop of saq would take. -/
def State.saqHead (s : State) : Except Stop (SaqEntry × State) :=
  match s.core.r.saq.pop with
  | none => .error (.stall .pop)
  | some (x, q) => .ok (x, s.modR fun r => { r with saq := q })

/-- The runs of consecutive positions among the k from i on that m holds (log 44, DEDUCED). -/
def runs (m : Nat → Bool) : Nat → Nat → List (Nat × Nat)
  | 0, _ => []
  | k + 1, i =>
    match m i, runs m k (i + 1) with
    | false, r => r
    | true, (j, n) :: r => if j == i + 1 then (i, n + 1) :: r else (i, 1) :: (j, n) :: r
    | true, [] => [(i, 1)]

/-- The pieces of a block that a mask enables, as (first byte, bytes): within each 4-byte element (R271; 04 R135; log 44, DEDUCED). -/
def maskPieces (mask : BitVec 256) : List (Nat × Nat) :=
  (List.range 64).flatMap fun u => runs mask.getLsbD 4 (4 * u)

/-! ## Checks and writes of S (R240, R275, R279) -/

/-- A checked piece: its address, where it lies, its bytes, and whether it is one write with the piece before it, of the same element
(04 R135). -/
structure SPiece where
  va    : Word
  loc   : PLoc
  bytes : List Byte
  more  : Bool
  deriving DecidableEq, Repr

/-- The checks of one piece of S, in the order of R240: form, alignment, window, translation, sealed bytes. -/
def checkS (s : State) (va : Word) (n : Nat) (aligned : Bool) : Except Stop (PLoc × State) := do
  checkForm s .s va
  if !aligned then .error (.trap (alignCause s .s va))
  checkWindow s .s va n
  if isScratch va then .ok (.cell (scratchCell s.valeIdx (va.toNat % 2 ^ 63)), s)
  else
    let (loc, s1) ← s.translate .s (.strm 3) true va
    if s.sealedRange s.vf va.toNat loc n then
      .error (.trap { causeAt s .s 0x15 0 with addr := va })
    else .ok (loc, s1)

/-- Checks the pieces of a block at an entry's address, `base` bytes past it; `last` is the element of the piece before. -/
def checkPieces (x : SaqEntry) (base : Nat) (data : Block) (last : Option Nat) : List (Nat × Nat) → State →
    Except Stop (List SPiece × State)
  | [], s => .ok ([], s)
  | (i, n) :: ps, s =>
    match checkS s (x.at (base + i)) n (x.addr.toNat % 4 == 0) with
    | .error y => .error y
    | .ok (loc, s1) =>
      match checkPieces x base data (some (i / 4)) ps s1 with
      | .error y => .error y
      | .ok (qs, s2) => .ok (⟨x.at (base + i), loc, (List.range n).map fun k => data.extractLsb' (8 * (i + k)) 8,
        last == some (i / 4)⟩ :: qs, s2)

/-- The location that an A address names. -/
def State.locOf (s : State) (va : Word) : Loc :=
  if isScratch va then .sp s.valeIdx (va.toNat % 2 ^ 23) else .gen s.vf va.toNat

/-- S writes one checked piece (log 15, DEDUCED). -/
def putPiece (rel : Option View) (s : State) (p : SPiece) : State :=
  match isScratch p.va, p.loc with
  | true, .cell pa => (s.writeBy .s pa p.bytes (s.locOf p.va) rel p.more).noteWatch .s p.va.toNat p.bytes.length true
  | _, loc => s.putLoc .s loc p.va p.bytes rel p.more

/-- The checks of a whole access of S: its pieces, then errors of the units they touch. -/
def checkBlock (x : SaqEntry) (base : Nat) (data : Block) (ps : List (Nat × Nat)) (s : State) :
    Except Stop (List SPiece × State) := do
  let (qs, s1) ← checkPieces x base data none ps s
  let s2 ← s1.okWrite .s (qs.flatMap fun q => q.loc.pieces q.bytes.length)
  .ok (qs, s2)

/-- Writes of S that have passed their checks wait for the pre-images of their pages (22 R560). -/
def preimages (s : State) : List (Word × PLoc) → Except Stop Unit
  | [] => .ok ()
  | x :: xs => if isScratch x.1 then preimages s xs else do
    s.preimage x.1 x.2
    preimages s xs

/-- The pieces of an access of S wait so. -/
def holdPieces (s : State) (ps : List SPiece) : Except Stop Unit := preimages s (ps.map fun p => (p.va, p.loc))

/-! ## STQ and STQL (R271, R272) -/

/-- Pops a data queue and saq. -/
def popPair (q : Fin 2) (t : State) : Except Stop (Block × SaqEntry × State) := do
  let (x, r) ← t.core.r.qPop (.sq q)
  let (y, t1) ← (t.modR fun _ => r).saqHead
  .ok (x, y, t1)

/-- A result whose trap names the entry's producer. -/
def blaming {α : Type} (x : SaqEntry) : Except Stop α → Except Stop α
  | .error y => .error (x.blame y)
  | .ok r => .ok r

/-- STQ. -/
def execStq (m : Marks) (q : Fin 2) (s : State) : Host.Outcome State Fault Refusal :=
  issue .s 1 m (fun t => do
    let (x, y, t1) ← popPair q t
    let (ps, t2) ← blaming y (checkBlock y 0 x (maskPieces y.mask) t1)
    holdPieces t2 ps
    .ok { st := ps.foldl (putPiece none) t2 }) s

/-- The channel object to which every one of the bytes is bound; else the first byte that differs. -/
def commonChannel (s : State) : List Word → Except Word (Option (BitVec 32))
  | [] => .ok none
  | va :: vas =>
    match s.channelOf (s.locOf va) with
    | none => .error va
    | some o =>
      match vas.find? fun b => s.channelOf (s.locOf b) != some o with
      | some b => .error b
      | none => .ok (some o)

/-- STQL (R272): a store, and a release of the channel object of its bytes. It waits for S's remote writes (04 R131; log 77, DESIGN
CHOICE). -/
def execStql (m : Marks) (q : Fin 2) (s : State) : Host.Outcome State Fault Refusal :=
  issue .s 1 m (fun t => do
    let (x, y, t1) ← popPair q t
    let (ps, t2) ← blaming y (checkBlock y 0 x (maskPieces y.mask) t1)
    let bytes := ((List.range 256).filter fun i => y.mask.getLsbD i).map y.at
    let scope := fun (va : Word) => blaming y (.error (.trap { causeAt t .s 0x28 0 with addr := va }))
    match commonChannel t2 bytes with
    | .error va => scope va
    | .ok none => .ok { st := t2 }
    | .ok (some o) =>
      if !t2.inScope o then scope (bytes.headD 0)
      else do
        holdPieces t2 ps
        orStall (t2.unacked .s).isEmpty .mem
        let own : View := (2 ^ (ps.countP fun p => !p.more) - 1) <<< t2.nextWrite
        let rel := t2.carryObj o (t2.eng .s).view ||| own
        .ok { st := ps.foldl (putPiece (some rel)) t2 }) s

/-! ## SAEQ (R273 to R275) -/

/-- One update of SAEQ: operation, FT, element, value. -/
def saUpdate (op : Nat) (ft : Bool) (e v : Nat) : Nat :=
  match op with
  | 0 => wrapInt 32 (laneInt 32 e + laneInt 32 v)
  | 1 => vaddLane .f32 e v
  | 2 => vmaxLane (if ft then .f32 else .i32) e v
  | 3 => vminLane (if ft then .f32 else .i32) e v
  | 4 => e ||| v
  | _ => v

/-- One element of SAEQ, checked. -/
structure SaElem where
  va  : Word
  pa  : Nat
  val : Nat

/-- The checks of the elements in ascending j; the tier is the last of them (R275). -/
def checkElems (x : SaqEntry) (idx vals : Block) : List Nat → State → Except Stop (List SaElem × State)
  | [], s => .ok ([], s)
  | j :: js, s =>
    let i := lane 32 idx j
    if i == 0xFFFFFFFF then checkElems x idx vals js s
    else
      let va := x.at (4 * i)
      match checkS s va 4 (x.addr.toNat % 4 == 0) with
      | .error y => .error y
      | .ok (.remote _ _, s1) => .error (.trap { causeAt s1 .s 0x11 0 with addr := va })
      | .ok (.cell pa, s1) =>
        if !isScratch va && pa / 2 ^ 48 != 0 then .error (.trap { causeAt s1 .s 0x11 0 with addr := va })
        else match s1.okRead .s pa 4 with
        | .error y => .error y
        | .ok s1 => match checkElems x idx vals js s1 with
          | .error y => .error y
          | .ok (es, s2) => .ok (⟨va, pa, lane 32 vals j⟩ :: es, s2)

/-- The updates of a SAEQ are on their way: they are performed later, in any order toward S's later writes (R277; log 74, DEDUCED). -/
def State.saSend (s : State) (op : Nat) (ft : Bool) (es : List SaElem) : State :=
  match es with
  | [] => s
  | x :: _ =>
    let w : SaWork := ⟨s.nextWrite, s.core.id, s.core.launch, s.vf, s.core.cr.acctid.toNat, op, ft, es.map fun y => (y.va, y.pa, y.val)⟩
    let t := { s.laterPiece (s.locOf x.va) with updates := s.updates ++ [w] }
    es.foldl (fun t y => t.noteWatch .s y.va.toNat 4 true) t

/-- One atomic update by S (04 R136): it takes the newest place after the value that it reads, and joins S's set. Where the writes of
the gang are kept unperformed (16 R478), duplicates go on from the value that the window has formed (R274), which is kept beside the
state. -/
def SaWork.one (w : SaWork) (acc : List (Nat × Nat) × State) (x : Word × Nat × Nat) : List (Nat × Nat) × State :=
  let (va, pa, val) := x
  let (formed, s) := acc
  let kept := !isScratch va && s.keeps w.key
  let now := bytesVal (Memory.readN s.mem pa 4)
  let v := saUpdate w.op w.ft (if kept then assocGet now pa formed else now) val
  let bs := valBytes v 4
  if isScratch va then (formed, s.writeBy .s pa bs (.sp s.valeIdx (va.toNat % 2 ^ 23)) none)
  else
    let s := s.logWrite w.key va.toNat bs
    if kept then (assocSet pa v formed, s)
    else (formed, (((s.spill pa bs).writeBy .s pa bs (.gen w.vf va.toNat) none).markDirty w.vf pa).transfer pa w.acct)

/-- A page that an update of a SAEQ writes waits for a pre-image, of another gang's capture (22 R560). -/
def State.updateWaits (s : State) (w : SaWork) : Bool := w.elems.any fun x => !isScratch x.1 && s.claimed (some w.key) w.vf x.1.toNat

/-- The updates of a SAEQ are performed, in ascending j, and what waited for them goes on (R274, R277, R278). -/
def performUpdate (k : Nat) (s : State) : Host.Outcome State Fault Refusal :=
  match s.updates.find? fun w => w.wid == k with
  | none => .next s
  | some w =>
    if s.updateWaits w then .next s
    else .next (({ s with updates := s.updates.filter fun u => u.wid != k }.onCore w.core fun u =>
      (w.elems.foldl w.one ([], u)).2).clearWids true [k])

/-- SAEQ. -/
def execSaeq (m : Marks) (vq iq : Fin 2) (o : Option SaOpt) (s : State) : Host.Outcome State Fault Refusal :=
  issue .s (optWords o) m (fun t => do
    let (idx, r1) ← t.core.r.qPop (.sq iq)
    let (vals, r2) ← r1.qPop (.sq vq)
    let (y, t1) ← (t.modR fun _ => r2).saqHead
    let (es, t2) ← blaming y (checkElems y idx vals (List.range 64) t1)
    preimages t2 (es.map fun e => (e.va, .cell e.pa))
    let op := (o.map fun x => x.op.toNat).getD 0
    let ft := (o.map fun x => x.ft).getD false
    .ok { st := t2.saSend op ft es }) s

/-! ## STZ and SFENCE (R276, R277) -/

/-- Writes k zero blocks of an entry from block i on; it stops at the first block that fails, which r.stz records. -/
def stzBlocks (x : SaqEntry) : Nat → Nat → State → State × Option Stop
  | 0, _, s => (s, none)
  | k + 1, i, s =>
    match checkBlock x (256 * i) 0 (maskPieces x.mask) s with
    | .error y => (s.modR fun r => { r with stz := i }, some (x.blame y))
    | .ok (ps, s1) =>
      match holdPieces s1 ps with
      | .error y => (s.modR fun r => { r with stz := i }, some y)
      | .ok _ => stzBlocks x k (i + 1) (ps.foldl (putPiece none) s1)

/-- The number of blocks of STZ: 1 without a payload. -/
def stzCount (n : Option (BitVec 12)) : Nat := (n.map fun x => x.toNat + 1).getD 1

/-- STZ (R276): blocks written before a fault stay written, and it resumes at the block that failed. -/
def execStz (m : Marks) (n : Option (BitVec 12)) (s : State) : Host.Outcome State Fault Refusal :=
  let ready := fun (t : State) => do
    let (_, t1) ← t.saqHead
    (.ok { st := t1.modR fun r => { r with stz := 0 } } : Except Stop Done)
  match issueRun .s (optWords n) m ready s, s.saqHead with
  | .error y, _ => stopped .s y s
  | .ok _, .error y => stopped .s y s
  | .ok _, .ok (x, _) =>
    match stzBlocks x (stzCount n - s.core.r.stz) s.core.r.stz s with
    | (t, some y) => stopped .s y t
    | (t, none) => issue .s (optWords n) m ready t

/-- SFENCE (R277): it issues once every write of S is performed; those that stay in the package are when they issue (log 15, DEDUCED). -/
def execSfence (m : Marks) (s : State) : Host.Outcome State Fault Refusal :=
  issue .s 1 m (fun t => do
    orStall (t.unacked .s).isEmpty .mem
    doneOf t) s

end Sys2Proof.Machine
end

