-- ==== Sys2Proof/Machine/Run.lean ====
section
/-! DEFINITION. How a command performs its elements: its reads and writes as a party of its own, and the element at which it
stops (04 R123, R128, R134 to R136; 09 R328, R331; 03 R101, R102, R107, R112). -/

namespace Sys2Proof.Machine

open Sys2Proof

/-- Why a command goes no further: a fault of an element, or an uncorrectable error (22 R564), with what its access has done; a write
that stalls on a moving page or for a pre-image; a cell that no store has; a pause on a watchpoint (13 R420). -/
inductive XErr where
  | fault (code : Nat) (spent : Spent)
  | data (pa : Nat) (spent : Spent)
  | wait
  | hold (page : Nat)
  | cell (pa : Nat)
  | pause
  deriving DecidableEq, Repr

/-- A fault of an element that has done nothing. -/
def XErr.plain (code : Nat) : XErr := .fault code .nothing

/-- A data error as a command meets it. -/
def dataErr : Stop → XErr
  | .trap c => .data c.walk.toNat .nothing
  | _ => .plain 0x3E

/-- A command at work: the command as it stands, the state, its party, what it has written, its remote writes on their way; its two
stream TLBs, with the last address that each has served; what it has read and keeps; its element, why it stopped. -/
structure Run where
  cmd   : Cmd
  st    : State
  party : Party
  wrote : View
  sent  : List Nat
  src   : List TlbEntry
  dst   : List TlbEntry
  lastS : Nat
  lastD : Nat
  data  : List Nat
  sums  : List (Nat × Nat)
  idx   : Nat
  err   : Option XErr

def Run.start (c : Cmd) (s : State) : Run :=
  { cmd := c, st := s, party := ⟨c.view, c.floor⟩, wrote := c.wrote, sent := c.wids, src := [], dst := [], lastS := 0, lastD := 0
    data := c.data, sums := c.sums, idx := 0, err := none }

/-- One part of an element: nothing more is done after a stop. -/
def Run.act (r : Run) (f : Run → Except XErr Run) : Run :=
  match r.err with
  | some _ => r
  | none => match f r with
    | .ok t => t
    | .error e => { r with err := some e }

/-- The next element; a watchpoint that this one has met pauses the command (13 R420; log 35, DEDUCED). -/
def Run.next (r : Run) : Run :=
  if r.err.isSome then r
  else { r with idx := r.idx + 1, err := if r.st.paused r.cmd then some .pause else none }

/-- One whole element; those done before a pause are passed over. -/
def Run.elem (r : Run) (f : Run → Except XErr Run) : Run :=
  if r.err.isNone && r.idx < r.cmd.upto then { r with idx := r.idx + 1 } else (r.act f).next

/-! ## Checks of an address -/

/-- The vale of a side: its code, or the command's own vale (R332). -/
def Cmd.vale (c : Cmd) (code : Nat) : Nat := if 128 ≤ code then code % 128 else CoreId.valeIdx c.core

/-- The function whose space a command's generic addresses lie in. -/
def Cmd.vf (c : Cmd) (s : State) : Nat := (s.vale (CoreId.valeIdx c.core)).vf % 32

/-- The gang of a command holds cores in a vale (R102). -/
def Cmd.holds (c : Cmd) (s : State) (v : Nat) : Bool :=
  v == CoreId.valeIdx c.core || (((s.gang c.gang).map Gang.cores).getD []).any fun i => CoreId.valeIdx i == v

/-- The scope of the object to which a byte is bound contains the pushing core (04 R128). -/
def Cmd.mayTouch (c : Cmd) (s : State) (l : Loc) : Bool :=
  match (s.objectOf l).bind s.syncObj with
  | some x => scopeHas x c.core ((s.cores.find? fun k => k.id == c.core).bind Core.pod)
  | none => true

/-- The account of a command's transfers and walks: SWITCH for COPYX (13 R427; 17 R489). -/
def Cmd.payer (c : Cmd) : Nat := if c.kind == some .copyx then SWITCH else c.acct

/-- A located access. -/
structure At where
  loc  : PLoc
  name : Loc
  run  : Run

/-- A side's stream TLB after its use at an address: the walk of the next page of the stream begins, and is done at once (14 R440; log 16,
DESIGN CHOICE). -/
def Run.cached (r : Run) (write : Bool) (vf : Nat) (c : Cmd) (cache : List TlbEntry) (va : Nat) : Run :=
  let last := if write then r.lastD else r.lastS
  let back := va < last
  let next := if back then va / 65536 * 65536 - 65536 else va / 65536 * 65536 + 65536
  let keep := fun (r : Run) (ts : List TlbEntry) => if write then { r with dst := ts, lastD := va } else { r with src := ts, lastS := va }
  if cache.any (·.hits vf next) || (back && va / 65536 == 0) || r.st.walksFull (CoreId.valeIdx c.core) then keep r cache
  else
    let f := r.st.vfunOf vf
    match walkVa (walkerOf (CoreId.valeIdx c.core) c.payer) vf f next r.party r.st with
    | (.error _, p, t) => keep { r with st := t, party := p } cache
    | (.ok leaf, p, t) =>
      let usable := match useLeaf f (c.lvl == 0) write next leaf with
        | .ok _ => true
        | .error _ => false
      keep { r with st := t, party := p } (if usable then tlbUse 4 (t.tagLeaf leaf) cache else cache)

/-- The request of a command's access through a remote leaf (14 R450). -/
def Cmd.askFar (c : Cmd) (s : State) (node rvf va n : Nat) : Option FarRead := s.askFar (5 + c.x.val) c.core (c.lvl == 0) node rvf va n

/-- The checks of n bytes at an A address, in a side's vale: form, alignment, window, translation, scope. -/
def Run.locate (c : Cmd) (r : Run) (vale : Nat) (va : Word) (n align : Nat) (write : Bool) : Except XErr At :=
  let s := r.st
  if isScratch va then
    let o := va.toNat % 2 ^ 63
    if 2 ^ 23 ≤ o then .error (.plain 0x14)
    else if va.toNat % align != 0 then .error (.plain 0x13)
    else if !(inWindow c.spw o && inWindow c.spw (o + n - 1) && c.holds s vale) then .error (.plain 0x14)
    else if !c.mayTouch s (.sp vale o) then .error (.plain 0x28)
    else .ok ⟨.cell (scratchCell vale o), .sp vale o, r⟩
  else if va.toNat / 2 ^ 55 != 0 then .error (.plain 0x10)
  else if va.toNat % align != 0 then .error (.plain 0x13)
  else
    let vf := c.vf s
    let own := CoreId.valeIdx c.core
    let cache := if write then r.dst else r.src
    let x := xlate (walkerOf own c.payer) s r.party vf (c.lvl == 0) write 4 cache va.toNat
    if s.walksFull own && !cache.any (·.hits vf va.toNat) then .error .wait
    else match x.res with
    | .error f =>
      let spent : Spent := ⟨x.st.movedSince s, none⟩
      .error (if f.code == 0 then .cell f.eia else if f.code == 0x3E then .data f.eia spent else .fault f.code spent)
    | .ok loc =>
      let r1 := { r with st := x.st, party := x.party }.cached write vf c x.cache va.toNat
      if write && s.moving vf va.toNat then .error .wait
      else if !c.mayTouch s (.gen vf va.toNat) then .error (.fault 0x28 ⟨x.st.movedSince s, none⟩)
      else match loc with
      | .cell _ => .ok ⟨loc, .gen vf va.toNat, r1⟩
      | .remote node rvf =>
        match farFault s node with
        | some f =>
          let ask := c.askFar s node rvf va.toNat n
          let out := (ask.map fun q => (⟨11, q.port, c.payer⟩ : Transfer)).toList
          .error (.fault f.code ⟨x.st.movedSince s ++ out, ask⟩)
        | none => .ok ⟨loc, .gen vf va.toNat, { r1 with st := r1.st.tick }⟩

/-- A watchpoint of the pushing core that a command's access meets: an imprecise cause, with the element's address (13 R420; log 35,
DEDUCED). -/
def Cmd.noteWatch (c : Cmd) (s : State) (vale : Nat) (va : Word) (n : Nat) (write : Bool) : State :=
  if c.shadow || (isScratch va && vale != CoreId.valeIdx c.core) then s
  else s.onCore c.core fun u =>
    match u.core.cr.watch va.toNat n write with
    | none => u
    | some (i, _) => u.modCr fun r =>
        { r with pending := addWatch ⟨0x38, 5 + c.x.val, true, i, c.pc, u.trapWordAt .a c.pc, va, 0, 0, .nothing⟩ r.pending }

/-! ## Reads and writes -/

/-- The class of the flits of a command's remote accesses (20 R517). -/
def Cmd.flits (c : Cmd) : Nat := if c.kind == some .coll then 2 else 0

/-- A read of n bytes, one atomic piece. -/
def Run.read (c : Cmd) (r : Run) (vale : Nat) (va : Word) (n align : Nat) : Except XErr (List Byte × Run) := do
  let a ← r.locate c vale va n align false
  match a.loc with
  | .cell pa =>
    match a.run.st.okRead .c pa n with
    | .error e => .error (dataErr e)
    | .ok s1 =>
      let x := readPiece s1 a.run.party pa n
      .ok (x.bytes, { a.run with st := (c.noteWatch x.st vale va n false).transfer pa c.payer, party := x.party })
  | .remote node rvf =>
    match c.askFar a.run.st node rvf va.toNat n with
    | none => .error (.plain 0x18)
    | some ask =>
      let (bs, s1) := remoteBytes a.run.st n
      .ok (bs, { a.run with st := (c.noteWatch s1 vale va n false).transferOut ask.port c.payer (.load ask) c.flits })

/-- A checked write of one atomic piece: it joins the command's set and what it has written. -/
def At.put (a : At) (c : Cmd) (vale : Nat) (va : Word) (bs : List Byte) : Run :=
  let s := a.run.st
  let gen := !isScratch va
  let s := if gen then s.logWrite c.gang va.toNat bs else s
  if gen && s.keeps c.gang then { a.run with st := c.noteWatch s vale va bs.length true }
  else match a.loc with
  | .cell pa =>
    let s1 := if gen then s.spill pa bs else s
    let id := s1.nextWrite
    let s2 := writePiece s1 pa bs a.name none
    let s3 := if gen then s2.markDirty (c.vf s2) pa else s2
    let p := a.run.party
    { a.run with
      st := (c.noteWatch s3 vale va bs.length true).transfer pa c.payer
      party := { p with view := p.view ||| 1 <<< id }
      wrote := a.run.wrote ||| 1 <<< id }
  | .remote node rvf =>
    let w : FarWrite :=
      { port := 0, wid := 0, unit := 5 + c.x.val, core := c.core, cmd := some c.id, key := c.gang, vf := c.vf s, node := node
        rvf := rvf, va := va.toNat, bytes := bs, rel := none }
    { a.run with
      st := c.noteWatch (s.sendWrite w c.payer c.flits) vale va bs.length true
      sent := if (s.portTo node).isSome then a.run.sent ++ [s.nextWrite] else a.run.sent }

/-- A sealed byte among n (03 R112). -/
def sealedAny (s : State) (l : Loc) (p : PLoc) (n : Nat) : Bool :=
  match l with
  | .gen vf va => s.sealedRange vf va p n
  | _ => false

/-- The checks of a write. -/
def Run.checkWrite (c : Cmd) (r : Run) (vale : Nat) (va : Word) (n align : Nat) : Except XErr At := do
  let a ← r.locate c vale va n align true
  if sealedAny a.run.st a.name a.loc n then .error (.plain 0x15)
  else match a.run.st.okWrite .c (a.loc.pieces n) with
    | .error e => .error (dataErr e)
    | .ok s1 => .ok { a with run := { a.run with st := s1 } }

/-- A write that has passed its checks waits for the pre-image of its page (22 R560), and for the copy of its HBM row (R565). -/
def At.ready (a : At) (c : Cmd) (va : Word) : Except XErr Unit :=
  if isScratch va then .ok ()
  else match a.run.st.uncaptured c.gang va.toNat a.loc with
    | some p => .error (.hold p)
    | none => if a.run.st.claimed (some c.gang) (c.vf a.run.st) va.toNat || a.run.st.rowHeld a.loc then .error .wait else .ok ()

/-- A write of one atomic piece. -/
def Run.write (c : Cmd) (r : Run) (vale : Nat) (va : Word) (bs : List Byte) (align : Nat) : Except XErr Run := do
  let a ← r.checkWrite c vale va bs.length align
  a.ready c va
  .ok (a.put c vale va bs)

/-- Reads one piece of what a command reads once and keeps; a watchpoint that it has met pauses the command (13 R420). -/
def Run.readNext (c : Cmd) (vale n align : Nat) (addr : Nat → Word) (r : Run) (i : Nat) : Run :=
  if r.err.isSome || i < r.data.length then r
  else match r.read c vale (addr i) n align with
    | .error e => { r with err := some e }
    | .ok (x, r1) =>
      let t := { r1 with data := r1.data ++ [bytesVal x] }
      if t.st.paused c then { t with err := some .pause } else t

/-- Reads the k values that a command reads once and keeps, those that it does not have already. -/
def Run.readList (c : Cmd) (vale n align k : Nat) (addr : Nat → Word) (r : Run) : Run :=
  (List.range k).foldl (Run.readNext c vale n align addr) r

/-- What a run has done, as its command keeps it. -/
def Run.note (r : Run) (c : Cmd) : Cmd :=
  { c with view := r.party.view, floor := r.party.floor, wrote := r.wrote, wids := r.sent, elems := r.idx }

/-- What a run does to its command: it performs its last write, or ends at its failing element, or pauses after an element; a write
that stalls leaves the command as it was. -/
def Run.settle (c : Cmd) (before : State) (r : Run) (done : Cmd → Cmd) : Host.Outcome State Fault Refusal :=
  match r.err with
  | none => .next (r.st.setCmd (done { r.note c with stage := .performed }))
  | some (.fault code spent) => .next ((r.st.pay spent).setCmd { r.note (c.fail code r.idx) with floor := c.floor, view := c.view })
  | some (.data pa spent) =>
    .next (((r.st.pay spent).poison pa).setCmd { r.note (c.fail 0x3E r.idx) with floor := c.floor, view := c.view })
  | some .pause => .next (r.st.setCmd { r.note c with upto := r.idx, data := r.data, sums := r.sums })
  | some .wait => .next before
  | some (.hold p) => .next (before.onCore c.core (wantPage p))
  | some (.cell pa) => .fault (.noSuchCell pa)

/-- The step of a started command of a kind that is not paused (log 46, DESIGN CHOICE). -/
def runCmd (k : Nat) (p : Cmd → Bool) (f : Cmd → State → Host.Outcome State Fault Refusal) (s : State) :
    Host.Outcome State Fault Refusal :=
  match s.cmd k with
  | none => .next s
  | some c => if c.stage == .started && p c && !s.paused c then f c s else .next s

end Sys2Proof.Machine
end

