-- ==== Sys2Proof/Machine/Cmd.lean ====
section
/-! DEFINITION. The commands of the copy, scatter-accumulate and collective engines, COPYX apart (09 R332 to R340; 03 R114 to
R121; 18 R504). -/

namespace Sys2Proof.Machine

open Sys2Proof

/-! ## The tile (R333) -/

/-- The step index k_i of element e of a tile, k0 fastest. -/
def Cmd.step (c : Cmd) (e i : Nat) : Nat :=
  match i with
  | 0 => e % c.tl 0
  | 1 => e / c.tl 0 % c.tl 1
  | 2 => e / (c.tl 0 * c.tl 1) % c.tl 2
  | _ => e / (c.tl 0 * c.tl 1 * c.tl 2) % c.tl 3

/-- The row of an element, with its row index k1. -/
def Cmd.row (c : Cmd) (e k1 : Nat) : Nat := k1 + c.tl 1 * (c.step e 2 + c.tl 2 * c.step e 3)

/-- The coordinates c0, c2 and c3 of an element; c1 is given apart. -/
def Cmd.coord (c : Cmd) (e c1 i : Nat) : Nat := if i == 1 then c1 else c.org i + c.step e i

/-- An element lies inside the extents. -/
def Cmd.inside (c : Cmd) (e c1 : Nat) : Bool := (List.range 4).all fun i => c.coord e c1 i < c.ext i

/-- An element's source address. -/
def Cmd.srcAt (c : Cmd) (e c1 : Nat) : Word :=
  rotA (c.word 2 + BitVec.ofInt 64 ((c.coord e c1 0 * c.esize : Nat) + (c1 : Int) * c.sstd 1 +
    (c.coord e c1 2 : Nat) * c.sstd 2 + (c.coord e c1 3 : Nat) * c.sstd 3)) (c.row e (c.step e 1)) c.srot

/-- An element's destination address, in destination row k1. -/
def Cmd.dstAt (c : Cmd) (e k1 : Nat) : Word :=
  rotA (c.word 3 + BitVec.ofInt 64 ((c.step e 0 * c.esize : Nat) + (k1 : Int) * c.dstd 1 + (c.step e 2 : Nat) * c.dstd 2 +
    (c.step e 3 : Nat) * c.dstd 3)) (c.row e k1) c.drot

/-- bounds_fill of an element (02 R91). -/
def Run.element (c : Cmd) (r : Run) (e c1 : Nat) : Except XErr (List Byte × Run) :=
  if c.inside e c1 then r.read c (c.vale c.svl) (c.srcAt e c1) c.esize c.esize
  else .ok (valBytes (c.bits 12 0 32) c.esize, r)

/-- Copies one element to the vales given. -/
def Run.copyOne (c : Cmd) (vales : List Nat) (c1 : Nat → Nat) (r : Run) (e : Nat) : Run :=
  r.elem fun r => do
    let (bs, r1) ← r.element c e (c1 e)
    vales.foldlM (fun r v => r.write c v (c.dstAt e (c.step e 1)) bs c.esize) r1

/-- The coordinate c1 of COPY. -/
def Cmd.plainC1 (c : Cmd) (e : Nat) : Nat := c.org 1 + c.step e 1

/-! ### Sealed-image records (18 R504) -/

/-- The object in which every source element of a COPY lies, held by its gang at the push. -/
def Cmd.imageOf (c : Cmd) (s : State) : Option Obj :=
  if isScratch (c.word 2) || !(isScratch (c.word 3)) || c.drot != 0 || c.vale c.dvl != CoreId.valeIdx c.core then none
  else s.objs.find? fun o =>
    o.live && o.vf == c.vf s && c.held.contains o.ident && (List.range c.tileElems).all fun e =>
      let va := (c.srcAt e (c.plainC1 e)).toNat
      c.inside e (c.plainC1 e) && o.base ≤ va && va + c.esize ≤ o.base + o.size

/-- The ranges that a set of bytes makes. -/
def rangesOf (es : List (Nat × Nat)) : List (Nat × Nat) :=
  es.foldr (fun x rs => match rs with
    | (a, n) :: t => if x.1 + x.2 == a then (x.1, x.2 + n) :: t else x :: (a, n) :: t
    | [] => [x]) []

/-- The record that a COPY makes: it covers every destination byte. The engine keeps the newest 16. -/
def Cmd.record (c : Cmd) (s : State) : State :=
  match c.imageOf s with
  | none => s
  | some o =>
    let v := CoreId.valeIdx c.core
    let es := (List.range c.tileElems).map fun e => ((c.dstAt e (c.step e 1)).toNat % 2 ^ 23, c.esize)
    let x : ImageRec := ⟨v, o.ident, rangesOf es, c.gang⟩
    { s with copies := x :: (s.copies.filter fun (y : ImageRec) => y.vale == v).take 15 ++
        s.copies.filter fun (y : ImageRec) => y.vale != v }

/-- COPY (R333). -/
def execCopy (k : Nat) (s : State) : Host.Outcome State Fault Refusal :=
  runCmd k (fun c => c.kind == some .copy) (fun c s =>
    let r := (List.range c.tileElems).foldl (Run.copyOne c [c.vale c.dvl] c.plainC1) (Run.start c s)
    let r := if r.err.isNone then { r with st := c.record r.st } else r
    r.settle c s fun c => { c with bytes := c.tileBytes }) s

/-- The vales that an MCAST names (R334). -/
def Cmd.vales (c : Cmd) : List Nat :=
  (List.range 128).filter fun v => if v < 64 then (c.word 13).getLsbD v else (c.word 14).getLsbD (v - 64)

/-- MCAST (R334): the source is read once. -/
def execMcast (k : Nat) (s : State) : Host.Outcome State Fault Refusal :=
  runCmd k (fun c => c.kind == some .mcast) (fun c s =>
    let r := (List.range c.tileElems).foldl (Run.copyOne c c.vales c.plainC1) (Run.start c s)
    r.settle c s fun c => { c with bytes := c.tileBytes * c.vales.length }) s

/-! ## GATHER and SCATTER (R335, R336) -/

/-- The own vale's scratch as an A address. -/
def scratchA (o : Nat) : Word := BitVec.ofNat 64 (2 ^ 63 + o)

/-- The index list of a command: TL1 entries at IDX, read once. -/
def Run.indices (c : Cmd) (r : Run) : Run :=
  r.readList c (CoreId.valeIdx c.core) 4 4 (c.tl 1) fun i => scratchA (c.bits 13 0 23) + BitVec.ofNat 64 (4 * i)

/-- GATHER (R335): an index that is absent, or at or beyond EXT1, lies outside the extents. -/
def execGather (k : Nat) (s : State) : Host.Outcome State Fault Refusal :=
  runCmd k (fun c => c.kind == some .gather) (fun c s =>
    let r0 := (Run.start c s).indices c
    let r := (List.range c.tileElems).foldl (Run.copyOne c [c.vale c.dvl] fun e => r0.data.getD (c.step e 1) 0xFFFFFFFF) r0
    r.settle c s fun c => { c with bytes := c.tileBytes }) s

/-- The destination row of a source row; none where it is written nowhere (log 47, DEDUCED). -/
def Cmd.destRow (c : Cmd) (xs : List Nat) (k1 : Nat) : Option Nat :=
  let x := xs.getD k1 0xFFFFFFFF
  if x == 0xFFFFFFFF || c.bits 13 32 32 ≤ x then none else some x

/-- SCATTER with MODE 0: one element. -/
def Run.scatterOne (c : Cmd) (xs : List Nat) (r : Run) (e : Nat) : Run :=
  r.elem fun r => do
    let (bs, r1) ← r.element c e (c.plainC1 e)
    match c.destRow xs (c.step e 1) with
    | none => .ok r1
    | some d => r1.write c (c.vale c.dvl) (c.dstAt e d) bs c.esize

/-- The sum of two elements of SCATTER: INT32 wrapping, or FP32. -/
def Cmd.sum (c : Cmd) (a b : Nat) : Nat := if c.bits 0 19 1 == 1 then vaddLane .f32 a b else wrapInt 32 (laneInt 32 a + laneInt 32 b)

/-- The sum that an element joins: its destination row, and its place in the row. -/
def Cmd.sumKey (c : Cmd) (d e : Nat) : Nat := d * c.tileElems + (e - c.step e 1 * c.tl 0)

/-- SCATTER with MODE 1: every element is read in order and joins the sum of its row; the element of the last row that carries an
index writes the sum (log 47, DEDUCED). -/
def Run.scatterSum (c : Cmd) (xs : List Nat) (r : Run) (e : Nat) : Run :=
  r.elem fun r => do
    let (bs, r1) ← r.element c e (c.plainC1 e)
    match c.destRow xs (c.step e 1) with
    | none => .ok r1
    | some d =>
      let k := c.sumKey d e
      let v := match r1.sums.find? fun p => p.1 == k with
        | none => bytesVal bs
        | some p => c.sum p.2 (bytesVal bs)
      let last := ((List.range (c.tl 1)).filter fun i => c.destRow xs i == some d).getLast?
      if last != some (c.step e 1) then .ok { r1 with sums := assocSet k v r1.sums }
      else r1.write c (c.vale c.dvl) (c.dstAt e d) (valBytes v 4) 4

/-- SCATTER (R336): BYTES counts the rows written, with MODE 0 once for each index that writes one (log 86, DESIGN CHOICE). -/
def execScatter (k : Nat) (s : State) : Host.Outcome State Fault Refusal :=
  runCmd k (fun c => c.kind == some .scatter) (fun c s =>
    let r0 := (Run.start c s).indices c
    let mode := c.bits 0 20 1
    let r := (List.range c.tileElems).foldl (if mode == 1 then Run.scatterSum c r0.data else Run.scatterOne c r0.data) r0
    let dests := (List.range (c.tl 1)).filterMap (c.destRow r0.data)
    let rows := if mode == 1 then dests.eraseDups.length else dests.length
    r.settle c s fun c => { c with bytes := rows * c.tl 0 * c.tl 2 * c.tl 3 * c.esize }) s

/-! ## PREF (R337) -/

/-- The walk of a page of a PREF's range, which reads the tables for the command (14 R458); and whether the page may move: an access at the
command's level faults on it at most to migrate it on touch (14 R433). -/
def prefWalk (c : Cmd) (vf va : Nat) (s : State) : Bool × State :=
  let w := walkVa (walkerOf (CoreId.valeIdx c.core) c.payer) vf (s.vfunOf vf) va s.allParty s
  let t := match w.1 with
    | .error x => if x.code == 0x3E then w.2.2.poison x.eia else w.2.2
    | .ok _ => w.2.2
  (c.lvl != 0 || ((s.leafOf vf va).map fun l => leafUsr l.2.2).getD false, t)

/-- One page of a PREF's range: it counts when it moves. None while another move holds the page (log 72, DEDUCED). -/
def prefPage (c : Cmd) (dest : Nat) (acc : Option (Nat × State)) (va : Nat) : Option (Nat × State) :=
  acc.bind fun (n, s) =>
    let vf := c.vf s
    let (may, s) := prefWalk c vf va s
    match if may then s.planMove vf va dest else .skip with
    | .skip => some (n, s)
    | .busy => none
    | .mark pa e => some (n, s.commitMark vf va pa e)
    | .copy pa e a =>
      let s1 := s.startMove vf va dest pa e a c.acct (some c.id)
      match s1.moves.find? fun m => m.id == s.nextId with
      | none => some (n, s1)
      | some m =>
        let (moved, s2) := s1.commitMove m
        -- a promotion of a page that was marked posts its event (22 R554)
        let s3 := if moved && leafMot e && dest == 0 then s2.alert (0x2000 + vf) 1 [va, leafOa e, a] else s2
        some (if moved then n + 1 else n, s3)

/-- PREF to a tier (log 72, DEDUCED). -/
def runPref (mode : Nat) (k : Nat) (s : State) : Host.Outcome State Fault Refusal :=
  runCmd k (fun c => c.kind == some .pref && c.es == mode) (fun c s =>
    let base := (c.word 2).toNat
    let pages := (List.range ((c.word 3).toNat / 65536)).map fun i => base + 65536 * i
    match pages.foldl (prefPage c mode) (some (0, s)) with
    | none => .next s
    | some (n, t) => .next (t.setCmd { c with stage := .performed, detail := min n 0xFFFF })) s

/-- PREF_PROMOTE. -/
def execPrefPromote (k : Nat) (s : State) : Host.Outcome State Fault Refusal := runPref 0 k s

/-- PREF_DEMOTE. -/
def execPrefDemote (k : Nat) (s : State) : Host.Outcome State Fault Refusal := runPref 1 k s

/-! ## SIGATH (R338; 03 R120) -/

/-- The bits in which two signatures differ. -/
def hamming (a b : Nat) : Nat := countTo (fun i => (a ^^^ b).testBit i) 64

/-- The blocks that a query selects, in order. -/
def selectBlocks (sigs : List Nat) (q rad cap : Nat) : List Nat :=
  ((List.range (rad + 1)).flatMap fun d =>
    (sigs.zipIdx.filter fun p => hamming p.1 q == d).map Prod.snd).take cap

/-- Writes 4-byte values at consecutive addresses, each an element. -/
def Run.writes (c : Cmd) (vale : Nat) (va : Word) (xs : List (List Byte)) (r : Run) : Run :=
  xs.zipIdx.foldl (fun r x => r.elem fun r => r.write c vale (va + BitVec.ofNat 64 (4 * x.2)) x.1 4) r

/-- The signatures of a SIGATH, which are read once. -/
def Run.signatures (c : Cmd) (own : Nat) (r : Run) : Run :=
  r.readList c own 8 8 (c.bits 4 32 32) fun i => c.word 2 + BitVec.ofNat 64 (8 * i)

/-- SIGATH: the selected blocks and padding, the index list, the count (log 47, DEDUCED). -/
def execSigath (k : Nat) (s : State) : Host.Outcome State Fault Refusal :=
  runCmd k (fun c => c.kind == some .sigath) (fun c s =>
    let own := CoreId.valeIdx c.core
    let blk := c.bits 4 0 32
    let cap := c.bits 6 16 12 + 1
    let r1 := (Run.start c s).signatures c own
    let sel := selectBlocks r1.data (c.word 5).toNat (c.bits 6 0 7) cap
    let fill := valBytes (c.bits 9 0 32) c.esize
    let pad := (List.replicate (4 / c.esize) fill).flatten
    let block := fun (r : Run) (b : Nat) =>
      let dst := c.word 7 + BitVec.ofNat 64 (b * blk)
      (List.range (blk / 4)).foldl (fun r j => r.elem fun r => do
        let off : Word := BitVec.ofNat 64 (4 * j)
        match sel[b]? with
        | some i =>
          let (bs, r1) ← r.read c own (c.word 3 + BitVec.ofNat 64 (i * blk) + off) 4 4
          r1.write c (c.vale c.dvl) (dst + off) bs 4
        | none => r.write c (c.vale c.dvl) (dst + off) pad 4) r
    let r2 := (List.range cap).foldl block r1
    let idx := (List.range cap).map fun b => valBytes (sel.getD b 0xFFFFFFFF) 4
    let r3 := r2.writes c own (c.word 8) (idx ++ [valBytes sel.length 4])
    r3.settle c s fun c => { c with bytes := cap * blk, detail := sel.length }) s

/-! ## SACC (R339; 07 R273 to R275) -/

/-- One update of a window, checked: its element, its target and its value. -/
structure Update where
  elem : Nat
  dest : At
  va   : Word
  val  : Nat

def Run.saccCheck (c : Cmd) (r : Run) (j x v : Nat) : Except XErr Update := do
  let va := c.word 4 + BitVec.ofNat 64 (4 * x)
  let a ← r.checkWrite c (CoreId.valeIdx c.core) va 4 4
  match a.loc with
  | .remote _ _ => .error (.plain 0x11)
  | .cell pa =>
    if !isScratch va && pa / 2 ^ 48 != 0 then .error (.plain 0x11)
    else match a.run.st.okRead .c pa 4 with
      | .error e => .error (dataErr e)
      | .ok s1 => .ok ⟨j, { a with run := { a.run with st := s1 } }, va, v⟩

/-- Checks the elements of a window, threading the run. -/
def Run.saccWindow (c : Cmd) : List (Nat × Nat × Nat) → Run → Except XErr (List Update × Run)
  | [], r => .ok ([], r)
  | (j, x, v) :: es, r =>
    if x == 0xFFFFFFFF then Run.saccWindow c es r
    else do
      let y ← r.saccCheck c j x v
      let (ys, r1) ← Run.saccWindow c es y.dest.run
      .ok (y :: ys, r1)

/-- One atomic update (04 R136); the run counts it. It goes on from the value that stands, or, where the writes are kept unperformed (16
R478), from the one that the window has formed (07 R274). The run pauses after an update that a watchpoint has met (13 R420). -/
def Run.saccPut (c : Cmd) (acc : Run × Nat) (y : Update) : Run × Nat :=
  let r := acc.1
  if r.err.isSome then acc
  else match y.dest.loc with
  | .cell pa =>
    let now := bytesVal (Memory.readN r.st.mem pa 4)
    let old := if !isScratch y.va && r.st.keeps c.gang then assocGet now pa r.sums else now
    let v := saUpdate (c.bits 0 46 3) (c.bits 0 45 1 == 1) old y.val
    let t := At.put { y.dest with run := { r with sums := assocSet pa v r.sums } } c (CoreId.valeIdx c.core) y.va (valBytes v 4)
    ({ t with idx := y.elem + 1, err := if t.st.paused c then some .pause else none }, acc.2 + 1)
  | .remote _ _ => acc

/-- The n indices of a window and its n values, which are read once, where they stand. -/
def Cmd.saccAt (c : Cmd) (w n i : Nat) : Word :=
  if i < n then c.word 2 + BitVec.ofNat 64 (4 * (64 * w + i)) else c.word 3 + BitVec.ofNat 64 (4 * (64 * w + (i - n)))

/-- One window of 64: its reads, its checks, then its updates. A fault names the first element of the window that is not done; the count
of updates comes beside the run (log 47, DEDUCED). -/
def Run.saccStep (c : Cmd) (n : Nat) (acc : Run × Nat) (w : Nat) : Run × Nat :=
  let (r, done) := acc
  let j := max (64 * w) c.upto
  let all := min 64 (n - 64 * w)
  let m := min (64 * w + 64) n - j
  if r.err.isSome || m == 0 then acc
  else
    let r := { r with idx := j, sums := if 64 * w < c.upto then r.sums else [] }
    let r1 := r.readList c (CoreId.valeIdx c.core) 4 4 (2 * all) (c.saccAt w all)
    if r1.err.isSome then (r1, done)
    else
      let es := (List.range m).map fun i => (j + i, r1.data.getD (j - 64 * w + i) 0, r1.data.getD (j - 64 * w + i + all) 0)
      let body : Except XErr (Run × Nat) := do
        let (ys, r2) ← Run.saccWindow c es r1
        let _ ← ys.mapM fun y => y.dest.ready c y.va
        .ok (ys.foldl (Run.saccPut c) (r2, done))
      match body with
      | .ok (t, k) => ({ t with data := if t.err.isNone || t.idx == 64 * w + all then [] else t.data }, k)
      | .error e => ({ r1 with err := some e }, done)

/-- SACC. -/
def execSacc (k : Nat) (s : State) : Host.Outcome State Fault Refusal :=
  runCmd k (fun c => c.kind == some .sacc) (fun c s =>
    let n := c.bits 5 0 24
    let (r, done) := (List.range ((n + 63) / 64)).foldl (Run.saccStep c n) (Run.start c s, c.bytes / 4)
    let r := if r.err.isNone then { r with idx := n } else r
    Run.settle { c with bytes := 4 * done } s r id) s

/-! ## COLL (R340) -/

/-- The members' commands of a collective, in rank order: none while one has not started. -/
def State.collective (s : State) (c : Cmd) : Option (List Cmd) :=
  (s.domain c.dom).bind fun d => d.members.mapM fun i =>
    s.cmds.find? fun x => x.core == i && x.kind == some .coll && x.dom == c.dom && x.seq == c.seq && x.stage == .started

/-- The members agree on OP, RED and ROOT, and for OP 0 to 2 on CNT. -/
def agree (cs : List Cmd) : Bool :=
  match cs with
  | [] => true
  | c :: _ => cs.all fun x => x.bits 0 27 22 == c.bits 0 27 22 && (2 < c.bits 0 46 3 || x.bits 4 0 32 == c.bits 4 0 32)

/-- Two values of a reduction. -/
def redOf (red a b : Nat) : Nat :=
  match red with
  | 0 => wrapInt 32 (laneInt 32 a + laneInt 32 b)
  | 1 => (add32 (BitVec.ofNat 32 a) (BitVec.ofNat 32 b)).1.toNat
  | 2 => vmaxLane .i32 a b
  | 3 => vmaxLane .f32 a b
  | 4 => vminLane .i32 a b
  | _ => vminLane .f32 a b

/-- One level of the tree: rank-ordered pairs combine, an odd last value passes up. -/
def treeLevel (f : Nat → Nat → Nat) : List Nat → List Nat
  | a :: b :: t => f a b :: treeLevel f t
  | l => l

/-- The tree over the values of all ranks; each level halves them. -/
def treeOf (f : Nat → Nat → Nat) : Nat → List Nat → Nat
  | 0, l => l.headD 0
  | k + 1, l => treeOf f k (treeLevel f l)

/-- A member reads n values at consecutive addresses, each an element. -/
def Run.take (c : Cmd) (va : Word) (n : Nat) (r : Run) : Run :=
  (List.range n).foldl (fun r i => r.elem fun r => do
    let (bs, r1) ← r.read c (CoreId.valeIdx c.core) (va + BitVec.ofNat 64 (4 * i)) 4 4
    .ok { r1 with data := r1.data ++ [bytesVal bs] }) r

/-- What a member reads: CNT elements at SRC; the root's only, for BCAST; for ALLTOALL its send counts, and the elements that they
count. -/
def collGive (op size rank : Nat) (c : Cmd) (s : State) : Run :=
  let r := Run.start c s
  if op == 4 then
    let r1 := r.take c (c.word 5) size
    r1.take c (c.word 2) (r1.data.take size).sum
  else if op == 2 && c.bits 0 27 16 != rank then r
  else r.take c (c.word 2) (c.bits 4 0 32)

/-- What a member has read, as its send counts (for ALLTOALL) and its elements. -/
def Cmd.given (op size : Nat) (c : Cmd) : List Nat × List Nat := if op == 4 then (c.data.take size, c.data.drop size) else ([], c.data)

/-- The elements that the member of a rank writes. -/
def collOut (op red root rank : Nat) (gs : List (List Nat × List Nat)) : List Nat :=
  let lists := gs.map Prod.snd
  let reduce := fun () => (List.range (lists.headD []).length).map fun i =>
    treeOf (redOf red) lists.length (lists.map fun l => l.getD i 0)
  match op with
  | 0 => reduce ()
  | 1 => if rank == root then reduce () else []
  | 2 => lists.getD root []
  | 3 => lists.flatten
  | _ => gs.flatMap fun g => (g.2.drop (g.1.take rank).sum).take (g.1.getD rank 0)

/-- Every member of a collective ends with a cause (log 47, DEDUCED). -/
def collFail (cs : List Cmd) (code elem : Nat) (s : State) : State := cs.foldl (fun s c => s.setCmd (c.fail code elem)) s

/-- A member reads what it contributes (log 47, DEDUCED). -/
def collRead (op : Nat) (cs : List Cmd) (c : Cmd) (s : State) : Host.Outcome State Fault Refusal :=
  let r := collGive op cs.length ((cs.map Cmd.id).idxOf c.id) c s
  match r.err with
  | none => .next (r.st.setCmd { r.note c with phase := 1, upto := 0, data := r.data, elems := 0 })
  | some (.fault code spent) => .next (collFail cs code 0 (r.st.pay spent))
  | some (.data pa spent) => .next (collFail cs 0x3E 0 ((r.st.pay spent).poison pa))
  | some _ => r.settle c s id

/-- Every member has read: each gets what it is to write. -/
def collShare (op : Nat) (cs : List Cmd) (s : State) : State :=
  let gs := cs.map (Cmd.given op cs.length)
  cs.zipIdx.foldl (fun t x => t.setCmd
    { x.1 with phase := 2, data := collOut op (x.1.bits 0 43 3) (x.1.bits 0 27 16) x.2 gs }) s

/-- A member writes its elements. -/
def collWrite (c : Cmd) (s : State) : Host.Outcome State Fault Refusal :=
  let r := (Run.start c s).writes c (CoreId.valeIdx c.core) (c.word 3) (c.data.map fun x => valBytes x 4)
  r.settle c s fun d => { d with bytes := 4 * c.data.length }

/-- A collective of an operation: its members read once every member's command has started, and write once all have read (log 47,
DEDUCED). -/
def runColl (op : Nat) (k : Nat) (s : State) : Host.Outcome State Fault Refusal :=
  runCmd k (fun c => c.kind == some .coll && c.bits 0 46 3 == op) (fun c s =>
    if c.phase == 2 then collWrite c s
    else if s.voids.contains (c.dom, c.seq) then .next (s.setCmd (c.fail 0x32 0))
    else match s.collective c with
    | none => .next s
    | some cs =>
      if !agree cs then .next (collFail cs 0x32 0 s)
      else if c.phase == 0 then collRead op cs c s
      else if cs.all fun d => d.phase == 1 then .next (collShare op cs s)
      else .next s) s

/-- ALLREDUCE. -/
def execAllreduce (k : Nat) (s : State) : Host.Outcome State Fault Refusal := runColl 0 k s
/-- REDUCE. -/
def execReduce (k : Nat) (s : State) : Host.Outcome State Fault Refusal := runColl 1 k s
/-- BCAST. -/
def execBcast (k : Nat) (s : State) : Host.Outcome State Fault Refusal := runColl 2 k s
/-- ALLGATHER. -/
def execAllgather (k : Nat) (s : State) : Host.Outcome State Fault Refusal := runColl 3 k s
/-- ALLTOALL. -/
def execAlltoall (k : Nat) (s : State) : Host.Outcome State Fault Refusal := runColl 4 k s

end Sys2Proof.Machine
end

