-- ==== Sys2Proof/Machine/Crypto.lean ====
section
/-! DEFINITION. The standard algorithms that the spec names by their standards: SHAKE256 (16 R479, 17 R501), Ed448ph (17 R502) and
AES-256-GCM (13 R425). -/

namespace Sys2Proof.Machine

open Sys2Proof

/-! ## SHAKE256, over a state of 1,600 bits: five planes of five lanes, lane x of plane y at bit 64 (x + 5 y) -/

abbrev Sponge := BitVec 1600

/-- The five lanes of a plane, each turned left by one bit. -/
def turnLanes (p : BitVec 320) : BitVec 320 :=
  (List.range 5).foldl (fun q x => q ||| ((p.extractLsb' (64 * x) 64).rotateLeft 1).setWidth 320 <<< (64 * x)) 0

/-- Every plane of a state by one function. -/
def Sponge.planes (a : Sponge) (f : BitVec 320 → BitVec 320) : Sponge :=
  (List.range 5).foldl (fun b y => b ||| (f (a.extractLsb' (320 * y) 320)).setWidth 1600 <<< (320 * y)) 0

/-- Every lane takes the parities of the column before it and, one bit round, of the column after it. -/
def Sponge.mixColumns (a : Sponge) : Sponge :=
  let parity := (List.range 5).foldl (fun q y => q ^^^ a.extractLsb' (320 * y) 320) 0
  a.planes fun p => p ^^^ (parity.rotateLeft 64 ^^^ turnLanes (parity.rotateRight 64))

/-- The lanes move along the walk (x, y) → (y, 2x + 3y) from (1, 0) on; the lane of step t turns by the t-th triangular number. -/
def Sponge.walkLanes (a : Sponge) : Nat → Nat → Nat → Nat → Sponge → Sponge
  | 0, _, _, _, b => b
  | n + 1, t, x, y, b =>
    let y' := (2 * x + 3 * y) % 5
    let moved := (a.extractLsb' (64 * (x + 5 * y)) 64).rotateLeft (t * (t + 1) / 2 % 64)
    a.walkLanes n (t + 1) y y' (b ||| moved.setWidth 1600 <<< (64 * (y + 5 * y')))

/-- The bits of the register x⁸ + x⁶ + x⁵ + x⁴ + 1 in a round, bit j at place 2ʲ − 1 of the constant; and the register after them. -/
def roundBits : Nat → Nat → Nat → Nat → Nat × Nat
  | 0, _, r, k => (k, r)
  | n + 1, j, r, k =>
    roundBits n (j + 1) (r * 2 % 256 ^^^ (r / 128) * 0x71) (if r % 2 == 1 then k ||| 1 <<< (2 ^ j - 1) else k)

/-- One round, and the register of its constants. -/
def keccakStep (x : Sponge × Nat) : Sponge × Nat :=
  let m := x.1.mixColumns
  let w := m.walkLanes 24 1 1 0 (m &&& BitVec.ofNat 1600 (2 ^ 64 - 1))
  let k := roundBits 7 0 x.2 0
  ((w.planes fun p => p ^^^ (~~~(p.rotateRight 64) &&& p.rotateRight 128)) ^^^ BitVec.ofNat 1600 k.1, k.2)

/-- The permutation: 24 rounds. -/
def Sponge.permute (a : Sponge) : Sponge := ((List.range 24).foldl (fun x _ => keccakStep x) (a, 1)).1

/-- A number of little-endian bytes. -/
def leNumber (bs : List Byte) : Nat := bs.foldr (fun b n => b.toNat + 256 * n) 0

/-- n bytes of SHAKE256 of a message, n at most 136: blocks of 136 bytes are absorbed, the last with the suffix 1111 and the padding. -/
def shake256 (m : List Byte) (n : Nat) : List Byte :=
  let room := 136 - m.length % 136
  let p := leNumber m + (0x1F <<< (8 * m.length)) + (0x80 <<< (8 * (m.length + room - 1)))
  let a := (List.range ((m.length + room) / 136)).foldl
    (fun (a : Sponge) i => (a ^^^ BitVec.ofNat 1600 (p / 2 ^ (1088 * i) % 2 ^ 1088)).permute) 0
  (List.range n).map fun i => a.extractLsb' (8 * i) 8

/-- SHA3-512 of a message: blocks of 72 bytes, the last with the suffix 01 and the padding (20 R532). -/
def sha3 (m : List Byte) : List Byte :=
  let room := 72 - m.length % 72
  let p := leNumber m + (0x06 <<< (8 * m.length)) + (0x80 <<< (8 * (m.length + room - 1)))
  let a := (List.range ((m.length + room) / 72)).foldl
    (fun (a : Sponge) i => (a ^^^ BitVec.ofNat 1600 (p / 2 ^ (576 * i) % 2 ^ 576)).permute) 0
  (List.range 64).map fun i => a.extractLsb' (8 * i) 8

/-! ## Ed448 and Ed448ph (17 R502; 20 R532) -/

/-- The prime of the field, and the order of the base point. -/
def edP : Nat := 2 ^ 448 - 2 ^ 224 - 1
def edL : Nat := 2 ^ 446 - 13818066809895115352007386748515426880336692474882178609894547503885

/-- A point of the curve x² + y² = 1 − 39081 x² y², with a common denominator. -/
structure EdPoint where
  x : Nat
  y : Nat
  z : Nat

def edBase : EdPoint :=
  { x := 224580040295924300187604334099896036246789641632564134246125461686950415467406032909029192869357953282578032075146446173674602635247710
    y := 298819210078481492676017930443930673437544040154080242095928241372331506189835876003536878655418784733982303233503462500531545062832660
    z := 1 }

/-- The sum of two points, for any two. -/
def EdPoint.add (u w : EdPoint) : EdPoint :=
  let f := fun (n : Nat) => n % edP
  let z := f (u.z * w.z)
  let xx := f (u.x * w.x)
  let yy := f (u.y * w.y)
  let t := f (39081 * f (xx * yy))
  let zz := f (z * z)
  let cross := f ((u.x + u.y) * (w.x + w.y)) + 2 * edP - xx - yy
  { x := f (f (z * (zz + t)) * cross), y := f (f (z * (zz + edP - t)) * (yy + edP - xx)), z := f ((zz + t) * (zz + edP - t)) }

/-- The multiple of the base point by the low n bits of a number. -/
def edMul (k : Nat) : Nat → EdPoint
  | 0 => ⟨0, 1, 1⟩
  | n + 1 =>
    let r := edMul (k / 2) n
    let q := r.add r
    if k % 2 == 1 then q.add edBase else q

/-- A power in the field, by the low n bits of the exponent. -/
def edPow (a e : Nat) : Nat → Nat
  | 0 => 1
  | n + 1 => let r := edPow a (e / 2) n; (if e % 2 == 1 then r * r % edP * a else r * r) % edP

/-- The 57 bytes of a point: y, and the low bit of x highest. -/
def EdPoint.bytes (u : EdPoint) : List Byte :=
  let inv := edPow u.z (edP - 2) 448
  let n := u.y * inv % edP + (u.x * inv % edP % 2) <<< 455
  (List.range 57).map fun i => BitVec.ofNat 8 (n >>> (8 * i))

/-- The scalar of a private key and the prefix of its signatures. -/
def edExpand (sk : List Byte) : Nat × List Byte :=
  let h := shake256 sk 114
  let n := leNumber (h.take 56)
  (n / 4 * 4 % 2 ^ 447 + 2 ^ 447, h.drop 57)

/-- The public key of a private key. -/
def edPublic (sk : List Byte) : List Byte := (edMul (edExpand sk).1 448).bytes

/-- The signature of a message, or of its hash as the flag of Ed448ph says, under an empty context: 114 bytes. -/
def edSignBy (flag : Byte) (sk ph : List Byte) : List Byte :=
  let (a, pre) := edExpand sk
  let dom : List Byte := [0x53, 0x69, 0x67, 0x45, 0x64, 0x34, 0x34, 0x38, flag, 0]
  let r := leNumber (shake256 (dom ++ pre ++ ph) 114) % edL
  let point := (edMul r 446).bytes
  let k := leNumber (shake256 (dom ++ point ++ edPublic sk ++ ph) 114) % edL
  let s := (r + k * a) % edL
  point ++ (List.range 57).map fun i => BitVec.ofNat 8 (s >>> (8 * i))

/-- The signature of Ed448ph (17 R502), and of Ed448 (20 R532). -/
def edSignPh (sk msg : List Byte) : List Byte := edSignBy 1 sk (shake256 msg 64)
def edSign (sk msg : List Byte) : List Byte := edSignBy 0 sk msg

/-! ## AES-256 -/

/-- Multiplication by x in the field of AES. -/
def xtime (b : Byte) : Byte := (b <<< 1) ^^^ (if b.getLsbD 7 then 0x1B else 0)

/-- The product in the field of AES, over the low n bits of b. -/
def gmul (a b : Byte) : Nat → Byte
  | 0 => 0
  | n + 1 => (if b.getLsbD 0 then a else 0) ^^^ gmul (xtime a) (b >>> 1) n

/-- The inverse in the field, a to the 254th power; 0 for 0. -/
def ginv (a : Byte) : Byte :=
  let sq := fun (x : Byte) => gmul x x 8
  let a2 := sq a
  let a4 := sq a2
  let a8 := sq a4
  let a16 := sq a8
  let a32 := sq a16
  let a64 := sq a32
  let a128 := sq a64
  gmul a2 (gmul a4 (gmul a8 (gmul a16 (gmul a32 (gmul a64 a128 8) 8) 8) 8) 8) 8

/-- The substitution box. -/
def sbox (a : Byte) : Byte :=
  let b := ginv a
  b ^^^ b.rotateLeft 1 ^^^ b.rotateLeft 2 ^^^ b.rotateLeft 3 ^^^ b.rotateLeft 4 ^^^ 0x63

/-- The next word of the key schedule from the i words before it, newest first. -/
def keyWord (i : Nat) (ws : List (List Byte)) : List Byte :=
  let prev := ws.headD []
  let t := if i % 8 == 0 then
      let r := (prev.drop 1 ++ prev.take 1).map sbox
      let rc := (List.range (i / 8 - 1)).foldl (fun x _ => xtime x) 1
      r.mapIdx fun j b => if j == 0 then b ^^^ rc else b
    else if i % 8 == 4 then prev.map sbox else prev
  (t.zip (ws.getD 7 [])).map fun p => p.1 ^^^ p.2

/-- The 60 words of the key schedule, oldest first. -/
def keySchedule (key : List Byte) : List (List Byte) :=
  let w0 := (List.range 8).map fun i => (key.drop (4 * i)).take 4
  ((List.range 52).foldl (fun ws i => keyWord (i + 8) ws :: ws) w0.reverse).reverse

def xorBytes (a b : List Byte) : List Byte := (a.zip b).map fun p => p.1 ^^^ p.2

/-- Row r, column c of the state is byte r + 4c. -/
def shiftRows (st : List Byte) : List Byte := (List.range 16).map fun i => st.getD (i % 4 + 4 * ((i / 4 + i % 4) % 4)) 0

def mixColumn (c : List Byte) : List Byte :=
  (List.range 4).map fun r =>
    gmul (c.getD r 0) 2 8 ^^^ gmul (c.getD ((r + 1) % 4) 0) 3 8 ^^^ c.getD ((r + 2) % 4) 0 ^^^ c.getD ((r + 3) % 4) 0

def mixColumns (st : List Byte) : List Byte := (List.range 4).flatMap fun c => mixColumn ((st.drop (4 * c)).take 4)

/-- The encryption of one block of 16 bytes. -/
def aesBlock (ks : List (List Byte)) (b : List Byte) : List Byte :=
  let rk := fun (i : Nat) => ((ks.drop (4 * i)).take 4).flatten
  let st := (List.range 13).foldl (fun st i => xorBytes (mixColumns (shiftRows (st.map sbox))) (rk (i + 1))) (xorBytes b (rk 0))
  xorBytes (shiftRows (st.map sbox)) (rk 14)

/-! ## GCM -/

/-- A block as a number, byte 0 highest. -/
def beVal (bs : List Byte) : Nat := bs.foldl (fun n b => n * 256 + b.toNat) 0
def beBytes (x n : Nat) : List Byte := (List.range n).map fun i => BitVec.ofNat 8 (x / 256 ^ (n - 1 - i))

/-- The product of GHASH; bit 0 of a block is its highest. -/
def ghashMul (x y : Nat) : Nat :=
  ((List.range 128).foldl (fun (p : Nat × Nat) i =>
    (if x.testBit (127 - i) then p.1 ^^^ p.2 else p.1,
     if p.2 % 2 == 1 then p.2 / 2 ^^^ 0xE1 * 2 ^ 120 else p.2 / 2)) (0, y)).1

/-- Blocks of 16 bytes, the last filled with zeros. -/
def blocks16 (m : List Byte) : List (List Byte) :=
  (List.range ((m.length + 15) / 16)).map fun i =>
    let b := (m.drop (16 * i)).take 16
    b ++ List.replicate (16 - b.length) 0

/-- AES-256-GCM with an IV of 12 bytes: the text enciphered (or deciphered: the same stream), and the tag over
additional data and a ciphertext. -/
def gcmStream (key iv text : List Byte) : List Byte :=
  let ks := keySchedule key
  ((blocks16 text).mapIdx fun i b => xorBytes b (aesBlock ks (iv ++ beBytes (i + 2) 4))).flatten.take text.length

def gcmTag (key iv aad cipher : List Byte) : List Byte :=
  let ks := keySchedule key
  let h := beVal (aesBlock ks (List.replicate 16 0))
  let lens := beBytes (8 * aad.length) 8 ++ beBytes (8 * cipher.length) 8
  let g := (blocks16 aad ++ blocks16 cipher ++ [lens]).foldl (fun y b => ghashMul (y ^^^ beVal b) h) 0
  xorBytes (beBytes g 16) (aesBlock ks (iv ++ beBytes 1 4))

end Sys2Proof.Machine
end

