-- ==== Sys2Proof/Machine/Lease.lean ====
section
/-! DEFINITION. Descriptor pairs, leases on the vale array, plates and claims: MLEASE, MREL, MWLD, MWLDS, and the arbiter's
steps (08 R282 to R304; 18 R504). -/

namespace Sys2Proof.Machine

open Sys2Proof

/-! ## Causes of M (R289, 13 R400) -/

/-- A descriptor fault of M: failing check and pair. -/
def pairFault (s : State) (k : Fin 4) (check : Nat) : Stop := .trap (causeAt s .m 0x20 (check + k.val <<< 4))
/-- A plate fault: 1 no valid claim, 2 no match, 3 width. -/
def plateFault (s : State) (n : Nat) : Stop := .trap (causeAt s .m 0x21 n)
def rangeFault (s : State) : Stop := .trap (causeAt s .m 0x22 0)
def typeFault (s : State) : Stop := .trap (causeAt s .m 0x23 0)
def withheldFault (s : State) : Stop := .trap (causeAt s .m 0x24 0)

/-! ## Descriptor pairs (R286, R287) -/

/-- The two registers of a pair as M sees them (06 R242). -/
def State.pairRead (s : State) (k : Fin 4) : Word × Word × State :=
  let (x, s1) := s.descRead ⟨2 * k.val, by omega⟩
  let (y, s2) := s1.descRead ⟨2 * k.val + 1, by omega⟩
  (x, y, s2)

/-- Tile t of a pair. -/
def tileRef (x y : Word) (t : Nat) : TileRef :=
  { off := (x.extractLsb' 0 23).toNat + t * (y.extractLsb' 23 23).toNat
    rp := (y.extractLsb' 0 23).toNat
    rot := (y.extractLsb' 46 5).toNat }

/-- The checks of R287 on rows 0 to n − 1 of len bytes: the number of the first that fails. -/
def pairCheck (spw x y : Word) (t n len : Nat) : Option Nat :=
  let r := tileRef x y t
  let last := r.off + (n - 1) * r.rp
  if x.extractLsb' 23 41 != 0 || y.extractLsb' 51 13 != 0 then some 1
  else if (x.extractLsb' 0 23).toNat % 64 != 0 || r.rp % 64 != 0 || (y.extractLsb' 23 23).toNat % 64 != 0 then some 2
  else if r.rot != 0 && (r.rp % 2048 != 0 || 2048 < len) then some 3
  else if 2 ^ 23 < last + len then some 4
  else if inWindow spw r.off && inWindow spw (last + len - 1) then none
  else some 5

/-- A checked tile of a pair: rows 0 to n − 1 of len bytes. -/
def State.pairTile (s : State) (k : Fin 4) (t n len : Nat) : Except Stop (TileRef × State) :=
  let (x, y, s1) := s.pairRead k
  match pairCheck s.core.cr.spw x y t n len with
  | some c => .error (pairFault s k c)
  | none => .ok (tileRef x y t, s1)

/-- The scratch offset of the 64-byte line at byte i of row r. -/
def TileRef.line (d : TileRef) (r i : Nat) : Nat := rotAddr ((d.off + r * d.rp + i) % 2 ^ 23) r d.rot

/-- A read of n bytes that lie together, in 4-byte atomic pieces where writes are unordered toward M (R288). -/
def readSpan (s : State) (p : Party) (pa n : Nat) : List Byte × Party × State :=
  if (newerThan (p.view ||| p.floor) pa n s.hist).isEmpty then
    let r := readPiece s p pa n
    (r.bytes, r.party, r.st)
  else readPieces s p pa 4 (n / 4)

/-- Reads k lines of a row by M, from byte i on. -/
def readLines (d : TileRef) (r : Nat) : Nat → Nat → State → Except Stop (List Byte × State)
  | 0, _, s => .ok ([], s)
  | k + 1, i, s => do
    let pa := scratchCell s.valeIdx (d.line r i)
    let s ← s.okRead .m pa 64
    let (bs, p, s1) := readSpan s (s.party .m) pa 64
    let (cs, s2) ← readLines d r k (i + 64) (s1.setParty .m p)
    .ok (bs ++ cs, s2)

/-- The 256 bytes of row r of a tile. -/
def readRow (d : TileRef) (r : Nat) (s : State) : Except Stop (Block × State) := do
  let (bs, s1) ← readLines d r 4 0 s
  .ok (BitVec.ofNat 2048 (bytesVal bs), s1)

/-- The 8 containers at the start of row r of a scale tile (R307). -/
def readConts (d : TileRef) (r : Nat) (s : State) : Except Stop (BitVec 128 × State) := do
  let pa := scratchCell s.valeIdx (d.line r 0)
  let s ← s.okRead .m pa 16
  let (bs, p, s1) := readSpan s (s.party .m) pa 16
  .ok (BitVec.ofNat 128 (bytesVal bs), s1.setParty .m p)

/-! ## Tags (R299, 18 R504) -/

/-- Every byte of a line of scratch of the own vale lies in a record of a sealed object. -/
def State.lineHeld (s : State) (x o n : Nat) : Bool :=
  (List.range n).all fun i => s.copies.any fun c => c.vale == s.valeIdx && c.ident == x &&
    c.ranges.any fun r => r.1 ≤ o + i && o + i < r.1 + r.2

/-- The lines of rows 0 to n − 1 of a tile, len bytes each, as (offset, bytes). -/
def TileRef.lines (d : TileRef) (n len : Nat) : List (Nat × Nat) :=
  (List.range n).flatMap fun r => (List.range ((len + 63) / 64)).map fun i => (d.line r (64 * i), min 64 (len - 64 * i))

/-- The sealed object that holds every byte of a plate and its scales. -/
def State.sealedIdent (s : State) (lines : List (Nat × Nat)) : Option Nat :=
  ((s.copies.filter fun c => c.vale == s.valeIdx).map ImageRec.ident).find? fun x => lines.all fun l => s.lineHeld x l.1 l.2

/-- Rows of a plate of an element width. -/
def plateRows (wide : Bool) : Nat := if wide then 128 else 256

/-- The tag of a plate. -/
def State.tagOf (s : State) (rows : TileRef) (wide : Bool) (scales : Option TileRef) : PlateTag :=
  let ls := rows.lines (plateRows wide) 256 ++ (match scales with
    | some d => d.lines 8 512
    | none => [])
  ⟨rows, wide, scales, s.sealedIdent ls⟩

/-- The width of an entry's BFMT is 16 bits (R302). -/
def fmtWide (c : BitVec 6) : Bool := c == 1 || c == 2

/-- R80 for an instruction that streams operands through the array: the failing check. -/
def arrayFmtCheck (x : BitVec 20) : Option Nat :=
  match Fmt.ofCode (fmtA x), Fmt.ofCode (fmtB x), Fmt.ofCode (fmtO x) with
  | some a, some b, some _ =>
    if !((a.isB8 && b.isB8) || (a == b && (a == .i8 || a == .bf16 || a == .f16))) then some 2
    else if fmtScm x && !a.isB8 then some 3
    else none
  | _, _, _ => some 1

/-- The active entry of an array instruction, valid under R80. -/
def State.arrayFmt (s : State) : Except Stop (BitVec 20 × State) :=
  let (i, x, s1) := s.fmtEntry .m
  match arrayFmtCheck x with
  | some c => .error (fmtCause s .m i c)
  | none => .ok (x, s1)

/-- The claim of a core matches the resident plate (R299). -/
def claimMatches (r : Regs) (p : Option Plate) : Bool :=
  match r.claim, p with
  | some t, some q => t == q.tag && (t.ident.isSome || r.claimOwn)
  | _, _ => false

/-! ## Fetching a plate (R300, R302, R304) -/

/-- Reads the rows of a plate. -/
def readPlateRows (d : TileRef) : Nat → Nat → State → Except Stop (List Block × State)
  | 0, _, s => .ok ([], s)
  | k + 1, r, s => do
    let (x, s1) ← readRow d r s
    let (xs, s2) ← readPlateRows d k (r + 1) s1
    .ok (x :: xs, s2)

/-- Reads scale rows of 512 bytes: 256 containers each. -/
def readScaleRows (d : TileRef) : Nat → Nat → State → Except Stop (List (BitVec 4096) × State)
  | 0, _, s => .ok ([], s)
  | k + 1, r, s => do
    let (bs, s1) ← readLines d r 8 0 s
    let (xs, s2) ← readScaleRows d k (r + 1) s1
    .ok (BitVec.ofNat 4096 (bytesVal bs) :: xs, s2)

/-- The containers of a plate without scales: 0x00FE. -/
def unitScales : List (BitVec 4096) := List.replicate 8 (BitVec.ofNat 4096 (packLanes 16 (fun _ => 0xFE) 256))

/-- The occupancy of a fetch (log 39, DEDUCED). -/
def fetchCycles (t : PlateTag) : Nat := (if t.wide then 32 else 64) + (if t.scales.isSome then 4 else 0)

/-- The next checksum failure of a vale's array that a test admits, and the failures after it (log 18, DESIGN CHOICE). -/
def takeFlaw (p : Config.Flaw → Option Bool) : List Config.Flaw → Option (Bool × List Config.Flaw)
  | [] => none
  | x :: xs =>
    match p x with
    | some b => some (b, xs)
    | none => (takeFlaw p xs).map fun r => (r.1, x :: r.2)

def plateFlaw (v : Nat) : Config.Flaw → Option Bool
  | .plate u b => if u == v then some b else none
  | _ => none

def rowFlaw (v : Nat) : Config.Flaw → Option Bool
  | .row u b => if u == v then some b else none
  | _ => none

/-- The cores of the vale that wait in a plate-form MLEASE with an equal tag: the beneficiaries of a fetch (R300). -/
def State.beneficiaries (s : State) (t : PlateTag) : List Nat :=
  if t.ident.isNone then []
  else (s.cores.filter fun c => CoreId.valeIdx c.id == s.valeIdx && c.id != s.core.id && c.r.lease.req &&
    c.r.lease.plate == some t).map fun c => c.id.core

/-- The cores of a vale. -/
def State.valeCores (s : State) (v : Nat) : List Core := s.cores.filter fun c => CoreId.valeIdx c.id == v

/-- A sealed plate's fetch ends, or is cut off for good: the cycles held for it are split (R300; 17 R491, R492). -/
def State.endFetch (s : State) (v : Nat) : State :=
  match (s.vale v).sfetch with
  | none => s
  | some f => (s.splitWork v 0 5 f.spent f.bens).modVale v fun x => { x with sfetch := none }

/-- The owners who share a sealed plate's fetch, as (core, account) (R300; 17 R492). -/
def State.fetchers (s : State) (bens : List Nat) : List (Nat × Nat) :=
  (s.valeCores s.valeIdx).filterMap fun c =>
    if bens.contains c.id.core || c.id == s.core.id then some (c.id.core, c.cr.acctid.toNat) else none

/-- Who claims what once the core in focus has fetched a plate: it and the beneficiaries claim its tag, and no core but it is the one
that the resident plate was fetched for (R299, R300). -/
def State.claimPlate (s : State) (t : PlateTag) (bens : List Nat) : State :=
  let here := fun (c : Core) => CoreId.valeIdx c.id == s.valeIdx
  let s1 := s.mapHeld fun c => if here c then { c with r := { c.r with claimOwn := false } } else c
  s1.mapCores fun c =>
    if here c && (bens.contains c.id.core || c.id == s.core.id) then
      { c with r := { c.r with claim := some t, claimOwn := c.id == s.core.id } }
    else c

/-- The core in focus fetches a plate into its vale's array, its claim. A checksum that fails is fetched once more; one that fails
twice marks the plate failed (R304). Whether it has been fetched once more: the second fetch is no rerun that RRN counts (log 85, DESIGN
CHOICE). -/
def State.fetchPlate (s : State) (t : PlateTag) : Except Stop (Bool × State) := do
  let (rows, s1) ← readPlateRows t.rows (plateRows t.wide) 0 s
  let (sc, s2) ← match t.scales with
    | some d => if t.wide then .ok (unitScales, s1) else readScaleRows d 8 0 s1
    | none => .ok (unitScales, s1)
  let v := s.valeIdx
  let bens := s.beneficiaries t
  let s3 := (s2.claimPlate t bens).endFetch v
  let put := fun (u : State) (failed : Bool) => u.modVale v fun x =>
    { x with
      plate := some ⟨t, rows, sc, failed⟩
      sfetch := if t.ident.isSome then some ⟨s.core.id.core, fetchCycles t, 0, s.fetchers bens⟩ else none }
  match takeFlaw (plateFlaw v) s3.flaws with
  | none => .ok (false, put s3 false)
  | some (twice, fs) =>
    let s4 := { s3 with flaws := fs }
    .ok (true, if twice then (put s4 true).alert (0x4000 + v) 3 [3, 0, 1] else put s4 false)

/-- The array reruns for n cycles, while M stalls (R285, R304, R308). -/
def State.arrayRerun (s : State) (n : Nat) : State :=
  (s.modEng .m fun x => { x with replay := n }).modR fun r => { r with lease := { r.lease with rerun := n } }

/-! ## The lease (R291 to R298) -/

/-- M waits for the lease: it requests it (R292). -/
def noteReq (o : Host.Outcome State Fault Refusal) : Host.Outcome State Fault Refusal :=
  match o with
  | .next t =>
    if (t.eng .m).wait == .lease && !t.core.r.lease.held then
      .next (t.modR fun r => { r with lease := { r.lease with req := true } })
    else .next t
  | o => o

/-- Issue of an M instruction. -/
def issueM (words : Nat) (m : Marks) (body : State → Except Stop Done) (s : State) : Host.Outcome State Fault Refusal :=
  noteReq (issue .m words m body s)

/-- A counted command counts in its lease (R291). -/
def State.countCommand (s : State) : State := s.modR fun r => { r with lease := { r.lease with cnt := r.lease.cnt + 1 } }

/-- A counted command needs the lease, and counts in it. -/
def needLease (s : State) : Except Stop State := do
  orStall s.core.r.lease.held .lease
  .ok s.countCommand

/-- M occupies its issue slot for n cycles, this one the first (R283). -/
def State.occupy (s : State) (kind : OccKind) (n : Nat) : State :=
  if n ≤ 1 then s else s.modR fun r => { r with occ := some ⟨s.pcOf .m, 1, n, kind⟩ }

/-- A plate is resident, so that nothing is fetched for it: by its sealed identity, or, for a plate-form MLEASE, as the plate fetched for
this core's claim (R299, R302). -/
def State.plateHere (s : State) (t : PlateTag) (own : Bool) : Bool :=
  match (s.vale s.valeIdx).plate with
  | some p => t == p.tag && (t.ident.isSome || (own && s.core.r.claimOwn && s.core.r.claim == some t))
  | none => false

/-- A plate becomes the claim: by its sealed identity where it is resident, else by a fetch. -/
def loadPlate (t : PlateTag) (own : Bool) (s : State) : Except Stop Done := do
  if s.plateHere t own then
    .ok { st := (s.modR fun r => { r with claim := some t }).occupy .fetch (if own then 1 else 2), lat := if own then 1 else 2 }
  else
    let (again, s1) ← s.fetchPlate t
    let s2 := if again then s1.arrayRerun (fetchCycles t) else s1
    .ok { st := s2.occupy .fetch (fetchCycles t), lat := fetchCycles t }

/-- The plate that an array instruction names, its pairs checked (R287, R302). -/
def plateOf (s : State) (p : Fin 4) (sc : Option (Fin 4)) (t : Tile) : Except Stop (PlateTag × State) := do
  let (x, s1) ← s.arrayFmt
  let wide := fmtWide (fmtB x)
  let n := s1.tileNum t
  let (rows, s2) ← s1.pairTile p n (plateRows wide) 256
  match sc with
  | none => .ok (s2.tagOf rows wide none, s2)
  | some k =>
    let (d, s3) ← s2.pairTile k n 8 512
    .ok (s3.tagOf rows wide (some d), s3)

/-- A vale's array switches, or reruns a grant's refetch, in this cycle. -/
def Vale.switching (x : Vale) : Bool := x.use == .switch || x.use == .rerun

/-- This is the last of a grant's switching cycles: the vale's array is granted at its end. -/
def State.grantDue (s : State) (v : Nat) : Bool :=
  match (s.vale v).grant with
  | some g => g.left ≤ 1 && (s.vale v).switching
  | none => false

/-- The core in focus is granted the array in this cycle: no claim of its own is refetched first (R293). An MLEASE that fetches nothing
issues in it, so that M's next instruction issues in the cycle after the grant (R297; log 39, DEDUCED). -/
def State.grantNow (s : State) : Bool :=
  let x := s.vale s.valeIdx
  s.core.r.lease.req && s.grantDue s.valeIdx && (x.grant.map Grant.core) == some s.core.id.core &&
    (s.core.r.lease.plate.isSome || s.core.r.claim.isNone || claimMatches s.core.r x.plate)

/-- MLEASE without a plate (R297). -/
def execMlease (m : Marks) (s : State) : Host.Outcome State Fault Refusal :=
  issueM 1 m (fun t => do
    orStall (t.core.r.lease.held || t.grantNow) .lease
    .ok { st := t }) s

/-- The plate that a waiting plate-form MLEASE asked for joins its request (R297). -/
def notePlate (t : Option PlateTag) (o : Host.Outcome State Fault Refusal) : Host.Outcome State Fault Refusal :=
  match o with
  | .next u =>
    if (u.eng .m).wait == .lease && !u.core.r.lease.held && u.core.r.lease.plate.isNone then
      .next (u.modR fun r => { r with lease := { r.lease with plate := t } })
    else .next u
  | o => o

/-- MLEASE with a plate (R297): the tag is read and checked at the first attempt; after the grant it is fetched unless it
matches. -/
def execMleasePlate (m : Marks) (p : Fin 4) (sc : Option (Fin 4)) (t : Tile) (s : State) :
    Host.Outcome State Fault Refusal :=
  let tag := match issueRun .m 1 m (fun u => do
      let (x, u1) ← plateOf u p sc t
      .ok { st := u1.modR fun r => { r with lease := { r.lease with plate := some x } } }) s with
    | .ok u => u.core.r.lease.plate
    | .error _ => none
  notePlate tag (issueM 1 m (fun u => do
    let l := u.core.r.lease
    match l.held, l.plate with
    | true, some x =>
      loadPlate x true (u.countCommand.modR fun r => { r with lease := { r.lease with plate := none } })
    | true, none =>
      let u ← needLease u
      let (x, u1) ← plateOf u p sc t
      loadPlate x false u1
    | false, some x =>
      orStall (u.grantNow && u.plateHere x true) .lease
      loadPlate x true (u.countCommand.modR fun r => { r with lease := { r.lease with plate := none } })
    | false, none =>
      let (_, _) ← plateOf u p sc t
      .error (.stall .lease)) s)

/-- The lease of the core in focus ends (R294): no core holds the array. -/
def State.endLease (s : State) : State :=
  (s.modR fun r => { r with lease := { r.lease with held := false, cnt := 0 } }).modVale s.valeIdx fun v =>
    if v.holder == some s.core.id.core then { v with holder := none, idle := 0 } else v

/-- MREL (R298): M's earlier array commands have streamed when it issues. -/
def execMrel (m : Marks) (s : State) : Host.Outcome State Fault Refusal :=
  issueM 1 m (fun t => .ok { st := if t.core.r.lease.held then t.endLease else t }) s

/-- MWLD (R302). -/
def execMwld (m : Marks) (x : Bool) (p : Fin 4) (t : Tile) (s : State) : Host.Outcome State Fault Refusal :=
  issueM (xWords x) m (fun u => do
    let u ← needLease u
    let (tag, u1) ← plateOf u p none t
    loadPlate tag false u1) s

/-- MWLDS (R302). -/
def execMwlds (m : Marks) (x : Bool) (p sc : Fin 4) (t : Tile) (s : State) : Host.Outcome State Fault Refusal :=
  issueM (xWords x) m (fun u => do
    let u ← needLease u
    let (tag, u1) ← plateOf u p (some sc) t
    loadPlate tag false u1) s

/-! ## The arbiter (R293 to R296) -/

/-- A core that runs requests its vale's array. -/
def Core.asks (c : Core) : Bool := c.st == .running && c.r.lease.req

/-- Some core of a vale other than one requests its array. -/
def State.otherReq (s : State) (v : Nat) (core : Nat) : Bool :=
  (s.valeCores v).any fun c => c.id.core != core && c.asks

/-- The first requesting core after the pointer, wrapping. -/
def State.nextReq (s : State) (v : Nat) : Option Nat :=
  let p := (s.vale v).pointer
  ((List.range 8).map fun i => (p + 1 + i) % 8).find? fun n => (s.valeCores v).any fun c => c.id.core == n && c.asks

/-- A core of a vale. -/
def State.coreOf (s : State) (v n : Nat) : Option Core := (s.valeCores v).find? fun c => c.id.core == n

/-- The rows of a core that the array carries. -/
def Regs.rowsCarried (r : Regs) : Nat :=
  r.eM.pend.countP fun p => match p.land with
    | .rowAcc _ _ _ _ _ => true
    | .rowWithheld _ => true
    | _ => false

/-- The cycles of a freeze save, and of the restore that undoes it (R295; log 45, DESIGN CHOICE). -/
def Regs.saveCycles (r : Regs) : Nat := 4 + r.rowsCarried

/-- The switching cycles of a grant: 4, and those of a restore where a freeze had cut the lease (R293, R295; log 45, DESIGN CHOICE). -/
def State.switchCycles (s : State) (v n : Nat) : Nat :=
  4 + (match s.coreOf v n with
    | some c => if c.r.lease.cut then c.r.saveCycles else 0
    | none => 0)

/-- The arbiter of a vale: a grant begins when nobody holds the array and no save occupies it (log 71, DEDUCED). -/
def State.arbitrate (s : State) (v : Nat) : State :=
  let x := s.vale v
  match x.holder, x.grant with
  | none, none =>
    if 0 < x.saving then s
    else match s.nextReq v with
      | none => s
      | some n => s.setVale v { x with grant := some ⟨n, s.switchCycles v n, 0⟩, pointer := n }
  | _, _ => s

/-- The lease passes to a core: a plate-form MLEASE's plate is its claim (R297). The count of a lease not held is 0, or 1 for an MLEASE
that has issued in this cycle. -/
def State.takeLease (s : State) (v : Nat) (c : CoreId) : State :=
  (s.onCore c fun u => u.modR fun r =>
    { r with
      claim := r.lease.plate.or r.claim
      claimOwn := if r.lease.plate.isSome && r.lease.plate != r.claim then false else r.claimOwn
      lease := { r.lease with held := true, req := false, cut := false } }).modVale v
    fun x => { x with holder := some c.core, grant := none, idle := 0, bud := x.leaseb }

/-- The refetch of a grant: its cycles, the rerun's after them, come before the grant; nobody shares it (R293, R301, R304). -/
def State.refetch (s : State) (v : Nat) (c : CoreId) (t : PlateTag) : State :=
  let n := fetchCycles t
  let (again, u) := match (s.focus c).fetchPlate t with
    | .ok (b, w) => (b, w)
    | .error (.trap x) =>
      let w := s.focus c
      (false, if w.core.cr.pending.any fun p => p.code == x.code && p.unit == x.unit then w else raise .m x w)
    | .error _ => (false, s.focus c)
  let more := if again then n else 0
  (u.focus s.core.id).modVale v fun x => { x with grant := some ⟨c.core, 1 + n + more, more⟩, sfetch := none }

/-- LEASE_GRANT (R293, R297): the switching cycles of a grant have run. A valid claim that does not match the resident
plate is refetched first; a plate-form MLEASE's plate replaces the claim. Then the core holds the lease. -/
def execLeaseGrant (v : Nat) (s : State) : Host.Outcome State Fault Refusal :=
  if !s.grantDue v then .next s
  else match (s.vale v).grant.bind fun g => s.coreOf v g.core with
    | none => .next (s.modVale v fun x => { x with grant := none })
    | some c =>
      match c.r.lease.plate, c.r.claim with
      | none, some t => .next (if claimMatches c.r (s.vale v).plate then s.takeLease v c.id else s.refetch v c.id t)
      | _, _ => .next (s.takeLease v c.id)

/-- M's long instruction is one of the array. -/
def Occ.ofArray (o : Occ) : Bool :=
  match o.kind with
  | .mma _ _ _ _ _ _ => true
  | .fetch => true
  | _ => false

/-- The array carries a command of a core: one that streams, or reruns. Rows that have streamed are on their way to their landings (R294;
log 81, DESIGN CHOICE). -/
def arrayBusy (r : Regs) : Bool := r.lease.carry != .nothing || 0 < r.lease.rerun

/-- What the array carries of the core in focus in M's cycle, from the states before and after it (R294, R301). -/
def carried (before after : Regs) (moved : Bool) : Carry :=
  if moved && before.lease.rerun != after.lease.rerun && before.lease.rerun != 0 then .rerun
  else if (before.occ.map Occ.ofArray).getD false || (after.occ.map Occ.ofArray).getD false ||
      before.lease.cnt < after.lease.cnt || before.lease.rerun != 0 || after.lease.rerun != 0 then .command
  else .nothing

/-- M's turn leaves what the array carries of its core. -/
def noteCarry (before after : State) : State :=
  after.modR fun r => { r with lease := { r.lease with carry := carried before.core.r r (before.core.st == .running) } }

/-- The array reruns work of a core of a vale in this cycle. -/
def State.rerunning (s : State) (v n : Nat) : Bool := ((s.coreOf v n).map fun c => c.r.lease.carry == .rerun).getD false

/-- The holder of a vale's array. -/
def State.holderCore (s : State) (v : Nat) : Option Core := (s.vale v).holder.bind fun n => s.coreOf v n

/-- One cycle's count of a lease in which the array carries nothing of its holder, whether or not another core requests
(log 81, DESIGN CHOICE). -/
def State.countIdle (s : State) (v : Nat) : State :=
  match s.holderCore v with
  | none => s
  | some c => s.modVale v fun x => { x with idle := if arrayBusy c.r || x.use != .lease c.id.core then 0 else x.idle + 1 }

/-- A lease has been idle for 64 cycles, this one among them, while another core requests (log 81, DESIGN CHOICE). -/
def State.idleDue (s : State) (v : Nat) : Bool :=
  match s.holderCore v with
  | none => false
  | some c => 63 ≤ (s.vale v).idle && !arrayBusy c.r && s.otherReq v c.id.core

/-- LEASE_IDLE_END (R294). -/
def execLeaseIdleEnd (v : Nat) (s : State) : Host.Outcome State Fault Refusal :=
  match s.holderCore v with
  | none => .next s
  | some c => .next (if s.idleDue v then s.onCore c.id State.endLease else s)

/-- The holder's BUD-th counted command is complete. -/
def State.budgetDue (s : State) (v : Nat) : Bool :=
  match s.holderCore v with
  | none => false
  | some c => (s.vale v).bud ≤ c.r.lease.cnt && c.r.occ.isNone && c.r.lease.rerun == 0

/-- LEASE_BUDGET_END (R294): the lease ends while another core requests; else the count starts again. -/
def execLeaseBudgetEnd (v : Nat) (s : State) : Host.Outcome State Fault Refusal :=
  match s.holderCore v with
  | none => .next s
  | some c =>
    .next (if !s.budgetDue v then s
      else s.onCore c.id fun u =>
        if s.otherReq v c.id.core then u.endLease
        else u.modR fun r => { r with lease := { r.lease with cnt := 0 } })

/-- The lease of the core in focus ends by a freeze: its rows, and what is left of a rerun, wait with it, and the save occupies the
array; M requests again when the core goes on (R295; log 45, DESIGN CHOICE; log 60, DEDUCED). -/
def State.cutLease (s : State) : State :=
  (s.endLease.modR fun r => { r with lease := { r.lease with cut := true } }).modVale s.valeIdx fun x =>
    { x with saving := s.core.r.saveCycles }

/-- LEASE_FREEZE_SAVE (R295): the core in focus freezes, or is frozen: while another core requests, its lease ends (log 45, DESIGN
CHOICE). -/
def State.freezeLease (s : State) : State :=
  if s.core.r.lease.held && s.otherReq s.valeIdx s.core.id.core then s.cutLease else s

/-- A core does not advance M: it is in the shadow context, or it has been stopped. -/
def Core.atRest (c : Core) : Bool := c.frozen || c.cr.shd || c.st == .stopped

/-- A frozen core holds an array that another core requests. -/
def State.freezeDue (s : State) (v : Nat) : Bool :=
  match s.holderCore v with
  | none => false
  | some c => c.atRest && s.otherReq v c.id.core

/-- LEASE_FREEZE_SAVE, where the other core's request comes after the freeze (R294, R295; log 45, DESIGN CHOICE). -/
def execFreezeSave (v : Nat) (s : State) : Host.Outcome State Fault Refusal :=
  match s.holderCore v with
  | none => .next s
  | some c => .next (if s.freezeDue v then s.onCore c.id State.freezeLease else s)

/-! ## One cycle of an array (R301) -/

/-- What the array did in the cycle that ends: a grant that has begun in a cycle in which nobody held it switches from that cycle
on. -/
def Vale.used (x : Vale) : ArrayUse := if x.use == .idle && x.grant.isSome then .switch else x.use

/-- The array after its cycle, and what it does in the next. -/
def Vale.turnOver (x : Vale) : Vale :=
  let grant := if x.switching then x.grant.map fun (g : Grant) => { g with left := g.left - 1 } else x.grant
  let saving := if x.use == .switch then x.saving - 1 else x.saving
  let use : ArrayUse :=
    if 0 < saving then .switch
    else match grant, x.holder with
      | some g, _ => if g.left ≤ g.rerun then .rerun else .switch
      | none, some c => .lease c
      | none, none => .idle
  { x with grant := grant, saving := saving, use := use }

/-- The arbiter's part of the end of a cycle, before the cycle is booked. -/
def State.beginCount (s : State) (v : Nat) : State := (s.arbitrate v).modVale v fun x => { x with use := x.used }

/-- The array's part of the end of a cycle, after the cycle is booked. -/
def State.endCount (s : State) (v : Nat) : State := (s.countIdle v).modVale v Vale.turnOver

end Sys2Proof.Machine
end

