-- ==== Sys2Proof/Machine/Books.lean ====
section
/-! DEFINITION. The accounts: the booking of each cycle and byte, splits, the tick, conservation, pages and statements; and the
RDTM group (17 R485 to R503; 06 R223 to R226; 01 R62; 09 R359). -/

namespace Sys2Proof.Machine

open Sys2Proof

/-! ## One cycle (R489, R490) -/

/-- A core does what books to SWITCH: it had stopped at the beginning of the cycle and is being saved (13 R422), or the package enters or
leaves the hollow state (21 R549). -/
def State.saving (s : State) (c : Core) : Bool :=
  c.still && (c.st == .running || (c.st == .stopped && ((s.gang c.launch).map fun g => g.st == .stopping && g.fault.isNone).getD false))

/-- A core has work of its gang: it runs, or it has stopped with a gang that has not come to its end (R62, R490). -/
def State.engaged (s : State) (c : Core) : Bool :=
  c.st == .running ||
    (c.st == .stopped && ((s.gang c.launch).map fun g => !g.ended && (g.st == .running || g.st == .stopping)).getD false)

/-- The five engines of a core book. -/
def Books.bookFive (b : Books) (c : CoreId) (acct : Nat → Nat) : Books :=
  (List.range 5).foldl (fun b k => b.book k (coreNum c) (acct k)) b

/-- An engine stalls in a replay in this cycle: in the shadow context C alone (21 R538). -/
def Core.replays (c : Core) (k : Nat) : Bool :=
  match engOfNum k with
  | some e => (c.eng e).redo && c.st == .running && (!c.cr.shd || e == .c)
  | none => false

/-- The cycles of the engines of a core, but of one that has booked its cycle already (R62, R188; R489). -/
def bookEngines (saving : Bool) (c : Core) (b : Books) : Books :=
  if b.now.contains (0, coreNum c.id) then b
  else b.bookFive c.id fun k => if saving then SWITCH else if c.replays k then OVERHEAD else c.cr.acctid.toNat

/-- The cycles of the cores of a gang that is chosen: to the owner while it loads, to SWITCH while it is restored (13 R422; 16
R484). -/
def bookChosen (g : Gang) (b : Books) : Books :=
  g.cores.foldl (fun b c => if b.now.contains (0, coreNum c) then b else b.bookFive c fun _ => if g.saved.isEmpty then g.owner else SWITCH) b

/-- A sealed plate's fetch has a vale's array in this cycle, which is held for its split (08 R300). -/
def State.fetchHolds (s : State) (v : Nat) : Bool :=
  let x := s.vale v
  !s.plat.gone.contains (5, v) && match x.sfetch, x.use with
    | some f, .lease c => f.core == c && !s.rerunning v c
    | _, _ => false

/-- The cycle of a vale's array (08 R301). -/
def bookArray (s : State) (v : Nat) (b : Books) : Books :=
  let x := s.vale v
  if s.plat.gone.contains (5, v) then b
  else if s.fetchHolds v then b.hold 5 v
  else match x.use with
    | .idle => b
    | .switch => b.book 5 v SWITCH
    | .rerun => b.book 5 v OVERHEAD
    | .lease n => b.book 5 v (if s.rerunning v n then OVERHEAD else ((s.coreOf v n).map fun c => c.cr.acctid.toNat).getD IDLE)

/-- The command on which engine x of a vale works. -/
def State.working (s : State) (v x : Nat) : Option Cmd :=
  s.cmds.find? fun c => c.x.val == x && CoreId.valeIdx c.core == v && c.stage != .queued && c.stage != .complete

/-- The cycle of an asynchronous engine: OVERHEAD in a replay, SWITCH for COPYX, held for work that is split, else the command's
account; x1 books a SAEQ's cycles to its owner (07 R281). -/
def bookEngine (v x : Nat) (s : State) : State :=
  match (if s.plat.gone.contains (6 + x, v) then none else s.working v x) with
  | none =>
    match (if x == 1 && !s.plat.gone.contains (7, v) then s.updates.find? fun w => CoreId.valeIdx w.core == v else none) with
    | some w => s.modBooks fun b => b.book 7 v (if 0 < vget (s.vale v).xrep 0 1 then OVERHEAD else w.acct)
    | none => s
  | some c =>
    if 0 < vget (s.vale v).xrep 0 x then s.modBooks fun b => b.book (6 + x) v (if c.kind == some .copyx then SWITCH else OVERHEAD)
    else match c.kind with
    | some .copyx => s.modBooks fun b => b.book (6 + x) v SWITCH
    | some .mcast | some .coll =>
      if s.oneOwner c then s.modBooks fun b => b.book (6 + x) v c.acct
      else (s.modBooks fun b => b.hold (6 + x) v).setCmd { c with work := c.work + 1 }
    | _ => s.modBooks fun b => b.book (6 + x) v c.acct

/-- Each unit's oldest transfer has the unit for this cycle, unless it has booked already; it may leave (log 20, PRESUMED). -/
def bookTransfers (pick : Nat) : List Transfer → Books → Books
  | [], b => b
  | t :: ts, b =>
    if b.now.contains (t.cls, t.unit) then bookTransfers (pick + 1) ts { b with moving := b.moving ++ [t] }
    else
      let b1 := b.book t.cls t.unit t.acct
      bookTransfers (pick + 1) ts (if Config.transferEnds pick then b1 else { b1 with moving := b1.moving ++ [t] })

/-- The account for which the migration engine works: of its first move, of a PREF, of a leaf exchange (R458, R490; log 72, DEDUCED). -/
def State.migrates (s : State) : Option Nat :=
  (s.moves.head?.map Move.acct).or
    (((s.cmds.find? fun c => c.kind == some .pref && c.stage == .started).map Cmd.acct).or
      ((s.cores.find? fun c => c.cr.lxgo == 1).map fun c => c.cr.acctid.toNat))

/-- The cycle of the migration engine (log 72, DEDUCED). -/
def bookMigration (s : State) : State :=
  match (if s.plat.gone.contains (12, 0) then none else s.migrates) with
  | some a => s.modBooks fun b => b.book 12 0 a
  | none => s

/-- The vales that hold a core or anything of their own. -/
def State.liveVales (s : State) : List Nat := (s.cores.map (fun c => CoreId.valeIdx c.id) ++ s.vales.map Prod.fst).eraseDups

/-- The books of one cycle (log 22, DEDUCED). -/
def State.bookCycle (s : State) : State :=
  let vs := s.liveVales
  let s1 := s.modBooks fun b =>
    let b1 := (s.cores.filter s.engaged).foldl (fun b c => bookEngines (s.saving c) c b) b
    (s.disp.gangs.filter fun g => g.st == .chosen && !g.ended).foldl (fun b g => bookChosen g b) b1
  let s2 := s1.modBooks fun b => vs.foldl (fun b v => bookArray s1 v b) b
  let s3 := vs.foldl (fun s v => bookEngine v 2 (bookEngine v 1 (bookEngine v 0 s))) s2
  let s4 := bookMigration s3
  let s5 := s4.modBooks fun b =>
    bookTransfers s4.choice (b.moving.filter fun t => !s.plat.gone.contains (t.cls, t.unit)) { b with moving := [] }
  s5.modBooks (Books.closeCycle s.plat.gone)

/-- A sealed plate's fetch comes one cycle nearer to its end; at the end its cycles are split (08 R300; R492). -/
def State.fetchCycle (s : State) (v : Nat) : State :=
  if !s.fetchHolds v then s
  else
    let t := s.modVale v fun x =>
      { x with sfetch := x.sfetch.map fun f => { f with left := f.left - 1, spent := f.spent + 1 } }
    if ((t.vale v).sfetch.map fun f => f.left == 0).getD false then t.endFetch v else t

/-- The held cycles of the commands whose work has ended are split (R491); those of a collective that serves one owner go to it alone
(09 R359). -/
def State.splitCmds (s : State) : State :=
  (s.cmds.filter fun c => c.stage == .complete && c.work != 0).foldl (fun s c =>
    (s.splitWork (CoreId.valeIdx c.core) (1 + c.x.val) (6 + c.x.val) c.work (if s.oneOwner c then [(0, c.acct)] else c.bens)).setCmd
      { c with work := 0 }) s

/-- The replays of a vale's asynchronous engines come one cycle nearer to their ends (21 R538). -/
def State.runReplays (s : State) (v : Nat) : State :=
  if (s.vale v).xrep.toList.all (· == 0) then s else s.modVale v fun x => { x with xrep := x.xrep.map (· - 1) }

/-! ## Stores (R494, R495) -/

def State.creditStore (s : State) (j acct n : Nat) : State :=
  s.modBooks fun b => b.modBook acct fun x => { x with sto := addStore x.sto j n }

/-- Bytes of the store class j not booked by the entries given go to IDLE. -/
def State.bookStore (s : State) (j cap : Nat) (xs : List (Nat × Nat)) : State :=
  let used := (xs.map Prod.snd).sum
  let s1 := xs.foldl (fun s x => s.creditStore j x.1 x.2) s
  let s2 := s1.creditStore j IDLE (cap - used)
  s2.modBooks fun b => { b with stored := addStore b.stored j cap }

/-- The gangs whose cores are placed: neither stopped nor ended. -/
def State.placed (s : State) : List Gang := s.disp.gangs.filter fun g => g.st != .stopped && !g.ended

/-- The vales of a gang's placement. -/
def Gang.vales (g : Gang) : List Nat := (g.cores.map CoreId.valeIdx).eraseDups

/-- The owner of a page of a segment (R495). -/
def State.pageOwner (s : State) (vf : Nat) (t : Fin 3) (ia : Nat) : Nat :=
  let f := s.vfunOf vf
  let dflt := (f.acfg.extractLsb' 0 12).toNat
  if f.ownt == 0 then dflt
  else
    let i := ia / 65536 + (if t.val == 1 then (f.segLen 0 + 65535) / 65536 else 0)
    let va := f.ownt.toNat + 2 * i
    match (walkVa .bare vf f va s.allParty s).1 with
    | .error _ => dflt
    | .ok e =>
      match useLeaf f false false va e with
      | .ok (.cell pa) =>
        let n := bytesVal (Memory.readN s.mem pa 2)
        if n < 16 || n < (f.acfg.extractLsb' 16 12).toNat || (f.acfg.extractLsb' 32 12).toNat < n then dflt else n
      | _ => dflt

/-- The bytes of sealed objects in a tier, page by page: (physical page, account, first byte, bytes). An object counts until RCLM
pops its event. -/
def State.sealedPages (s : State) (t : Nat) : List (Nat × Nat × Nat × Nat) :=
  s.objs.flatMap fun o => (pagesOf o.base o.size).filterMap fun p =>
    match (s.leafOf o.vf p).filter fun x => leafV x.2.2 with
    | none => none
    | some (n, _, e) =>
      let size := if n == 2 then 2 ^ 29 else 2 ^ 16
      match tierOf (leafLoc e) with
      | none => none
      | some tier =>
        if tier.val != t then none
        else (stage2 (s.vfunOf o.vf) tier (leafOa e + p % size)).map fun pa =>
          let lo := max p o.base
          let hi := min (p + 65536) (o.base + o.size)
          (pa / 65536, o.acct, lo - p, hi - lo)

/-- The bytes of the sealed pages, each byte once. -/
def ownBytes : List (Nat × Nat × Nat × Nat) → List (Nat × Nat × Nat)
  | [] => []
  | (pg, acct, lo, n) :: rest =>
    let later := rest.filter fun y => y.1 == pg
    let mine := if later.isEmpty then n
      else (List.range n).countP fun i => !later.any fun y => y.2.2.1 ≤ lo + i && lo + i < y.2.2.1 + y.2.2.2
    (pg, acct, mine) :: ownBytes rest

/-- The physical pages of a tier, up to its capacity, that enabled segments hold, with the page owner, the lowest function first; a free
reserve frame is IDLE's. -/
def State.segmentPages (s : State) (t : Fin 3) (cap : Nat) : List (Nat × Nat) :=
  (List.range 32).foldl (fun (acc : List (Nat × Nat)) vf =>
    let f := s.vfunOf vf
    if !f.segEn t then acc
    else
      let free := s.freeFrames vf t
      let mine := (List.range (f.segLen t / 65536)).filterMap fun i =>
        let pa := (f.segBase t + 65536 * i) / 65536
        if cap ≤ 65536 * pa || acc.any fun x => x.1 == pa then none
        else some (pa, if free.contains (65536 * i) then IDLE else s.pageOwner vf t (65536 * i))
      acc ++ mine) []

/-- What the near or steppe tier of a capacity books at a tick. -/
def State.tierEntries (s : State) (t : Fin 3) (cap : Nat) : List (Nat × Nat) :=
  let locked := ownBytes ((s.sealedPages t.val).filter fun x => 65536 * x.1 < cap)
  locked.map (fun x => (x.2.1, x.2.2)) ++ (s.segmentPages t cap).map fun x =>
    (x.2, 65536 - ((locked.filter fun y => y.1 == x.1).map fun y => y.2.2).sum)

/-- The installed capacity of the steppe tier (20 R523). -/
def State.steppeBytes (s : State) : Nat := (s.plat.cxl.toList.map fun c => if c.set then c.cap * 2 ^ 30 else 0).sum

/-- The capacity of the near tier. -/
def nearBytes : Nat := 512 * 2 ^ 30

/-- Every store books its capacity (R494). -/
def State.bookStores (s : State) : State :=
  let gs := s.placed
  let s1 := s.bookStore 0 (128 * 2 ^ 23) (gs.map fun g => (g.owner, g.vales.length * g.wlen * 4096))
  let s2 := s1.bookStore 1 (128 * 2 ^ 22) (gs.map fun g => (g.owner, g.cores.length * 512 * 1024))
  let s3 := s2.bookStore 2 nearBytes (s.tierEntries 0 nearBytes)
  s3.bookStore 3 s.steppeBytes (s.tierEntries 1 s.steppeBytes)

/-! ## Conservation (R496, R497) -/

/-- The cycles of a class that all accounts hold, and those that its units hold for splits. -/
def Books.total (b : Books) (k : Nat) : Nat := (b.live.map fun x => x.2.cyc.toList.getD k 0).sum
def Books.totalStore (b : Books) (j : Nat) : Nat := (b.live.map fun x => x.2.sto.toList.getD j 0).sum
def Books.held (b : Books) (k : Nat) : Nat := ((b.own.filter fun u => u.cls == k).map UnitBook.held).sum

/-- A check that fails: its kind, 1 a unit, 2 a unit class, 3 a store class; the unit or the class; the unit's class. -/
structure Broken where
  kind : Nat
  who  : Nat
  cls  : Nat
  deriving DecidableEq, Repr

/-- The checks that fail, units first. A unit without books of its own has booked every cycle (log 22, DEDUCED). -/
def Books.broken (gone : List (Nat × Nat)) (b : Books) : List Broken :=
  ((b.own.filter fun u => !gone.contains (if u.cls < 5 then (0, u.idx) else (u.cls, u.idx)) && u.booked + u.held != u.elapsed).map
    fun u => ⟨1, u.idx, u.cls⟩) ++
  (((List.range 13).filter fun k => b.total k + b.held k != b.elapsed.toList.getD k 0).map fun k => ⟨2, k, 0⟩) ++
  ((List.range 4).filter fun j => b.totalStore j != b.stored.toList.getD j 0).map fun j => ⟨3, j, 0⟩

/-- A conservation violation at the tick that is checked: CONSST, which keeps the first, the flag, the maker event. -/
def State.violate (s : State) (x : Broken) : State :=
  let b := s.books
  let c : Word := BitVec.ofNat 64 (1 + x.kind <<< 1 + x.who <<< 4 + x.cls <<< 16 + ((b.tick + 1) % 2 ^ 44) <<< 20)
  { s with books := { b with viol := true, consst := if b.viol then b.consst ||| 1 else c } }.alert 0x5000 1 [c.toNat]

/-! ## Pages (R498 to R500) -/

/-- Word i of an account's page as the last tick published it. -/
def State.pageWord (s : State) (acct i : Nat) : Word :=
  let b := s.books
  let x := assocGet Book.zero acct b.pages
  let half := fun (n : Nat) (hi : Bool) => BitVec.ofNat 64 (if hi then n / 2 ^ 64 else n)
  if (4 ≤ acct && acct < 16) || 4096 ≤ acct then 0
  else match i with
  | 0 => BitVec.ofNat 64 (acct + 1 <<< 16)
  | 1 => BitVec.ofNat 64 b.tick
  | 2 => b.epoch
  | 3 => BitVec.ofNat 64 b.time
  | 38 => BitVec.ofNat 64 x.issued
  | 39 => BitVec.ofNat 64 x.compl
  | 40 => BitVec.ofNat 64 x.stmts
  | 41 => bitW b.viol
  | i =>
    if 4 ≤ i && i < 30 then half (x.cyc.toList.getD ((i - 4) / 2) 0) (i % 2 == 1)
    else if 30 ≤ i && i < 38 then half (x.sto.toList.getD ((i - 30) / 2) 0) (i % 2 == 1)
    else 0

/-! ## Statements (R501 to R503) -/

/-- The private key of the device (20 R533; log 10, DESIGN CHOICE). -/
def identitySecret : List Byte := (List.range 57).map Config.identitySecret

/-- Bytes 32 to 439 of a statement for the page just published. -/
def State.statementBody (s : State) (p : Pledge) : List Byte :=
  let b := s.books
  let x := assocGet Book.zero p.acct b.pages
  let le := fun (n k : Nat) => valBytes n k
  le 0x45565354 4 ++ le 1 2 ++ le p.acct 2 ++ le 522 4 ++ le b.viol.toNat 4 ++ le b.epoch.toNat 8 ++ le b.tick 8 ++
    le b.time 8 ++ p.nonce ++ shake256 (edPublic identitySecret) 32 ++
    (x.cyc.toList.flatMap fun n => le n 16) ++ (x.sto.toList.flatMap fun n => le n 16) ++ le x.issued 8 ++ le x.compl 8 ++
    le (assocGet Book.zero p.acct b.live).stmts 8 ++ le 0 8

/-- A whole statement, from byte 32 on, signed with the identity key (R502; log 10, DESIGN CHOICE). -/
def State.statement (s : State) (p : Pledge) : List Byte :=
  let body := s.statementBody p
  body ++ edSignPh identitySecret body

/-- C writes bytes at a translated address in pieces of 8, and the rest. -/
def putBytes (u : State) (loc : PLoc) (va : Word) (bs : List Byte) : State :=
  (List.range ((bs.length + 7) / 8)).foldl (fun u i =>
    u.putLoc .c (loc.byte (8 * i)) (va + BitVec.ofNat 64 (8 * i)) ((bs.drop (8 * i)).take 8) none) u

/-- A read's response may arrive now, its core stopped or not. -/
def State.readyRead (s : State) (k : Nat) : State :=
  let put := fun (r : Read) => if r.id == k then { r with ready := true } else r
  { s with
    reads := s.reads.map put
    disp := { s.disp with gangs := s.disp.gangs.map fun (g : Gang) => { g with reads := g.reads.map put } } }

/-- C of a core of a gang writes, whether the core goes on or is held for a stopped gang (13 R422): its set, its floor and its causes
change with the writes. -/
def State.asCore (s : State) (i : CoreId) (key : Nat) (f : State → State) : State :=
  let mine := fun (c : Core) => c.id == i && c.launch == key
  match (s.cores ++ s.disp.gangs.flatMap Gang.saved).find? mine with
  | none => s
  | some c =>
    let u := f { s with core := c }
    let d := u.core
    let seen := fun (x y : Eng) => { x with view := x.view ||| y.view, floor := x.floor ||| y.floor }
    { u with core := s.core }.mapHeld fun x =>
      if mine x then
        { x with
          r := { x.r with eC := seen x.r.eC d.r.eC }
          cr := { x.cr with sh := seen x.cr.sh d.cr.sh, pending := d.cr.pending } }
      else x

/-- A pledge is honoured at a tick: the statement is written where its buffer now lies, its length is C's answer; a write that meets a
data error raises its cause (22 R564). One whose page moves, or waits for a pre-image, waits for the next tick (14 R444; 22 R560). -/
def honour (s : State) (p : Pledge) : State :=
  if s.moving p.vf p.va.toNat || s.claimed (some p.key) p.vf p.va.toNat then s.modBooks fun b => { b with pledges := b.pledges ++ [p] }
  else
    let bs := s.statement p
    let s1 := s.asCore p.core p.key fun u =>
      let x := xlate (walkFor p.acct) u (u.party .c) p.vf false true 0 [] p.va.toNat
      match x.res with
      | .ok loc =>
        match x.st.okWrite .c ((loc.byte 32).pieces 522) with
        | .ok v => putBytes v (loc.byte 32) (p.va + 32) bs
        | .error (.trap c) => (x.st.report c).modCr fun r => { r with pending := r.pending ++ [c.bare] }
        | .error _ => x.st
      | .error _ => x.st
    (s1.modBooks fun b => b.modBook p.acct fun x => { x with stmts := x.stmts + 1 }).readyRead p.read

/-- STMT (06 R226). -/
def execStmt (m : Marks) (x : Bool) (d a : Fin 32) (s : State) : Host.Outcome State Fault Refusal :=
  issue .c (xWords x) m (fun t => do
    barDual t
    let va := t.sReg a
    if va.toNat / 2 ^ 55 != 0 then .error (.trap (xCause t .c va ⟨0x10, 0, false, false, 0⟩))
    if va.toNat % 4096 != 0 then .error (.trap { causeAt t .c 0x13 0 with addr := va })
    let (ws, t1) ← readWords va 4 t
    let (loc, t2) ← t1.translate .c .c true va
    if t2.sealedRange t2.vf (va.toNat + 32) (loc.byte 32) 522 then
      .error (.trap { causeAt t .c 0x15 0 with addr := va + 32 })
    let _ ← t2.okWrite .c ((loc.byte 32).pieces 522)
    t2.preimage va loc
    let (u, k) := t2.awaitReg .c (t2.cLand d 522) []
    let nonce := ws.flatMap fun w => valBytes w.toNat 8
    .ok { st := { u.modBooks fun b =>
              { b with pledges := b.pledges ++ [⟨u.core.id, u.core.launch, k, u.core.cr.acctid.toNat, u.vf, va, nonce⟩] } with
            reads := u.reads.map fun (r : Read) => if r.id == k then { r with ready := false } else r }
          resp := some k }) s

/-! ## The tick -/

/-- The tick of the global timer has come (R494). -/
def State.tickDue (s : State) : Bool := s.books.tick < s.timer / 1000

/-- The events of the errors corrected since the last tick, one for each unit (22 R563; log 40, PRESUMED). -/
def State.postFixed (s : State) : State :=
  s.fixed.foldl (fun t x => t.alert 0x4FFF 1 [x.1 * 8 / 2 ^ 48, x.1 * 8 % 2 ^ 48, x.2]) { s with fixed := [] }

/-- ACCOUNT_TICK (R494 to R503): stores are booked, the books are checked, the pages are published, and the statements that
wait for this tick are written. -/
def execAccountTick (s : State) : Host.Outcome State Fault Refusal :=
  if !s.tickDue then .next s
  else
    let s1 := s.bookStores.postFixed
    let s2 := (s1.books.broken s.plat.gone).foldl State.violate s1
    let s3 := s2.modBooks fun b => { b with tick := b.tick + 1, time := (b.tick + 1) * 1000, pages := b.live }
    .next (s3.books.pledges.foldl honour (s3.modBooks fun b => { b with pledges := [] }))

/-! ## TIME, CYC, ACRD (06 R223 to R225) -/

/-- TIME. -/
def execTime (m : Marks) (x : Bool) (d : Fin 32) (s : State) : Host.Outcome State Fault Refusal :=
  issue .c (xWords x) m (fun t => .ok { st := t.putC 1 d (BitVec.ofNat 64 t.timer) }) s

/-- A counter that CYC reads: the walked count of C is that before the CYC itself, after the skipped words of its run, and those of the
other engines are those before their words of this cycle (log 82, DESIGN CHOICE). -/
def State.cycOf (s : State) (sel : Nat) : Word :=
  BitVec.ofNat 64 (match sel with
    | 0 => s.cycle - s.core.cr.cyc0
    | 1 => s.core.r.eC.walked
    | 2 => s.core.r.eA.walked
    | 3 => s.core.r.eM.walked
    | 4 => s.core.r.eV.walked
    | _ => s.core.r.eS.walked)

/-- CYC. -/
def execCyc (m : Marks) (x : Bool) (d : Fin 32) (sel : BitVec 3) (s : State) : Host.Outcome State Fault Refusal :=
  issue .c (xWords x) m (fun t => .ok { st := t.putC 1 d (t.cycOf sel.toNat) }) s

/-- ACRD: a word of the page of the core's account. -/
def execAcrd (m : Marks) (x : Bool) (d a : Fin 32) (s : State) : Host.Outcome State Fault Refusal :=
  issue .c (xWords x) m (fun t =>
    let i := (t.sReg a).toNat
    .ok { st := t.putC 1 d (if 512 ≤ i then 0 else t.pageWord t.core.cr.acctid.toNat i) }) s

end Sys2Proof.Machine
end

