-- ==== Sys2Proof/Machine/Snap.lean ====
section
/-! DEFINITION. The snapshot of a core, layout version 1: what each word holds, and what a write of it changes (13 R407 to
R412, R417, R568). -/

namespace Sys2Proof.Machine

open Sys2Proof

/-! ## Pieces of words -/

/-- A bit field of a word: x in the bits from lo on. -/
def at' (lo : Nat) (x : Nat) : Nat := x <<< lo

def field (w : Word) (lo n : Nat) : Nat := (w.extractLsb' lo n).toNat

def word (n : Nat) : Word := BitVec.ofNat 64 n

/-- Doubleword j of a wide value, and the value with another. -/
def wordAt {n : Nat} (x : BitVec n) (j : Nat) : Word := x.extractLsb' (64 * j) 64
def setWordAt {n : Nat} (x : BitVec n) (j : Nat) (w : Word) : BitVec n :=
  (x &&& ~~~(BitVec.ofNat n (2 ^ 64 - 1) <<< (64 * j))) ||| (BitVec.ofNat n w.toNat <<< (64 * j))

/-- The length of the snapshot in words (R408). -/
def snapLen : Nat := 100352
def snapVer : Word := word (1 + at' 16 snapLen)

/-- 130 words of a row (R409). -/
def rowWord (x : Row) (j : Nat) : Word :=
  if j < 128 then wordAt x.sum j
  else if j == 128 then word (x.rmax.toNat + at' 32 x.rden.toNat)
  else word (x.ovf.toNat + at' 32 x.valid.toNat + at' 33 x.int.toNat + at' 34 x.lz.toNat)

def setRowWord (x : Row) (j : Nat) (w : Word) : Row :=
  if j < 128 then { x with sum := setWordAt x.sum j w }
  else if j == 128 then { x with rmax := w.extractLsb' 0 32, rden := w.extractLsb' 32 32 }
  else { x with ovf := w.extractLsb' 0 32, valid := w.getLsbD 32, int := w.getLsbD 33, lz := w.getLsbD 34 }

/-- 34 words of a P-buffer row. -/
def prowWord (x : PRow) (j : Nat) : Word := if j < 32 then wordAt x.codes j else wordAt x.conts (j - 32)
def setPRowWord (x : PRow) (j : Nat) (w : Word) : PRow :=
  if j < 32 then { x with codes := setWordAt x.codes j w } else { x with conts := setWordAt x.conts (j - 32) w }

/-! ## Queue regions -/

/-- Word 0 of a queue region: the count of entries, and the cut-marker bits. -/
def countWord {α : Type} (q : Fifo α) : Word :=
  word (q.slots.length + at' 32 ((List.range q.slots.length).foldl (fun n i =>
    n + at' i ((q.slots[i]?.map Slot.cut).getD false).toNat) 0))

/-- Word j of a queue region whose entries have k words. -/
def queueWord {α : Type} (q : Fifo α) (k : Nat) (f : α → Nat → Word) (j : Nat) : Word :=
  if j == 0 then countWord q
  else match q.slots[(j - 1) / k]? with
    | some t => (t.data.map fun x => f x ((j - 1) % k)).getD 0
    | none => 0

/-- A queue after a write of word 0 of its region: entries beyond the old ones hold d. -/
def setCount {α : Type} (q : Fifo α) (d : α) (w : Word) : Fifo α :=
  let n := field w 0 6
  { q with slots := (List.range n).map fun i =>
      let t := q.slots.getD i ⟨2 ^ 32 + i, some d, false, false⟩
      let cut := w.getLsbD (32 + i)
      { t with cut := cut, data := if cut then none else if t.cut then some d else t.data } }

/-- A queue after a write of word j of its region; an entry that is only reserved keeps nothing. -/
def setQueueWord {α : Type} (q : Fifo α) (d : α) (k : Nat) (f : α → Nat → Word → α) (j : Nat) (w : Word) : Fifo α :=
  if j == 0 then setCount q d w
  else { q with slots := q.slots.mapIdx fun i t =>
      if i == (j - 1) / k then { t with data := t.data.map fun x => f x ((j - 1) % k) w } else t }

/-- An entry of saq (R568). -/
def saqWord (x : SaqEntry) (j : Nat) : Word :=
  if j == 0 then x.addr
  else if j < 5 then wordAt x.mask (j - 1)
  else if j == 5 then word (x.word % 32768 + at' 15 x.agsa.toNat)
  else if j == 6 then word (x.step % 2 ^ 32 + at' 32 (x.gen % 2))
  else word (x.rot % 32 + at' 8 (x.row % 2 ^ 48))

def setSaqWord (x : SaqEntry) (j : Nat) (w : Word) : SaqEntry :=
  if j == 0 then { x with addr := w }
  else if j < 5 then { x with mask := setWordAt x.mask (j - 1) w }
  else if j == 5 then { x with word := field w 0 15, agsa := w.getLsbD 15 }
  else if j == 6 then { x with step := field w 0 32, gen := field w 32 1 }
  else { x with rot := field w 0 5, row := field w 8 48 }

def SaqEntry.zero : SaqEntry := ⟨0, 0, 0, false, 0, 0, 0, 0⟩

/-- A FIFO of result elements (R409). -/
def resultsWord (rs : List Result) (j : Nat) : Word :=
  if j == 0 then word rs.length else ((rs[j - 1]?).map Result.word).getD 0

def setResultsWord (rs : List Result) (j : Nat) (w : Word) : List Result :=
  if j == 0 then (List.range (field w 0 6)).map fun i => rs.getD i ⟨0, false, false, 0⟩
  else rs.mapIdx fun i r => if i + 1 == j then { r with word := w, fault := w.getLsbD 63 } else r

/-! ## Engine blocks (R409, R410, R568) -/

/-- The WAIT codes of R410 (log 62, DEDUCED). -/
def waitCode : Wait → Nat
  | .none => 0 | .token => 1 | .flag _ => 2 | .pop => 3 | .resv => 4 | .flagRoom _ => 4 | .cond => 5 | .slip => 6
  | .lease => 7 | .sync => 8 | .mem => 9 | .table => 9 | .breath => 10 | .fault => 11 | .replay => 0 | .join => 0

/-- WAIT from a code; a code that is the engine's own names the same wait. -/
def waitOf (x : Wait) (k : Nat) : Wait :=
  if waitCode x == k then x
  else match k with
    | 1 => .token | 2 => .flag 0 | 3 => .pop | 4 => .resv | 5 => .cond | 6 => .slip | 7 => .lease | 8 => .sync | 9 => .mem
    | 10 => .breath | 11 => .fault | _ => .none

/-- The words of loop levels, three each. -/
def levelWord (ls : List Level) (j : Nat) : Word :=
  match ls[j / 3]? with
  | none => 0
  | some l =>
    match j % 3 with
    | 0 => word (l.start + at' 32 l.stop + at' 63 1)
    | 1 => word l.count
    | _ => word l.index

/-- Loop levels after a write of one of their words: a cleared active bit removes the level and those inside it. -/
def setLevelWord (ls : List Level) (j : Nat) (w : Word) : List Level :=
  let i := j / 3
  if j % 3 == 0 then
    if w.getLsbD 63 then
      match ls[i]? with
      | some l => ls.set i { l with start := field w 0 15, stop := field w 32 15 }
      | none => if i == ls.length then ls ++ [⟨field w 0 15, field w 32 15, 0, 0⟩] else ls
    else ls.take i
  else match ls[i]? with
    | some l => ls.set i (if j % 3 == 1 then { l with count := field w 0 32 } else { l with index := field w 0 32 })
    | none => ls

def engWord (e : Engine) (stz : Nat) (x : Eng) (j : Nat) : Word :=
  if j == 0 then word x.pc
  else if j == 1 then word x.walked
  else if j == 2 then
    word (x.live.toNat + at' 1 x.halted.toNat + at' 2 x.notified.toNat + at' 3 x.ill.toNat + at' 4 (waitCode x.wait))
  else if j == 3 then (if e == .s then word stz else 0)
  else if j < 16 then levelWord x.levels (j - 4)
  else if j < 20 then wordAt x.marks (j - 16)
  else if j < 24 then vget x.e 0 (j - 20)
  else 0

def setEngWord (x : Eng) (j : Nat) (w : Word) : Eng :=
  if j == 0 then { x with pc := field w 0 15 }
  else if j == 1 then { x with walked := w.toNat }
  else if j == 2 then
    { x with live := w.getLsbD 0, halted := w.getLsbD 1, notified := w.getLsbD 2, ill := w.getLsbD 3
             wait := waitOf x.wait (field w 4 4) }
  else if 4 ≤ j && j < 16 then { x with levels := setLevelWord x.levels (j - 4) w }
  else if 16 ≤ j && j < 20 then { x with marks := setWordAt x.marks (j - 16) w }
  else if 20 ≤ j && j < 24 then { x with e := vset x.e (j - 20) w }
  else x

/-! ## Generators (R568) -/

def genWord (x : Gen) (j : Nat) : Word :=
  if j < 16 then vget x.recd 0 j
  else if j == 16 then word x.step
  else if j == 17 then
    word (x.cur.index % 2 ^ 32 + at' 32 x.cur.held.toNat + at' 33 x.cur.rdg.toNat + at' 34 (min x.cur.rcy 5)
      + at' 37 x.loaded.toNat)
  else if j == 18 then word x.cur.value.toNat
  else if j == 19 then
    word (x.ahead.index % 2 ^ 32 + at' 32 x.ahead.held.toNat + at' 33 x.ahead.rdg.toNat + at' 34 (min x.ahead.rcy 5))
  else if j == 20 then word x.ahead.value.toNat
  else 0

def setTab (t : TabEntry) (w : Word) : TabEntry :=
  { t with
    index := field w 0 32, held := w.getLsbD 32, rdg := w.getLsbD 33, rcy := field w 34 3 }

def setGenWord (x : Gen) (j : Nat) (w : Word) : Gen :=
  if j < 16 then { x with recd := vset x.recd j w }
  else if j == 16 then { x with step := field w 0 32 }
  else if j == 17 then { x with cur := setTab x.cur w, loaded := w.getLsbD 37 }
  else if j == 18 then { x with cur := { x.cur with value := w.extractLsb' 0 32 } }
  else if j == 19 then { x with ahead := setTab x.ahead w }
  else if j == 20 then { x with ahead := { x.ahead with value := w.extractLsb' 0 32 } }
  else x

/-! ## Tokens, conditions, commands, lease, SMX (0x0140 to 0x015F) -/

def tileWord (t : TileRef) (top : Bool) : Word :=
  word (t.off % 2 ^ 23 + at' 23 (t.rp % 2 ^ 23) + at' 46 (t.rot % 32) + at' 51 top.toNat)

def tileOf (w : Word) : TileRef := ⟨field w 0 23, field w 23 23, field w 46 5⟩

/-- The bits that a condition FIFO holds, the head lowest. -/
def condBits (q : Fifo Bool) : Nat :=
  (List.range q.slots.length).foldl (fun n i => n + at' i (((q.slots[i]?).bind Slot.data).getD false).toNat) 0

/-- The sum of f i over i below n. -/
def sumTo (n : Nat) (f : Nat → Nat) : Nat := (List.range n).foldl (fun k i => k + f i) 0

def miscWord (r : Regs) (xp : Vector XPort 3) (vfsel : BitVec 5) (j : Nat) : Word :=
  match j with
  | 0 => word (sumTo 8 fun i => at' (8 * i) ((vget r.f .zero i).val % 256))
  | 1 => word (sumTo 8 fun i => at' (8 * i) ((vget r.f .zero (8 + i)).val % 256))
  | 2 => word (sumTo 10 fun i => at' (4 * i) (vget r.tok .empty i).toks.length)
  | 3 => word (sumTo 4 fun i => at' (8 * i) (vget r.cond .empty i).slots.length)
  | 4 => word (sumTo 4 fun i => at' (16 * i) (condBits (vget r.cond .empty i)))
  | 5 => word (sumTo 3 fun i => at' (4 * i) (vget xp .empty i).outs)
  | 6 =>
    word (r.lease.held.toNat + at' 1 r.lease.req.toNat + at' 2 r.lease.cnt + at' 11 r.claim.isSome.toNat
      + at' 12 r.mstat.lzs.toNat + at' 13 r.mstat.whs.toNat + at' 16 (r.mstat.rrn % 65536) + at' 32 (r.mstat.whn % 65536))
  | 7 => (r.claim.map fun c => tileWord c.rows c.wide).getD 0
  | 8 => ((r.claim.bind PlateTag.scales).map fun t => tileWord t true).getD 0
  | 9 => ((r.claim.bind PlateTag.ident).map fun n => word (n % 2 ^ 32 + 2 ^ 32)).getD 0
  | 14 => word vfsel.toNat
  | _ => if 10 ≤ j && j < 14 then wordAt r.smx (j - 10) else 0

def setTokens (t : TokFifo) (n : Nat) : TokFifo :=
  { t with toks := (List.range n).map fun i => t.toks.getD i ⟨0, false⟩ }

def setConds (q : Fifo Bool) (n : Nat) : Fifo Bool :=
  { q with slots := (List.range n).map fun i => q.slots.getD i ⟨2 ^ 32 + i, some false, false, false⟩ }

def setCondBits (q : Fifo Bool) (x : Nat) : Fifo Bool :=
  { q with slots := q.slots.mapIdx fun i t => { t with data := t.data.map fun _ => x.testBit i } }

def setMiscR (r : Regs) (j : Nat) (w : Word) : Regs :=
  match j with
  | 0 => { r with f := r.f.mapIdx fun i x => if i < 8 then { x with val := field w (8 * i) 8 } else x }
  | 1 => { r with f := r.f.mapIdx fun i x => if 8 ≤ i then { x with val := field w (8 * (i - 8)) 8 } else x }
  | 2 => { r with tok := r.tok.mapIdx fun i t => setTokens t (field w (4 * i) 4) }
  | 3 => { r with cond := r.cond.mapIdx fun i q => setConds q (field w (8 * i) 5) }
  | 4 => { r with cond := r.cond.mapIdx fun i q => setCondBits q (field w (16 * i) 16) }
  | 6 =>
    { r with
      lease := { r.lease with held := w.getLsbD 0, req := w.getLsbD 1, cnt := field w 2 9 }
      claimOwn := r.claimOwn && w.getLsbD 11
      claim := if w.getLsbD 11 then some (r.claim.getD ⟨⟨0, 0, 0⟩, false, none, none⟩) else none
      mstat := ⟨w.getLsbD 12, w.getLsbD 13, field w 16 16, field w 32 16⟩ }
  | 7 => { r with claimOwn := false, claim := r.claim.map fun c => { c with rows := tileOf w, wide := w.getLsbD 51 } }
  | 8 => { r with claimOwn := false, claim := r.claim.map fun c => { c with scales := if w.getLsbD 51 then some (tileOf w) else none } }
  | 9 => { r with claimOwn := false, claim := r.claim.map fun c => { c with ident := if w.getLsbD 32 then some (field w 0 32) else none } }
  | _ => if 10 ≤ j && j < 14 then { r with smx := setWordAt r.smx (j - 10) w } else r

/-! ## Pending records (R411) -/

/-- What a pending record stands for. -/
inductive Held where
  | pend (e : Engine) (shadow : Bool) (p : Pend)
  | read (r : Read)
  | occ (o : Occ)
  deriving DecidableEq, Repr

/-- A record: header, then payload. -/
def mkRecord (kind tgt idx eng rem : Nat) (body : List Word) : List Word :=
  word (kind + at' 8 tgt + at' 16 (idx % 512) + at' 25 eng + at' 32 (rem % 65536) + at' 48 (body.length + 1)) :: body

/-- The operand code of a queue, in its producer's codes. -/
def queueCode : QId → Nat
  | .lq i => 48 + i.val
  | .mq i => 49 + i.val
  | .sq i => if i.val == 0 then 48 else 35
  | .saq => 52
  | .iq _ => 53
  | .cond _ => 0

/-- Where an entry stands in its queue. -/
def entryIndex (r : Regs) (q : QId) (sid : Nat) : Nat := ((r.blockQ q).map fun f => f.slots.findIdx (·.sid == sid)).getD 0
def saqIndex (r : Regs) (sid : Nat) : Nat := r.saq.slots.findIdx (·.sid == sid)

def blockWords (x : Block) : List Word := (List.range 32).map (wordAt x)
def rowWords (x : Row) : List Word := (List.range 130).map (rowWord x)

/-- The register code of an e register of an engine. -/
def eCode (e : Engine) (r : Fin 4) : Nat := if e == .m then 24 + r.val else r.val

/-- A landing's record. Codes 32 to 47 of C name h0 to h15; the record of MZERO is that of a multi-row instruction under way (log 62,
DEDUCED). -/
def landRecord (r : Regs) (e : Engine) (rem : Nat) : Land → List Word
  | .s i x => mkRecord 1 i.val 0 0 rem [x]
  | .h i x => mkRecord 1 (32 + i.val) 0 0 rem [x]
  | .a i x => mkRecord 1 i.val 0 1 rem [x]
  | .d i x => mkRecord 1 (32 + i.val) 0 1 rem [x]
  | .e i x => mkRecord 1 (eCode e i) 0 (engNum e) rem [x]
  | .v i x => mkRecord 1 i.val 0 (engNum e) rem (blockWords x)
  | .k i x => mkRecord 1 i.val 0 (engNum e) rem ((List.range 4).map (wordAt x))
  | .slot q sid x => mkRecord 2 (queueCode q) (entryIndex r q sid) (engNum e) rem (blockWords x)
  | .saq sid x => mkRecord 2 (queueCode .saq) (saqIndex r sid) 1 rem ((List.range 8).map (saqWord x))
  | .row i x => mkRecord 3 36 i 2 rem (rowWords x)
  | .rowSet i x => mkRecord 3 36 i 2 rem (rowWords ((r.row i).put x))
  | .rowAcc i _ _ t _ => mkRecord 3 36 i 2 rem ((List.range 128).map (wordAt t))
  | .rowWithheld i => mkRecord 3 36 i 2 rem (rowWords { r.row i with valid := false })
  | .rowOvf i n => mkRecord 8 36 i 2 rem [word n]
  | .rowOvfClear i => mkRecord 3 36 i 2 rem (rowWords { r.row i with ovf := 0 })
  | .rowsZero w _ _ _ => mkRecord 7 0 0 2 rem [word w, 1]
  | .pbuf i x => mkRecord 4 28 i 2 rem ((List.range 34).map (prowWord x))
  | .smx x => mkRecord 4 0 0 2 rem ((List.range 4).map (wordAt x))
  | .token f _ => mkRecord 6 f.val 0 (engNum e) rem []
  | .vovf n => mkRecord 8 0 0 3 rem [word n]
  | .nothing => mkRecord 8 0 0 3 rem [0]

/-- Where a read's response goes, as the second payload word of kind 5. -/
def readDest (r : Regs) (x : Read) : Nat × Nat :=
  match x.arr with
  | .slot q sid _ => (48 + q.val, entryIndex r (.lq q) sid)
  | .record => (0, 0)
  | .reg l =>
    match l with
    | .s i _ => (i.val, 0)
    | .h i _ => (32 + i.val, 0)
    | .a i _ => (i.val, 0)
    | _ => (0, 0)

def Held.words (r : Regs) : Held → List Word
  | .pend e _ p => landRecord r e p.rem p.land
  | .read x =>
    let d := readDest r x
    mkRecord 5 d.1 d.2 (engNum x.eng) 0
      (word x.word :: word (d.1 + at' 8 d.2) :: x.elems.flatMap fun y => [word y.1, word y.2])
  | .occ o => mkRecord 7 0 0 2 0 [word o.word, word o.run]

def Held.rem : Held → Nat
  | .pend _ _ p => p.rem
  | .read _ => 65536
  | .occ _ => 65537

/-- The cycle of its issue. -/
def Held.born : Held → Nat
  | .pend _ _ p => p.born
  | .read x => x.born
  | .occ _ => 0

/-- Inserts before the first that lands later, or lands with it and has issued later. -/
def insertHeld (x : Held) : List Held → List Held
  | [] => [x]
  | y :: ys => if x.rem < y.rem || (x.rem == y.rem && x.born < y.born) then x :: y :: ys else y :: insertHeld x ys

/-- A read that stands in a snapshot: that of the record of an AGC, which has not issued, does not (06 R236). -/
def Read.shown (r : Read) : Bool := match r.arr with | .record => false | _ => true

/-- What a core has in flight, in order of landing and then of issue (R411); reads and M's occupancy have no landing cycle
and stand last. -/
def Core.inFlight (c : Core) (reads : List Read) : List Held :=
  let of := fun (e : Engine) (sh : Bool) (x : Eng) => x.pend.map fun p => Held.pend e sh p
  let ps := of .c false c.r.eC ++ of .c true c.cr.sh ++ of .a false c.r.eA ++ of .m false c.r.eM ++ of .v false c.r.eV ++
    of .s false c.r.eS
  (ps ++ (reads.filter fun r => r.core == c.id && r.shown).map Held.read).foldl (fun l x => insertHeld x l) [] ++
    (c.r.occ.map Held.occ).toList

/-- Pending causes held in the trap region: all but those of commands, highest priority first. -/
def insertCause (x : CauseRec) : List CauseRec → List CauseRec
  | [] => [x]
  | y :: ys => if causeBefore x y then x :: y :: ys else y :: insertCause x ys

def CReg.heldCauses (r : CReg) : List CauseRec :=
  (r.pending.filter fun c => c.code != 0x30).foldl (fun l c => insertCause c l) []

def causeRecWord (c : CauseRec) (j : Nat) : Word :=
  match j with
  | 0 => causeWord c false 0 false
  | 1 => word c.pc
  | 2 => c.word
  | 3 => c.addr
  | 4 => c.pos
  | _ => c.walk

def setCauseWord (c : CauseRec) (j : Nat) (w : Word) : CauseRec :=
  match j with
  | 0 => { c with code := field w 0 8, unit := field w 8 3, imp := w.getLsbD 11, detail := field w 16 16 }
  | 1 => { c with pc := w.toNat }
  | 2 => { c with word := w }
  | 3 => { c with addr := w }
  | 4 => { c with pos := w }
  | _ => { c with walk := w }

def CauseRec.zero : CauseRec := ⟨0, 0, false, 0, 0, 0, 0, 0, 0, .nothing⟩

def trapWord (r : CReg) (j : Nat) : Word :=
  if j == 0 then r.trapPc
  else if j == 1 then r.trapWord
  else if j == 2 then r.trapAddr
  else if j == 3 then r.trapWalk
  else if j < 12 then (if j % 2 == 0 then vget r.wp 0 ((j - 4) / 2) else word (vget r.wpm 0 ((j - 4) / 2)).toNat)
  else if j == 12 then word (min r.heldCauses.length 16)
  else if j < 32 then 0
  else ((r.heldCauses[(j - 32) / 6]?).map fun c => causeRecWord c ((j - 32) % 6)).getD 0

def setTrapWord (r : CReg) (j : Nat) (w : Word) : CReg :=
  let others := r.pending.filter fun c => c.code == 0x30
  if j == 0 then { r with trapPc := w }
  else if j == 1 then { r with trapWord := w }
  else if j == 2 then { r with trapAddr := w }
  else if j == 3 then { r with trapWalk := w }
  else if j < 12 then
    (if j % 2 == 0 then { r with wp := vset r.wp ((j - 4) / 2) w }
      else { r with wpm := vset r.wpm ((j - 4) / 2) (w.extractLsb' 0 16) })
  else if j == 12 then
    { r with pending := ((List.range (field w 0 5)).map fun i => r.heldCauses.getD i .zero) ++ others }
  else if j < 32 then r
  else
    { r with pending := (r.heldCauses.mapIdx fun i c => if i == (j - 32) / 6 then setCauseWord c ((j - 32) % 6) w else c) ++
        others }

/-! ## The words of a core -/

/-- PRIV (R395). -/
def CReg.priv (r : CReg) : Word := word (r.lvl.toNat + at' 2 r.shd.toNat)

/-- The header (R409). -/
def headWord (c : Core) (plv : BitVec 2) (cyc : Nat) (j : Nat) : Word :=
  match j with
  | 0 => snapVer
  | 1 => word (c.id.core + at' 3 c.id.vale + at' 8 c.id.plain)
  | 2 => word (c.launch % 2 ^ 32)
  | 3 => word cyc
  | 4 => word (c.cr.priv.toNat + at' 32 plv.toNat)
  | 5 => c.cr.domm
  | 6 => c.cr.gang
  | 7 => c.cr.spw
  | 8 => word c.cr.slipw
  | 9 => word c.cr.fmtsrc.toNat
  | 10 => word c.cr.vovf.toNat
  | 11 => word c.cr.acctid.toNat
  | 12 => word c.cr.keyslot.toNat
  | 13 => c.cr.cause
  | 14 => c.cr.eretPc
  | _ => c.cr.trapPos

def setHeadWord (r : CReg) (j : Nat) (w : Word) : CReg :=
  match j with
  | 5 => { r with domm := w }
  | 7 => { r with spw := w }
  | 8 => { r with slipw := w.toNat }
  | 9 => { r with fmtsrc := w.extractLsb' 0 16 }
  | 10 => { r with vovf := w.extractLsb' 0 32 }
  | 12 => { r with keyslot := w.extractLsb' 0 7 }
  | 13 => { r with cause := w }
  | 14 => { r with eretPc := w }
  | 15 => { r with trapPos := w }
  | _ => r

def shadowWord (c : Core) (j : Nat) : Word :=
  if j < 16 then vget c.cr.h 0 j
  else if j == 16 then word (c.cr.sh.pc % 4096 + at' 16 c.cr.shd.toNat)
  else if j < 29 then levelWord c.cr.sh.levels (j - 17)
  else if j == 29 then word (sumTo 3 fun i => at' (2 * i) (vget c.xp .empty i).souts)
  else if j < 39 then resultsWord (vget c.xp .empty ((j - 30) / 3)).sres ((j - 30) % 3)
  else 0

def setShadowWord (c : Core) (j : Nat) (w : Word) : Core :=
  if j < 16 then { c with cr := { c.cr with h := vset c.cr.h j w } }
  else if j == 16 then { c with cr := { c.cr with shd := w.getLsbD 16, sh := { c.cr.sh with pc := field w 0 12 } } }
  else if j < 29 then { c with cr := { c.cr with sh := { c.cr.sh with levels := setLevelWord c.cr.sh.levels (j - 17) w } } }
  else if j == 29 then { c with xp := c.xp.mapIdx fun i p => { p with souts := field w (2 * i) 2 } }
  else if j < 39 then
    { c with xp := vmod c.xp .empty ((j - 30) / 3) fun p => { p with sres := setResultsWord p.sres ((j - 30) % 3) w } }
  else c

def wordEng (c : Core) (k : Nat) : Engine × Eng :=
  match k with
  | 0 => (.c, c.r.eC)
  | 1 => (.a, c.r.eA)
  | 2 => (.m, c.r.eM)
  | 3 => (.v, c.r.eV)
  | _ => (.s, c.r.eS)

def putEng (r : Regs) (k : Nat) (x : Eng) : Regs :=
  match k with
  | 0 => { r with eC := x }
  | 1 => { r with eA := x }
  | 2 => { r with eM := x }
  | 3 => { r with eV := x }
  | _ => { r with eS := x }

/-- The words of the pending region. -/
def pendWords (c : Core) (reads : List Read) : List Word := (c.inFlight reads).flatMap (Held.words c.r)

/-- Word idx of a core's snapshot as the core's parts hold it (log 62, DEDUCED). -/
def homeWord (c : Core) (reads : List Read) (plv : BitVec 2) (cyc idx : Nat) : Word :=
  let r := c.r
  if idx < 0x10 then headWord c plv cyc idx
  else if idx < 0x20 then word (vget c.cr.fmte 0 (idx - 0x10)).toNat
  else if idx < 0xC0 then
    let x := wordEng c ((idx - 0x20) / 32)
    engWord x.1 r.stz x.2 ((idx - 0x20) % 32)
  else if idx < 0xE0 then vget r.s 0 (idx - 0xC0)
  else if idx < 0xF0 then vget r.a 0 (idx - 0xE0)
  else if idx < 0xF8 then vget r.d 0 (idx - 0xF0)
  else if idx < 0x100 then 0
  else if idx < 0x140 then genWord (vget r.g .reset ((idx - 0x100) / 32)) ((idx - 0x100) % 32)
  else if idx < 0x160 then miscWord r c.xp c.cr.vfsel (idx - 0x140)
  else if idx < 0x1E0 then queueWord (vget r.iq .empty ((idx - 0x160) / 32)) 1 (fun x _ => x) ((idx - 0x160) % 32)
  else if idx < 0x300 then queueWord r.saq 8 saqWord (idx - 0x1E0)
  else if idx < 0x1500 then
    let k := (idx - 0x300) / 0x240
    let q := if k < 4 then vget r.lq .empty k else if k < 6 then vget r.mq .empty (k - 4) else vget r.sq .empty (k - 6)
    queueWord q 32 wordAt ((idx - 0x300) % 0x240)
  else if idx < 0x1520 then wordAt (vget r.k 0 ((idx - 0x1500) / 4)) ((idx - 0x1500) % 4)
  else if idx < 0x1B20 then wordAt (vget r.v 0 ((idx - 0x1520) / 32)) ((idx - 0x1520) % 32)
  else if idx < 0x23A0 then prowWord (r.prow ((idx - 0x1B20) / 34)) ((idx - 0x1B20) % 34)
  else if idx < 0x23D0 then resultsWord (vget c.xp .empty ((idx - 0x23A0) / 16)).res ((idx - 0x23A0) % 16)
  else if idx < 0x2400 then shadowWord c (idx - 0x23D0)
  else if idx < 0x8380 then (pendWords c reads).getD (idx - 0x2400) 0
  else if idx < 0x8400 then trapWord c.cr (idx - 0x8380)
  else if idx < snapLen then rowWord (r.row ((idx - 0x8400) / 130)) ((idx - 0x8400) % 130)
  else 0

/-- A word of the pending region (R409). -/
def pendingIdx (idx : Nat) : Bool := 0x2400 ≤ idx && idx < 0x8380

/-- Word idx of a core's snapshot: as SNAPWR has written it, where no part of the core holds it, else as the core's parts do
(log 62, DEDUCED). -/
def snapWord (c : Core) (reads : List Read) (plv : BitVec 2) (cyc idx : Nat) : Word :=
  match c.overlay.find? fun p => p.1 == idx with
  | some p => p.2
  | none => homeWord c reads plv cyc idx

/-- The parts of a core after a write of word idx; words of the pending region have no part of their own. -/
def putHome (c : Core) (idx : Nat) (w : Word) : Core :=
  let r := c.r
  let reg := fun (r : Regs) => { c with r := r }
  if idx < 0x10 then { c with cr := setHeadWord c.cr idx w }
  else if idx < 0x20 then { c with cr := { c.cr with fmte := vset c.cr.fmte (idx - 0x10) (w.extractLsb' 0 20) } }
  else if idx < 0xC0 then
    let k := (idx - 0x20) / 32
    let j := (idx - 0x20) % 32
    reg (putEng (if j == 3 && k == 4 then { r with stz := field w 0 12 } else r) k (setEngWord (wordEng c k).2 j w))
  else if idx < 0xE0 then reg { r with s := vset r.s (idx - 0xC0) w }
  else if idx < 0xF0 then reg { r with a := vset r.a (idx - 0xE0) w }
  else if idx < 0xF8 then reg { r with d := vset r.d (idx - 0xF0) w }
  else if idx < 0x100 then c
  else if idx < 0x140 then
    reg { r with g := vmod r.g .reset ((idx - 0x100) / 32) fun x => setGenWord x ((idx - 0x100) % 32) w }
  else if idx == 0x145 then { c with xp := c.xp.mapIdx fun i p => { p with outs := field w (4 * i) 4 } }
  else if idx == 0x14E then { c with cr := { c.cr with vfsel := w.extractLsb' 0 5 } }
  else if idx < 0x160 then reg (setMiscR r (idx - 0x140) w)
  else if idx < 0x1E0 then
    reg { r with iq := vmod r.iq .empty ((idx - 0x160) / 32) fun q => setQueueWord q 0 1 (fun _ _ w => w) ((idx - 0x160) % 32) w }
  else if idx < 0x300 then reg { r with saq := setQueueWord r.saq .zero 8 setSaqWord (idx - 0x1E0) w }
  else if idx < 0x1500 then
    let k := (idx - 0x300) / 0x240
    let f := fun (q : Fifo Block) => setQueueWord q 0 32 setWordAt ((idx - 0x300) % 0x240) w
    if k < 4 then reg { r with lq := vmod r.lq .empty k f }
    else if k < 6 then reg { r with mq := vmod r.mq .empty (k - 4) f }
    else reg { r with sq := vmod r.sq .empty (k - 6) f }
  else if idx < 0x1520 then reg { r with k := vmod r.k 0 ((idx - 0x1500) / 4) fun x => setWordAt x ((idx - 0x1500) % 4) w }
  else if idx < 0x1B20 then reg { r with v := vmod r.v 0 ((idx - 0x1520) / 32) fun x => setWordAt x ((idx - 0x1520) % 32) w }
  else if idx < 0x23A0 then
    let i := (idx - 0x1B20) / 34
    reg (r.setPRow i (setPRowWord (r.prow i) ((idx - 0x1B20) % 34) w))
  else if idx < 0x23D0 then
    { c with xp := vmod c.xp .empty ((idx - 0x23A0) / 16) fun p =>
        { p with res := setResultsWord p.res ((idx - 0x23A0) % 16) w } }
  else if idx < 0x2400 then setShadowWord c (idx - 0x23D0) w
  else if idx < 0x8380 then c
  else if idx < 0x8400 then { c with cr := setTrapWord c.cr (idx - 0x8380) w }
  else if idx < snapLen then
    let i := (idx - 0x8400) / 130
    reg (r.setRow i (setRowWord (r.row i) ((idx - 0x8400) % 130) w))
  else c

/-- The words whose parts depend on one another: loop levels, a queue's count and entries, the condition FIFOs, a claim, the
pending causes. -/
def wordsWith (idx : Nat) : List Nat :=
  let block := fun (base n : Nat) => (List.range n).map (base + ·)
  let part := fun (lo n : Nat) => block (lo + (idx - lo) / n * n) n
  if 0x20 ≤ idx && idx < 0xC0 then (if 4 ≤ idx % 32 && idx % 32 < 16 then block (idx / 32 * 32 + 4) 12 else [idx])
  else if idx == 0x143 || idx == 0x144 then block 0x143 2
  else if 0x146 ≤ idx && idx < 0x14A then block 0x146 4
  else if 0x160 ≤ idx && idx < 0x1E0 then part 0x160 32
  else if 0x1E0 ≤ idx && idx < 0x300 then block 0x1E0 0x120
  else if 0x300 ≤ idx && idx < 0x1500 then part 0x300 0x240
  else if 0x23A0 ≤ idx && idx < 0x23D0 then part 0x23A0 16
  else if 0x23E1 ≤ idx && idx < 0x23ED then block 0x23E1 12
  else if 0x23EE ≤ idx && idx < 0x23F7 then part 0x23EE 3
  else if 0x838C ≤ idx && idx < 0x8400 then block 0x838C 116
  else [idx]

/-- A core after a write of word idx: its parts take the word, and those written before that they could not take; what they cannot
take stays as written until the core goes on (R417; log 62, DEDUCED). -/
def putWord (c : Core) (idx : Nat) (w : Word) : Core :=
  if pendingIdx idx then { c with overlay := assocSet idx w c.overlay }
  else
    let ks := wordsWith idx
    let old := ks.map fun k => (k, if k == idx then w else snapWord c [] 0 0 k)
    let mine := fun (p : Nat × Word) => ks.contains p.1 && p.1 != idx
    let c1 := (c.overlay.filter mine).foldl (fun d p => putHome d p.1 p.2) (putHome c idx w)
    { c1 with overlay := c.overlay.filter (fun p => !ks.contains p.1) ++ old.filter fun p => homeWord c1 [] 0 0 p.1 != p.2 }

/-! ## The limits of a word (R417) -/

/-- The bits of a word that are not Z. -/
def ones (lo n : Nat) : Nat := at' lo (2 ^ n - 1)

def allOnes : Nat := 2 ^ 64 - 1

def levelMask (j : Nat) : Nat := if j % 3 == 0 then ones 0 15 + ones 32 15 + ones 63 1 else ones 0 32

def engMask (k j : Nat) : Nat :=
  if j == 0 then ones 0 15
  else if j == 1 then allOnes
  else if j == 2 then ones 0 8
  else if j == 3 then (if k == 4 then ones 0 12 else 0)
  else if j < 16 then levelMask (j - 4)
  else if j < 20 then allOnes
  else if j < 24 then (if 2 ≤ k then allOnes else 0)
  else 0

def genMask (j : Nat) : Nat :=
  if j < 16 then allOnes
  else if j == 17 then ones 0 38
  else if j == 19 then ones 0 37
  else if j < 21 then ones 0 32
  else 0

def miscMask (j : Nat) : Nat :=
  match j with
  | 0 | 1 | 4 | 10 | 11 => allOnes
  | 2 => ones 0 40
  | 3 => ones 0 5 + ones 8 5 + ones 16 5 + ones 24 5
  | 5 => ones 0 12
  | 6 => ones 0 14 + ones 16 32
  | 7 | 8 => ones 0 52
  | 9 => ones 0 33
  | 12 => ones 0 2
  | 14 => ones 0 5
  | _ => 0

def queueMask (n k j : Nat) : Nat := if j == 0 then ones 0 6 + ones 32 n else if j ≤ n * k then allOnes else 0

def saqMask (j : Nat) : Nat :=
  if j == 0 then queueMask 32 8 0
  else if 256 < j then 0
  else match (j - 1) % 8 with
    | 5 => ones 0 16
    | 6 => ones 0 33
    | 7 => ones 0 5 + ones 8 48
    | _ => allOnes

def resultMask (n j : Nat) : Nat := if j == 0 then ones 0 6 else if j ≤ n then ones 0 56 + ones 63 1 else 0

def headMask (j : Nat) : Nat :=
  match j with
  | 5 => ones 0 5 + ones 8 56
  | 7 => ones 0 11 + ones 16 12 + ones 32 15
  | 8 => ones 0 13
  | 9 => 0xF7F7
  | 14 => ones 0 15
  | 15 => ones 0 58
  | _ => ones 0 32

def shadowMask (j : Nat) : Nat :=
  if j < 16 then allOnes
  else if j == 16 then ones 0 12 + ones 16 1
  else if j < 29 then levelMask (j - 17)
  else if j == 29 then ones 0 6
  else if j < 39 then resultMask 2 ((j - 30) % 3)
  else 0

def trapMask (j : Nat) : Nat :=
  if j == 3 then ones 0 4 + ones 8 48
  else if j < 3 then allOnes
  else if j < 12 then (if j % 2 == 0 then ones 4 51 + ones 56 2 + ones 63 1 else ones 0 16)
  else if j == 12 then ones 0 5
  else if j < 32 then 0
  else match (j - 32) % 6 with
    | 0 => ones 0 32
    | 4 => ones 0 58
    | 5 => ones 0 4 + ones 8 48
    | _ => allOnes

def snapMask (idx : Nat) : Nat :=
  if idx < 0x10 then headMask idx
  else if idx < 0x20 then ones 0 20
  else if idx < 0xC0 then engMask ((idx - 0x20) / 32) ((idx - 0x20) % 32)
  else if idx < 0xF8 then allOnes
  else if idx < 0x100 then 0
  else if idx < 0x140 then genMask ((idx - 0x100) % 32)
  else if idx < 0x160 then miscMask (idx - 0x140)
  else if idx < 0x1E0 then queueMask 16 1 ((idx - 0x160) % 32)
  else if idx < 0x300 then saqMask (idx - 0x1E0)
  else if idx < 0x1500 then queueMask 16 32 ((idx - 0x300) % 0x240)
  else if idx < 0x23A0 then allOnes
  else if idx < 0x23D0 then resultMask 8 ((idx - 0x23A0) % 16)
  else if idx < 0x2400 then shadowMask (idx - 0x23D0)
  else if idx < 0x8380 then allOnes
  else if idx < 0x8400 then trapMask (idx - 0x8380)
  else if (idx - 0x8400) % 130 == 129 then ones 0 35
  else allOnes

/-- The counts of a word lie inside the depths that they count. -/
def snapCounts (idx : Nat) (w : Word) : Bool :=
  if idx == 8 then 16 ≤ field w 0 13 && field w 0 13 ≤ 4096
  else if idx == 9 then field w 0 3 ≤ 4 && field w 8 3 ≤ 4
  else if 0x20 ≤ idx && idx < 0xC0 && (idx - 0x20) % 32 == 2 then field w 4 4 ≤ 11
  else if idx == 0x142 then (List.range 10).all fun i => field w (4 * i) 4 ≤ 8
  else if idx == 0x143 then (List.range 4).all fun i => field w (8 * i) 5 ≤ 16
  else if idx == 0x145 then (List.range 3).all fun i => field w (4 * i) 4 ≤ 8
  else if idx == 0x146 then field w 2 9 ≤ 256
  else if idx == 0x23ED then (List.range 3).all fun i => field w (2 * i) 2 ≤ 2
  else if 0x23A0 ≤ idx && idx < 0x23D0 && (idx - 0x23A0) % 16 == 0 then field w 0 6 ≤ 8
  else if 0x23EE ≤ idx && idx < 0x23F7 && (idx - 0x23EE) % 3 == 0 then field w 0 6 ≤ 2
  else if 0x160 ≤ idx && idx < 0x1E0 && (idx - 0x160) % 32 == 0 then field w 0 6 ≤ 16
  else if idx == 0x1E0 then field w 0 6 ≤ 32
  else if 0x300 ≤ idx && idx < 0x1500 && (idx - 0x300) % 0x240 == 0 then field w 0 6 ≤ 16
  else if 0x100 ≤ idx && idx < 0x140 && ((idx - 0x100) % 32 == 17 || (idx - 0x100) % 32 == 19) then field w 34 3 ≤ 5
  else if idx == 0x838C then field w 0 5 ≤ 16
  else true

/-- A value keeps to the limits of a word's fields. -/
def snapFits (idx : Nat) (w : Word) : Bool := w.toNat &&& snapMask idx == w.toNat && snapCounts idx w

/-! ## A written pending region, when the core goes on (R417) -/

/-- The records of a region; none when a LEN passes the region. -/
def splitRecords : Nat → List Word → Option (List (List Word))
  | 0, _ => none
  | _ + 1, [] => some []
  | k + 1, w :: ws =>
    if w == 0 then some []
    else
      let n := field w 48 16
      if n == 0 || ws.length + 1 < n then none
      else (splitRecords k (ws.drop (n - 1))).map fun l => (w :: ws.take (n - 1)) :: l

def blockOfWords (ws : List Word) : Block := (List.range 32).foldl (fun x j => setWordAt x j (ws.getD j 0)) 0
def rowOfWords (ws : List Word) : Row := (List.range 130).foldl (fun x j => setRowWord x j (ws.getD j 0)) Row.launch

/-- The queue of an engine that a code names. -/
def queueOf (eng tgt : Nat) : Option QId :=
  if eng == 1 && 48 ≤ tgt && tgt < 52 then some (.lq ⟨(tgt - 48) % 4, Nat.mod_lt _ (by decide)⟩)
  else if eng == 2 && tgt == 35 then some (.sq 1)
  else if eng == 3 && tgt == 48 then some (.sq 0)
  else if eng == 3 && (tgt == 49 || tgt == 50) then some (.mq ⟨(tgt - 49) % 2, Nat.mod_lt _ (by decide)⟩)
  else none

/-- The landing that a record's header and payload describe; none when it breaks R411. -/
def landOf (c : Core) (kind tgt idx eng : Nat) (ps : List Word) : Option Land :=
  let w := ps.headD 0
  let n := ps.length
  match kind with
  | 1 =>
    if n == 1 then
      if eng == 0 && tgt < 32 then some (.s ⟨tgt % 32, Nat.mod_lt _ (by decide)⟩ w)
      else if eng == 0 && tgt < 48 then some (.h ⟨tgt % 16, Nat.mod_lt _ (by decide)⟩ w)
      else if eng == 1 && tgt < 16 then some (.a ⟨tgt % 16, Nat.mod_lt _ (by decide)⟩ w)
      else if eng == 1 && 32 ≤ tgt && tgt < 40 then some (.d ⟨tgt % 8, Nat.mod_lt _ (by decide)⟩ w)
      else if (eng == 2 && 24 ≤ tgt && tgt < 28) || ((eng == 3 || eng == 4) && tgt < 4) then
        some (.e ⟨tgt % 4, Nat.mod_lt _ (by decide)⟩ w)
      else none
    else if n == 32 && tgt < 48 && (eng == 2 || eng == 3) then some (.v ⟨tgt % 48, Nat.mod_lt _ (by decide)⟩ (blockOfWords ps))
    else if n == 4 && eng == 3 && tgt < 8 then
      some (.k ⟨tgt % 8, Nat.mod_lt _ (by decide)⟩ ((List.range 4).foldl (fun x j => setWordAt x j (ps.getD j 0)) 0))
    else none
  | 2 =>
    match queueOf eng tgt with
    | none =>
      match (if eng == 1 && tgt == 52 && n == 8 then c.r.saq.slots[idx]? else none) with
      | none => none
      | some t =>
        if t.data.isNone then some (.saq t.sid ((List.range 8).foldl (fun x j => setSaqWord x j (ps.getD j 0)) .zero)) else none
    | some q =>
      match (c.r.blockQ q).bind fun f => f.slots[idx]? with
      | none => none
      | some t => if n == 32 && t.data.isNone then some (.slot q t.sid (blockOfWords ps)) else none
  | 3 =>
    if eng != 2 || tgt != 36 then none
    else if n == 128 then
      some (.rowAcc idx 256 (c.r.row idx).int ((List.range 128).foldl (fun x j => setWordAt x j (ps.getD j 0)) 0) 0)
    else if n == 130 then some (.row idx (rowOfWords ps))
    else none
  | 4 =>
    if eng != 2 then none
    else if n == 34 && tgt == 28 && idx < 64 then some (.pbuf idx ((List.range 34).foldl (fun x j => setPRowWord x j (ps.getD j 0)) .launch))
    else if n == 4 && tgt == 0 then some (.smx ((List.range 4).foldl (fun x j => setWordAt x j (ps.getD j 0)) 0))
    else none
  | 6 => if n == 0 then (if h : tgt < 10 then some (.token ⟨tgt, h⟩ 0) else none) else none
  | 8 =>
    if n != 1 then none
    else if eng == 3 && tgt == 0 then some (.vovf w.toNat)
    else if eng == 2 && tgt == 36 then some (.rowOvf idx w.toNat)
    else none
  | _ => none

/-- The elements of a kind-5 payload. -/
def elemsOf : List Word → List (Nat × Nat)
  | a :: n :: ws => (a.toNat, n.toNat) :: elemsOf ws
  | _ => []

/-- What a record that is no operation of the core's own describes. -/
inductive Fresh where
  | land (e : Engine) (rem : Nat) (l : Land)
  | again (e : Engine) (tgt idx pc : Nat) (elems : List (Nat × Nat))
  | occ (word run : Nat)
  deriving DecidableEq, Repr

/-- The target of a read to perform again: a register of C or A, or an entry of lq that waits for its data (R411). -/
def readTarget (c : Core) (e : Engine) (tgt idx : Nat) : Bool :=
  match e with
  | .c => tgt < 48
  | .a => tgt < 16 || (48 ≤ tgt && tgt < 52 &&
      (((vget c.r.lq .empty (tgt - 48)).slots[idx]?).map fun t => t.data.isNone).getD false)
  | _ => false

/-- What a written record describes; none when it breaks R411. One of M's occupancy names the instruction that M is in (log 62, DEDUCED). -/
def freshOf (c : Core) (rec' : List Word) : Option Fresh :=
  let h := rec'.headD 0
  let ps := rec'.drop 1
  let kind := field h 0 8
  let tgt := field h 8 8
  let idx := field h 16 9
  let rem := field h 32 16
  match engOfNum (field h 25 3) with
  | none => none
  | some e =>
    if field h 28 4 != 0 then none
    else if kind == 5 then
      if 2 ≤ ps.length && ps.length % 2 == 0 && readTarget c e tgt idx && field (ps.headD 0) 15 49 == 0 &&
          ps.getD 1 0 == word (tgt + at' 8 idx) then
        some (.again e tgt idx (ps.headD 0).toNat (elemsOf (ps.drop 2)))
      else none
    else if kind == 7 then
      match c.r.occ with
      | some o =>
        if ps.length == 2 && e == .m && tgt == 0 && (ps.getD 0 0).toNat == o.word && (ps.getD 1 0).toNat < o.total then
          some (.occ (ps.getD 0 0).toNat (ps.getD 1 0).toNat)
        else none
      | none => none
    else if rem == 0 then none
    else (landOf c kind tgt idx (field h 25 3) ps).map fun l => .land e rem l

/-- The region of a core as its overlay leaves it. -/
def regionWords (c : Core) (reads : List Read) : List Word :=
  let ws := pendWords c reads
  let top := ((c.overlay.filter fun p => pendingIdx p.1).foldl (fun (n : Nat) (p : Nat × Word) => max n (p.1 - 0x2400 + 1)) 0).max
    ws.length
  (List.range top).map fun i => match c.overlay.find? fun p => p.1 == i + 0x2400 with
    | some p => p.2
    | none => ws.getD i 0

/-- Splits off the first held operation with the words given. -/
def takeHeld (r : Regs) (ws : List Word) : List Held → Option (Held × List Held)
  | [] => none
  | x :: xs => if x.words r == ws then some (x, xs) else (takeHeld r ws xs).map fun y => (y.1, x :: y.2)

/-- Sorts the records into operations that the core had, and others; none when a record breaks R411. -/
def matchRecords (c : Core) : List (List Word) → List Held → Option (List Held × List Fresh)
  | [], _ => some ([], [])
  | ws :: rest, hs =>
    match takeHeld c.r ws hs with
    | some (x, hs') => (matchRecords c rest hs').map fun y => (x :: y.1, y.2)
    | none =>
      match freshOf c ws with
      | none => none
      | some f => (matchRecords c rest hs).map fun y => (y.1, f :: y.2)

/-- An operation put in flight again. -/
def addHeld (c : Core) : Held → Core
  | .pend .c true p => { c with cr := { c.cr with sh := { c.cr.sh with pend := c.cr.sh.pend ++ [p] } } }
  | .pend .c false p => { c with r := { c.r with eC := { c.r.eC with pend := c.r.eC.pend ++ [p] } } }
  | .pend .a _ p => { c with r := { c.r with eA := { c.r.eA with pend := c.r.eA.pend ++ [p] } } }
  | .pend .m _ p => { c with r := { c.r with eM := { c.r.eM with pend := c.r.eM.pend ++ [p] } } }
  | .pend .v _ p => { c with r := { c.r with eV := { c.r.eV with pend := c.r.eV.pend ++ [p] } } }
  | .pend .s _ p => { c with r := { c.r with eS := { c.r.eS with pend := c.r.eS.pend ++ [p] } } }
  | .read _ => c
  | .occ o => { c with r := { c.r with occ := some o } }

/-- A core with nothing in flight. -/
def clearPend (c : Core) : Core :=
  let z := fun (x : Eng) => { x with pend := [] }
  { c with
    r := { c.r with eC := z c.r.eC, eA := z c.r.eA, eM := z c.r.eM, eV := z c.r.eV, eS := z c.r.eS, occ := none }
    cr := { c.cr with sh := z c.cr.sh }
    overlay := [] }

/-- The bytes of elements, each read now by the engine of the core in focus. -/
def readAgain (e : Engine) : List (Nat × Nat) → State → Except Stop (List Byte × List (Nat × Nat) × State)
  | [], s => .ok ([], [], s)
  | (a, n) :: t, s => do
    let va := word a
    let r ← s.readA e (if e == .c then .c else .strm 2) va n 1
    let x ← readAgain e t r.st
    .ok (r.bytes ++ x.1, r.far ++ x.2.1, x.2.2)

/-- Whether the load at a word of a core sign-extends, and its size. -/
def loadForm (c : Core) (shadow : Bool) (pc : Nat) : Nat × Bool :=
  let t := if shadow then c.pager else c.text
  match decode (t.getD pc 0) (t.getD (pc + 1) 0) with
  | .ok (.ld _ _ _ o) => (ldSize o, ldSigned o)
  | .ok (.ald _ _ _ o) => (ldSize o, ldSigned o)
  | _ => (8, false)

/-- A read to perform again (R407, R411): a fault of it pends as its engine's cause. -/
def State.restart (s : State) (e : Engine) (tgt idx pc : Nat) (elems : List (Nat × Nat)) : State :=
  match readAgain e elems s with
  | .error (.trap c) => (s.report c).modCr fun r => { r with pending := r.pending ++ [c.bare.atWord s e pc] }
  | .error _ => s
  | .ok (bs, far, t) =>
    let form := loadForm t.core (e == .c && 32 ≤ tgt) pc
    let x := extend form.1 form.2 (bs.take form.1)
    let fix := fun (u : State) (k : Nat) => { u with reads := u.reads.map fun r => if r.id == k then { r with word := pc } else r }
    if e == .c then
      let u := t.awaitReg .c (if tgt < 32 then .s ⟨tgt % 32, Nat.mod_lt _ (by decide)⟩ x
        else .h ⟨tgt % 16, Nat.mod_lt _ (by decide)⟩ x) far elems
      fix u.1 u.2
    else if tgt < 16 then
      let u := t.awaitReg .a (.a ⟨tgt % 16, Nat.mod_lt _ (by decide)⟩ x) far elems
      fix u.1 u.2
    else
      let q : Fin 4 := ⟨tgt % 4, Nat.mod_lt _ (by decide)⟩
      match t.core.r.lq[q].slots[idx]? with
      | none => t
      | some sl =>
        let u := t.await .a (.slot q sl.sid (blockOf bs)) far elems
        fix u.1 u.2

/-- A record that is not the core's own is put in flight. An occupancy comes from the work that the core had there. -/
def addFresh (old : Option Occ) (s : State) : Fresh → State
  | .land e rem l =>
    s.modCore (addHeld · (.pend e (match l with | .h _ _ => true | _ => false) ⟨rem, l, s.cycle⟩))
  | .again e tgt idx pc elems => s.restart e tgt idx pc elems
  | .occ w run =>
    match old with
    | some o => s.modR fun r => { r with occ := some { o with word := w, run := run } }
    | none => s

/-- The pending region as it was written takes effect on the core in focus; none when a record breaks R411. -/
def State.reload (s : State) : Option State :=
  let c := s.core
  if !(c.overlay.any fun p => pendingIdx p.1) then some (s.modCore fun c => { c with overlay := [] })
  else
    let mine := fun (r : Read) => r.core == c.id && r.shown
    match (splitRecords 24449 (regionWords c s.reads)).bind fun rs => matchRecords c rs (c.inFlight s.reads) with
    | none => none
    | some (kept, fresh) =>
      let keptIds := kept.filterMap fun h => match h with | .read r => some r.id | _ => none
      let s1 := { s with
        reads := s.reads.filter fun r => !mine r || keptIds.contains r.id
        core := kept.foldl addHeld (clearPend c) }
      some (fresh.foldl (addFresh c.r.occ) s1)

end Sys2Proof.Machine
end

