-- ==== Sys2Proof/Machine/Control.lean ====
section
/-! DEFINITION. The control registers: their levels, reads and writes, and CRR and CRW (13 R394 to R397, R408, R415; 01 R19,
R20; 08 R291; 09 R349; 14 R434 to R457; 21 R535 to R548; 22 R551 to R567). -/

namespace Sys2Proof.Machine

open Sys2Proof

/-! ## Levels (R394, R396, R397) -/

/-- The least levels that may read and write a register; no level where no map names it, or none may write it (log 50, DEDUCED). -/
def ctlLevels (n : Nat) : Option (Nat × Option Nat) :=
  if n < 4 then some (0, none)
  else if n < 6 then some (0, some 0)
  else if n == 6 || (0x10 ≤ n && n < 0x20) then some (0, none)
  else if 0x20 ≤ n && n < 0x25 then some (1, none)
  else if n == 0x25 then some (1, some 1)
  else if n == 0x26 then some (1, some 2)
  else if n == 0x27 then some (0, none)
  else if 0x30 ≤ n && n < 0x34 then some (0, some 2)
  else if n == 0x40 then some (0, none)
  else if n == 0x41 || n == 0x42 then some (2, none)
  else if 0x50 ≤ n && n < 0x56 then some (1, some 2)
  else if 0x60 ≤ n && n < 0x68 then some (0, none)
  else if n == 0x80 then some (1, some 2)
  else if n == 0x81 then some (1, some 1)
  else if n == 0x82 then some (1, none)
  else if 0x83 ≤ n && n < 0x88 then some (1, some 1)
  else if 0x88 ≤ n && n < 0x8C then some (2, some 2)
  else if n == 0x90 then some (0, some 3)
  else if n == 0x91 then some (0, some 2)
  else if n == 0x92 || n == 0x93 then some (2, none)
  else if n == 0x94 then some (3, some 3)
  else if 0xA0 ≤ n && n < 0xBE then some (0, none)
  else if 0xC0 ≤ n && n < 0xDA then some (0, none)
  else if n == 0xDF then some (0, some 0)
  else if n == 0xE0 then some (1, some 1)
  else if n == 0xE8 then some (2, none)
  else none

/-- The privilege fault of C's own instruction (R394, R399). -/
def privFault (s : State) : Stop := .trap (causeAt s .c 0x02 0)

/-- An illegal word of C, with its detail code (05 R152). -/
def illegalFault (s : State) (detail : Nat) : Stop := .trap (causeAt s .c 0x01 detail)

/-- C runs at a level or above it (R394). -/
def needLevel (s : State) (n : Nat) : Except Stop Unit :=
  if n ≤ s.core.cr.lvl.toNat then .ok () else .error (privFault s)

/-! ## The function that a register names (R438) -/

/-- The virtual function that the segment registers, S1TB, MIGCTL and the dirty-tracking registers name: VFSEL's at hyper
level, the own one below. -/
def State.selVf (s : State) : Nat := if 2 ≤ s.core.cr.lvl.toNat then s.core.cr.vfsel.toNat else s.vf

/-! ## The counters of the keys (R424) -/

def State.keySlot (s : State) (k : Nat) : BitVec 256 × Word := assocGet (0, 0) k s.plat.keys
def State.setKeySlot (s : State) (k : Nat) (x : BitVec 256 × Word) : State :=
  { s with plat := { s.plat with keys := assocSet k x s.plat.keys } }

/-! ## Reads -/

def Plat.clkdiv (p : Plat) : Word := word (p.div + at' 4 p.divNext.isSome.toNat)
def Plat.holst (p : Plat) : Word := word (p.hst + at' 16 (min p.hcnt 0xFFFF) + at' 32 (min p.hlast 0xFFFFFFFF))

/-- PWRGNT of a plain (21 R542). -/
def pwrgnt (p : Nat × Nat) : Word := word (p.1 + at' 2 p.2 + at' 4 (max p.1 p.2))

/-- STRST of the strath of a vale: 8 vales make a strath (21 R537). -/
def State.strst (s : State) : Word :=
  let x := vget s.plat.straths .reset (s.valeIdx / 8)
  word (x.volt + at' 12 x.maxv.toNat + at' 16 (min x.rply 0xFFFFFFFF))

/-- SPST (22 R567). -/
def State.spst (s : State) : Word :=
  let x := assocGet Spare.reset s.valeIdx s.plat.spares
  word (x.csp.toNat + at' 1 x.rows + at' 5 x.cols + at' 9 x.bnk + at' 11 (vget s.plat.vsp 0 s.core.id.plain) +
    at' 13 x.drn.toNat)

/-- The value of a control register as CRR reads it (log 50, DEDUCED). -/
def State.ctlRead (s : State) (n : Nat) : Word :=
  let r := s.core.cr
  let f := s.vfunOf s.selVf
  if n == 0 then r.priv
  else if n == 1 then r.gang
  else if n == 2 then r.domm
  else if n == 3 then r.spw
  else if n == 4 then word r.slipw
  else if n == 5 then word r.vovf.toNat
  else if n == 6 then word r.fmtsrc.toNat
  else if 0x10 ≤ n && n < 0x20 then word (vget r.fmte 0 (n - 0x10)).toNat
  else if n == 0x20 then r.cause
  else if n == 0x21 then r.trapPc
  else if n == 0x22 then r.trapWord
  else if n == 0x23 then r.trapAddr
  else if n == 0x24 then r.trapPos
  else if n == 0x25 then r.eretPc
  else if n == 0x26 then word f.pagerlv.toNat
  else if n == 0x27 then snapVer
  else if n == 0x30 then word (s.vale s.valeIdx).leaseb
  else if n == 0x31 then (vget s.bugles .reset s.core.id.plain).space
  else if n == 0x32 then (vget s.bugles .reset s.core.id.plain).ph0
  else if n == 0x33 then (vget s.bugles .reset s.core.id.plain).ph1
  else if n == 0x40 then word r.acctid.toNat
  else if n == 0x41 then word r.keyslot.toNat
  else if n == 0x42 then (s.keySlot (r.keyslot.toNat % 64)).2
  else if 0x50 ≤ n && n < 0x56 then (if n % 2 == 0 then vget f.segb 0 ((n - 0x50) / 2) else vget f.segl 0 ((n - 0x50) / 2))
  else if 0x60 ≤ n && n < 0x64 then vget r.wp 0 (n - 0x60)
  else if 0x64 ≤ n && n < 0x68 then word (vget r.wpm 0 (n - 0x64)).toNat
  else if n == 0x80 then word s.selVf
  else if n == 0x81 then f.s1tb
  else if n == 0x82 then r.trapWalk
  else if n == 0x83 then f.migctl
  else if n == 0x84 then r.lxa
  else if n == 0x85 then r.lxold
  else if n == 0x86 then r.lxnew
  else if n == 0x87 then word r.lxgo
  else if n == 0x88 then f.dtctl
  else if 0x89 ≤ n && n < 0x8C then vget f.dtb 0 (n - 0x89)
  else if n == 0x90 then s.plat.clkdiv
  else if n == 0x91 then pwrgnt (vget s.plat.pwr (0, 0) s.core.id.plain)
  else if n == 0x92 then s.strst
  else if n == 0x93 then s.plat.holst
  else if n == 0x94 then word (s.plat.wdly + at' 16 s.plat.auto.toNat)
  else if 0xA0 ≤ n && n < 0xBE then vget r.hcnt 0 (n - 0xA0)
  else if 0xC0 ≤ n && n < 0xD0 then vget r.fwcnt 0 (n - 0xC0)
  else if 0xD0 ≤ n && n < 0xDA then vget r.twcnt 0 (n - 0xD0)
  else if n == 0xDF then r.hcctl
  else if n == 0xE0 then r.trctl
  else if n == 0xE8 then s.spst
  else 0

/-! ## Writes -/

/-- x inside lo to hi. -/
def clamp (lo hi x : Nat) : Nat := max lo (min hi x)

/-- SEGTL of a write: MRES stops at ⌊LEN / 16 MiB⌋, and is Z in SEGHL (R436). -/
def seglOf (t : Nat) (w : Word) : Word :=
  let len := field w 16 32
  word (field w 0 1 + at' 16 len + at' 48 (if t == 2 then 0 else min (field w 48 16) (len / 256)))

/-- A field of two bits of PWRGNT: 3 stores 2. -/
def grant (x : Nat) : Nat := min x 2

/-- A write of CLKDIV waits for its boundary, one made in a hollow entry or the hollow state for the wake (21 R535, R536). -/
def Plat.writeDiv (p : Plat) (w : Word) : Plat :=
  { p with divNext := some (clamp 1 8 (field w 0 4)), divAge := 0, divHeld := p.hst != 0 }

/-- A write of HCCTL (22 R552). -/
def CReg.writeHcctl (r : CReg) (w : Word) : CReg :=
  let r1 := { r with hcctl := word (field w 0 1 + at' 2 (field r.hcctl 2 1)) }
  if w.getLsbD 1 then
    { r1 with hcnt := Vector.replicate 30 0, fwcnt := Vector.replicate 16 0, twcnt := Vector.replicate 10 0 }
  else r1

/-- A write of the dirty-tracking control: a change of CUR sets FLP (14 R453, R454). -/
def dtctlWrite (f : VFun) (w : Word) : VFun :=
  let cur := w.getLsbD 3
  { f with dtctl := mkDtctl (field w 0 3) cur (f.dtctl.getLsbD 4 || cur != f.dtctl.getLsbD 3) }

/-- A write of TRCTL: an engine code of 5 to 7 stores 0 (22 R555). -/
def trctlOf (w : Word) : Word :=
  word (field w 0 1 + at' 1 (if field w 1 3 < 5 then field w 1 3 else 0) + at' 4 (field w 4 1))

def State.modBugle (s : State) (f : Bugle → Bugle) : State :=
  { s with bugles := vmod s.bugles .reset s.core.id.plain f }

/-- A write of the leaf-exchange registers, ignored while an exchange is in progress (14 R448). -/
def CReg.writeLx (r : CReg) (n : Nat) (w : Word) : CReg :=
  if r.lxgo == 1 then r
  else if n == 0x84 then { r with lxa := w }
  else if n == 0x85 then { r with lxold := w }
  else if n == 0x86 then { r with lxnew := w }
  else if w == 1 then { r with lxgo := 1 }
  else r

/-- A control register takes a written value, the core that wrote it in focus. -/
def State.ctlWrite (s : State) (c : CtlWrite) : State :=
  let n := c.num
  let w := c.val
  let vf := fun (f : VFun → VFun) => s.modVf c.vf f
  if n == 4 then s.modCr fun r => { r with slipw := clamp 16 4096 (field w 0 13) }
  else if n == 0x25 then s.modCr fun r => { r with eretPc := word (field w 0 15) }
  else if n == 0x26 then vf fun f => { f with pagerlv := BitVec.ofNat 2 (clamp 1 2 (field w 0 2)) }
  else if n == 0x30 then s.modVale s.valeIdx fun x => { x with leaseb := clamp 1 256 (field w 0 9) }
  else if n == 0x31 then s.modBugle fun b => { b with space := word (max 1 (field w 0 8) + at' 8 (field w 8 3)) }
  else if n == 0x32 then s.modBugle fun b => { b with ph0 := w &&& 0x7777777777777777 }
  else if n == 0x33 then s.modBugle fun b => { b with ph1 := w &&& 0x7777777777777777 }
  else if n == 0x40 then s.modCr fun r => { r with acctid := w.extractLsb' 0 12 }
  else if 0x50 ≤ n && n < 0x56 then
    let t := (n - 0x50) / 2
    if n % 2 == 0 then vf fun f => { f with segb := vset f.segb t (word (at' 16 (field w 16 32))) }
    else vf fun f => { f with segl := vset f.segl t (seglOf t w) }
  else if 0x60 ≤ n && n < 0x64 then s.modCr fun r => { r with wp := vset r.wp (n - 0x60) w }
  else if 0x64 ≤ n && n < 0x68 then s.modCr fun r => { r with wpm := vset r.wpm (n - 0x64) (w.extractLsb' 0 16) }
  else if n == 0x80 then s.modCr fun r => { r with vfsel := w.extractLsb' 0 5 }
  else if n == 0x81 then vf fun f => { f with s1tb := word (field w 0 1 + at' 16 (field w 16 32)) }
  else if n == 0x83 then vf fun f => { f with migctl := word (field w 0 1) }
  else if 0x84 ≤ n && n < 0x88 then s.modCr fun r => r.writeLx n w
  else if n == 0x88 then vf fun f => dtctlWrite f w
  else if 0x89 ≤ n && n < 0x8C then vf fun f => { f with dtb := vset f.dtb (n - 0x89) (word (at' 8 (field w 8 40))) }
  else if n == 0x90 then { s with plat := s.plat.writeDiv w }
  else if n == 0x91 then
    { s with plat := { s.plat with pwr := vmod s.plat.pwr (0, 0) s.core.id.plain fun p =>
        (if c.lvl == 3 then grant (field w 0 2) else p.1, grant (field w 2 2)) } }
  else if n == 0x94 then { s with plat := { s.plat with wdly := field w 0 16, auto := w.getLsbD 16 } }
  else if n == 0xDF then s.modCr fun r => r.writeHcctl w
  else if n == 0xE0 then s.modCr fun r => { r with trctl := trctlOf w }
  else s

/-- At the end of a cycle the writes made in it take effect (R415; log 50, DEDUCED). -/
def State.ctlCommit (s : State) : State :=
  s.ctl.foldl (fun t c => t.onCore c.core fun u => u.ctlWrite c) { s with ctl := [] }

/-- A write of this cycle (log 50, DEDUCED). -/
def State.ctlLater (s : State) (n : Nat) (w : Word) : State :=
  { s with ctl := s.ctl ++ [⟨s.core.id, s.core.cr.lvl.toNat, s.selVf, n, w⟩] }

/-! ## CRR and CRW (R413, R415) -/

/-- CRR. -/
def execCrr (m : Marks) (d : Fin 32) (n : BitVec 12) (s : State) : Host.Outcome State Fault Refusal :=
  issue .c 2 m (fun t =>
    match ctlLevels n.toNat with
    | none => .error (illegalFault t 4)
    | some (rd, _) => do
      needLevel t rd
      .ok { st := t.putC 1 d (t.ctlRead n.toNat) }) s

/-- CRW. A write of VOVF comes before the additions of its cycle (02 R78); every other takes effect from the next (log 50, DEDUCED). -/
def execCrw (m : Marks) (a : Fin 32) (n : BitVec 12) (s : State) : Host.Outcome State Fault Refusal :=
  issue .c 2 m (fun t =>
    match ctlLevels n.toNat with
    | none => .error (illegalFault t 4)
    | some (_, none) => .error (privFault t)
    | some (_, some wr) => do
      needLevel t wr
      let w := t.sReg a
      .ok { st := if n.toNat == 5 then t.modCr fun r => { r with vovf := w.extractLsb' 0 32 } else t.ctlLater n.toNat w }) s

end Sys2Proof.Machine
end

