-- ==== Sys2Proof/Machine/Mat.lean ====
section
/-! DEFINITION. Streaming rows through the plate, and rows in and out: MMA, MMAS, MZERO, MEPI, MMOV, MMOVA, MFMT, MSTAT, and
the cycles of M's long instructions (02 R84 to R86; 08 R283 to R285, R305 to R317). -/

namespace Sys2Proof.Machine

open Sys2Proof

/-! ## Array arithmetic (02 R84 to R86) -/

/-- The exponent of the smallest step of a floating format: every finite value is a whole multiple of 2 to it. -/
def fmtStep (f : Fmt) : Int := 2 - (fmtBias f : Int) - (fmtPrec f : Int)

/-- A code as the array reads it: NaN, infinity, sign, and a multiple of 2^fmtStep. -/
structure Elem where
  nan : Bool
  inf : Bool
  neg : Bool
  n   : Int

def elemOf (f : Fmt) (c : Nat) : Elem :=
  match decodeFmt f c with
  | .nan => ⟨true, false, false, 0⟩
  | .inf s => ⟨false, true, s, 0⟩
  | .fin s a d =>
    let p := scaleFrac a d (fmtStep f)
    ⟨false, false, s, signed s (p.1 / p.2)⟩

/-- What 32 products come to: NaN, infinities of each sign, the exact sum, whether every product is −0. -/
structure GroupSum where
  nan  : Bool
  pinf : Bool
  ninf : Bool
  n    : Int
  mz   : Bool

def GroupSum.start : GroupSum := ⟨false, false, false, 0, true⟩

/-- One product joins a group. -/
def GroupSum.join (g : GroupSum) (a b : Elem) : GroupSum :=
  let neg := a.neg != b.neg
  if a.nan || b.nan then { g with nan := true, mz := false }
  else if a.inf || b.inf then
    if (a.inf && !b.inf && b.n == 0) || (b.inf && !a.inf && a.n == 0) then { g with nan := true, mz := false }
    else if neg then { g with ninf := true, mz := false } else { g with pinf := true, mz := false }
  else
    let p := a.n * b.n
    { g with n := g.n + p, mz := g.mz && p == 0 && neg }

/-- The group value of R84, rounded to FP32 once with saturation; and its ovf. -/
def GroupSum.value (fa fb : Fmt) (g : GroupSum) (sa sb : Num) : Nat × Bool :=
  if g.nan || sa.isNan || sb.isNan || (g.pinf && g.ninf) then toFmt .nan .f32 true
  else if g.pinf then toFmt (.inf false) .f32 true
  else if g.ninf then toFmt (.inf true) .f32 true
  else
    let x := Num.scaled (decide (g.n < 0) || (g.n == 0 && g.mz)) g.n.natAbs (fmtStep fa + fmtStep fb)
    toFmt ((x.mul sa).mul sb) .f32 true

/-- The tree of add32 over group values (R85). -/
def groupTree : List (BitVec 32 × Bool) → List (BitVec 32 × Bool)
  | x :: y :: t => (let r := add32 x.1 y.1; (r.1, r.2 || x.2 || y.2)) :: groupTree t
  | t => t

/-- One column of a row through the plate: the t value and whether anything saturated. -/
def columnValue (fa fb : Fmt) (groups : Nat) (a b : Nat → Nat) (sa sb : Nat → Num) : BitVec 32 × Bool :=
  let g := (List.range groups).map fun g =>
    let s := (List.range 32).foldl
      (fun (x : GroupSum) k => x.join (elemOf fa (a (32 * g + k))) (elemOf fb (b (32 * g + k)))) .start
    let r := s.value fa fb (sa g) (sb g)
    (BitVec.ofNat 32 r.1, r.2)
  (groupTree (groupTree (groupTree g))).headD (0, false)

/-- One column of an INT8 row (R86). -/
def columnInt (a b : Nat → Nat) : BitVec 32 :=
  BitVec.ofInt 32 ((List.range 256).foldl (fun (x : Int) k => x + laneInt 8 (a k) * laneInt 8 (b k)) 0)

/-- Container g of eight. -/
def contOf (x : BitVec 128) (g : Nat) : Nat := (x.extractLsb' (16 * g) 16).toNat

/-- A streamed row against the plate: the t values of every column, packed, and the columns that saturated (R306). -/
def streamRow (f : BitVec 20) (p : Plate) (row : Block) (sa : BitVec 128) : BitVec 8192 × BitVec 256 :=
  let fa := (Fmt.ofCode (fmtA f)).getD .i8
  let fb := (Fmt.ofCode (fmtB f)).getD .i8
  let w := if p.tag.wide then 16 else 8
  let cols := if p.tag.wide then 128 else 256
  let scm := fmtScm f
  let a := fun k => lane w row k
  let b := fun n k => lane w (p.rows.getD k 0) n
  let sav := fun g => if scm then scaleValue (containerCode (contOf sa g)) else .fin false 1 1
  let sbv := fun n g =>
    if scm then scaleValue (containerCode (((p.scales.getD g 0).extractLsb' (16 * n) 16).toNat)) else .fin false 1 1
  let col := fun n => if fa == .i8 then (columnInt a (b n), false) else columnValue fa fb (cols / 32) a (b n) sav (sbv n)
  let out := (List.range cols).map col
  (BitVec.ofNat 8192 (packLanes 32 (fun n => (out.getD n (0, false)).1.toNat) cols),
   BitVec.ofNat 256 (packLanes 1 (fun n => (out.getD n (0, false)).2.toNat) cols))

/-! ## Row operands (R289, R290) -/

/-- A row range within acc.0 to acc.511. -/
def rangeOk (a n : Nat) : Bool := a + n ≤ 512

/-- The rows of a range. -/
def rowsFrom (a n : Nat) : List Nat := (List.range n).map (a + ·)

/-- Every row of a range has INT as needed. -/
def typeOk (r : Regs) (a n : Nat) (int : Bool) : Bool := (rowsFrom a n).all fun i => (r.row i).int == int

/-! ## MMA and MMAS (R305 to R309) -/

/-- The A row that a source gives in a cycle, and the state after its pop or read. -/
def aRow (src : MSrc) (d : Option TileRef) (i : Nat) (s : State) : Except Stop (Block × State) :=
  match src, d with
  | .q q, _ => do
    let (x, r) ← s.core.r.qPop (mqId q)
    .ok (x, s.modR fun _ => r)
  | .pbuf, _ => .ok ((s.core.r.prow i).codes, s)
  | .pair _, some t => readRow t i s
  | .pair _, none => .ok (0, s)

/-- The scale containers of a row. -/
def aScale (src : Option MSrc) (d : Option TileRef) (i : Nat) (s : State) : Except Stop (BitVec 128 × State) :=
  match src, d with
  | none, _ => .ok (0x00FE00FE00FE00FE00FE00FE00FE00FE, s)
  | some (.q q), _ => do
    let (x, r) ← s.core.r.qPop (mqId q)
    .ok (x.setWidth 128, s.modR fun _ => r)
  | some .pbuf, _ => .ok ((s.core.r.prow i).conts, s)
  | some (.pair _), some t => readConts t i s
  | some (.pair _), none => .ok (0, s)

/-- The tiles of the pairs that an array command kept at its issue. -/
def keptTile (x y : Word) (t : Nat) : MSrc → Option TileRef
  | .pair _ => some (tileRef x y t)
  | _ => none

/-- Row i of an array command streams: in the command's (i + 1)-th advancing cycle it is read and multiplied, and 12
cycles from then, this one counted, it lands (R306 to R309). -/
def mmaRow (d : Nat) (src : MSrc) (sc : Option MSrc) (tile : Nat) (f : BitVec 20) (desc : Vector Word 4) (i : Nat)
    (s : State) : Except Stop State := do
  let (row, s1) ← aRow src (keptTile desc[0] desc[1] tile src) i s
  let (sa, s2) ← aScale sc (sc.bind fun x => keptTile desc[2] desc[3] 0 x) i s1
  match (s.vale s.valeIdx).plate with
  | none => .ok s2
  | some p =>
    if p.failed then .ok (s2.post .m 12 (.rowWithheld (d + i)))
    else
      let t := streamRow f p row sa
      let land : Land := .rowAcc (d + i) (if p.tag.wide then 128 else 256) ((Fmt.ofCode (fmtA f)) == some .i8) t.1 t.2
      match takeFlaw (rowFlaw s.valeIdx) s2.flaws with
      | none => .ok (s2.post .m 12 land)
      | some (twice, fs) =>
        let s3 := ({ s2 with flaws := fs }.arrayRerun 13).modR fun r =>
          { r with mstat := { r.mstat with rrn := min (r.mstat.rrn + 1) 0xFFFF } }
        if twice then
          .ok ((s3.alert (0x4000 + s.valeIdx) 4 [1, d + i, 1]).post .m 12 (.rowWithheld (d + i)))
        else .ok ((s3.alert (0x4000 + s.valeIdx) 3 [1, d + i, 1]).post .m 12 land)

/-- The pair that a source names, checked for n rows of len bytes. -/
def keepPair (s : State) (src : Option MSrc) (t n len : Nat) : Except Stop (Word × Word × State) :=
  match src with
  | some (.pair k) =>
    let (x, y, s1) := s.pairRead k
    match pairCheck s.core.cr.spw x y t n len with
    | some c => .error (pairFault s k c)
    | none => .ok (x, y, s1)
  | _ => .ok (0, 0, s)

/-- The shared body of MMA and MMAS at issue: the checks of R309 in their order, then row 0. -/
def mmaBody (d : Acc) (src : MSrc) (sc : Option MSrc) (t : Tile) (n : Nat) (u : State) : Except Stop Done := do
  let u ← needLease u
  let (f, u) ← u.arrayFmt
  let tile := u.tileNum t
  let (x, y, u) ← keepPair u (some src) tile n 256
  let (x', y', u) ← keepPair u sc 0 n 16
  if u.core.r.claim.isNone then .error (plateFault u 1)
  else if !claimMatches u.core.r (u.vale u.valeIdx).plate then .error (plateFault u 2)
  else
    let wide := ((u.core.r.claim.map PlateTag.wide).getD false)
    if wide != fmtWide (fmtA f) then .error (plateFault u 3)
    else
      let a := u.accNum d
      if !rangeOk a n then .error (rangeFault u)
      else if !typeOk u.core.r a n (Fmt.ofCode (fmtA f) == some .i8) then .error (typeFault u)
      else
        let desc : Vector Word 4 := #v[x, y, x', y']
        let u ← mmaRow a src sc tile f desc 0 u
        .ok { st := u.occupy (.mma a src sc tile f desc) n, lat := n + 11 }

/-- The row count of a rows field. -/
def rowsOf (rows : BitVec 6) : Nat := rows.toNat + 1

/-- MMA (log 39, DEDUCED). -/
def execMma (m : Marks) (x : Bool) (rows : BitVec 6) (d : Acc) (src : MSrc) (t : Tile) (s : State) :
    Host.Outcome State Fault Refusal :=
  issueM (xWords x) m (mmaBody d src none t (rowsOf rows)) s

/-- MMAS. -/
def execMmas (m : Marks) (x : Bool) (rows : BitVec 6) (d : Acc) (src sc : MSrc) (s : State) :
    Host.Outcome State Fault Refusal :=
  issueM (xWords x) m (mmaBody d src (some sc) .zero (rowsOf rows)) s

/-! ## Rows on their way (R283) -/

/-- What a row sends toward its landings. -/
def State.postRow (u : State) (ls : List (Nat × Land)) : State := ls.foldl (fun u l => u.post .m l.1 l.2) u

/-- An instruction of n rows: row 0 goes now, and each other row in a later cycle, as much nearer to its landing (R283, 13
R412). -/
def State.postRows (u : State) (row : Nat → List (Nat × Land)) (n : Nat) : State :=
  let at' := fun k => (row k).map fun l => (l.1 - k, l.2)
  (u.postRow (at' 0)).occupy (.later ((List.range (n - 1)).map fun k => at' (k + 1))) n

/-! ## Rows in and out (R310 to R315) -/

/-- MZERO (R310): its rows are one operation in flight, of one pending record (13 R412; log 62, DEDUCED). -/
def execMzero (m : Marks) (x : Bool) (f l : Acc) (int : Bool) (s : State) : Host.Outcome State Fault Refusal :=
  issueM (xWords x) m (fun u =>
    let a := u.accNum f
    let b := u.accNum l
    if b < a then .error (rangeFault u)
    else .ok { st := u.post .m 2 (.rowsZero (u.pcOf .m) a (b + 1 - a) int), lat := 2 }) s

/-- Reserves an entry of sq1 and fills it at the end of the 4th cycle (R312). -/
def pushSq1 (x : Block) (s : State) : Except Stop State := do
  orStall (s.core.r.qRoom (.sq 1) 1) .resv
  let r := s.core.r.qReserve (.sq 1)
  .ok ((s.modR fun _ => r.1).post .m 4 (.slot (.sq 1) r.2 x))

/-- The blocks that a row's 256 codes of w bits make. -/
def codeBlocks (w : Nat) (g : Nat → Nat) : List Block :=
  (List.range (w / 8)).map fun b => ofLanes w fun j => g (2048 / w * b + j)

/-- A sum of a row as a value. -/
def sumValue (x : Row) (j : Nat) : Num := if x.int then .ofInt (rowSum x.sum j).toInt else f32v (rowSum x.sum j)

/-- A row converted for output: its blocks and the columns that overflowed (R311). -/
def epiRow (f : BitVec 20) (x : Row) : List Block × Nat :=
  let o := (Fmt.ofCode (fmtO f)).getD .f32
  let out := (List.range 256).map fun j => toFmt (sumValue x j) o (fmtSat f)
  (codeBlocks o.width (fun j => (out.getD j (0, false)).1), countTo (fun j => (out.getD j (0, false)).2) 256)

/-- The landing of an OVF update of MEPI: what it adds, or zero where clr is set. -/
def epiOvf (clr : Bool) (u : State) (p : Nat × Nat) : State :=
  u.post .m 4 (if clr then .rowOvfClear p.1 else .rowOvf p.1 p.2)

/-- Starts an instruction that pushes blocks into sq1, one a cycle. -/
def pushAll (out : List Block) (u : State) : Except Stop State :=
  match out with
  | [] => .ok u
  | b :: bs => do
    let u ← pushSq1 b u
    .ok (u.occupy (.push bs) out.length)

/-- MEPI (R311, R312). -/
def execMepi (m : Marks) (x : Bool) (rows : BitVec 6) (a : Acc) (ovf clr : Bool) (s : State) :
    Host.Outcome State Fault Refusal :=
  issueM (xWords x) m (fun u => do
    let n := rowsOf rows
    let (i, f, u) := u.fmtEntry .m
    if (Fmt.ofCode (fmtO f)).isNone then .error (fmtCause u .m i 1)
    let b := u.accNum a
    if !rangeOk b n then .error (rangeFault u)
    if !((rowsFrom b n).all fun i => (u.core.r.row i).valid) then .error (withheldFault u)
    let outs := (rowsFrom b n).map fun i => (i, epiRow f (u.core.r.row i))
    let ovfs := outs.map fun p => (satAdd32 (u.core.r.row p.1).ovf p.2.2).toNat
    let tail : List Block := if ovf then [BitVec.ofNat 2048 (packLanes 32 (fun k => ovfs.getD k 0) n)] else []
    let blocks := (outs.flatMap fun p => p.2.1) ++ tail
    let u ← pushAll blocks u
    .ok { st := (outs.map fun p => (p.1, p.2.2)).foldl (epiOvf clr) u, lat := Nat.max 4 (blocks.length + 3) }) s

/-- An operation in flight writes a row. -/
def landsOn (l : Land) (i : Nat) : Bool :=
  match l with
  | .row r _ => r == i
  | .rowSet r _ => r == i
  | .rowAcc r _ _ _ _ => r == i
  | .rowWithheld r => r == i
  | .rowOvf r _ => r == i
  | .rowOvfClear r => r == i
  | .rowsZero _ r n _ => r ≤ i && i < r + n
  | _ => false

/-- A join waits, its cycles advancing, while an earlier operation on its rows is in flight (R284). -/
def joinRows (u : State) (rs : List Nat) : Except Stop Unit :=
  if u.core.r.eM.pend.any fun p => rs.any (landsOn p.land) then .error (.join .join) else .ok ()

/-- The sums that four 256-byte blocks bring. -/
def sumsOf (bs : List Block) : BitVec 8192 := BitVec.ofNat 8192 (packLanes 2048 (fun k => (bs.getD k 0).toNat) 4)

/-- One cycle of MMOV from a queue: a block is popped; the fourth of a row lands it two cycles later (R313). -/
def movQ (d : Nat) (q : MQ) (acc : List Block) (run : Nat) (u : State) : Except Stop (List Block × State) := do
  let (x, r) ← u.core.r.qPop (mqId q)
  let u := u.modR fun _ => r
  if run % 4 == 3 then
    .ok ([], u.post .m 3 (.rowSet (d + run / 4) { sum := some (sumsOf (acc ++ [x])) }))
  else .ok (acc ++ [x], u)

/-- MMOV (R313, R314; log 36, DESIGN CHOICE). -/
def execMmov (m : Marks) (x : Bool) (rows : BitVec 6) (form : MmovForm) (s : State) :
    Host.Outcome State Fault Refusal :=
  issueM (xWords x) m (fun u => do
    let n := rowsOf rows
    match form with
    | .rows d a =>
      let (i, j) := (u.accNum d, u.accNum a)
      if !rangeOk i n || !rangeOk j n then .error (rangeFault u)
      joinRows u (rowsFrom i n ++ rowsFrom j n)
      .ok { st := u.postRows (fun k => [(k + 2, .row (i + k) (u.core.r.row (j + k)))]) n, lat := n + 1 }
    | .toSq a =>
      let j := u.accNum a
      if !rangeOk j n then .error (rangeFault u)
      joinRows u (rowsFrom j n)
      if !((rowsFrom j n).all fun i => (u.core.r.row i).valid) then .error (withheldFault u)
      let blocks := (rowsFrom j n).flatMap fun i => codeBlocks 32 fun c => (rowSum (u.core.r.row i).sum c).toNat
      let v ← pushAll blocks u
      .ok { st := v, lat := 4 * n + 3 }
    | .fromV d g =>
      let i := u.accNum d
      joinRows u [i]
      let v := u.core.r.v
      let bs := [v[4 * g.val]'(by omega), v[4 * g.val + 1]'(by omega), v[4 * g.val + 2]'(by omega),
        v[4 * g.val + 3]'(by omega)]
      .ok { st := u.post .m 2 (.rowSet i { sum := some (sumsOf bs) }), lat := 2 }
    | .fromQ d q =>
      let i := u.accNum d
      if !rangeOk i n then .error (rangeFault u)
      joinRows u (rowsFrom i n)
      let (acc, v) ← movQ i q [] 0 u
      .ok { st := v.occupy (.fromQ i q acc) (4 * n), lat := 4 * n + 2 }) s

/-- A side field of a row (R315). -/
def sideField (x : Row) (f : Nat) : Nat :=
  match f with
  | 0 => x.rmax.toNat
  | 1 => x.rden.toNat
  | 2 => x.ovf.toNat
  | _ => x.valid.toNat + 2 * x.int.toNat + 4 * x.lz.toNat

/-- A write of a side field. -/
def setSide (w : Word) (f : Nat) : RowSet :=
  match f with
  | 0 => { rmax := some (w.setWidth 32) }
  | 1 => { rden := some (w.setWidth 32) }
  | 2 => { ovf := some (w.setWidth 32) }
  | _ => { valid := some (w.getLsbD 0), int := some (w.getLsbD 1), lz := some (w.getLsbD 2) }

/-- MMOVA (R315). A write of LZ sets the field alone, not LZS. -/
def execMmova (m : Marks) (x : Bool) (form : MmovaForm) (field : BitVec 2) (s : State) :
    Host.Outcome State Fault Refusal :=
  issueM (xWords x) m (fun u => do
    match form with
    | .read e a =>
      let i := u.accNum a
      joinRows u [i]
      .ok { st := u.post .m 1 (.e e (BitVec.ofNat 64 (sideField (u.core.r.row i) field.toNat))) }
    | .write d e =>
      let i := u.accNum d
      joinRows u [i]
      .ok { st := u.post .m 1 (.row i ((u.core.r.row i).put (setSide (u.eReg .m e) field.toNat))) }) s

/-! ## MFMT and MSTAT (R316, R317) -/

/-- A source field of FMTSRC: 5 to 7 store 4 (02 R81). -/
def srcField (x : BitVec 3) : BitVec 3 := if 5 ≤ x.toNat then 4 else x

/-- FMTSRC as a write leaves it: Z bits stay 0. -/
def fmtsrcOf (w : BitVec 16) : BitVec 16 :=
  w.extractLsb' 12 4 ++ 0#1 ++ srcField (w.extractLsb' 8 3) ++ w.extractLsb' 4 4 ++ 0#1 ++ srcField (w.extractLsb' 0 3)

/-- MFMT (R316). -/
def execMfmt (m : Marks) (x : Bool) (a : Fin 4) (t : BitVec 6) (s : State) : Host.Outcome State Fault Refusal :=
  issueM (xWords x) m (fun u =>
    let w := u.eReg .m a
    if h : t.toNat < 16 then
      .ok { st := (u.noteDesc .m (8 + t.toNat) (zextW u.core.cr.fmte[t.toNat])).modCr fun c =>
        { c with fmte := c.fmte.set t.toNat (w.setWidth 20) } }
    else
      .ok { st := (u.noteDesc .m 24 (zextW u.core.cr.fmtsrc)).modCr fun c =>
        { c with fmtsrc := fmtsrcOf (w.setWidth 16) } }) s

/-- The value of MSTAT (R317). -/
def mstatWord (u : State) : Word :=
  let r := u.core.r
  let p := (u.vale u.valeIdx).plate
  BitVec.ofNat 64 (r.lease.held.toNat + r.lease.req.toNat <<< 1 + r.claim.isSome.toNat <<< 2 +
    (claimMatches r p).toNat <<< 3 + ((p.map Plate.failed).getD false).toNat <<< 4 + r.mstat.lzs.toNat <<< 5 +
    r.mstat.whs.toNat <<< 6 + (r.lease.cnt % 512) <<< 7 + r.mstat.rrn <<< 16 + r.mstat.whn <<< 32)

/-- MSTAT. -/
def execMstat (m : Marks) (d : Fin 4) (s : State) : Host.Outcome State Fault Refusal :=
  issueM 1 m (fun u =>
    let v := u.modR fun r => { r with mstat := { r.mstat with lzs := false, whs := false } }
    .ok { st := v.post .m 1 (.e d (mstatWord u)) }) s

/-! ## The cycles of a long instruction (R283) -/

/-- One advancing cycle of M's long instruction. -/
def occWork (o : Occ) (u : State) : Except Stop State :=
  let next := fun (kind : OccKind) (v : State) =>
    v.modR fun r => { r with occ := if o.total ≤ o.run + 1 then none else some { o with run := o.run + 1, kind := kind } }
  match o.kind with
  | .idle => .ok (next .idle u)
  | .fetch => .ok (next .fetch u)
  | .mma d src sc tile f desc => do
    let v ← mmaRow d src sc tile f desc o.run u
    .ok (next o.kind v)
  | .push out =>
    match out with
    | [] => .ok (next (.push []) u)
    | b :: bs => do
      let v ← pushSq1 b u
      .ok (next (.push bs) v)
  | .later [] => .ok (next (.later []) u)
  | .later (ls :: rest) => .ok (next (.later rest) (u.postRow ls))
  | .fromQ d q acc => do
    let (acc', v) ← movQ d q acc o.run u
    .ok (next (.fromQ d q acc') v)

end Sys2Proof.Machine
end

