-- ==== Sys2Proof/Machine/Sys.lean ====
section
/-! DEFINITION. The SYS group but for CRR and CRW: TRAP, ERET, TLBI, SNAPRD, SNAPWR, WPSET, ACSW, PREEMPT, KEYSEL and HOLLOW (13
R402 to R428; 19 R506, R508). -/

namespace Sys2Proof.Machine

open Sys2Proof

/-- A response that brings a value to a C register (06 R190). -/
def sysReply (d : Fin 32) (u : State) (x : Word) : Except Stop Done :=
  let r := u.awaitReg .c (u.cLand d x) []
  .ok { st := r.1, resp := some r.2 }

/-- The C register after another: sA+1. -/
def nextReg (a : Fin 32) (k : Nat) : Fin 32 := ⟨(a.val + k) % 32, Nat.mod_lt _ (by decide)⟩

/-! ## TRAP and ERET (R402, R404, R406, R414) -/

/-- TRAP n: it issues, and C takes the pending cause of highest priority, this one among them, at the boundary after it. In
the shadow context it is a double trap (log 32, DEDUCED). -/
def execTrap (m : Marks) (x : Bool) (n : BitVec 12) (s : State) : Host.Outcome State Fault Refusal :=
  if s.inShadow then .next (doubleTrap 0x03 s)
  else match issueRun .c (xWords x) m (fun t =>
      .ok { st := t.modCr fun r => { r with pending := r.pending ++ [causeAt t .c 0x03 n.toNat] } }) s with
    | .ok t => .next (takeTrap (t.core.r.eC.pc) t)
    | .error st => stopped .c st s

/-- C leaves the shadow context: the level of the trap, the program counter of ERETPC; what it had in flight there goes on
(R406). Where C's run from the place at which it stands ends at ERETPC, C forms that run again, for it has walked none of it (R13;
log 13, DEDUCED). A C that had halted stays halted; engines stopped before illegal words find them again (05 R155; log 62, DEDUCED). -/
def leaveShadow (s : State) : State :=
  s.modCore fun c =>
    let sh := c.cr.sh
    let x := c.r.eC
    let found := fun (y : Eng) => { y with ill := false }
    let target := (c.cr.eretPc.extractLsb' 0 15).toNat
    let here := Eng.runMeets .c c.text target 8 8 x
    { c with
      r := { c.r with
        eA := found c.r.eA, eM := found c.r.eM, eV := found c.r.eV, eS := found c.r.eS
        eC := { x with
          pc := if here then x.pc else target, halted := c.cr.cause.getLsbD 12
          wait := if here && x.wait == .breath then .breath else .none, ill := false
          pend := x.pend ++ sh.pend, view := x.view ||| sh.view, floor := x.floor ||| sh.floor } }
      cr := { c.cr with
        lvl := c.cr.cause.extractLsb' 13 2, shd := false, sh := .reset, dead := 0
        pending := c.cr.pending.filter fun p => p.code != 0x01 } }

/-- A block on its way whose port changed its epoch is read again (14 R451; R406): a fault of it pends once more (log 64, DEDUCED). -/
def redoLost (s : State) : State :=
  let lost := s.reads.filter fun (r : Read) => r.core == s.core.id && !r.ready && match r.arr with
    | .slot _ _ _ => true
    | .reg _ => false
    | .record => false
  lost.foldl (fun t r => match readAgain r.eng r.elems t with
    | .error (.trap c) => (t.report c).modCr fun x => { x with pending := x.pending ++ [c.bare.atWord t r.eng r.word] }
    | .error _ => t
    | .ok (_, far, u) => { u with reads := u.reads.map fun (y : Read) =>
        if y.id == r.id then { y with ready := true, far := far } else y }) s

/-- The gang of the core in focus ends, with the recorded cause as the pager's reason (R406, 16 R476; log 62, DEDUCED). -/
def abandonGang (s : State) : State :=
  s.modCore fun c =>
    { c with st := .stopped, frozen := true, status := word (0x80000000 + (c.cr.cause.toNat % 256) * 256) }

/-- ERET (R406): at hyper level a pending record that breaks R411 ends the gang as a double trap does (R417), with a second
cause that the spec does not name. -/
def execEret (m : Marks) (x : Bool) (abandon : Bool) (s : State) : Host.Outcome State Fault Refusal :=
  if !s.inShadow then issue .c (xWords x) m (fun t => .error (privFault t)) s
  else if shadowBars .c m s then .next (doubleTrap 0x01 s)
  else match issueRun .c (xWords x) m doneOf s with
    | .error st => stopped .c st s
    | .ok t =>
      if abandon then .next (abandonGang t)
      else match t.reload with
        | none => .next (doubleTrap ((Config.freeWord t.choice).toNat % 256) t.tick)
        | some u => .next (redoLost (leaveShadow u))

/-! ## TLBI (R416) -/

/-- Translations that a TLBI drops. -/
def dropped (t : Nat) (vf va : Nat) (x : TlbEntry) : Bool :=
  if t == 2 then leafLoc x.leaf == 3 else x.vf == vf && (t == 1 || x.hits vf va)

/-- The caches of the package after a TLBI by the core in focus; walks that follow read the tables under C's visible set (log
51, DEDUCED; log 51, DEDUCED). -/
def State.tlbi (s : State) (t : Nat) (va : Nat) : State :=
  let keep := fun (ts : List TlbEntry) => ts.filter fun x => !dropped t s.vf va x
  let path := fun (v : Vale) => { v with wcache := if t == 0 then v.wcache else v.wcache.filter fun w => t == 1 && w.vf != s.vf }
  { s.mapCores fun c => { c with ctlb := keep c.ctlb, stlb := c.stlb.map keep } with
    vales := s.vales.map fun (v : Nat × Vale) => (v.1, path v.2) }.modVf s.vf fun f =>
    { f with seen := f.seen ||| (s.eng .c).view }

/-- TLBI (log 51, DEDUCED). -/
def execTlbi (m : Marks) (a : Fin 32) (t : Option (BitVec 2)) (s : State) : Host.Outcome State Fault Refusal :=
  issue .c (optWords t) m (fun u => do
    let k := (t.map BitVec.toNat).getD 0
    needLevel u (if k == 2 then 2 else 1)
    let r := (u.tlbi k (u.sReg a).toNat).awaitReg .c .nothing []
    .ok { st := r.1, resp := some r.2 }) s

/-! ## SNAPRD and SNAPWR (R413, R417) -/

/-- They issue in the shadow context, at guest level or above. -/
def needShadow (t : State) : Except Stop Unit :=
  if t.inShadow then needLevel t 1 else .error (privFault t)

/-- CYC sel 0 (06 R224). -/
def State.cycNow (s : State) : Nat := s.cycle - s.core.cr.cyc0

/-- SNAPRD. -/
def execSnaprd (m : Marks) (x : Bool) (d a : Fin 32) (s : State) : Host.Outcome State Fault Refusal :=
  issue .c (xWords x) m (fun t => do
    needShadow t
    .ok { st := t.putC 1 d (snapWord t.core t.reads t.pagerLevel t.cycNow (t.sReg a).toNat) }) s

/-- Words that describe the running shadow context itself: SNAPWR writes them in the frozen snapshot; the program counter and loop
levels with which C runs stay as they are (log 62, DEDUCED). -/
def ownShadow (i : Nat) : Bool := 0x23E0 ≤ i && i < 0x23ED

/-- The status of a SNAPWR of word i (R417). -/
def snapStatus (lvl i : Nat) (w : Word) : Int :=
  if snapLen ≤ i then -1
  else if i < 5 || i == 6 || i == 11 || i == 12 then -4
  else if lvl < 2 && ((0x2400 ≤ i && i < 0x8400) || (0x20 ≤ i && i < 0xC0 && (i - 0x20) % 32 == 2)) then -2
  else if !snapFits i w then -3
  else 0

/-- SNAPWR (log 62, DEDUCED). -/
def execSnapwr (m : Marks) (x : Bool) (d a : Fin 32) (s : State) : Host.Outcome State Fault Refusal :=
  issue .c (xWords x) m (fun t => do
    needShadow t
    let i := (t.sReg a).toNat
    let w := t.sReg (nextReg a 1)
    let st := snapStatus t.core.cr.lvl.toNat i w
    let u := if st != 0 then t else t.modCore fun c =>
      if ownShadow i then { c with overlay := assocSet i w c.overlay } else putWord c i w
    .ok { st := u.putC 1 d (status st) }) s

/-! ## WPSET and ACSW (R418, R420) -/

/-- WPn from a base and a kind. -/
def wpWord (base : Word) (kind : Nat) : Word := word (at' 4 (field base 4 51) + at' 56 kind + at' 63 (field base 63 1))

/-- WPSET: it takes effect from the next cycle (log 50, DEDUCED). -/
def execWpset (m : Marks) (x : Bool) (n : BitVec 2) (a : Fin 32) (s : State) : Host.Outcome State Fault Refusal :=
  issue .c (xWords x) m (fun t =>
    let w := t.sReg (nextReg a 1)
    let u := t.ctlLater (0x60 + n.toNat) (wpWord (t.sReg a) (field w 16 2))
    .ok { st := u.ctlLater (0x64 + n.toNat) (word (field w 0 16)) }) s

/-- ACSW (log 50, DEDUCED). -/
def execAcsw (m : Marks) (x : Bool) (d a : Fin 32) (s : State) : Host.Outcome State Fault Refusal :=
  issue .c (xWords x) m (fun t => do
    needLevel t 2
    let n := t.sReg a
    if 16 ≤ n.toNat && n.toNat ≤ 4095 then
      .ok { st := (t.ctlLater 0x40 n).putC 1 d (word t.core.cr.acctid.toNat) }
    else .ok { st := t.putC 1 d (status (-1)) }) s

/-! ## KEYSEL (R424) -/

/-- KEYSEL (log 9, DESIGN CHOICE). -/
def execKeysel (m : Marks) (x : Bool) (d a : Fin 32) (s : State) : Host.Outcome State Fault Refusal :=
  issue .c (xWords x) m (fun t => do
    needLevel t 2
    let w := t.sReg a
    let k := field w 0 6
    if field w 6 2 != 0 || field w 9 55 != 0 then sysReply d t (status (-1))
    else
      let t1 := if w.getLsbD 8 then (t.setKeySlot k (Config.randomKey t.choice, 0)).tick else t
      sysReply d (t1.modCr fun r => { r with keyslot := BitVec.ofNat 7 (64 + k) }) (t1.keySlot k).2) s

/-! ## PREEMPT (R419; 19 R506, R508) -/

/-- The gangs of a launch that have not completed: one, or the runs of a dual launch. -/
def State.runsOf (s : State) (l : Nat) : List Gang := s.disp.gangs.filter fun g => g.pk.launch == l && !g.ended

/-- The virtual function of a packet that waits in a queue. -/
def State.waitingIn (s : State) (l : Nat) : Option Nat :=
  (s.disp.queues.find? fun q => q.2.fifo.any fun p => p.launch == l).map fun q => q.1 / 64

/-- The status of a PREEMPT that is not done (R419; log 52, DEDUCED). -/
def State.preemptBad (s : State) (l : Nat) (held : Bool) : Option Int :=
  let other := fun (vf : Nat) => s.core.cr.lvl.toNat < 2 && vf != s.vf
  match s.runsOf l with
  | g :: gs =>
    if other g.vf then some (-4)
    else if held then (if (g :: gs).all fun x => x.st == .stopped && x.hold then none else some (-2))
    else if (g :: gs).all fun x => x.st == .running || x.st == .stopping then none
    else some (-2)
  | [] =>
    match s.waitingIn l with
    | some vf => some (if other vf then -4 else -2)
    | none => some (if s.disp.dones.any fun d => d.1 == l then -2 else -1)

/-- The outstanding COPYX commands that name a core of a gang (R508). -/
def State.copyxOf (s : State) (g : Gang) : List Nat :=
  (s.cmds.filter fun c => c.kind == some .copyx && c.stage != .complete &&
    g.cores.any fun i => i == ⟨c.bits 0 40 2, c.bits 0 35 5, c.bits 0 32 3⟩).map Cmd.id

def State.mapGangs (s : State) (l : Nat) (f : Gang → Gang) : State :=
  { s with disp := { s.disp with gangs := s.disp.gangs.map fun g => if g.pk.launch == l && !g.ended then f g else g } }

/-- A FREE (R506): a release of C's whole visible set toward the gangs of a launch, whose hold it clears: at once, or when the COPYX
commands that name their cores complete (R508). -/
def State.freeGangs (s : State) (l : Nat) : State :=
  let busy := (s.runsOf l).flatMap fun g => (s.copyxOf g).map fun k => (k, g.key)
  { s.mapGangs l fun g => { g with hold := !(s.copyxOf g).isEmpty, view := g.view ||| (s.eng .c).view } with
    frees := s.frees ++ busy }

/-- A command that a FREE waits for has completed. -/
def State.freeDue (s : State) (f : Nat × Nat) : Bool := !(s.cmds.any fun c => c.id == f.1 && c.stage != .complete)

/-- The gangs whose FREE waits for no command any more are free (R508). -/
def freeHeld (s : State) : Host.Outcome State Fault Refusal :=
  let left := s.frees.filter fun f => !s.freeDue f
  .next ((s.frees.map Prod.snd).foldl (fun t k =>
    if left.any fun f => f.2 == k then t else t.modGang k fun g => { g with hold := false }) { s with frees := left })

/-- Marks a read as one whose response may not arrive yet (log 52, DEDUCED). -/
def State.notReady (s : State) (k : Nat) : State :=
  { s with reads := s.reads.map fun r => if r.id == k then { r with ready := false } else r }

/-- PREEMPT. A core that names its own gang has its status at once, and stops at the boundary after; another's response waits until every
core of the gang is stopped (log 52, DEDUCED; log 77, DESIGN CHOICE). -/
def execPreempt (m : Marks) (x : Bool) (d a : Fin 32) (s : State) : Host.Outcome State Fault Refusal :=
  issue .c (xWords x) m (fun t => do
    needLevel t 1
    barDual t
    let w := t.sReg a
    let l := field w 0 32
    let hold := w.getLsbD 32
    let free := w.getLsbD 33
    if field w 34 30 != 0 || (hold && free) then sysReply d t (status (-3))
    else match t.preemptBad l free with
      | some n => sysReply d t (status n)
      | none =>
        if free then do
          orStall (t.unacked .c).isEmpty .mem
          sysReply d (t.freeGangs l) 0
        else
          let t1 := t.mapGangs l fun g => { g with
            st := .stopping, hold := g.hold || hold
            quit := if g.key == t.core.launch then t.core.id :: g.quit else g.quit }
          if (t.runsOf l).any fun g => g.key == t.core.launch then .ok { st := t1.putC 1 d 0 }
          else
            let r := t1.awaitReg .c (t1.cLand d 0) []
            let u := r.1.notReady r.2
            .ok { st := { u with disp := { u.disp with asked := u.disp.asked ++ [⟨u.core.id, r.2, l⟩] } }, resp := some r.2 }) s

/-! ## HOLLOW (R428) -/

/-- HOLLOW: C waits for the package's wake, which brings the nanoseconds spent in the hollow state. -/
def execHollow (m : Marks) (x : Bool) (d : Fin 32) (s : State) : Host.Outcome State Fault Refusal :=
  issue .c (xWords x) m (fun t => do
    needLevel t 3
    barDual t
    let r := t.awaitReg .c (t.cLand d 0) []
    .ok { st := (r.1.notReady r.2).setWait (.hollow r.2), resp := some r.2 }) s

end Sys2Proof.Machine
end

