-- ==== Sys2Proof/Machine/Launch.lean ====
section
/-! DEFINITION. From launch to completion: packets, decisions, placement, pre-emption, issue, completion records, dual runs,
capture, namespaces; and LAUNCH (16 R462 to R484; 06 R222; 13 R422, R423; 19 R506, R507; 22 R559, R560). -/

namespace Sys2Proof.Machine

open Sys2Proof

/-! ## Packets (R466, R467) -/

def Packed.bits (p : Packed) (i lo n : Nat) : Nat := field (vget p.words 0 i) lo n
def Packed.queue (p : Packed) : Nat := p.bits 0 0 6
def Packed.prio (p : Packed) : Nat := p.bits 0 6 3
def Packed.ceil (p : Packed) : Nat := p.bits 0 9 3
def Packed.lvl (p : Packed) : Nat := p.bits 0 12 2
def Packed.dual (p : Packed) : Bool := p.bits 0 14 1 == 1
def Packed.captures (p : Packed) : Bool := p.bits 0 15 1 == 1
def Packed.arr (p : Packed) : Bool := p.bits 0 16 1 == 1
def Packed.pfail (p : Packed) : Bool := p.bits 0 17 1 == 1
def Packed.size (p : Packed) : Nat := p.bits 0 18 10 + 1
def Packed.alen (p : Packed) : Nat := p.bits 0 28 5
def Packed.nres (p : Packed) : Nat := p.bits 0 33 4
def Packed.plm (p : Packed) : Nat := p.bits 0 37 4
def Packed.img (p : Packed) : Nat := p.bits 1 0 64
def Packed.args (p : Packed) : Nat := p.bits 2 0 64
def Packed.cmpl (p : Packed) : Nat := p.bits 4 0 64
def Packed.resl (p : Packed) : Nat := p.bits 5 0 64
def Packed.itag (p : Packed) : Nat := p.bits 6 0 32
def Packed.podId (p : Packed) : Nat := p.bits 6 32 32
def Packed.capa (p : Packed) : Nat := p.bits 7 0 64

/-- QCFG's fields (R463). -/
def Queue.en (q : Queue) : Bool := q.cfg.getLsbD 0
def Queue.lvl (q : Queue) : Nat := field q.cfg 1 2
def Queue.wgt (q : Queue) : Nat := field q.cfg 3 8
def Queue.dev (q : Queue) : Bool := q.cfg.getLsbD 11
def Queue.owner (q : Queue) : Nat := field q.cfg 12 12

def queueKey (vf q : Nat) : Nat := vf * 64 + q
def State.queue (s : State) (k : Nat) : Queue := assocGet Queue.reset k s.disp.queues
def State.setQueue (s : State) (k : Nat) (q : Queue) : State :=
  { s with disp := { s.disp with queues := assocSet k q s.disp.queues } }

/-- A packet is refused whatever pushes it (R468). -/
def Packed.bad (p : Packed) (q : Queue) : Bool :=
  p.bits 0 41 23 != 0 || !q.en || q.lvl < p.lvl || p.ceil < p.prio || 16 < p.alen ||
    p.img % 256 != 0 || p.args % 64 != 0 || p.cmpl % 64 != 0 || p.resl % 4 != 0 || p.capa % 65536 != 0 ||
    (p.alen == 0 && p.args != 0) || (p.nres == 0 && p.resl != 0) || (!p.captures && p.capa != 0) ||
    (p.dual && 513 ≤ p.size)

/-! ## The dispatcher's reads and writes of generic memory (R469, R475) -/

/-- Why the dispatcher cannot read: the cause code, and the state after what the read has done (14 R433, R458; 22 R564). -/
structure ReadErr where
  code : Nat
  st   : State

/-- For whom the dispatcher reads: a visible set, the account of its transfers (R484), a function, at user level or not. -/
structure Reader where
  view : View
  acct : Nat
  vf   : Nat
  user : Bool

/-- A read of one piece. The dispatcher is unit 13 of a request (log 17, DESIGN CHOICE). -/
def pieceAs (r : Reader) (va n : Nat) (s : State) : Except ReadErr (List Byte × State) :=
  let x := xlate (walkFor r.acct) s ⟨r.view, 0⟩ r.vf r.user false 0 [] va
  if va / 2 ^ 55 == 0 && va % n != 0 then .error ⟨0x13, s⟩
  else match x.res with
  | .error f => .error ⟨f.code, if f.code == 0x3E then x.st.poison f.eia else x.st⟩
  | .ok (.remote node rvf) =>
    let ask := x.st.askFar 13 (coreAt 0) r.user node rvf va n
    match farFault x.st node, ask with
    | some f, _ => .error ⟨f.code, x.st.pay ⟨(ask.map fun q => (⟨11, q.port, r.acct⟩ : Transfer)).toList, ask⟩⟩
    | none, none => .error ⟨0x10, x.st⟩
    | none, some q =>
      let y := remoteBytes x.st.tick n
      .ok (y.1, y.2.transferOut q.port r.acct (.load q))
  | .ok (.cell pa) =>
    match x.st.badRead pa n with
    | some u => .error ⟨0x3E, x.st.poison (8 * u)⟩
    | none =>
      let y := readPiece (x.st.fixSoft pa n) ⟨r.view, 0⟩ pa n
      .ok (y.bytes, y.st.transfer pa r.acct)

/-- k pieces of n bytes from an address on. -/
def readAs (r : Reader) (n : Nat) : Nat → Nat → State → Except ReadErr (List Byte × State)
  | 0, _, s => .ok ([], s)
  | k + 1, va, s => do
    let x ← pieceAs r va n s
    let t ← readAs r n k (va + n) x.2
    .ok (x.1 ++ t.1, t.2)

/-- A write of the dispatcher, a party of its own (04 R123): it joins its set, and orders nothing by itself (04 R133). -/
def State.dispWrite (s : State) (pa : Nat) (bs : List Byte) (loc : Loc) (more : Bool := false) : State :=
  let t := writeAt (s.writeNo more) s pa bs loc none
  { t with disp := { t.disp with party := { t.disp.party with view := t.disp.party.view ||| 1 <<< s.writeNo more } } }

/-- A write by the dispatcher of bytes within a page, a transfer of an account; an address that does not translate takes none, and a write
that meets a data error reports it (22 R564; log 55, DEDUCED; log 21, DEDUCED). -/
def writeAs (acct vf va : Nat) (bs : List Byte) (s : State) (more : Bool := false) : State :=
  let x := xlate (walkFor acct) s s.disp.party vf false true 0 [] va
  let s := { x.st with disp := { x.st.disp with party := x.party } }
  match x.res with
  | .ok (.cell pa) =>
    match s.badWrite pa bs.length with
    | some u => s.poison (8 * u)
    | none => (((s.spill pa bs).dispWrite pa bs (.gen vf va) more).markRange vf pa bs.length).transfer pa acct
  | .ok (.remote node rvf) =>
    s.sendWrite { port := 0, wid := 0, unit := 13, core := ⟨0, 0, 0⟩, cmd := none, key := 0, vf := vf, node := node, rvf := rvf, va := va
                  bytes := bs, rel := none } acct
  | .error f => if f.code == 0x3E then s.poison f.eia else s

/-- Doublewords written one by one from an address on. -/
def writeWordsAs (acct vf : Nat) : Nat → List Word → State → State
  | _, [], s => s
  | va, w :: ws, s => writeWordsAs acct vf (va + 8) ws (writeAs acct vf va (valBytes w.toNat 8) s)

/-- A move or an exchange holds a page of n bytes (14 R444, R448). -/
def State.pagesMove (s : State) (vf va n : Nat) : Bool := (pagesOf va n).any fun p => s.moving vf p

/-- A write of the dispatcher to n bytes would stall: a page of theirs moves, or waits for its pre-image (14 R444, R448; 22 R560). -/
def State.pagesHeld (s : State) (vf va n : Nat) : Bool := s.pagesMove vf va n || (pagesOf va n).any fun p => s.claimed none vf p

/-- The writes with numbers from one on. -/
def State.writesFrom (s : State) (n : Nat) : View := 2 ^ s.nextWrite - 2 ^ n

/-! ## Acceptance (R468, R469) -/

/-- The object identities at RESL; identity 0, which names no object, stands for a list that cannot be read. -/
def readObjs (r : Reader) (p : Packed) (s : State) : List Nat × State :=
  match readAs r 4 p.nres p.resl s with
  | .ok (bs, t) => ((List.range p.nres).map fun i => bytesVal ((bs.drop (4 * i)).take 4), t)
  | .error e => ([0], e.st)

/-- A packet enters its queue under the next launch identity (log 55, DEDUCED). -/
def State.accept (s : State) (vf : Nat) (p : Packed) (view : View) : Nat × State :=
  let l := s.disp.next
  let k := queueKey vf p.queue
  let (objs, t) := readObjs ⟨view, (s.queue k).owner, vf, p.lvl == 0⟩ p s
  let q := t.queue k
  let t1 := t.setQueue k { q with fifo := q.fifo ++ [{ p with launch := l, objs := objs, born := t.timer, view := view }] }
  (l, { t1 with disp := { t1.disp with next := if l + 1 == 2 ^ 32 then 1 else l + 1 } })

/-- A packet of eight words, not yet accepted. -/
def packetOf (ws : List Word) : Packed := ⟨0, Vector.ofFn fun i => ws.getD i.val 0, [], 0, 0⟩

/-- LAUNCH (06 R222): the push is a release of C's whole visible set, and waits for C's remote writes (04 R131; log 77, DESIGN CHOICE); a
refused packet yields 0. -/
def execLaunch (m : Marks) (d a : Fin 32) (s : State) : Host.Outcome State Fault Refusal :=
  issueKernel .c 1 m (fun t => do
    barDual t
    let p := packetOf ((List.range 8).map fun i => t.sReg (nextReg a i))
    let q := t.queue (queueKey t.vf p.queue)
    orStall (q.fifo.length < 32) .resv
    orStall (t.unacked .c).isEmpty .mem
    if p.bad q || !q.dev || t.core.cr.lvl.toNat < p.lvl then sysReply d t 0
    else
      let (l, u) := t.accept t.vf p (t.eng .c).view
      sysReply d u (word l)) s

/-! ## Completion (R476) -/

/-- Where a run stands in the books of its launch: its record's fields. -/
structure Ending where
  status : Nat
  res    : Bool
  mis    : Bool
  ctrn   : Bool
  runs   : Nat
  start  : Nat
  dw3    : Nat
  deriving DecidableEq, Repr

/-- The record of a launch is written, its completion word last; the dispatcher remembers its status, and what the record carries: a
view of the launch's writes, and the record itself (04 R140; R470, R476; log 55, DEDUCED; log 56, DESIGN CHOICE). -/
def State.complete (s : State) (vf : Nat) (p : Packed) (owner : Nat) (e : Ending) (view : View) : State :=
  let w0 := 1 + at' 1 e.status + at' 4 e.res.toNat + at' 5 e.mis.toNat + at' 6 e.ctrn.toNat + at' 8 e.runs + at' 32 p.launch
  let t := writeWordsAs owner vf (p.cmpl + 8) [word e.start, word s.timer, word e.dw3, 0, 0, 0, 0] s
  let u := writeAs owner vf p.cmpl (valBytes w0 8) t
  let u := if 0 < e.runs then u.modBooks fun b => b.modBook owner fun x => { x with compl := x.compl + 1 } else u
  if p.launch == 0 then u
  else { u with disp := { u.disp with
    dones := ((p.launch, e.status) :: u.disp.dones).take 4096
    rels := ((p.launch, view ||| u.writesFrom s.nextWrite) :: u.disp.rels).take 4096 } }

/-! ## Placement (R473, R525, R566) -/

def Gang.placed (g : Gang) : Bool := !g.ended && g.st != .stopped

/-- A gang holds its cores and its window against others: it is placed, or stopped and its cores are kept (R471). -/
def Gang.holds (g : Gang) : Bool := g.placed || (!g.ended && g.kept.isSome)

/-- The dispatcher may place a function's gangs on a vale. -/
def State.valeOpen (s : State) (vf v : Nat) : Bool :=
  let x := s.vale v
  x.vfOn && x.vf == vf && !x.vfDrain && !(assocGet Spare.reset v s.plat.spares).drn

/-- The free cores of a vale. -/
def State.freeCores (s : State) (vf : Nat) (taken : List CoreId) (v : Nat) : List CoreId :=
  if !s.valeOpen vf v then []
  else ((List.range 8).map fun i => coreAt (v * 8 + i)).filter fun c =>
    !taken.contains c && !s.plat.gone.contains (0, coreNum c) && !(s.disp.gangs.any fun g => g.holds && g.cores.contains c)

/-- The cores of a gang of G cores, first fit. -/
def State.pickCores (s : State) (vf : Nat) (p : Packed) (taken : List CoreId) : Option (List CoreId) :=
  let vales := (List.range 128).filter fun v => p.plm == 0 || p.plm.testBit (v / 32)
  let free := vales.map (s.freeCores vf taken)
  if p.arr && 8 ≤ p.size then
    let whole := (free.filter fun l => l.length == 8).take ((p.size + 7) / 8)
    if whole.length == (p.size + 7) / 8 then some (whole.flatten.take p.size) else none
  else if p.arr then (free.find? fun l => p.size ≤ l.length).map fun l => l.take p.size
  else if p.size ≤ free.flatten.length then some (free.flatten.take p.size)
  else none

/-- The vales of a set of cores. -/
def valesOf (cs : List CoreId) : List Nat := (cs.map CoreId.valeIdx).eraseDups

/-- The largest number of a gang's cores in one vale. -/
def mostCores (cs : List CoreId) : Nat :=
  (valesOf cs).foldl (fun n v => max n (cs.filter fun c => CoreId.valeIdx c == v).length) 0

/-- Windows overlap, in 4 KiB units. -/
def overlaps (a n b k : Nat) : Bool := a < b + k && b < a + n

/-- Units b to b + n − 1 of a vale's scratchpad are free of the windows of placed gangs. -/
def State.unitsFree (s : State) (v b n : Nat) : Bool :=
  !(s.disp.gangs.any fun g => g.holds && (valesOf g.cores).contains v && overlaps b n g.win g.wlen)

/-- The lowest base at which a window is free in every placed vale. -/
def State.pickWindow (s : State) (cs : List CoreId) (n : Nat) : Option Nat :=
  (List.range (2049 - n)).find? fun b => n ≤ 2048 && (valesOf cs).all fun v => s.unitsFree v b n

/-- The first bytes of the kernel image of a launch, as many as the first 64 say (log 19, DESIGN CHOICE; log 54, DEDUCED). -/
def readImage (r : Reader) (size : List Byte → Nat) (p : Packed) (s : State) : Except ReadErr (List Byte × State) := do
  let first ← readAs r 4 16 p.img s
  readAs r 4 ((size first.1 + 3) / 4) p.img first.2

/-- How the dispatcher reads what a launch names: under its push's release (04 R139; R484). -/
def Packed.reader (p : Packed) (vf owner : Nat) : Reader := ⟨p.view, owner, vf, p.lvl == 0⟩

def runKey (l run : Nat) : Nat := l + (if run == 0 then 0 else 2 ^ (31 + run))

/-- One run of a launch is placed on cores that no run of it has or had: a gang that is chosen and not issued. Its slot and window are
those that its image asks for, in 4 KiB units, or none where the image cannot be read, which its issue then finds; where both are 0 the
window has 1 unit (R473, R475, R479; log 19, DESIGN CHOICE; log 89, DESIGN CHOICE). -/
def State.placeRun (s : State) (vf : Nat) (p : Packed) (owner prio run : Nat) : Option State :=
  let (slot, want) := match readImage (p.reader vf owner) Config.imageHead p s with
    | .ok (bs, _) => ((Config.image bs).slot, (Config.image bs).window)
    | .error _ => (0, 0)
  let taken := (s.disp.gangs.filter fun g => g.pk.launch == p.launch).flatMap Gang.cores
  match s.pickCores vf p taken with
  | none => none
  | some cs =>
    let n := max 1 (max want (slot * mostCores cs))
    match s.pickWindow cs n with
    | none => none
    | some b =>
      let g : Gang :=
        { key := runKey p.launch run, run := run, pk := p, vf := vf, owner := owner, cores := cs, win := b, wlen := n
          slot := slot, prio := prio, since := s.cycle, start := 0, serial := 0, st := .chosen, stopNo := 0, hold := false
          kept := none, area := none
          saved := [], quit := [], reads := [], openws := [], lost := [], fault := none, aband := false, resid := false, view := p.view
          wrote := 0, log := [], capt := none, patch := [], ended := false }
      some { s with disp := { s.disp with gangs := s.disp.gangs ++ [g] } }

/-- Every run that a launch begins with is placed: one, or two on disjoint cores (R478). -/
def State.placeAll (s : State) (vf : Nat) (p : Packed) (owner prio : Nat) : Option State :=
  (s.placeRun vf p owner prio 0).bind fun t => if p.dual then t.placeRun vf p owner prio 1 else some t

/-! ## Candidates (R470, R471) -/

/-- A virtual function issues no launch while its namespace is exported or imported (R465). -/
def State.nsBusy (s : State) (vf : Nat) : Bool :=
  let f := s.vfunOf vf
  f.nsx != 0 || (f.nsi != 0 && f.nsi != 0xFFFFFFFFFFFFFFFF)

/-- The head packets of the queues, with their queue keys, in ascending order. -/
def State.heads (s : State) : List (Nat × Packed) := s.disp.queues.filterMap fun q => (q.2.fifo.head?).map fun p => (q.1, p)

inductive Holding where
  | free | held | cancel
  deriving DecidableEq, Repr

/-- What a predecessor makes of a candidate. -/
def State.predHold (s : State) (p : Packed) (l : Nat) : Holding :=
  if l == 0 then .free
  else if (s.disp.gangs.any fun g => g.pk.launch == l) || (s.waitingIn l).isSome then .held
  else match s.disp.dones.find? fun d => d.1 == l with
    | some d => if d.2 != 0 && !p.pfail then .cancel else .free
    | none => .free

/-- What a page of a listed object makes of a candidate. -/
def State.pageHold (s : State) (vf va : Nat) : Holding :=
  if s.pageTier vf va == some 0 then .free
  else match s.leafOf vf va with
    | some (n, _, e) => if usableLeaf n e && leafMig e then .held else .cancel
    | none => .cancel

/-- The pages of the listed objects; none where one is unknown. -/
def State.listedPages (s : State) (vf : Nat) (p : Packed) : Option (List Nat) :=
  p.objs.foldl (fun acc i => match acc, s.objs.find? fun o => o.ident == i && o.vf == vf && o.live with
    | some l, some o => some (l ++ pagesOf o.base o.size)
    | _, _ => none) (some [])

def worst (a b : Holding) : Holding := if a == .cancel || b == .cancel then .cancel else if a == .held then a else b

/-- Residency of the listed objects. -/
def State.objHold (s : State) (vf : Nat) (p : Packed) : Holding :=
  match s.listedPages vf p with
  | none => .cancel
  | some ps => ps.foldl (fun h va => worst h (s.pageHold vf va)) .free

def State.hold (s : State) (k : Nat) (p : Packed) : Holding :=
  if s.nsBusy (k / 64) then .held
  else worst (worst (s.predHold p (p.bits 3 0 32)) (s.predHold p (p.bits 3 32 32))) (s.objHold (k / 64) p)

/-- The effective priority of a head (R471). -/
def State.effPrio (s : State) (p : Packed) : Nat := min p.ceil (p.prio + (s.timer - p.born) / 250000)

/-- What the residency of its listed objects makes of a stopped launch: a candidate that is not held (R470). -/
def State.gangHold (s : State) (g : Gang) : Holding := s.objHold g.vf g.pk

/-- Promotion of the pages of held objects (R470): no event tells of it, and it books to the owner. -/
def State.promote (s : State) (vf owner : Nat) (p : Packed) : State :=
  ((s.listedPages vf p).getD []).foldl (fun t va =>
    match (if t.pageTier vf va == some 0 then MovePlan.skip else t.planMove vf va 0) with
    | .copy pa e a => t.startMove vf va 0 pa e a owner (some 0)
    | _ => t) s

/-- A head that is cancelled leaves its queue, with its record (log 56, DESIGN CHOICE). -/
def State.cancelHead (s : State) (k : Nat) (p : Packed) : State :=
  let q := s.queue k
  (s.setQueue k { q with fifo := q.fifo.drop 1 }).complete (k / 64) p q.owner ⟨3, false, false, false, 0, 0, 0⟩ 0

/-! ## Pre-emption (R474) -/

/-- The bytes of a COPYX image of the whole of a core and its slot. -/
def imageBytes (slot : Nat) : Nat := 64 + 8 * snapLen + slot + 16

/-- The slot of a core, in bytes (R99). -/
def slotBytes (spw : Word) : Nat := spwSlot spw * 4096
def slotBase (spw : Word) : Nat := (spwBase spw + spwPos spw * spwSlot spw) * 4096

def up256 (n : Nat) : Nat := (n + 255) / 256 * 256

/-- A core holds the state of a gang. -/
def Gang.has (g : Gang) (c : Core) : Bool := c.launch == g.key && g.cores.contains c.id

/-- The cores of a gang as they stand, or stood at its stop. -/
def State.gangCores (s : State) (g : Gang) : List Core :=
  if g.saved.isEmpty then g.cores.filterMap fun i => s.cores.find? fun c => c.id == i && g.has c else g.saved

/-- A core holds a protected context (13 R424). -/
def Core.shielded (c : Core) : Bool := c.cr.keyslot.getLsbD 6

/-- The bytes that the save of a core takes. -/
def saveBytes (c : Core) : Nat := if c.shielded then up256 (imageBytes (slotBytes c.cr.spw)) else 8 * snapLen

/-- The vales whose windows a save holds: none for a gang with a protected core, whose image holds its slot (log 90, DESIGN CHOICE). -/
def State.savedVales (s : State) (g : Gang) : List Nat :=
  if (s.gangCores g).any Core.shielded then [] else valesOf g.cores

/-- The size of a gang's save area. -/
def State.areaSize (s : State) (g : Gang) : Nat :=
  ((s.gangCores g).map saveBytes).sum + (s.savedVales g).length * g.wlen * 4096

/-- The areas in use of a function's pool. -/
def State.areas (s : State) (vf : Nat) : List (Nat × Nat) :=
  s.disp.gangs.filterMap fun g => if g.vf == vf then g.area.map fun a => (a, s.areaSize g) else none

/-- The lowest free place for n bytes in the save pool of a function, among others already taken. -/
def State.allocArea (s : State) (vf n : Nat) (taken : List (Nat × Nat)) : Option Nat :=
  let f := s.vfunOf vf
  let base := up256 f.saveb.toNat
  let used := s.areas vf ++ taken
  let places := base :: used.map fun a => up256 (a.1 + a.2)
  let ok := fun (a : Nat) => base ≤ a && a + n ≤ f.saveb.toNat + f.savel.toNat && !(used.any fun u => overlaps a n u.1 u.2) &&
    (stage2 f 0 a).isSome && (n == 0 || (stage2 f 0 (a + n - 1)).isSome)
  (places.filter ok).min?

/-- The pools can hold the areas of a list of gangs at once (log 57, DEDUCED). -/
def State.canSave (s : State) : List Gang → List (Nat × Nat × Nat) → Bool
  | [], _ => true
  | g :: gs, taken =>
    let n := s.areaSize g
    match s.allocArea g.vf n ((taken.filter fun t => t.1 == g.vf).map fun t => t.2) with
    | none => false
    | some a => s.canSave gs ((g.vf, a, n) :: taken)

/-- Running launches that a head of priority e may pre-empt: lowest priority first, most recently issued first. -/
def victimBefore (a b : Gang) : Bool := a.prio < b.prio || (a.prio == b.prio && b.serial < a.serial)

def insertVictim (x : Gang) : List Gang → List Gang
  | [] => [x]
  | y :: ys => if victimBefore x y then x :: y :: ys else y :: insertVictim x ys

/-- A gang stands for its launch: of the runs of a dual launch that have not ended, the first (R478). -/
def State.leads (s : State) (g : Gang) : Bool := ((s.runsOf g.pk.launch).head?.map Gang.key) == some g.key

def State.victims (s : State) (e : Nat) : List Gang :=
  (s.disp.gangs.filter fun g => s.leads g && ((s.runsOf g.pk.launch).all fun x => x.st == .running) && g.prio + 2 ≤ e).foldl
    (fun l g => insertVictim g l) []

/-- The package without the gangs of some launches, and without those that are being stopped (log 57, DEDUCED). -/
def State.without (s : State) (ls : List Nat) : State :=
  { s with disp := { s.disp with gangs := s.disp.gangs.filter fun g => !(g.st == .stopping) && !(ls.contains g.pk.launch) } }

/-- The fewest victims, in order, after which a test holds (log 57, DEDUCED). -/
def fewest (test : List Nat → Bool) : List Gang → List Nat → Option (List Nat)
  | [], ls => if test ls then some ls else none
  | g :: gs, ls => if test ls then some ls else fewest test gs (ls ++ [g.pk.launch])

/-- Gangs are to be stopped, when their areas fit (R474; log 57, DEDUCED; log 63, DEDUCED). -/
def State.stopAll (s : State) (ls : List Nat) : State :=
  if s.canSave (s.disp.gangs.filter fun g => ls.contains g.pk.launch && !g.ended) [] then
    ls.foldl (fun t l => t.mapGangs l fun g => { g with st := .stopping }) s
  else s

/-! ## The decision (R471 to R474) -/

/-- The tied queues, their rounds and the pointer: the queue that is chosen, and the dispatcher after the choice (R472). -/
def chooseQueue (s : State) (tied : List Nat) : Option (Nat × State) :=
  let inRound := fun (t : State) => tied.filter fun k => (t.queue k).round < (t.queue k).wgt
  let s1 := if (inRound s).isEmpty then tied.foldl (fun t k => t.setQueue k { t.queue k with round := 0 }) s else s
  let ks := inRound s1
  match (ks.filter fun k => s1.disp.pointer < k).min?.or ks.min? with
  | none => none
  | some k =>
    let t := s1.setQueue k { s1.queue k with round := (s1.queue k).round + 1 }
    some (k, { t with disp := { t.disp with pointer := k } })

/-- A gang has its cores and its window before a stopped one: it is placed, or they are kept for it by an earlier decision (R471). -/
def Gang.before (x g : Gang) : Bool :=
  x.placed || (!x.ended && x.pk.launch != g.pk.launch && match x.kept, g.kept with
    | some n, some k => n < k
    | some _, none => true
    | none, _ => false)

/-- The cores and the window of a stopped gang are free, and kept for no gang before it. -/
def State.canReturn (s : State) (g : Gang) : Bool :=
  let others := s.disp.gangs.filter fun x => x.before g
  !(others.any fun x => (x.cores.any g.cores.contains) ||
    (overlaps g.win g.wlen x.win x.wlen && (valesOf x.cores).any (valesOf g.cores).contains))

/-- Stopped launches of priority e that are not held, the earliest stopped first. -/
def insertStopped (x : Gang) : List Gang → List Gang
  | [] => [x]
  | y :: ys => if x.stopNo < y.stopNo then x :: y :: ys else y :: insertStopped x ys

def State.waitingGangs (s : State) (e : Nat) : List Gang :=
  (s.disp.gangs.filter fun g => s.leads g && ((s.runsOf g.pk.launch).all fun x => x.st == .stopped && !x.hold) && g.prio == e &&
    !s.nsBusy g.vf && s.gangHold g == .free).foldl (fun l g => insertStopped g l) []

/-- A stopped gang whose cores are not all free keeps those that are, and pre-empts on the others (R471; log 57, DEDUCED). -/
def State.keepCores (s : State) (g : Gang) : State :=
  let s0 := s.mapGangs g.pk.launch fun x => { x with kept := x.kept.or (some s.disp.serial) }
  let s1 := { s0 with disp := { s0.disp with serial := s0.disp.serial + 1 } }
  let runs := s.runsOf g.pk.launch
  let onIt := (s1.victims g.prio).filter fun x => runs.any fun r => x.cores.any r.cores.contains
  let test := fun (ls : List Nat) => runs.all fun r => (s1.without ls).canReturn r
  match fewest test onIt [] with
  | some ls => s1.stopAll ls
  | none => s1

/-- A head that had no placement is still at the head of its queue. -/
def State.stillHead (s : State) (h : Nat × Nat × Nat) : Bool := ((s.queue h.1).fifo.head?.map Packed.launch) == some h.2.1

/-- The heads without a placement but for one launch. -/
def State.otherHeads (s : State) (l : Nat) : List (Nat × Nat × Nat) := s.disp.head.filter fun h => s.stillHead h && h.2.1 != l

/-- The head that is chosen among tied ones: the first that has been chosen and had no placement, else by R472 (log 57, DEDUCED). -/
def State.pickHead (s : State) (tied : List Nat) : Option (Nat × State) :=
  match (s.disp.head.filter s.stillHead).find? fun h => tied.contains h.1 with
  | some h => some (h.1, s)
  | none => chooseQueue s tied

/-- The decision among candidates of effective priority below n. A head that has no placement stops the decision there, and is remembered:
no launch of its priority or lower issues before it (R471; log 57, DEDUCED). -/
def State.decideBelow : Nat → State → State
  | 0, s => s
  | e + 1, s =>
    let waiting := s.waitingGangs e
    match waiting.find? fun g => (s.runsOf g.pk.launch).all s.canReturn with
    | some g => s.mapGangs g.pk.launch fun x => { x with st := .chosen, since := s.cycle }
    | none =>
      let s1 := waiting.foldl (fun t g => t.keepCores g) s
      let tied := (s1.heads.filter fun h => s1.effPrio h.2 == e && s1.hold h.1 h.2 == .free).map Prod.fst
      match s1.pickHead tied with
      | none => State.decideBelow e s1
      | some (k, s2) =>
        match (s1.queue k).fifo.head? with
        | none => s1
        | some p =>
          let q := s2.queue k
          match (s2.setQueue k { q with fifo := q.fifo.drop 1 }).placeAll (k / 64) p q.owner e with
          | some t => { t with disp := { t.disp with head := s2.otherHeads p.launch } }
          | none =>
            let s3 := { s2 with disp := { s2.disp with head := s2.otherHeads p.launch ++ [(k, p.launch, e)] } }
            let test := fun (ls : List Nat) => ((s3.without ls).placeAll (k / 64) p 0 e).isSome
            match fewest test (s3.victims e) [] with
            | some ls => s3.stopAll ls
            | none => s3

/-- The dispatcher neither issues nor resumes gangs in a hollow entry, the hollow state and wake (21 R544), nor before the
package is ready (20 R529). -/
def State.dispatches (s : State) : Bool := s.plat.hst == 0 && s.plat.ready

/-- A gang is placed or stopped on a vale, or on a core. -/
def State.valeUsed (s : State) (v : Nat) : Bool :=
  s.disp.gangs.any fun g => !g.ended && g.cores.any fun c => CoreId.valeIdx c == v
def State.coreUsed (s : State) (n : Nat) : Bool :=
  s.disp.gangs.any fun g => !g.ended && g.cores.any fun c => coreNum c == n

/-- Written VALEVFs are applied to vales on which no gang is placed or stopped (20 R525). -/
def State.applyVales (s : State) : State :=
  { s with vales := s.vales.map fun x => match x.2.vfNext with
      | some w => if s.valeUsed x.1 then x else
          (x.1, { x.2 with vf := w % 32, vfOn := w / 32 % 2 == 1, vfDrain := false, vfNext := none })
      | none => x }

/-! ## Issue (R475) -/

/-- A core joins the listed ones, in order. -/
def insertCore (c : Core) : List Core → List Core
  | [] => [c]
  | d :: ds => if coreNum c.id < coreNum d.id then c :: d :: ds else d :: insertCore c ds

def State.withCore (s : State) (i : CoreId) : State :=
  if s.cores.any fun c => c.id == i then s else { s with todo := insertCore (Core.reset i) s.todo }

/-! ### The loads of an issue -/

/-- The position of a core among its gang's cores in its vale (R99). -/
def posOf (g : Gang) (i : CoreId) : Nat :=
  (g.cores.filter fun c => CoreId.valeIdx c == CoreId.valeIdx i && c.core < i.core).length

/-- The slot base of a core of a gang, in bytes (03 R100; log 19, DESIGN CHOICE). -/
def Gang.base (g : Gang) (i : CoreId) : Nat := (g.win + posOf g i * g.slot) * 4096

/-- The text that a core's instruction store holds once its gang has issued: IMG, ITAG, the slot base (log 54, DEDUCED). -/
def Gang.holding (g : Gang) (i : CoreId) : Nat × Nat × Nat := (g.pk.img, g.pk.itag, g.base i)

/-- E of an extension word. -/
def patchE (w : IWord) (e : Nat) : IWord := (w >>> 24 <<< 24) ||| BitVec.ofNat 32 (e % 2 ^ 24)

/-- A relocation of a .scratch symbol, for a slot base: bits 63:48, 47:24 or 23:0 of 2^63 + slot base + offset into E (10 R364, R372,
R388; log 19, DESIGN CHOICE). -/
def relocOne (base : Nat) (text : List IWord) (r : Config.Reloc) : List IWord :=
  let v := word (2 ^ 63 + base + r.value)
  match r.typ with
  | 4 => text.modify r.place fun w => patchE w (field v 48 16)
  | 5 => text.modify r.place fun w => patchE w (field v 24 24)
  | 6 => text.modify r.place fun w => patchE w (field v 0 24)
  | _ => text

/-- A text for a slot base. -/
def relocate (base : Nat) (rs : List Config.Reloc) (text : List IWord) : List IWord := rs.foldl (relocOne base) text

/-- What the loads of an issue bring: .evmeta, the text where some core lacks it, the pager image where some core lacks it, the
arguments. -/
structure Loaded where
  im    : Config.Image
  text  : List IWord
  pager : Option (Nat × List IWord)
  args  : List Byte
  st    : State

def iwords (bs : List Byte) : List IWord :=
  (List.range (bs.length / 4)).map fun i => BitVec.ofNat 32 (bytesVal ((bs.drop (4 * i)).take 4))

/-- The first core of a gang that lacks something; their number where none does. -/
def State.lacks (s : State) (g : Gang) (has : Core → Bool) : Nat :=
  g.cores.findIdx fun i => !((s.cores.find? fun c => c.id == i).any has)

/-- The loads of an issue: .evmeta; the text, where a core does not hold it; the pager image, where the function has one and a core
does not hold it; the argument block. The failure's core index and cause, or the contents (R475; log 19, DESIGN CHOICE; log 53, DESIGN CHOICE;
log 54, DEDUCED). -/
def loadAll (g : Gang) (s : State) : Except (Nat × ReadErr) Loaded :=
  let pg := (s.vfunOf g.vf).pgimg.toNat
  let rd := g.pk.reader g.vf g.owner
  let blame := fun {α : Type} (i : Nat) (x : Except ReadErr α) => (match x with | .error e => .error (i, e) | .ok y => .ok y : Except (Nat × ReadErr) α)
  let noText := s.lacks g fun c => c.held == some (g.holding c.id)
  let noPager := s.lacks g fun c => c.pgheld == some pg
  do
    let (head, s1) ← blame 0 (readImage rd Config.imageHead g.pk s)
    let (text, s2) ← if noText == g.cores.length then .ok ([], s1)
      else (blame noText (readImage rd Config.imageSize g.pk s1)).map fun x => (Config.imageText x.1, x.2)
    let (pager, s3) ← if pg == 0 || noPager == g.cores.length then .ok (none, s2)
      else (blame noPager (readAs { rd with user := false } 4 4096 pg s2)).map fun x => (some (pg, iwords x.1), x.2)
    let (args, s4) ← blame 0 (readAs rd 8 g.pk.alen g.pk.args s3)
    .ok ⟨Config.image head, text, pager, args, s4⟩

/-! ### The launch state -/

/-- The launch state of an engine. -/
def Eng.launch (entry : Nat) (view : View) : Eng := { Eng.reset with pc := entry, live := true, view := view }

/-- The writes of earlier launches to the registers of a core that reach another engine by chains alone: its engines have them in
their sets from the launch on, so that none of their values is read again (01 R16; 02 R83; 06 R242). -/
def State.descView (s : State) (c : CoreId) : View :=
  s.hist.foldl (fun v w => match w.loc with
    | .desc _ _ => if descCell c 0 ≤ w.pa && w.pa < descCell c 32 then v ||| 1 <<< w.id else v
    | _ => v) 0

/-- The launch state of a core (01 R16; 02 R81; 03 R104; 13 R403, R424; log 53, DESIGN CHOICE; log 54, DEDUCED). -/
def launchCore (g : Gang) (x : Loaded) (desc : CoreId → View) (now dom level k : Nat) (c : Core) : Core :=
  let e := Eng.launch x.im.entry (g.view ||| desc c.id)
  let n := g.cores.length
  { c with
    st := .running, launch := g.key, pod := if g.pk.podId == 0 then none else some g.pk.podId
    dom := dom, domUp := [], frozen := false, status := 0, cwait := .none, overlay := [], slip := ⟨0, clamp 16 4096 x.im.slipw⟩
    lastVa := Vector.replicate 4 0, xp := Vector.replicate 3 .empty, agc := none
    text := if c.held == some (g.holding c.id) then c.text else relocate (g.base c.id) x.im.relocs x.text
    held := some (g.holding c.id)
    pager := (x.pager.map Prod.snd).getD c.pager
    pgheld := match x.pager with | some y => some y.1 | none => c.pgheld
    swt := x.im.swt
    r := { Regs.reset with
      eC := e, eA := e, eM := e, eV := e, eS := e
      p := Vector.ofFn fun i => BitVec.ofNat 64 (bytesVal (((x.args.take x.im.alen).drop (8 * i.val)).take 8)) }
    cr := { CReg.reset with
      lvl := BitVec.ofNat 2 g.pk.lvl
      gang := word (k + at' 16 n + at' 32 g.pk.launch)
      domm := mkDomm level 0 k n false 0
      spw := word (g.win + at' 16 g.wlen + at' 32 g.slot + at' 44 (posOf g c.id))
      slipw := clamp 16 4096 x.im.slipw
      fmte := Vector.ofFn fun i => x.im.fmte.getD i.val fmteReset
      fmtsrc := fmtsrcOf x.im.fmtsrc
      acctid := BitVec.ofNat 12 g.owner
      vfsel := BitVec.ofNat 5 g.vf
      cyc0 := now + 1 } }

def State.modGangCores (s : State) (g : Gang) (f : Nat → Core → Core) : State :=
  s.mapCores fun c => match g.cores.findIdx? fun i => i == c.id with
    | some k => f k c
    | none => c

/-- The stores that a load has written hold no error any more: t is s after the load (22 R564; log 18, DESIGN CHOICE). -/
def State.cleanStores (s t : State) (pager : Bool) (g : Gang) : State :=
  let loaded := g.cores.flatMap fun i =>
    let held := fun (u : State) => ((u.cores.find? fun c => c.id == i).map Core.held).join
    (if held s == held t then [] else [storeUnit i false 0]) ++ if pager then [storeUnit i true 0] else []
  if t.bad.isEmpty then t else { t with bad := t.bad.filter fun u => !loaded.any fun b => b ≤ u && u < b + 2 ^ 14 }

/-- The bytes of the windows that a launch is given begin a new write order: what was written there before is not read again (03 R99;
04 R125, R126; log 73, DESIGN CHOICE). -/
def State.freshWindows (s : State) (g : Gang) : State :=
  let mine := fun (w : Write) => (valesOf g.cores).any fun v => w.touches (scratchBase v + g.win * 4096) (g.wlen * 4096)
  { s with base := s.hist.foldl (fun v w => if mine w then v ||| 1 <<< w.id else v) s.base }

/-- Stopped gangs whose cores or windows a gang takes: what it takes is lost to them (19 R507). -/
def State.overrun (s : State) (g : Gang) : State :=
  { s with disp := { s.disp with gangs := s.disp.gangs.map fun x =>
      if x.st == .stopped && !x.ended && overlaps x.win x.wlen g.win g.wlen then
        { x with lost := (x.lost ++ (valesOf x.cores).filter fun v => (valesOf g.cores).contains v).eraseDups }
      else x } }

/-! ### Capture (R480; 22 R559) -/

/-- The header of a capture area is written, and the capture begins; its LEN stands there already (log 55, DEDUCED). -/
def startCapture (g : Gang) (args : List Byte) (s : State) : State × Option Capture :=
  if !g.pk.captures || g.run != 0 then (s, none)
  else
    let a := g.pk.capa
    let (len, s) := match readAs { g.pk.reader g.vf g.owner with user := false } 8 1 (a + 8) s with
      | .ok (bs, t) => (bytesVal bs, t)
      | .error e => (0, e.st)
    let trunc := decide (len < 131072)
    let head := word (0x45564350 + at' 32 1)
    let s1 := writeAs g.owner g.vf a (valBytes head.toNat 8) s
    let s2 := writeWordsAs g.owner g.vf (a + 16) ([word g.pk.launch, word trunc.toNat] ++ g.pk.words.toList) s1
    let argWords := (List.range 16).map fun i => word (bytesVal ((args.drop (8 * i)).take 8))
    let s3 := writeWordsAs g.owner g.vf (a + 96) (argWords ++ List.replicate 4 0) s2
    (s3, some ⟨a, len, [], [], trunc⟩)

/-! ### GANG_ISSUE -/

/-- A launch counts among those issued for its owner (17 R498). -/
def State.countIssue (s : State) (owner : Nat) : State :=
  s.modBooks fun b => b.modBook owner fun x => { x with issued := x.issued + 1 }

/-- A function runs here, and has not been moved away (14 R456; log 78, DESIGN CHOICE). -/
def State.runsHere (s : State) (vf : Nat) : State := s.modVf vf fun f => { f with moved := false }

/-- A placed run whose loads are done issues: its cores enter the launch state; its gang forms one domain (01 R49; log 56, DESIGN CHOICE). -/
def issueRunOf (g : Gang) (x : Loaded) (s : State) : State :=
  let (s1, capt) := startCapture g x.args s
  let level := levelOf g.cores
  let dom := s1.nextId
  let d : Domain :=
    { id := dom, gang := g.key, level := level, depth := 0, members := g.cores, parent := none, ph := 0, arrived := []
      view := 0, wids := [], tagged := [], past := [], splits := [], joins := [] }
  let s2 := { s1.runsHere g.vf with domains := s1.domains ++ [d], nextId := dom + 1 }
  let s3 := ((s2.freshWindows g).overrun g).modGangCores g fun k c => launchCore g x s2.descView s.cycle dom level k c
  let s4 := s3.modGang g.key fun y =>
    { y with st := .running, start := s.timer, serial := s3.disp.serial, capt := capt }
  s2.cleanStores { s4 with disp := { s4.disp with serial := s4.disp.serial + 1 } } x.pager.isSome g

/-- The loads of some runs, one after the other. -/
def loadRuns : List Gang → State → Except (Nat × ReadErr) (List (Gang × Loaded) × State)
  | [], s => .ok ([], s)
  | g :: gs, s => do
    let x ← loadAll g s
    let (xs, t) ← loadRuns gs x.st
    .ok ((g, x) :: xs, t)

/-- A load has failed: the launch issues no word, and its record says so (R475; log 56, DESIGN CHOICE). A third run, of a launch that has
issued, ends faulted. -/
def failLoad (g : Gang) (runs i code : Nat) (s : State) : State :=
  if g.run == 2 then s.modGang g.key fun x => { x with ended := true, fault := some (i, code, 0), start := s.timer }
  else
    (({ s with disp := { s.disp with gangs := s.disp.gangs.filter fun x => x.pk.launch != g.pk.launch } }).countIssue g.owner).complete
      g.vf g.pk g.owner ⟨2, false, false, false, runs, s.timer, i + at' 16 code⟩ 0

/-- GANG_ISSUE (R475): the chosen runs of a launch issue together, in a later cycle than that of their choice, once the pages that the
dispatcher writes are not moving. -/
def execGangIssue (l : Nat) (s : State) : Host.Outcome State Fault Refusal :=
  let gs := s.disp.gangs.filter fun g => g.pk.launch == l && g.st == .chosen && g.saved.isEmpty && !g.ended && decide (g.since < s.cycle)
  match gs with
  | [] => .next s
  | g :: _ =>
    .next (if !s.dispatches || s.nsBusy g.vf || s.pagesHeld g.vf g.pk.cmpl 64 || (g.pk.captures && s.pagesHeld g.vf g.pk.capa 65536) then s
      else
        let s := (gs.flatMap Gang.cores).foldl State.withCore s
        match loadRuns gs s with
        | .error (i, e) => failLoad g gs.length i e.code e.st
        | .ok (xs, t) =>
          let u := xs.foldl (fun u x => issueRunOf x.1 x.2 u) t
          if g.run == 2 then u else u.countIssue g.owner)

/-! ## Completion of a gang (01 R45, R46; 13 R404, R406; 16 R476) -/

/-- A core's fault status: both causes. -/
def faultOf (c : Core) : Option (Nat × Nat) :=
  if c.status.getLsbD 31 then some (field c.status 8 8, field c.status 0 8) else none

/-- A core of a gang has taken a double trap or abandoned it: every core of the gang stops. -/
def State.spreadFault (s : State) (g : Gang) : State :=
  match g.fault, (s.gangCores g).find? fun c => (faultOf c).isSome with
  | none, some c =>
    let f := (faultOf c).getD (0, 0)
    (s.modGang g.key fun x => { x with fault := some ((g.cores.findIdx fun i => i == c.id), f.1, f.2) }).modGangCores g
      fun _ c => { c with st := .stopped, frozen := true, cwait := .none }
  | _, _ => s

/-- Commands of a gang that have not placed their elements (04 R140). -/
def State.gangCmds (s : State) (g : Gang) : Bool := s.cmds.any fun c => c.gang == g.key

/-- Writes of a gang's engines and commands are still to be performed. -/
def State.gangWrites (s : State) (g : Gang) : Bool :=
  (s.updates.any fun u => u.key == g.key) || s.outbox.any fun x => match x with
    | .write w => w.key == g.key
    | _ => false

/-- The run has nothing more to do: its commands are complete, the writes that its record carries are performed (04 R140), and the
record can be written. -/
def State.runDone (s : State) (g : Gang) : Bool :=
  (g.fault.isSome || (s.gangCores g).all fun c => c.st == .ended) && !s.gangCmds g && !s.gangWrites g && !s.pagesHeld g.vf g.pk.cmpl 64

/-- What a gang's completion record carries: what its engines have in their sets and its commands have written (04 R140). -/
def State.gangView (s : State) (g : Gang) : View :=
  (s.gangCores g).foldl (fun v c =>
    v ||| c.r.eC.view ||| c.r.eA.view ||| c.r.eM.view ||| c.r.eV.view ||| c.r.eS.view ||| c.cr.sh.view) g.wrote

/-- A core of another gang that waits on an object which ends with its maker: a phase that has completed is still departed
from; another wait is asked again, and meets the sync-object fault (log 60, DEDUCED). -/
def unwait (before : State) (gone : BitVec 32 → Bool) (c : Core) : Core :=
  match c.cwait with
  | .sacq o _ => if gone o then { c with cwait := .none } else c
  | .barrier (.obj o) _ => if gone o then { c with cwait := .none } else c
  | .released (.obj o) ph _ =>
    if gone o then { c with cwait := .departed (.obj o) ph (((before.pastOf (.obj o) ph).map PastPhase.view).getD 0) } else c
  | _ => c

/-- What belongs to a run ends with it: the cores that hold its state, which book their last cycle, are free; leases, objects, bindings, domains, handles, staged pairs, image
records, reads and walks of its cores are no more (01 R45; 03 R110; 08 R294; 09 R342, R353; 18 R504). -/
def State.endRun (s : State) (g : Gang) : State :=
  let s := s.modBooks fun b => ((s.cores.filter g.has).filter s.engaged).foldl (fun b c => bookEngines (s.saving c) c b) b
  let own := (s.cores.filter g.has).map Core.id
  let on := fun (c : CoreId) => own.contains c
  let unlease := fun (t : State) (c : CoreId) =>
    let v := CoreId.valeIdx c
    let u := if ((t.vale v).sfetch.map SealedFetch.core) == some c.core then t.endFetch v else t
    u.modVale v fun v =>
      { v with
        holder := if v.holder == some c.core then none else v.holder
        grant := match v.grant with | some x => if x.core == c.core then none else v.grant | none => none }
  let s1 := own.foldl unlease s
  let s2 := s1.mapCores fun c =>
    if g.has c then { c with st := .free, frozen := false, cwait := .none, r := { c.r with lease := .none, claim := none } } else c
  let s2 := s2.mapHeld (unwait s2 fun o => s2.syncs.any fun x => x.oid == o && x.gang == g.key)
  let quit := fun (x : SyncObj) => { x with waiters := x.waiters.filter fun w => w.2.1 != g.key }
  let s2 := s2.syncs.foldl (fun t x => if x.waiters.any fun w => w.2.1 == g.key then t.putFlag (quit x) else t) s2
  { s2 with
    syncs := s2.syncs.filter fun x => x.gang != g.key
    binds := s2.binds.filter fun b => b.gang != g.key
    domains := s2.domains.filter fun d => d.gang != g.key
    handles := s2.handles.filter fun h => h.gang != g.key
    staged := s2.staged.filter fun p => p.gang != g.key
    copies := s2.copies.filter fun c => c.gang != g.key
    reads := s2.reads.filter fun r => !on r.core
    walks := s2.walks.filter fun w => !on w.core
    openws := s2.openws.filter fun w => !on w.core
    colls := s2.colls.filter fun c => !on c.1
    ctl := s2.ctl }.reclaim

/-- PREEMPTs that wait for a launch get their status (log 52, DEDUCED). -/
def State.answerAsked (s : State) (l : Nat) (n : Int) : State :=
  let mine := s.disp.asked.filter fun a => a.gang == l
  let put := fun (r : Read) => if mine.any fun a => a.read == r.id then
      { r with ready := true, arr := match r.arr with
        | .reg (.s i _) => .reg (.s i (status n))
        | .reg (.h i _) => .reg (.h i (status n))
        | x => x }
    else r
  { s with
    reads := s.reads.map put
    disp := { s.disp with
      asked := s.disp.asked.filter fun a => a.gang != l
      gangs := s.disp.gangs.map fun (g : Gang) => { g with reads := g.reads.map put } } }

/-- STATUS and doubleword 3 of a run (R476). -/
def Gang.status (g : Gang) : Nat := if g.fault.isSome then 2 else if g.aband then 1 else 0
def Gang.dw3 (g : Gang) : Nat := (g.fault.map fun f => f.1 + at' 16 f.2.1 + at' 24 f.2.2).getD 0

/-- A run completes. -/
def State.finishRun (s : State) (g : Gang) : State :=
  let cs := s.gangCores g
  let aband := cs.any fun c => c.status.getLsbD 0 && !c.status.getLsbD 31
  let resid := cs.any fun c => c.status.getLsbD 1 && !c.status.getLsbD 31
  let s1 := (s.endRun g).modGang g.key fun x => { x with aband := aband, resid := resid, ended := true, wrote := s.gangView g }
  if g.pk.dual then s1
  else
    let ctrn := (g.capt.map Capture.trunc).getD false
    let g1 := { g with aband := aband }
    let s2 := s1.complete g.vf g.pk g.owner ⟨g1.status, resid, false, ctrn, 1, g.start, g1.dw3⟩ (s.gangView g)
    ({ s2 with disp := { s2.disp with gangs := s2.disp.gangs.filter fun x => x.key != g.key } }).answerAsked g.pk.launch (-2)

/-- GANG_COMPLETION: faults spread over the gang; a run that has nothing more to do ends, with its record (R476). -/
def execGangCompletion (l : Nat) (s : State) : Host.Outcome State Fault Refusal :=
  let runs := fun (t : State) => t.disp.gangs.filter fun g =>
    g.pk.launch == l && !g.ended && (g.st == .running || g.st == .stopping)
  let s1 := (runs s).foldl (fun t g => t.spreadFault g) s
  .next ((runs s1).foldl (fun t g => if t.runDone g then t.finishRun g else t) s1)

/-! ## Dual runs (R478, R479) -/

/-- The aligned 4-byte elements that a run wrote, in ascending address. -/
def elemsWritten (g : Gang) : List Nat := ((g.log.map fun x => x.1 / 4 * 4).foldl (fun l a => if l.head? == some a then l else a :: l) []).reverse

/-- The final value of an element for a run: the bytes that it wrote, memory elsewhere. -/
def finalBytes (s : State) (g : Gang) (va : Nat) : List Byte :=
  let mem := match pieceAs ⟨s.allParty.view, IDLE, g.vf, false⟩ va 4 s with
    | .ok (bs, _) => bs
    | .error _ => [0, 0, 0, 0]
  (List.range 4).map fun i => match g.log.find? fun x => x.1 == va + i with
    | some x => BitVec.ofNat 8 x.2
    | none => mem.getD i 0

/-- A run's signature; none for a log of more than 4 Mi elements. -/
def signatureOf (s : State) (g : Gang) : Option (List Byte) :=
  let es := elemsWritten g
  if 4 * 2 ^ 20 < es.length then none
  else some (shake256 (es.flatMap fun va => valBytes va 8 ++ finalBytes s g va) 32)

def runsAgree (s : State) (a b : Gang) : Bool :=
  match signatureOf s a, signatureOf s b with
  | some x, some y => x == y
  | _, _ => false

/-- The bytes of a log as the pieces of its aligned doublewords: address, bytes, and whether it is one write with the piece before it
(04 R135; log 58, DEDUCED). -/
def logPieces : List (Nat × Nat) → List (Nat × List Byte × Bool)
  | [] => []
  | (a, b) :: t =>
    let x : Byte := BitVec.ofNat 8 b
    match logPieces t with
    | [] => [(a, [x], false)]
    | (c, bs, m) :: r =>
      if a / 8 != c / 8 then (a, [x], false) :: (c, bs, m) :: r
      else if a + 1 == c then (a, x :: bs, false) :: r
      else (a, [x], false) :: (c, bs, true) :: r

/-- A run's log is performed (log 58, DEDUCED). -/
def performLog (g : Gang) (s : State) : State :=
  (logPieces g.log).foldl (fun t x => writeAs g.owner g.vf x.1 x.2.1 t x.2.2) s

/-- A disagreement is an error event (R398; 22 R554). -/
def State.noteDisagree (s : State) : State := s.alert 0x4FFF 5 [0, 0, 1]

/-- The record of a dual launch: STATUS and causes are those of the run that its writes are; it carries the writes of its runs and those
of a performed log (log 58, DEDUCED). -/
def State.finishDual (s : State) (gs : List Gang) (best : Gang) (status : Nat) (mis : Bool) (log : View) : State :=
  let ctrn := gs.any fun g => (g.capt.map Capture.trunc).getD false
  let start := (gs.map Gang.start).foldl min best.start
  let s1 := s.complete best.vf best.pk best.owner
    ⟨status, best.resid, mis, ctrn, gs.length, start, if status == 2 then best.dw3 else 0⟩
    (gs.foldl (fun v g => v ||| g.wrote) log)
  ({ s1 with disp := { s1.disp with gangs := s1.disp.gangs.filter fun x => x.pk.launch != best.pk.launch } }).answerAsked
    best.pk.launch (-2)

/-- The pages of a run's log of which the launch's capture still wants the pre-image (22 R560). -/
def State.logPages (s : State) (a g : Gang) : List Nat :=
  ((g.log.map fun x => x.1 / 65536 * 65536).eraseDups).filter fun p => (s.pageTier g.vf p).isSome && (s.uncaptured a.key p (.cell 0)).isSome

/-- The dispatcher can perform a run's log and write the record: no page of them moves. -/
def State.canPerform (s : State) (g : Gang) : Bool :=
  !s.pagesHeld g.vf g.pk.cmpl 64 && !((g.log.map fun x => x.1 / 65536 * 65536).eraseDups).any fun p => s.moving g.vf p

/-- Run 2 has agreed with run 1: its log is performed, once the capture has the pages' pre-images, and the record is written (log 58,
DEDUCED). -/
def State.takeLog (s : State) (gs : List Gang) (a b : Gang) : State :=
  match s.logPages a b with
  | [] =>
    let t := performLog b s
    t.finishDual gs b b.status true (t.writesFrom s.nextWrite)
  | ps => s.modGang a.key fun g => { g with capt := g.capt.map fun c => { c with want := (c.want ++ ps).eraseDups } }

/-- DUAL_RUN_COMPARE: both runs have ended; on a disagreement a third is placed, once there is room. Every pair that disagrees posts its
event (log 58, DEDUCED). -/
def execDualRunCompare (l : Nat) (s : State) : Host.Outcome State Fault Refusal :=
  let gs := s.disp.gangs.filter fun g => g.pk.launch == l && g.pk.dual
  match gs.find? fun g => g.run == 0, gs.find? fun g => g.run == 1, gs.find? fun g => g.run == 2 with
  | some a, some b, none =>
    if !(a.ended && b.ended) then .next s
    else if !s.canPerform b then .next s
    else if runsAgree s a b then .next (s.finishDual gs a a.status false 0)
    else match s.placeRun a.vf a.pk a.owner a.prio 2 with
      | some t => .next t.noteDisagree
      | none => .next s
  | some a, some b, some c =>
    if !(a.ended && b.ended && c.ended) || !s.canPerform b then .next s
    else if runsAgree s c b then .next (s.takeLog gs a b)
    else if runsAgree s c a then .next (s.noteDisagree.finishDual gs a a.status true 0)
    else .next (s.noteDisagree.noteDisagree.finishDual gs a 5 false 0)
  | _, _, _ => .next s

/-! ## Capture of pre-images (R480; 22 R560) -/

/-- The pages that an area holds (log 55, DEDUCED). -/
def Capture.capacity (c : Capture) : Nat := min 8160 (c.len / 65536 - 1)

/-- The migration engine works on a capture's copy, which books to the launch's owner (R484; log 72, DEDUCED). -/
def State.copyCycle (s : State) (acct : Nat) : State := s.modBooks fun b => { b with moving := b.moving ++ [⟨12, 0, acct⟩] }

/-- The bytes of a page for a capture; or, where they cannot be read, the state in which the error is reported (20 R514, R523; 22 R564). A page
that does not translate has nothing to capture (log 55, DEDUCED). -/
def preimageOf (vf acct page : Nat) (s : State) : Except State (List Byte × State) :=
  let w := walkVa (walkFor acct) vf (s.vfunOf vf) page s.allParty s
  let none' := (List.replicate 65536 (0 : Byte), w.2.2)
  match w.1 with
  | .error x => if x.code == 0x3E then .error (w.2.2.poison x.eia) else .ok none'
  | .ok t => match useLeaf (s.vfunOf vf) false false page t with
    | .ok (.cell pa) =>
      if w.2.2.badFrame pa then .error (w.2.2.poison (w.2.2.badPa pa))
      else .ok (Memory.readN s.mem pa 65536, (w.2.2.fixSoft pa 65536).transfer pa acct)
    | _ => .ok none'

/-- CAPTURE_PREIMAGE: a page that a write waits for is copied into the area; or the capture ends, its area full or the page unreadable (log 55,
DEDUCED). -/
def execCapturePreimage (l page : Nat) (s : State) : Host.Outcome State Fault Refusal :=
  match s.disp.gangs.find? fun g => g.pk.launch == l && g.run == 0 with
  | none => .next s
  | some g =>
    match g.capt with
    | none => .next s
    | some c =>
      let i := c.pages.length
      if !c.want.contains page || c.trunc || s.pagesMove g.vf c.area 65536 || s.pagesMove g.vf (c.area + 65536 * (i + 1)) 65536 then
        .next s
      else
        let c1 := { c with want := c.want.filter (· != page) }
        let ended := fun (t : State) => writeAs g.owner g.vf (c.area + 24) (valBytes 1 4) (t.modGang g.key fun x =>
            { x with capt := some { c1 with trunc := true, want := [] } })
        if c.capacity ≤ i then .next (ended s)
        else match preimageOf g.vf g.owner page s with
        | .error t => .next (ended t)
        | .ok (bytes, s0) =>
          let s1 := writeAs g.owner g.vf (c.area + 65536 * (i + 1)) bytes (s0.copyCycle g.owner)
          let s2 := writeAs g.owner g.vf (c.area + 256 + 8 * i) (valBytes page 8) s1
          .next (writeAs g.owner g.vf (c.area + 20) (valBytes (i + 1) 4) (s2.modGang g.key fun x =>
            { x with capt := some { c1 with pages := c1.pages ++ [page] } }))

/-! ## The decision of the dispatcher (R470 to R474) -/

/-- A stopped launch that is cancelled ends with its record (R470; log 56, DESIGN CHOICE). -/
def State.cancelGang (s : State) (g : Gang) : State :=
  let gs := s.disp.gangs.filter fun x => x.pk.launch == g.pk.launch
  let seen := gs.map fun x => { x with wrote := s.gangView x }
  ((s.runsOf g.pk.launch).foldl State.endRun s).finishDual seen g 3 false 0

/-- Stopped launches that are candidates: the first runs of those of which none is held (R470). -/
def State.stoppedLaunches (s : State) : List Gang :=
  s.disp.gangs.filter fun g => s.leads g && ((s.runsOf g.pk.launch).all fun x => x.st == .stopped && !x.hold) && !s.nsBusy g.vf

/-- DISPATCH_DECISION (R470 to R474): a cancelled candidate leaves; held objects are promoted; then the choice. -/
def State.decide (s : State) : State :=
  let mayEnd := fun (vf : Nat) (p : Packed) => !s.pagesHeld vf p.cmpl 64
  match s.heads.find? fun h => !s.nsBusy (h.1 / 64) && s.hold h.1 h.2 == .cancel && mayEnd (h.1 / 64) h.2 with
  | some h => s.cancelHead h.1 h.2
  | none =>
    match s.stoppedLaunches.find? fun g => s.gangHold g == .cancel && mayEnd g.vf g.pk with
    | some g => s.cancelGang g
    | none =>
      let s1 := (s.heads.filter fun h => s.objHold (h.1 / 64) h.2 == .held).foldl (fun t h => t.promote (h.1 / 64) (t.queue h.1).owner h.2) s
      let s2 := (s.stoppedLaunches.filter fun g => s.gangHold g == .held).foldl (fun t g => t.promote g.vf g.owner g.pk) s1
      s2.decideBelow 8

def execDispatchDecision (s : State) : Host.Outcome State Fault Refusal :=
  .next (if s.dispatches then s.applyVales.decide else s)

end Sys2Proof.Machine
end

