-- ==== Sys2Proof/Machine/Freeze.lean ====
section
/-! DEFINITION. Pre-emption: the stop and the resumption of a gang, and COPYX (13 R422 to R427; 16 R474; 19 R506 to R508; 22
R553). -/

namespace Sys2Proof.Machine

open Sys2Proof

/-! ## Images (R424, R425) -/

def keyBytes (k : BitVec 256) : List Byte := valBytes k.toNat 32

/-- What an image holds: slot, counter, snapshot words from first on, scratch bytes from off on. -/
structure ImageOf where
  slot  : Nat
  ctr   : Nat
  first : Nat
  words : List Word
  off   : Nat
  bytes : List Byte

/-- The 64 bytes of an image's header. -/
def imageHead (slot ctr first count off len : Nat) : List Byte :=
  valBytes 0x45565843 4 ++ valBytes (snapVer.toNat % 2 ^ 32) 4 ++ valBytes ctr 8 ++ valBytes slot 2 ++ valBytes 0 2 ++
    valBytes first 4 ++ valBytes count 4 ++ valBytes off 4 ++ valBytes len 4 ++ valBytes slot 4 ++ valBytes ctr 8 ++
    valBytes 0 16

/-- The IV of an image, bytes 36 to 47 of its header (log 61, DEDUCED). -/
def imageIv (head : List Byte) : List Byte := (head.drop 36).take 12

/-- A whole image under a key. -/
def sealImage (key : BitVec 256) (x : ImageOf) : List Byte :=
  let head := imageHead x.slot x.ctr x.first x.words.length x.off x.bytes.length
  let text := (x.words.flatMap fun w => valBytes w.toNat 8) ++ x.bytes
  let cipher := gcmStream (keyBytes key) (imageIv head) text
  head ++ cipher ++ gcmTag (keyBytes key) (imageIv head) head cipher

/-- The checks of an image in their order, and its words and bytes: the refusing cause, or the contents (R427). -/
def openImage (key : BitVec 256) (ctr slot first count off len : Nat) (img : List Byte) : Except Nat (List Word × List Byte) :=
  let head := img.take 64
  let stored := bytesVal ((head.drop 8).take 8)
  let want := imageHead slot stored first count off len
  let same := fun (a n : Nat) => (head.drop a).take n == (want.drop a).take n
  if !(same 0 8 && same 16 2 && same 20 16) then .error 0x35
  else if stored != ctr then .error 0x34
  else
    let n := 8 * count + len
    let cipher := (img.drop 64).take n
    let tag := (img.drop (64 + n)).take 16
    if gcmTag (keyBytes key) (imageIv head) head cipher != tag then .error 0x33
    else
      let text := gcmStream (keyBytes key) (imageIv head) cipher
      .ok ((List.range count).map fun i => word (bytesVal ((text.drop (8 * i)).take 8)), text.drop (8 * count))

/-! ## A stopped core -/

/-- Words that keep a core's own values in a restore (R427). -/
def ownWord (i : Nat) : Bool := i < 5 || i == 6 || i == 11 || i == 12

/-- A stopped core keeps its CYC in `cyc0` (R422). Its snapshot words from first on. -/
def frozenWords (c : Core) (reads : List Read) (plv : BitVec 2) (first count : Nat) : List Word :=
  (List.range count).map fun i => snapWord c reads plv c.cr.cyc0 (first + i)

/-- Words of a snapshot from first on are written into a stopped core; those it holds already change nothing. -/
def putWords (reads : List Read) (plv : BitVec 2) (first : Nat) (ws : List Word) (c : Core) : Core :=
  ws.zipIdx.foldl (fun c x =>
    let i := first + x.2
    if ownWord i || snapWord c reads plv c.cr.cyc0 i == x.1 then c else putWord c i x.1) c

/-- A core stops at the end of this cycle: its lease ends where another core requests, a grant under way for it is dropped (R422, 08
R294, R295). -/
def freezeCore (t : State) (c : CoreId) : State :=
  t.onCore c fun u =>
    if u.core.st != .running then u
    else
      let u2 := u.freezeLease.modVale u.valeIdx fun v =>
        { v with grant := match v.grant with | some g => if g.core == c.core then none else some g | none => none }
      u2.modCore fun k =>
        { k with st := .stopped, frozen := true, cr := { k.cr with cyc0 := u2.cycle + 1 - k.cr.cyc0 } }

/-! ## The save area (R422, R424; 16 R474) -/

/-- Bytes at an address of a function's near segment. -/
def State.nearAt (s : State) (vf ia : Nat) : Nat := tierBase 0 + (stage2 (s.vfunOf vf) 0 ia).getD 0

/-- The dispatcher writes bytes of a save area: transfers of SWITCH (17 R489). -/
def State.putArea (s : State) (vf ia : Nat) (bs : List Byte) : State :=
  let pa := s.nearAt vf ia
  (((s.spill pa bs).dispWrite pa bs (.gen 32 pa)).markRange vf pa bs.length).transfer pa SWITCH

/-- The bytes of a vale window, and of a core's slot in it. -/
def State.scratchBytes (s : State) (v off n : Nat) : List Byte := Memory.readN s.mem (scratchBase v + off) n

def State.plvOf (s : State) (vf : Nat) : BitVec 2 := (s.vfunOf vf).pagerlv

/-- A core's part of the save area is written; the place after it. A protected core's image takes the slot's next counter. -/
def saveCore (vf : Nat) (acc : State × Nat) (c : Core) : State × Nat :=
  let (s, a) := acc
  let ws := frozenWords c s.reads (s.plvOf vf) 0 snapLen
  if c.shielded then
    let slot := c.cr.keyslot.toNat % 64
    let (key, ctr) := s.keySlot slot
    let img := sealImage key ⟨slot, (ctr + 1).toNat, 0, ws, slotBase c.cr.spw,
      s.scratchBytes (CoreId.valeIdx c.id) (slotBase c.cr.spw) (slotBytes c.cr.spw)⟩
    ((s.setKeySlot slot (key, ctr + 1)).putArea vf a img, a + saveBytes c)
  else (s.putArea vf a (ws.flatMap fun w => valBytes w.toNat 8), a + saveBytes c)

/-- The save area of a run is written: its cores in index order, then the windows. -/
def saveRun (s : State) (g : Gang) : State :=
  let cs := s.gangCores g
  let (t, a) := cs.foldl (saveCore g.vf) (s, g.area.getD 0)
  ((s.savedVales g).foldl (fun (acc : State × Nat) v =>
    (acc.1.putArea g.vf acc.2 (acc.1.scratchBytes v (g.win * 4096) (g.wlen * 4096)), acc.2 + g.wlen * 4096)) (t, a)).1

/-! ## PREEMPTION_STOP (R422, R423; 16 R474) -/

/-- Cores of a run that is to stop freeze at the end of this cycle: those that have asked for it themselves, and those that a
free value names (log 63, DEDUCED). -/
def freezeSome (s : State) (g : Gang) : State :=
  (g.cores.filter fun c => g.quit.contains c || Config.stopsNow s.choice (coreNum c)).foldl freezeCore
    (s.modGang g.key fun x => { x with quit := [] })

/-- Save areas are taken, and the first cores of the runs freeze (log 45, DESIGN CHOICE; log 60, DEDUCED; log 63, DEDUCED). -/
def beginStop (s : State) (runs : List Gang) : State :=
  runs.foldl (fun t g =>
    match t.allocArea g.vf (t.areaSize g) [] with
    | none => t
    | some a => freezeSome (t.modGang g.key fun x => { x with area := some a }) g) s

/-- What a stopping core still holds of its vale's array ends (08 R294); the read of an AGC's record is made anew when A goes on (log 60,
DEDUCED). -/
def letGo (s : State) (c : CoreId) : State :=
  s.onCore c fun u => (if u.core.r.lease.held then u.cutLease else u).modCore fun k => { k with agc := none }

/-- A run whose commands have run to completion is saved, and stopped. -/
def endStop (s : State) (g : Gang) : State :=
  let mine := fun (c : CoreId) => g.cores.contains c
  let t := saveRun (g.cores.foldl letGo s) g
  let cs := t.gangCores g
  let u := t.modGang g.key fun x =>
    { x with
      st := .stopped, stopNo := t.disp.serial, saved := cs, lost := [], patch := []
      reads := t.reads.filter fun r => mine r.core && r.shown
      openws := t.openws.filter fun w => mine w.core }
  { u with
    reads := u.reads.filter fun r => !mine r.core
    openws := u.openws.filter fun w => !mine w.core
    walks := u.walks.filter fun w => !mine w.core
    disp := { u.disp with serial := u.disp.serial + 1 } }

/-- PREEMPTION_STOP: a launch that is to stop freezes core by core, when its area fits, and is stopped once its commands have run to
completion and its writes are performed (R407). One whose cores have all completed is left to complete (log 63, DEDUCED). -/
def execPreemptionStop (l : Nat) (s : State) : Host.Outcome State Fault Refusal :=
  let runs := (s.runsOf l).filter fun g => g.st == .stopping
  .next (if runs.isEmpty || runs.any (fun g => g.fault.isSome || (s.gangCores g).any fun c => (faultOf c).isSome) ||
      runs.all (fun g => (s.gangCores g).all fun c => c.st == .ended) then s
    else if runs.any fun g => g.area.isNone then (if s.canSave runs [] then (beginStop s runs).tick else s)
    else if runs.any fun g => (s.gangCores g).any fun c => c.st == .running then (runs.foldl freezeSome s).tick
    else if runs.any fun g => s.gangCmds g || s.gangWrites g then s
    else (runs.foldl endStop s).answerAsked l 0)

/-! ## GANG_RESUME (19 R507; 22 R553) -/

/-- A core goes on, its CYC without the stopped time; its engines acquire what the FREE that let it go on released (R507), and what
`view` holds besides. -/
def goOn (now : Nat) (view : View) (c : Core) : Core :=
  let see := fun (x : Eng) => { x with view := x.view ||| view }
  { c with
    st := if c.st == .stopped then .running else c.st
    frozen := c.st != .stopped, still := true
    r := { c.r with eC := see c.r.eC, eA := see c.r.eA, eM := see c.r.eM, eV := see c.r.eV, eS := see c.r.eS }
    cr := { c.cr with
      sh := see c.cr.sh
      cyc0 := if c.st == .stopped then now + 1 - c.cr.cyc0 else c.cr.cyc0 } }

/-- A core as its part of the save area restores it: its counters are lost (R553), its translation caches are those of the
place. -/
def restored (here : Core) (reads : List Read) (plv : BitVec 2) (ws : List Word) (c : Core) : Core :=
  let d := putWords reads plv 0 ws { c with ctlb := here.ctlb, stlb := here.stlb }
  { d with cr := { d.cr with
      hcnt := Vector.replicate 30 0, fwcnt := Vector.replicate 16 0, twcnt := Vector.replicate 10 0
      hcctl := d.cr.hcctl ||| 4 } }

/-- Doublewords of a list of bytes. -/
def wordsOf (n : Nat) (bs : List Byte) : List Word :=
  (List.range n).map fun i => word (bytesVal ((bs.drop (8 * i)).take 8))

/-- The bytes of a save area, read by the dispatcher: a transfer of SWITCH (17 R489). -/
def State.areaBytes (s : State) (vf ia n : Nat) : List Byte × State :=
  let pa := s.nearAt vf ia
  (Memory.readN s.mem pa n, (s.fixSoft pa n).transfer pa SWITCH)

/-- Scratch bytes are written. -/
def State.putScratch (s : State) (v off : Nat) (bs : List Byte) : State :=
  if bs.isEmpty then s else s.writeAll (scratchBase v + off) bs (.sp v off)

/-- A core of a stopped run comes back: from the state it holds where no other gang has used it, else from the area; the slot of a protected
core, where another gang has taken its window, from its image. The cause with which that image is refused; the place after the core's
part (log 61, DEDUCED). -/
def resumeCore (g : Gang) (acc : Except (Nat × Nat) (State × Nat)) (x : Core × Nat) : Except (Nat × Nat) (State × Nat) := do
  let (s, a) ← acc
  let c := x.1
  let next := a + saveBytes c
  let put := fun (t : State) (view : View) (d : Core) => t.onCore c.id fun u => u.modCore fun _ => goOn s.cycle view d
  let here := ((s.withCore c.id).cores.find? fun k => k.id == c.id).getD (Core.reset c.id)
  let fresh := g.view ||| s.descView c.id
  let mine := here.launch == g.key
  if mine && !(c.shielded && g.lost.contains (CoreId.valeIdx c.id)) then .ok (put s g.view here, next)
  else if c.shielded then
    let slot := c.cr.keyslot.toNat % 64
    let (key, ctr) := s.keySlot slot
    let n := slotBytes c.cr.spw
    let (img, s) := s.areaBytes g.vf a (imageBytes n)
    match openImage key ctr.toNat slot 0 snapLen (slotBase c.cr.spw) n img with
    | .error code => .error (x.2, code)
    | .ok (ws, bs) =>
      let d := if mine then here else restored here g.reads (s.plvOf g.vf) ws c
      .ok ((put (s.withCore c.id) fresh d).putScratch (CoreId.valeIdx c.id) (slotBase c.cr.spw) bs, next)
  else
    let (bs, s) := s.areaBytes g.vf a (8 * snapLen)
    let ws := wordsOf snapLen bs
    .ok (put (s.withCore c.id) fresh (restored here g.reads (s.plvOf g.vf) ws c), next)

/-- The windows that other gangs have taken are written back. -/
def restoreWindows (g : Gang) (vales : List Nat) (a : Nat) (s : State) : State :=
  (vales.zipIdx.filter fun x => g.lost.contains x.1).foldl (fun t x =>
    let (bs, t) := t.areaBytes g.vf (a + x.2 * g.wlen * 4096) (g.wlen * 4096)
    t.putScratch x.1 (g.win * 4096) bs) s

/-- The scratch bytes that accepted restores wrote for cores that go on from the state they hold, where another gang has taken the window
since (19 R507). -/
def restorePatches (g : Gang) (s : State) (t : State) : State :=
  (g.patch.filter fun x => g.lost.contains (CoreId.valeIdx x.1) && s.cores.any fun c => c.id == x.1 && g.has c).foldl (fun t x =>
    t.putScratch (CoreId.valeIdx x.1) x.2.1 x.2.2) t

/-- A core's written pending records take effect; one that breaks R411 ends its gang (R417; log 61, DEDUCED). -/
def reloadCore (t : State) (c : CoreId) : State :=
  t.onCore c fun u => match u.reload with
    | some w => w
    | none => doubleTrap ((Config.freeWord u.choice).toNat % 256) u.tick

/-- A refused restore ends its gang: the index of a core and the cause (19 R507). -/
def refuseResume (s : State) (g : Gang) (i code : Nat) : State :=
  s.modGang g.key fun x =>
    { x with st := .running, area := none, saved := [], reads := [], openws := [], lost := [], patch := [], kept := none
             fault := some (i, code, 0) }

/-- The unit with an uncorrectable error in the save area of a run, where the run reads of it (22 R564; log 61, DEDUCED). -/
def State.badArea (s : State) (g : Gang) : Option Nat :=
  if g.lost.isEmpty && g.saved.all fun c => s.cores.any fun d => d.id == c.id && g.has d then none
  else s.badRead (s.nearAt g.vf (g.area.getD 0)) (s.areaSize g)

/-- A chosen stopped run resumes. -/
def resumeRun (s : State) (g : Gang) : State :=
  let vales := s.savedVales g
  match s.badArea g, g.saved.zipIdx.foldl (resumeCore g) (.ok (s, g.area.getD 0)) with
  | some u, _ => refuseResume (s.poison (8 * u)) g 0 0x3E
  | none, .error (i, code) => refuseResume s g i code
  | none, .ok (t, a) =>
    let u := restorePatches g s (restoreWindows g vales a t)
    let u1 := { u with reads := u.reads ++ g.reads, openws := u.openws ++ g.openws }
    let u2 := g.cores.foldl reloadCore u1
    let u3 := u2.modGang g.key fun x =>
      { x with st := .running, area := none, saved := [], reads := [], openws := [], lost := [], patch := [], kept := none, hold := false }
    u3.overrun g

/-- GANG_RESUME: the runs of a stopped launch that the dispatcher has chosen in an earlier cycle go on; waits whose phases have been released
resume (R422). -/
def execGangResume (l : Nat) (s : State) : Host.Outcome State Fault Refusal :=
  let runs := (s.runsOf l).filter fun g => g.st == .chosen && !g.saved.isEmpty && decide (g.since < s.cycle)
  .next (if !s.dispatches || runs.isEmpty then s
    else (runs.foldl resumeRun (runs.foldl (fun t g => t.runsHere g.vf) s)).scheduleAll)

/-! ## COPYX (R424 to R427; 19 R508) -/

def Cmd.xslot (c : Cmd) : Nat := c.bits 0 42 6
def Cmd.target (c : Cmd) : CoreId := ⟨c.bits 0 40 2, c.bits 0 35 5, c.bits 0 32 3⟩
def Cmd.xfirst (c : Cmd) : Nat := c.bits 3 0 20
def Cmd.xcount (c : Cmd) : Nat := c.bits 3 32 20
def Cmd.xoff (c : Cmd) : Nat := c.bits 4 0 23
def Cmd.xlen (c : Cmd) : Nat := c.bits 4 32 24

/-- The target of a COPYX, in the stopped state, with its gang. -/
def Cmd.stoppedTarget (c : Cmd) (s : State) : Option (Gang × Core) :=
  (s.disp.gangs.find? fun g => g.st == .stopped && !g.ended && g.cores.contains c.target).bind fun g =>
    (s.cores.find? fun k => k.id == c.target && k.launch == g.key).map fun k => (g, k)

/-- The scratch range of a COPYX lies in the window of its target's gang (log 61, DEDUCED). -/
def Cmd.xfits (c : Cmd) (g : Gang) : Bool :=
  c.xlen == 0 || (g.win * 4096 ≤ c.xoff && c.xoff + c.xlen ≤ (g.win + g.wlen) * 4096)

/-- The first scratch byte of a COPYX's range that is bound to an object whose scope does not contain the pushing core, by the doubleword
of the image in which it stands (04 R128). -/
def Cmd.xbound (c : Cmd) (s : State) : Option Nat :=
  ((List.range c.xlen).find? fun i => !c.mayTouch s (.sp (CoreId.valeIdx c.target) (c.xoff + i))).map fun i =>
    (64 + 8 * c.xcount + i) / 8

/-- A COPYX goes on with the image that it has formed or read before it paused. -/
def Cmd.image (c : Cmd) : List Byte := c.data.map (BitVec.ofNat 8)

/-- A run that keeps an image. -/
def Run.keeping (r : Run) (img : List Byte) : Run := { r with data := img.map BitVec.toNat }

/-- COPYX_SAVE (R426). The image is formed once. -/
def execCopyxSave (k : Nat) (s : State) : Host.Outcome State Fault Refusal :=
  runCmd k (fun c => c.kind == some .copyx && c.bits 0 48 1 == 0) (fun c s =>
    match c.stoppedTarget s with
    | none => .next (s.setCmd (c.fail 0x35 0))
    | some (g, t) =>
      if t.cr.keyslot.toNat != 64 + c.xslot then .next (s.setCmd (c.fail 0x35 0))
      else if !c.xfits g then .next (s.setCmd (c.fail 0x31 0))
      else match c.xbound s with
      | some i => .next (s.setCmd (c.fail 0x28 i))
      | none =>
        let (key, ctr) := s.keySlot c.xslot
        let img := if c.upto != 0 then c.image else
          sealImage key ⟨c.xslot, (ctr + 1).toNat, c.xfirst, frozenWords t g.reads (s.plvOf g.vf) c.xfirst c.xcount, c.xoff,
            s.scratchBytes (CoreId.valeIdx c.target) c.xoff c.xlen⟩
        let r0 := if c.upto != 0 then Run.start c s else (Run.start c (s.setKeySlot c.xslot (key, ctr + 1))).keeping img
        let own := CoreId.valeIdx c.core
        let r := (List.range (img.length / 8)).foldl (fun r i => r.elem fun r =>
          r.write c own (c.word 2 + BitVec.ofNat 64 (8 * i)) ((img.drop (8 * i)).take 8) 8) r0
        r.settle c s fun c => { c with bytes := img.length }) s

/-- An accepted restore writes its ranges into the target, and its key slot (log 60, DEDUCED). -/
def Cmd.restore (c : Cmd) (g : Gang) (ws : List Word) (bs : List Byte) (r : Run) : Run :=
  let noted := if bs.isEmpty then r.st else r.st.modGang g.key fun x => { x with patch := x.patch ++ [(c.target, c.xoff, bs)] }
  let s := noted.mapCores fun d =>
    if d.id == c.target then
      let d1 := putWords g.reads (r.st.plvOf g.vf) c.xfirst ws d
      { d1 with cr := { d1.cr with keyslot := BitVec.ofNat 7 (64 + c.xslot) } }
    else d
  (List.range (bs.length / 8)).foldl (fun (r : Run) i =>
    let v := CoreId.valeIdx c.target
    let o := c.xoff + 8 * i
    let id := r.st.nextWrite
    let t := writePiece r.st (scratchCell v o) ((bs.drop (8 * i)).take 8) (.sp v o) none
    { r with
      st := t
      party := { r.party with view := r.party.view ||| 1 <<< id }
      wrote := r.wrote ||| 1 <<< id }) { r with st := s }

/-- The bytes that an accepted restore writes: the words of its range but those that keep the target's values, and word 12 (R427). -/
def Cmd.restored (c : Cmd) : Nat :=
  8 * ((List.range c.xcount).countP fun i => !(c.xfirst + i < 5 || c.xfirst + i == 6 || c.xfirst + i == 11)) + c.xlen

/-- The image that a restore reads, once. -/
def Run.readImage (c : Cmd) (r : Run) : Run :=
  r.readList c (CoreId.valeIdx c.core) 8 8 ((80 + 8 * c.xcount + c.xlen) / 8) fun i => c.word 2 + BitVec.ofNat 64 (8 * i)

/-- COPYX_RESTORE (R427). -/
def execCopyxRestore (k : Nat) (s : State) : Host.Outcome State Fault Refusal :=
  runCmd k (fun c => c.kind == some .copyx && c.bits 0 48 1 == 1) (fun c s =>
    match c.stoppedTarget s with
    | none => .next (s.setCmd (c.fail 0x35 0))
    | some (g, _) =>
      if !c.xfits g then .next (s.setCmd (c.fail 0x31 0))
      else
        let r := (Run.start c s).readImage c
        if r.err.isSome then r.settle c s id
        else
          let (key, ctr) := s.keySlot c.xslot
          match openImage key ctr.toNat c.xslot c.xfirst c.xcount c.xoff c.xlen (r.data.flatMap fun x => valBytes x 8) with
          | .error code => .next (r.st.setCmd { c.fail code 0 with floor := r.party.floor })
          | .ok (ws, bs) =>
            match c.xbound r.st with
            | some i => .next (r.st.setCmd { c.fail 0x28 i with floor := r.party.floor })
            | none => (c.restore g ws bs r).settle c s fun c => { c with bytes := c.restored }) s

end Sys2Proof.Machine
end

