-- ==== Sys2Proof/Machine/Platform.lean ====
section
/-! DEFINITION. The host window, the mailbox, bring-up, namespaces, the partition of vales, the event rings (16 R462 to R465; 20
R510 to R514, R525, R529 to R533; 22 R554 to R557). -/

namespace Sys2Proof.Machine

open Sys2Proof

def State.modPlat (s : State) (f : Plat → Plat) : State := { s with plat := f s.plat }

/-! ## Event rings (22 R554 to R557) -/

/-- Where the ring of an event stands: a virtual function's, hyper's, maker's. -/
inductive RingId where
  | vf (v : Nat)
  | hyper
  | maker
  deriving DecidableEq, Repr

/-- The ring of a source: by its class, and its instance. -/
def State.ringOf (s : State) (src : Nat) : RingId :=
  match src / 4096 with
  | 1 => .vf ((s.vale (src % 4096 / 8)).vf % 32)
  | 2 => .vf (src % 4096 % 32)
  | 3 => .vf (src % 4096 % 32)
  | 4 => .hyper
  | _ => .maker

def State.ring (s : State) : RingId → Ring
  | .vf v => (s.vfunOf v).ring
  | .hyper => s.plat.hring
  | .maker => s.plat.mring

def State.modRing (s : State) (i : RingId) (f : Ring → Ring) : State :=
  match i with
  | .vf v => s.modVf v fun x => { x with ring := f x.ring }
  | .hyper => s.modPlat fun p => { p with hring := f p.hring }
  | .maker => s.modPlat fun p => { p with mring := f p.mring }

/-- The function in whose space a ring lies: hyper's and maker's lie in function 0's (log 25, PRESUMED). -/
def RingId.space : RingId → Nat
  | .vf v => v
  | _ => 0

/-- The records of a ring. -/
def Ring.size (r : Ring) : Nat := 2 ^ field r.evrc 1 5

/-- The 64 bytes of a record (log 40, PRESUMED). -/
def recordBytes (a : Alert) (seq : Nat) : List Byte :=
  valBytes a.src 2 ++ valBytes a.kind 2 ++ valBytes 0 4 ++ valBytes seq 8 ++ valBytes a.time 8 ++
    ((a.payload ++ List.replicate 5 0).take 5).flatMap fun x => valBytes x 8

/-- The ring of an event, with the EVRC that holds for it (R556). -/
def State.ringFor (s : State) (a : Alert) : Ring :=
  let r := s.ring (s.ringOf a.src)
  { r with evrc := a.evrc.getD r.evrc }

/-- EVENT_DELIVERY (R557): an event has its source's next sequence number; its record is written to its ring, or dropped (log
25, PRESUMED; log 40, PRESUMED). -/
def State.deliverOne (s : State) (a : Alert) : State :=
  let n := assocGet 0 a.src s.seqs + 1
  let s := { s with seqs := assocSet a.src n s.seqs }
  let i := s.ringOf a.src
  let r := s.ringFor a
  if !r.evrc.getLsbD 0 || (r.tail + 2 ^ 32 - r.head) % 2 ^ 32 == r.size then
    s.modRing i fun r => { r with drop := min (r.drop + 1) 0xFFFFFFFF }
  else
    let va := field r.evrc 12 36 * 4096 + 64 * (r.tail % r.size)
    let t := writeAs IDLE i.space va (recordBytes a n) s
    t.modRing i fun r =>
      { r with tail := (r.tail + 1) % 2 ^ 32, rel := r.rel ||| ((1 <<< t.nextWrite) - (1 <<< s.nextWrite)) }

/-- The place of an event's record lies in a page that moves: the event waits (14 R444). -/
def State.ringHeld (s : State) (a : Alert) : Bool :=
  let r := s.ringFor a
  r.evrc.getLsbD 0 && s.pagesHeld (s.ringOf a.src).space (field r.evrc 12 36 * 4096 + 64 * (r.tail % r.size)) 64

/-- Every event that waits is delivered, but those whose ring's page moves. -/
def State.deliver (s : State) : State :=
  s.alerts.foldl (fun t a => if t.ringHeld a then { t with alerts := t.alerts ++ [a] } else t.deliverOne a)
    { s with alerts := [] }

def Ring.evrp (r : Ring) : Word := word (r.tail + at' 32 r.head)

/-- A write of EVRC. -/
def evrcOf (w : Word) : Word := word (field w 0 1 + at' 1 (clamp 6 20 (field w 1 5)) + at' 12 (field w 12 36))

/-- The events of a ring that still wait keep its EVRC as it stands (R556). -/
def State.keepEvrc (s : State) (i : RingId) : State :=
  { s with alerts := s.alerts.map fun (a : Alert) =>
      if s.ringOf a.src == i && a.evrc.isNone then { a with evrc := some (s.ring i).evrc } else a }

/-- A write of word k of a ring: EVRC takes effect for later events, HEAD is software's, EVRD is read only. -/
def State.writeRing (s : State) (i : RingId) (k : Nat) (w : Word) : State :=
  match k with
  | 0 => (s.deliver.keepEvrc i).modRing i fun r => { r with evrc := evrcOf w }
  | 1 => s.modRing i fun r => { r with head := field w 32 32 }
  | _ => s

def Ring.word (r : Ring) (k : Nat) : Word :=
  match k with
  | 0 => r.evrc
  | 1 => r.evrp
  | _ => Machine.word r.drop

/-! ## Namespaces (16 R465) -/

/-- What an export of a function's namespace carries. -/
def State.namespaceOf (s : State) (vf : Nat) : Config.Namespace :=
  let objs := s.objs.filter fun o => o.vf == vf && o.live
  { names := (s.names.filter fun n => n.vf == vf).map fun n => (n.name, n.ident)
    objs := objs.map fun o =>
      (o.ident, [o.base, o.size] ++ (o.ext.toList.map BitVec.toNat) ++ [o.fmt.toNat, o.scalep.toNat, o.acct])
    handles := (s.handles.filter fun h => (s.objs.any fun o => o.vf == vf && o.ident == h.ident)).map fun h => (h.gang, h.idx, h.ident) }

/-- An account that an image names: one that no software has is the function's default account (17 R485, R495). -/
def State.acctOf (s : State) (vf n : Nat) : Nat := if n < 16 || 4096 ≤ n then field (s.vfunOf vf).acfg 0 12 else n

/-- A function's namespace becomes what an image carries (log 24, DESIGN CHOICE). -/
def State.setNamespace (s : State) (vf : Nat) (x : Config.Namespace) : State :=
  let mine := fun (i : Nat) => s.objs.any fun o => o.vf == vf && o.ident == i
  let view := s.allParty.view
  { s with
    names := (s.names.filter fun n => n.vf != vf) ++ x.names.map fun n => ⟨vf, n.1, n.2, view⟩
    objs := (s.objs.filter fun o => o.vf != vf || !o.live) ++ x.objs.map fun o =>
      { ident := o.1, vf := vf, base := o.2.getD 0 0, size := o.2.getD 1 0
        ext := Vector.ofFn fun i => BitVec.ofNat 32 (o.2.getD (2 + i.val) 0), fmt := word (o.2.getD 6 0)
        scalep := word (o.2.getD 7 0), acct := s.acctOf vf (o.2.getD 8 0), view := view, live := true }
    handles := (s.handles.filter fun h => !mine h.ident) ++ x.handles.map fun h => ⟨h.1, h.2.1, h.2.2⟩ }

/-- A virtual function is being moved away, from step 5 of R455 on: its dirty tracking is on, and each of its gangs is stopped and held (14
R455; log 78, DESIGN CHOICE). -/
def State.leaving (s : State) (vf : Nat) : Bool :=
  (s.vfunOf vf).dtctl.extractLsb' 0 3 != 0 &&
    (s.disp.gangs.filter fun g => g.vf == vf && !g.ended).all fun g => g.st == .stopped && g.hold

/-- The export itself: the image is written, and known again when it is imported (log 24, DESIGN CHOICE); that of a function that is being
moved away completes its move (log 78, DESIGN CHOICE). -/
def State.exportNow (s : State) (vf : Nat) (a : Word) : State :=
  let x := s.namespaceOf vf
  let bs := Config.namespaceBytes x
  let put := fun (t : State) (i : Nat) => writeAs IDLE vf (a.toNat + 8 * i) ((bs.drop (8 * i)).take 8) t
  let t := (List.range ((bs.length + 7) / 8)).foldl put { s with exports := (bs, x) :: s.exports }
  t.modVf vf fun f => { f with nsx := 0, moved := f.moved || s.leaving vf }

/-- NAMESPACE_EXPORT: a write of NSX starts an export; it ends with NSX reading 0. -/
def execNamespaceExport (vf : Nat) (a : Word) (s : State) : Host.Outcome State Fault Refusal :=
  let f := s.vfunOf vf
  .next (if (a == 0 || f.nsx == a) && s.pagesHeld vf a.toNat (Config.namespaceBytes (s.namespaceOf vf)).length then s
    else if a == 0 || f.nsx == a then s.exportNow vf a
    else if f.nsx == 0 then s.modVf vf fun f => { f with nsx := a }
    else s)

/-- The bytes at an address of a function, n of them, as the dispatcher reads them. -/
def bytesAs (vf va n : Nat) (s : State) : Option (List Byte × State) :=
  match readAs ⟨s.allParty.view, IDLE, vf, false⟩ 4 ((n + 3) / 4) va s with
  | .ok (bs, t) => some (bs.take n, t)
  | .error _ => none

/-- What the image at an address carries: an image exported here, or one from elsewhere; none when it is refused (log 24, DESIGN CHOICE). -/
def State.imageAt (s : State) (vf va : Nat) : Option Config.Namespace × State :=
  match s.exports.find? fun x => (bytesAs vf va x.1.length s).map Prod.fst == some x.1 with
  | some x => (some x.2, s)
  | none =>
    match bytesAs vf va 64 s with
    | none => (none, s)
    | some (h, t) =>
      match bytesAs vf va (Config.namespaceSize h) t with
      | none => (none, t)
      | some (bs, u) => (Config.namespaceOf bs, u)

/-- The import itself: NSI reads 0 when done, −1 when the image is refused (log 24, DESIGN CHOICE); the function is then here (log 78, DESIGN
CHOICE). -/
def State.importNow (s : State) (vf : Nat) (a : Word) : State :=
  match s.imageAt vf a.toNat with
  | (some x, t) => (t.setNamespace vf x).modVf vf fun f => { f with nsi := 0, moved := false }
  | (none, t) => t.modVf vf fun f => { f with nsi := 0xFFFFFFFFFFFFFFFF }

/-- NAMESPACE_IMPORT. -/
def execNamespaceImport (vf : Nat) (a : Word) (s : State) : Host.Outcome State Fault Refusal :=
  let f := s.vfunOf vf
  .next (if a == 0 || a == 0xFFFFFFFFFFFFFFFF || f.nsi == a then s.importNow vf a
    else if f.nsi == 0 || f.nsi == 0xFFFFFFFFFFFFFFFF then s.modVf vf fun f => { f with nsi := a }
    else s)

/-! ## Vales (20 R525) -/

/-- A written VALEVF waits for its vale to drain. -/
def State.writeVale (s : State) (v : Nat) (w : Word) : State :=
  s.modVale v fun x => { x with vfDrain := true, vfNext := some (field w 0 6) }

/-- VALEVF_WRITE; ignored from the entry into the hollow state to the wake (21 R547). -/
def execValevfWrite (v : Nat) (w : Word) (s : State) : Host.Outcome State Fault Refusal :=
  .next (if v < 128 && s.plat.hst == 0 then s.writeVale v w else s)

def Vale.valevf (x : Vale) : Word := word (x.vf % 32 + at' 5 x.vfOn.toNat + at' 6 x.vfDrain.toNat)

/-! ## Words of the configuration blocks (R463 to R465, R495, R513) -/

/-- A write of QCFG. -/
def qcfgOf (w : Word) : Word :=
  let owner := field w 12 12
  word (field w 0 3 + at' 3 (max 1 (field w 3 8)) + at' 11 (field w 11 1) + at' 12 (if owner < 16 then 16 else owner))

def Queue.status (q : Queue) : Word := word (q.fifo.length + at' 16 q.drop + at' 32 q.refu)

/-- A write of ACFG (17 R495). -/
def acfgOf (w : Word) : Word :=
  let d := field w 0 12
  word ((if d < 16 then 16 else d) + at' 16 (field w 16 12) + at' 32 (field w 32 12))

/-- The least levels that read and write a word of a virtual function's block. -/
def vfLevels (o : Nat) : Option (Nat × Option Nat) :=
  if o % 8 != 0 then none
  else if o < 0x200 then some (1, some 2)
  else if o < 0x400 then some (1, none)
  else if o < 0x430 then some (1, some 2)
  else if o == 0x430 then some (1, some 1)
  else if o == 0x440 || o == 0x448 || o == 0x450 then some (1, some 1)
  else none

/-- A write of a word of a virtual function's block. -/
def State.writeVf (s : State) (vf o : Nat) (w : Word) : State :=
  let put := fun (f : VFun → VFun) => s.modVf vf f
  if o < 0x200 then s.setQueue (queueKey vf (o / 8)) { s.queue (queueKey vf (o / 8)) with cfg := qcfgOf w }
  else if o == 0x400 then put fun f => { f with pgimg := w }
  else if o == 0x408 then put fun f => { f with saveb := w }
  else if o == 0x410 then put fun f => { f with savel := w }
  else if o == 0x418 then (match execNamespaceExport vf w s with | .next t => t | _ => s)
  else if o == 0x420 then (match execNamespaceImport vf w s with | .next t => t | _ => s)
  else if o == 0x428 then put fun f => { f with acfg := acfgOf w }
  else if o == 0x430 then put fun f => { f with ownt := word (at' 16 (field w 16 48)) }
  else s.writeRing (.vf vf) ((o - 0x440) / 8) w

/-- A word of a virtual function's block as it is read. -/
def State.readVf (s : State) (vf o : Nat) : Word :=
  let f := s.vfunOf vf
  if o < 0x200 then (s.queue (queueKey vf (o / 8))).cfg
  else if o < 0x400 then (s.queue (queueKey vf ((o - 0x200) / 8))).status
  else if o == 0x400 then f.pgimg
  else if o == 0x408 then f.saveb
  else if o == 0x410 then f.savel
  else if o == 0x418 then f.nsx
  else if o == 0x420 then f.nsi
  else if o == 0x428 then f.acfg
  else if o == 0x430 then f.ownt
  else f.ring.word ((o - 0x440) / 8)

/-- BOOTST (R530). -/
def Plat.bootst (p : Plat) : Word := word (p.step + at' 4 p.ready.toNat + at' 5 p.rcv.toNat + at' 8 p.flt + at' 16 p.sver)

def int32 (x : Int) : Nat := (BitVec.ofInt 32 x).toNat

/-- TMSTAT (R527). -/
def Plat.tmstat (p : Plat) : Word := word (p.lock.toNat + at' 32 (int32 p.ofs))

/-- ±200 ppm in units of 2^−32. -/
def ppm200 : Int := 858993

/-- A write of TMADJ, clamped. -/
def tmadjOf (w : Word) : Word := word (int32 (max (-ppm200) (min ppm200 (w.extractLsb' 0 32).toInt)))

/-- LKSTAT (R519). -/
def Link.lkstat (l : Link) : Word :=
  word (l.st + at' 2 l.spu.toNat + at' 3 l.badl + at' 6 l.dis.toNat + at' 8 l.epoch + at' 24 l.nbr + at' 34 l.rtry +
    at' 48 l.dropc)

/-- CXLST (R524). -/
def Cxl.cxlst (c : Cxl) : Word := word (c.st + at' 2 c.ide.toNat + at' 4 c.cap + at' 16 c.psn)

/-- The least levels that read and write a word of the package's block (R513; 21 R548; 22 R556). -/
def pkgLevels (o : Nat) : Option (Nat × Option Nat) :=
  if o % 8 != 0 then none
  else if o == 0 then some (3, some 3)
  else if o == 0x08 then some (0, none)
  else if o == 0x10 then some (2, none)
  else if o == 0x18 || o == 0x20 || o == 0x30 then some (2, some 2)
  else if o == 0x28 || o == 0x38 then some (2, none)
  else if o == 0x40 || o == 0x48 || o == 0x50 then some (2, some 2)
  else if o == 0x60 || o == 0x68 || o == 0x70 then some (3, some 3)
  else if 0x100 ≤ o && o < 0x500 then some (2, some 2)
  else if 0x500 ≤ o && o < 0x560 then some (2, some 3)
  else if 0x580 ≤ o && o < 0x5C0 then some (2, none)
  else none

/-! ## Links that leave the up state (14 R451; 20 R520, R521) -/

/-- Translations tagged with a port are dropped (log 67, DESIGN CHOICE). -/
def State.dropPort (s : State) (port : Nat) : State :=
  let keep := fun (ts : List TlbEntry) => ts.filter fun t => !((t.port.map fun p => p.1 == port).getD false)
  s.mapCores fun c => { c with ctlb := keep c.ctlb, stlb := c.stlb.map keep }

/-- The marks of a load of C or A (log 64, DEDUCED). -/
def loadMarks (c : Core) (pc : Nat) : Marks × Nat :=
  match decode (c.text.getD pc 0) (c.text.getD (pc + 1) 0) with
  | .ok (.ld m _ _ o) => (m, optWords o)
  | .ok (.ldaq m _ _) => (m, 1)
  | .ok (.ald m _ _ o) => (m, optWords o)
  | _ => (⟨false, false, false, false⟩, 1)

/-- A token goes back to the head of its FIFO. -/
def unpop (r : Regs) (f : Fin 10) : Regs :=
  { r with tok := r.tok.set f { r.tok[f] with toks := ⟨0, false⟩ :: r.tok[f].toks } }

/-- A reserved entry is given up. -/
def unreserve (r : Regs) (f : Fin 10) : Regs :=
  { r with tok := r.tok.set f { r.tok[f] with resv := r.tok[f].resv - 1 } }

/-- A load whose engine waits for it is not performed: the engine stands at it again, its tokens given back (log 64, DEDUCED). -/
def unissue (r : Read) (u : State) : State :=
  let m := (loadMarks u.core r.word).1
  let u1 := u.modR fun x => (r.toks.foldl unreserve ((waitList r.eng m).foldl unpop x))
  { u1 with reads := u1.reads.filter fun x => x.id != r.id }.modEng r.eng fun x =>
    { x with pc := r.word, walked := r.was.1, levels := r.was.2, stall := none }

/-- A load in flight through a port whose epoch has changed: the remote epoch fault of A, the translation fault of C. A
block on its way into lq is read again once its trap's handler has returned (log 64, DEDUCED). -/
def lostRead (s : State) (r : Read) : State :=
  s.onCore r.core fun u =>
    let va := word ((r.elems.headD (0, 0)).1)
    match r.arr with
    | .reg _ =>
      let t := unissue r u
      raise r.eng (epochCause t r.eng va) t
    | .slot _ _ _ =>
      let t := { u with reads := u.reads.map fun x => if x.id == r.id then { x with ready := false } else x }
      raise r.eng ((epochCause t r.eng va).atWord t r.eng r.word) t
    | .record => u

/-- Unacknowledged writes through a port are dropped and logged, and nothing waits for them any more; requests of loads that stand there
are gone with them (R451; log 64, DEDUCED). -/
def State.dropWrites (s : State) (port : Nat) : State :=
  let lost := s.outbox.filterMap fun x => match x with | .write w => if w.port == port then some w else none | _ => none
  let stays := fun (x : Sent) => match x with | .write w => w.port != port | .load r => r.port != port | _ => true
  (lost.foldl (fun (t : State) w => t.dropWrite w.vf w.unit (w.key % 2 ^ 32) w.va w.port) { s with outbox := s.outbox.filter stays }).clearWids false
    (lost.map FarWrite.wid)

def State.modLink (s : State) (port : Nat) (f : Link → Link) : State :=
  s.modPlat fun p => { p with links := vmod p.links .reset port f }

/-- What waits to leave a port goes on to wait when its epoch changes, where it belongs to no remote access (log 17, DESIGN CHOICE). -/
def Sent.stays : Sent → Bool
  | .write _ => false
  | .load _ => false
  | .reply _ _ _ _ => false
  | _ => true

/-- A port leaves the up state, or hears an epoch announcement: what R451 gives comes about at once, and the port trains (log
64, DEDUCED). -/
def State.epochChange (s : State) (port : Nat) : State :=
  let down := fun (l : Link) =>
    { l with
      st := if l.dis then 3 else 1, cred := Link.reset.cred, buf := [], owed := Vector.replicate 6 0
      queue := l.queue.filter fun x => x.2.stays }
  let t := ((s.modLink port down).dropPort port).dropWrites port
  (t.reads.filter fun r => r.far.any fun x => x.1 == port).foldl lostRead t

/-- LINK_EPOCH_CHANGE (R520). -/
def execLinkEpochChange (port : Nat) (s : State) : Host.Outcome State Fault Refusal :=
  .next (if port < 12 && (vget s.plat.links .reset port).st == 2 then s.epochChange port else s)

/-- A write of LKSTAT.DIS: a held port is disabled; one let go trains. -/
def State.writeLink (s : State) (port : Nat) (w : Word) : State :=
  let l := vget s.plat.links .reset port
  let dis := w.getLsbD 6
  let t := s.modLink port fun l => { l with dis := dis }
  if dis then (if l.st == 2 then t.epochChange port else t.modLink port fun l => { l with st := 3 })
  else if l.st == 3 then t.modLink port fun l => { l with st := 1 }
  else t

/-- A write of a word of the package's block. -/
def State.writePkg (s : State) (o : Nat) (w : Word) : State :=
  if o == 0 then s.modBooks fun b => { b with consst := if w.getLsbD 0 then b.consst &&& ~~~(1#64) else b.consst }
  else if o == 0x18 then s.modPlat fun p => { p with tmctl := word (field w 0 5) }
  else if o == 0x20 then s.modPlat fun p => { p with tmadj := tmadjOf w }
  else if o == 0x30 then s.modPlat fun p => { p with nodeid := field w 0 10 }
  else if o < 0x58 then s.writeRing .hyper ((o - 0x40) / 8) w
  else if o < 0x78 then s.writeRing .maker ((o - 0x60) / 8) w
  else if o < 0x500 then s.writeVale ((o - 0x100) / 8) w
  else s.writeLink ((o - 0x500) / 8) w

/-- A word of the package's block as it is read. -/
def State.readPkg (s : State) (o : Nat) : Word :=
  let p := s.plat
  if o == 0 then s.books.consst
  else if o == 0x08 then 0x01000000
  else if o == 0x10 then p.bootst
  else if o == 0x18 then p.tmctl
  else if o == 0x20 then p.tmadj
  else if o == 0x28 then p.tmstat
  else if o == 0x30 then word p.nodeid
  else if o == 0x38 then p.holst
  else if o < 0x58 then p.hring.word ((o - 0x40) / 8)
  else if o < 0x78 then p.mring.word ((o - 0x60) / 8)
  else if o < 0x500 then (s.vale ((o - 0x100) / 8)).valevf
  else if o < 0x560 then (vget p.links .reset ((o - 0x500) / 8)).lkstat
  else (vget p.cxl .reset ((o - 0x580) / 8)).cxlst

/-! ## The mailbox (R531, R532) -/

def mbxBytes : Nat := 61440

/-- MBXCTL as it is read. -/
def Mailbox.ctl (m : Mailbox) : Word := word (m.op + at' 3 m.go.toNat + at' 4 m.res + at' 32 m.len)

/-- The mailbox answers from step 5 of bring-up, and in recovery. -/
def Plat.mailboxOn (p : Plat) : Bool := 5 ≤ p.step || p.rcv

/-- A write of MBXCTL: operations 0 and 5 to 7 are refused at once. -/
def Mailbox.writeCtl (m : Mailbox) (w : Word) : Mailbox :=
  let op := field w 0 3
  let known := 1 ≤ op && op ≤ 4
  let go := w.getLsbD 3
  { m with op := op, len := field w 32 16, go := go && known, res := if go && !known then 4 else m.res }

/-- A write into the mailbox; ignored while an operation runs. -/
def Mailbox.write (m : Mailbox) (o : Nat) (w : Word) : Mailbox :=
  if m.go then m
  else if o == 0 then m.writeCtl w
  else if o == 8 then { m with off := field w 0 32 }
  else if 0x1000 ≤ o && o + 8 ≤ 0x1000 + mbxBytes then { m with buf := Memory.writeN m.buf (o - 0x1000) (valBytes w.toNat 8) }
  else m

def Mailbox.read (m : Mailbox) (o : Nat) : Word :=
  if o == 0 then m.ctl
  else if o == 8 then word m.off
  else if 0x1000 ≤ o && o + 8 ≤ 0x1000 + mbxBytes then word (bytesVal (Memory.readN m.buf (o - 0x1000) 8))
  else 0

/-- The bytes in the buffer. -/
def Mailbox.bytes (m : Mailbox) : List Byte := Memory.readN m.buf 0 m.len

/-- An operation is under way. -/
def Plat.mbxRuns (p : Plat) (op : Nat) : Bool := p.mbx.go && p.mbx.op == op

def State.mbxDone (s : State) (res : Nat) : State := s.modPlat fun p => { p with mbx := { p.mbx with go := false, res := res } }

/-- The chain of certificate slot 0, whose last certificate carries the identity key's public half (R533). -/
def slotChain : List Byte := Config.certificateChain (edPublic identitySecret)

/-- The measurements that a request for an index names (R532). -/
def Plat.measured (p : Plat) (i : Nat) : List (Nat × List Byte) := p.meas.filter fun m => i == 255 || m.1 == i

/-- The answer to a supported request, with a signature to be filled in (R532, R533; log 10, DESIGN CHOICE). -/
def Plat.spdmAnswer (p : Plat) : Config.SpdmReq → Config.SpdmAns
  | .version => .version
  | .capabilities => .capabilities
  | .algorithms => .algorithms
  | .digests => if p.step < 3 then .error else .digests [(0, sha3 slotChain)]
  | .certificate slot off len =>
    if slot != 0 || p.step < 3 then .error
    else
      let rest := slotChain.drop off
      .certificate (rest.take len) (rest.length - len)
  | .challenge slot => if slot != 0 || p.step < 3 then .error else .challenge (sha3 slotChain) []
  | .measurements i signed =>
    if signed && p.step < 3 then .error
    else if i == 0 then .count p.meas.length []
    else if (p.measured i).isEmpty then .error
    else .measurements (p.measured i) []
  | .other => .error

/-- The request asks for a signature. -/
def wantsSignature : Config.SpdmReq → Bool
  | .challenge _ => true
  | .measurements _ signed => signed
  | _ => false

/-- An answer with its signature. -/
def signedAnswer (sig : List Byte) : Config.SpdmAns → Config.SpdmAns
  | .challenge c _ => .challenge c sig
  | .count n _ => .count n sig
  | .measurements b _ => .measurements b sig
  | a => a

/-- The bytes of the response to a request: the identity key signs them where the request asks for it (R532, R533). -/
def State.spdmResponse (s : State) (q : Config.SpdmReq) : List Byte :=
  let a := s.plat.spdmAnswer q
  let sig := edSign identitySecret (Config.spdmTranscript s.choice s.plat.mbx.bytes a)
  Config.spdmBytes s.choice (if wantsSignature q then signedAnswer sig a else a)

/-- SPDM_REQUEST (R532): the response replaces the buffer (log 10, DESIGN CHOICE). -/
def execSpdmRequest (s : State) : Host.Outcome State Fault Refusal :=
  if !s.plat.mbxRuns 1 then .next s
  else if mbxBytes < s.plat.mbx.len then .next (s.mbxDone 1)
  else match Config.spdmRequest s.plat.mbx.bytes with
    | none => .next (s.tick.mbxDone 1)
    | some q =>
      let r := (s.spdmResponse q).take mbxBytes
      .next ((s.tick.modPlat fun p => { p with mbx := { p.mbx with buf := Memory.writeN [] 0 r, len := r.length } }).mbxDone 0)

/-- IMAGE_CHUNK. -/
def execImageChunk (s : State) : Host.Outcome State Fault Refusal :=
  if !s.plat.mbxRuns 2 then .next s
  else if mbxBytes < s.plat.mbx.len then .next (s.mbxDone 1)
  else
    .next ((s.modPlat fun p =>
      { p with
        staging := Memory.writeN p.staging p.mbx.off p.mbx.bytes
        slen := max p.slen (p.mbx.off + p.mbx.len) }).mbxDone 0)

/-- The verification of an image (R529 step 2): 0 when it passes, else the result code (log 10, DESIGN CHOICE). -/
def verify (fused : Nat) (image : List Byte) : Nat :=
  if !Config.imageSigned image then 2 else if Config.imageVersion image < fused then 3 else 0

/-- IMAGE_COMMIT: flash takes the staging image only when it passes, and the fused minimum rises. -/
def execImageCommit (s : State) : Host.Outcome State Fault Refusal :=
  if !s.plat.mbxRuns 3 then .next s
  else
    let image := Memory.readN s.plat.staging 0 s.plat.slen
    match verify s.plat.fused image with
    | 0 => .next ((s.modPlat fun p =>
        { p with flash := image, torn := false, fused := max p.fused (Config.imageVersion image) }).mbxDone 0)
    | n => .next (s.mbxDone n)

/-! ## Bring-up (R529, R530) -/

/-- A port that has been reset: of what has left it, the epoch announcement may still be on its way (R520). -/
def Link.restarted (l : Link) : Link :=
  { Link.reset with
    buf := l.buf.filter fun f => match f.body with
      | .epoch _ => true
      | _ => false }

/-- The spare map of the package as it stands (R529; log 66, DESIGN CHOICE). -/
def Plat.spareMap (p : Plat) : SpareMap := ⟨p.spares.map fun x => (x.1, { x.2 with drn := false }), p.vsp, p.gone⟩

/-- The package as a reset leaves it: what is in flash, the fuses and the spare map stays, with the inputs to come. Epoch announcements
leave by every port that is up (R520; log 9, DESIGN CHOICE; log 66, DESIGN CHOICE). -/
def State.restartAll (s : State) (on : Bool) : State :=
  { State.reset with
    choice := s.choice + 1, inputs := s.inputs
    books := { Books.reset with epoch := Config.freeWord s.choice }
    plat := { Plat.reset with
      flash := s.plat.flash, fused := s.plat.fused, torn := s.plat.torn, warn := s.plat.warn
      ucie := s.plat.ucie, links := (s.sendAll 3 Sent.epoch).plat.links.map Link.restarted
      map := if 4 < s.plat.step then s.plat.spareMap else s.plat.map
      power := if on then some 0 else none, step := on.toNat } }

/-- The largest set of ports whose expanders report one capacity, of up to 2 TiB; of equal sets, the one of more capacity (R523; log 23,
DESIGN CHOICE). -/
def cxlCapacity : Nat :=
  let caps := (List.range 8).map Config.expander
  let count := fun (c : Nat) => (caps.filter fun x => x == c).length
  (caps.filter fun c => c != 0 && c ≤ 2048).foldl (fun best c =>
    if best == 0 || count best < count c || (count best == count c && best < c) then c else best) 0

/-- The ports after their enumeration; with none in service there is no steppe tier (log 23, DESIGN CHOICE). -/
def Plat.enumerate (p : Plat) : Plat :=
  { p with
    noSteppe := cxlCapacity == 0
    cxl := p.cxl.mapIdx fun i c =>
      let cap := Config.expander i
      let on := cap != 0 && cap == cxlCapacity
      { c with st := if cap == 0 then 0 else if on then 2 else 3, ide := on, cap := min 4095 cap, set := on } }

/-- A measurement is taken (R529, R532). -/
def Plat.measure (p : Plat) (i : Nat) (bs : List Byte) : Plat := { p with meas := p.meas ++ [(i, sha3 bs)] }

/-- Units of a class enter or leave service. -/
def State.addUnit (s : State) (cls : Nat) (up : Bool) : State :=
  s.modBooks fun b => { b with units := b.units.mapIdx fun i n => if i == cls then (if up then n + 1 else n - 1) else n }

/-- The classes in which a unit books: a core's five engines book in five. -/
def unitClasses (cls : Nat) : List Nat := if cls < 5 then [0, 1, 2, 3, 4] else [cls]

/-- The bytes of a spare map (log 10, DESIGN CHOICE). -/
def SpareMap.bytes (m : SpareMap) : List Byte :=
  Config.spareMap (m.spares.map fun x => (x.1, x.2.csp.toNat, x.2.rows, x.2.cols, x.2.bnk)) m.vsp.toList

/-- The spare map is applied, and measured (R529 step 4; log 66, DESIGN CHOICE). -/
def State.applyMap (s : State) : State :=
  let m := s.plat.map
  (m.gone.foldl (fun t u => (unitClasses u.1).foldl (fun t k => t.addUnit k false) t) s).modPlat fun p =>
    { p with spares := m.spares, vsp := m.vsp, gone := m.gone }.measure 4 m.bytes

/-- The end of the step under way, and the beginning of the next (R529; log 9, DESIGN CHOICE; log 66, DESIGN CHOICE). -/
def State.bootStep (s : State) : State :=
  let p := s.plat
  let next := fun (f : Plat → Plat) => s.modPlat fun p => { f p with step := p.step + 1 }
  match p.step with
  | 1 => next fun p => p.measure 1 Config.romImage
  | 2 =>
    let bad := if p.torn then 2 else verify p.fused p.flash
    let ver := Config.imageVersion p.flash
    if bad == 0 then next fun p => ({ p with sver := ver % 65536 }.measure 2 p.flash).measure 3 (valBytes ver 8)
    else s.modPlat fun p => { p with rcv := true, flt := bad - 1 }
  | 4 => s.applyMap.modPlat fun p => { p with step := 5 }
  | 5 =>
    match Config.bootTraining s.choice % 3 with
    | 0 => (next id).tick
    | n => (s.modPlat fun p => { p with flt := 3 + n }).tick
  | 6 => next Plat.enumerate
  | 7 => next fun p => { p with links := p.links.map fun (l : Link) => { l with st := if l.dis then 3 else 1 } }
  | 8 => s.modPlat fun p => { p with ready := true }
  | _ => next id

/-- POWER_GOOD: power comes, or the bring-up that it started takes its next step (log 66, DESIGN CHOICE). -/
def execPowerGood (s : State) : Host.Outcome State Fault Refusal :=
  .next (if s.plat.power.isNone then s.restartAll true
    else if s.plat.ready || s.plat.rcv || s.plat.flt != 0 then s
    else s.bootStep)

/-- Bring-up has not been done within 5 s of power-good (log 66, DESIGN CHOICE). -/
def State.bootLate (s : State) : Bool :=
  match s.plat.power with
  | some t => !s.plat.ready && !s.plat.rcv && t + 5000000000 ≤ s.timer
  | none => false

/-- BRINGUP_WATCHDOG; a failure of a step stays in FLT (log 66, DESIGN CHOICE). -/
def execBringupWatchdog (s : State) : Host.Outcome State Fault Refusal :=
  .next (if s.bootLate then s.modPlat fun p => { p with rcv := true, flt := if p.flt == 0 then 3 else p.flt } else s)

/-- MAILBOX_RESET. -/
def execMailboxReset (s : State) : Host.Outcome State Fault Refusal :=
  .next (if s.plat.mbxRuns 4 then s.restartAll true else s)

/-- POWER_LOSS (R531; 21 R547): every gang is lost, with no record; a commit that was under way leaves an image that fails. -/
def execPowerLoss (s : State) : Host.Outcome State Fault Refusal :=
  .next ((s.modPlat fun p => { p with torn := p.torn || p.mbxRuns 3 }).restartAll false)

/-! ## The host window (R511 to R513; 21 R547) -/

def vfBase : Nat := 0x800000
def pkgBase : Nat := 0xA00000
def mbxBase : Nat := 0xB00000
def acctBase : Nat := 0x1000000

/-- The queue at an offset of the queue windows. -/
def windowQueue (off : Nat) : Nat := queueKey (off / 0x40000) (off % 0x40000 / 0x1000)

def State.addDrop (s : State) (k : Nat) : State := s.setQueue k { s.queue k with drop := min ((s.queue k).drop + 1) 0xFFFF }
def State.addRefu (s : State) (k : Nat) : State := s.setQueue k { s.queue k with refu := min ((s.queue k).refu + 1) 0xFFFF }

/-- A word of the host window as the aperture of a level reads it (log 49, DESIGN CHOICE; log 65, DESIGN CHOICE). -/
def State.hostRead (s : State) (lvl off : Nat) : Word :=
  let p := s.plat
  let allowed := fun (x : Option (Nat × Option Nat)) => (x.map fun y => Nat.ble y.1 lvl).getD false
  let pkg := pkgBase ≤ off && off < pkgBase + 0x10000
  if off < vfBase then (if p.hst == 0 && p.ready && 1 ≤ lvl then (s.queue (windowQueue off)).status else 0)
  else if off % 8 != 0 then 0
  else if pkg && off - pkgBase == 0x10 then (if 2 ≤ lvl then p.bootst else 0)
  else if pkg && off - pkgBase == 0x38 && !p.rcv then (if 2 ≤ lvl then p.holst else 0)
  else if p.hst != 0 then 0
  else if mbxBase ≤ off && off < mbxBase + 0x10000 then (if 2 ≤ lvl && p.mailboxOn then p.mbx.read (off - mbxBase) else 0)
  else if !p.ready then 0
  else if off < pkgBase then
    let o := (off - vfBase) % 0x10000
    if allowed (vfLevels o) then s.readVf ((off - vfBase) / 0x10000) o else 0
  else if pkg then (if allowed (pkgLevels (off - pkgBase)) then s.readPkg (off - pkgBase) else 0)
  else if acctBase ≤ off && off < 2 * acctBase then
    (if 2 ≤ lvl then s.pageWord ((off - acctBase) / 4096) ((off - acctBase) % 4096 / 8) else 0)
  else 0

/-- A write is allowed at a level (log 65, DESIGN CHOICE). -/
def mayWrite (lvl : Nat) (x : Option (Nat × Option Nat)) : Bool :=
  match x with
  | some (_, some n) => n ≤ lvl
  | _ => false

/-- HOST_CONFIG_WRITE: an 8-byte write of the host (log 65, DESIGN CHOICE). One that is not aligned has an effect in a queue window
alone. -/
def execHostConfigWrite (lvl off : Nat) (w : Word) (s : State) : Host.Outcome State Fault Refusal :=
  .next (if s.plat.hst != 0 then s
    else if off < vfBase then (if s.plat.ready then s.addRefu (windowQueue off) else s)
    else if off % 8 != 0 then s
    else if mbxBase ≤ off && off < mbxBase + 0x10000 then
      (if 2 ≤ lvl && s.plat.mailboxOn then s.modPlat fun p => { p with mbx := p.mbx.write (off - mbxBase) w } else s)
    else if !s.plat.ready then s
    else if off < pkgBase then
      let o := (off - vfBase) % 0x10000
      (if mayWrite lvl (vfLevels o) then s.writeVf ((off - vfBase) / 0x10000) o w else s)
    else if off < pkgBase + 0x10000 then
      (if mayWrite lvl (pkgLevels (off - pkgBase)) then s.writePkg (off - pkgBase) w else s)
    else s)

/-- A refused host push: a record with LNCH 0 where CMPL is aligned, else REFU (R468; log 56, DESIGN CHOICE). -/
def State.refusePush (s : State) (vf k : Nat) (p : Packed) : State :=
  if p.cmpl % 64 == 0 then s.complete vf { p with launch := 0 } IDLE ⟨4, false, false, false, 0, 0, 0⟩ 0
  else s.addRefu k

/-- The single-copy atomic pieces of a host write: those within aligned doublewords (R512). -/
def hostPieces : Nat → Nat → List Byte → List (Nat × List Byte)
  | 0, _, _ => []
  | _, _, [] => []
  | k + 1, a, b :: bs =>
    let n := 8 - a % 8
    (a, (b :: bs).take n) :: hostPieces k (a + n) ((b :: bs).drop n)

/-- A requester of the host writes a piece of host memory: a party of its own (04 R123; R514). -/
def State.hostWrite (h : Fin 2) (s : State) (x : Nat × List Byte) : State :=
  let t := writePiece s (tierBase 2 + x.1) x.2 (.gen 32 (tierBase 2 + x.1)) none
  { t with hosts := t.hosts.set h { t.hosts[h] with view := t.hosts[h].view ||| 1 <<< s.nextWrite } }

/-- The ring whose EVRP a read of the host window returns (R511; 22 R556). -/
def State.evrpRead (s : State) (lvl off : Nat) : Option RingId :=
  if s.plat.hst != 0 || !s.plat.ready then none
  else if vfBase ≤ off && off < pkgBase && (off - vfBase) % 0x10000 == 0x448 && 1 ≤ lvl then some (.vf ((off - vfBase) / 0x10000))
  else if off == pkgBase + 0x48 && 2 ≤ lvl then some .hyper
  else if off == pkgBase + 0x68 && 3 ≤ lvl then some .maker
  else none

/-- What a requester has done before its push: it has acquired the completion records that it names and the records of the rings whose
EVRP it has read, and written host memory (04 R139, R140; 22 R557; log 49, DESIGN CHOICE). -/
def State.hostDo (s : State) (h : Fin 2) (w : HostWork) : State :=
  let recs := w.done.foldl (fun v l => v ||| assocGet 0 l s.disp.rels) s.hosts[h].view
  let seen := w.reads.foldl (fun v x => v ||| (((s.evrpRead x.1 x.2).map fun i => (s.ring i).rel).getD 0)) recs
  let t := { s with hosts := s.hosts.set h { s.hosts[h] with view := seen } }
  (w.writes.filter fun x => x.1 + x.2.length ≤ 2 ^ 48).foldl (fun t x => (hostPieces x.2.length x.1 x.2).foldl (State.hostWrite h) t) t

/-- HOST_PUSH (R462, R468, R512): a write of eight doublewords to the first 64 bytes of a queue window by a requester of the host; an
accepted push releases the requester's whole visible set (04 R139; log 49, DESIGN CHOICE; log 65, DESIGN CHOICE). -/
def execHostPush (x : HostParty) (vf q : Nat) (ws : List Word) (s : State) : Host.Outcome State Fault Refusal :=
  let s := s.hostDo x.h x.work
  let k := queueKey (vf % 32) (q % 64)
  let p := packetOf ws
  .next (if 3 < x.lvl then s
    else if s.plat.hst != 0 then (if ws.length == 8 then s.addDrop k else s)
    else if !s.plat.ready then s
    else if ws.length != 8 then s.addRefu k
    else if 32 ≤ (s.queue k).fifo.length then s.addDrop k
    else if p.bad (s.queue k) || p.queue != q % 64 then s.refusePush (vf % 32) k p
    else (s.accept (vf % 32) p s.hosts[x.h].view).2)

end Sys2Proof.Machine
end

