-- ==== Sys2Proof/Machine/Links.lean ====
section
/-! DEFINITION. The links of the package: Tsuosh flits, remote accesses, training, lane repair, timing messages, UCIe modules and
CXL ports (14 R450; 20 R510, R515 to R528). -/

namespace Sys2Proof.Machine

open Sys2Proof

def State.link (s : State) (port : Nat) : Link := vget s.plat.links .reset port

/-- A port carries flits. -/
def State.linkUp (s : State) (port : Nat) : Bool := port < 12 && (s.link port).st == 2

/-- The links carry nothing: their epoch announcements have left in an entry into the hollow state, and the wake is not complete (21 R544,
R546). -/
def State.asleep (s : State) : Bool := 1 < s.plat.hst || s.plat.calm

/-! ## Flits (20 R516, R517, R521) -/

end Sys2Proof.Machine

namespace Sys2Proof

open Sys2Proof.Machine

/-- The header of a flit and its fields. -/
def Flit.head (f : Flit) : Word := BitVec.ofNat 64 (bytesVal (f.bytes.take 8))
def Flit.cls (f : Flit) : Nat := field f.head 0 3
def Flit.typ (f : Flit) : Nat := field f.head 3 5
def Flit.epoch (f : Flit) : Nat := field f.head 8 16
def Flit.seq (f : Flit) : Nat := field f.head 24 12
def Flit.cred (f : Flit) : Nat := field f.head 36 8
def Flit.ccls (f : Flit) : Nat := field f.head 44 3
def Flit.len (f : Flit) : Nat := field f.head 48 6

/-- The Z bits of the header are 0. -/
def Flit.zOk (f : Flit) : Bool := field f.head 47 1 == 0 && field f.head 54 10 == 0

/-- The flit has 256 bytes, the last 8 the CRC-64 of the others. -/
def Flit.crcOk (f : Flit) : Bool := f.bytes.length == 256 && bytesVal (f.bytes.drop 248) == (Config.crc64 (f.bytes.take 248)).toNat

end Sys2Proof

namespace Sys2Proof.Machine

open Sys2Proof

/-- A flit that is replayed: its CRC fails, its class is reserved, or a Z bit is set. -/
def badFlit (f : Flit) : Bool := !f.crcOk || 6 ≤ f.cls || !f.zOk

/-- The header of a flit that leaves. -/
def TxFlit.head (f : TxFlit) : Word :=
  word (f.cls + at' 3 f.typ.toNat + at' 8 f.epoch + at' 24 f.seq + at' 36 f.cred + at' 44 f.ccls + at' 48 f.len)

/-- The 256 bytes of a flit that leaves (log 17, DESIGN CHOICE). -/
def TxFlit.image (f : TxFlit) : List Byte :=
  let bs := valBytes f.head.toNat 8 ++ (List.range 240).map (Config.flitByte f.key f.seq)
  bs ++ valBytes (Config.crc64 bs).toNat 8

/-- The oldest n flits of a class that have left are no longer kept. -/
def freeSent (cls : Nat) : Nat → List TxFlit → List TxFlit
  | _, [] => []
  | 0, fs => fs
  | n + 1, f :: fs => if f.cls == cls then freeSent cls n fs else f :: freeSent cls (n + 1) fs

/-- Credits come back, up to what their class has, from buffers that the far end has freed; what waited for them leaves (R517). -/
def Link.credits (l : Link) (k cls n : Nat) : Link :=
  Link.drain
    { l with
      cred := l.cred.mapIdx fun i x => if i == cls then min (x + n) (Link.reset.cred.toList.getD i 0) else x
      buf := freeSent cls n l.buf } k

/-- The flit of a number leaves again, and those that left after it: the order of each class stays (R516). -/
def Link.replay (l : Link) (seq : Nat) : Link :=
  let i := l.buf.findIdx fun f => f.seq == seq
  { l with buf := l.buf.mapIdx fun j f => if i ≤ j then { f with tries := f.tries + 1 } else f }

/-- The credits to give back go in flits of their own while there are credits of link management (R517; log 17, DESIGN CHOICE). -/
def Link.giveBack (k port : Nat) : Nat → Link → Link
  | 0, l => l
  | n + 1, l =>
    if ((l.owed.toList.take 5).any (· != 0) || 4 ≤ l.owed[5]) && 0 < l.cred[5] && !(l.queue.any fun x => x.1 == 5) then
      Link.giveBack k port n (l.emit k 5 (.credit port))
    else l

/-- A buffer of a class is free again: its credit goes back (R517). -/
def State.owe (s : State) (port cls : Nat) : State :=
  s.modLink port fun l =>
    Link.giveBack (12 * s.choice + port) port 6 { l with owed := l.owed.mapIdx fun i x => if i == cls then x + 1 else x }

/-- The write that a port has waited for longest is acknowledged: it is performed, joins its party's set, and nothing waits for it any
more (log 17, DESIGN CHOICE). -/
def State.ackWrite (s : State) (port : Nat) : State :=
  match s.outbox.findSome? fun x => match x with | .write w => if w.port == port then some w else none | _ => none with
  | none => s
  | some w => ({ s with outbox := s.outbox.filter (· != Sent.write w) }.ownWrite w).clearWids true [w.wid]

/-- A cycle of a Tsuosh port that books to OVERHEAD (20 R515). -/
def State.linkWork (s : State) (port : Nat) : State := s.modBooks fun b => { b with moving := b.moving ++ [⟨11, port, OVERHEAD⟩] }

/-- A flit is asked for again, or leaves again: a link-layer retry (20 R515, R516). -/
def State.retryAt (s : State) (port : Nat) : State :=
  (s.modLink port fun l => { l with rtry := min (l.rtry + 1) 0x3FFF }).linkWork port

/-- FLIT_RECEIVE: a bad flit is asked for again; credits come back; an acknowledgement, the tick of a pod-scope release, or the demand for a
flit takes effect; link-management flits are link work. The buffer of a request or a timing message is freed when that is taken (log 17,
DESIGN CHOICE). -/
def execFlitReceive (f : Flit) (s : State) : Host.Outcome State Fault Refusal :=
  .next (if !s.linkUp f.port || s.asleep then s
    else if badFlit f then (s.retryAt f.port).sendFlit f.port 5 (.retry f.port)
    else
      let t := s.modLink f.port fun l => l.credits (12 * s.choice + f.port) f.ccls f.cred
      let u := if f.cls == 1 && f.ack && f.epoch == (s.link f.port).epoch then t.ackWrite f.port else t
      let v := match f.again with
        | some n => if f.cls == 5 then (u.modLink f.port fun l => l.replay n).retryAt f.port else u
        | none => u
      let w := match f.pod with
        | some (o, phase, tick) => if f.cls == 5 then v.podDone o phase tick else v
        | none => v
      let x := if f.cls == 5 then w.linkWork f.port else w
      if f.cls == 0 || f.cls == 4 then x else x.owe f.port f.cls)

/-! ## Remote accesses as their target performs them (14 R450, R456; 20 R521) -/

/-- The answer to a remote access: data, and the code of its fault or 0, as a response; the translation that the requester may keep as a
flit of its own, or none (20 R517; log 17, DESIGN CHOICE; log 49, DESIGN CHOICE). -/
def State.replyRemote (s : State) (port : Nat) (bs : List Byte) (code : Nat) (leaf : Word) : State :=
  let t := s.sendFlit port 1 (.reply port bs code 0)
  if leaf == 0 then t else t.sendFlit port 3 (.reply port [] 0 leaf)

/-- A virtual function has been moved away, from step 5 of R455 on: its namespace has been exported since, or its gangs, of which there is
one, are stopped and held for it (R455, R456; log 78, DESIGN CHOICE). -/
def State.retired (s : State) (vf : Nat) : Bool :=
  (s.vfunOf vf).moved || (s.leaving vf && s.disp.gangs.any fun g => g.vf == vf && !g.ended)

/-- Why a remote access is not performed: a fault with its code, an uncorrectable error, or a cell that no store has. -/
inductive FarErr where
  | code (n : Nat)
  | data (pa : Nat)
  | cell (pa : Nat)
  deriving DecidableEq, Repr

/-- A fault of translation as a remote access meets it. -/
def farErr (x : XFault) : FarErr := if x.code == 0 then .cell x.eia else if x.code == 0x3E then .data x.eia else .code x.code

/-- The checks of a remote access at its target: where it lands, and the leaf of a load, which a page with MIG = 1 keeps back (R433, R450; log
49, DESIGN CHOICE); and the state, in which its walk has corrected what it read (22 R563). -/
def remoteTarget (r : RemoteReq) (s : State) : Except FarErr (Nat × Word) × State :=
  let va := r.va.toNat
  let vf := r.rvf % 32
  let f := s.vfunOf vf
  match walkVa .bare vf f va s.allParty s with
  | (.error x, _, s1) => (.error (farErr x), s1)
  | (.ok t, _, s1) =>
    (match useLeaf f r.user r.write va t with
    | .error x => .error (farErr x)
    | .ok (.remote _ _) => .error (.code 0x10)
    | .ok (.cell pa) =>
      if r.write && s.sealedRange vf va (.cell pa) r.size then .error (.code 0x15)
      else match (if r.write then s.badWrite pa r.size else s.badRead pa r.size) with
        | some u => .error (.data (8 * u))
        | none => .ok (pa, if r.write || leafMig t.leaf then 0 else t.leaf), s1)

/-- A remote write waits for the end of a move of its page, for the pre-image that a capture takes of it, and for the copy of its HBM row
(R444; 22 R560, R565). -/
def remoteWaits (r : RemoteReq) (s : State) : Bool :=
  r.write && s.linkUp r.port && !s.asleep && r.epoch == (s.link r.port).epoch &&
    (s.moving (r.rvf % 32) r.va.toNat || s.claimed none (r.rvf % 32) r.va.toNat ||
      match (remoteTarget r s).1 with
      | .ok (pa, _) => s.rowHeld (.cell pa)
      | .error _ => false)

/-- REMOTE_ACCESS: an access under the port's epoch, by the tables of its virtual function. One that waits does nothing yet; one to a
function that has moved away is answered as after a change of the epoch: its load faults, its write is dropped (R456; log 78, DESIGN
CHOICE). Its buffer is free then (20 R517). -/
def execRemoteAccess (r : RemoteReq) (s : State) : Host.Outcome State Fault Refusal :=
  let vf := r.rvf % 32
  if !s.linkUp r.port || s.asleep || remoteWaits r s then .next s
  else if r.epoch != (s.link r.port).epoch then .next (s.owe r.port 0)
  else if s.retired vf then
    .next ((if r.write then s.dropWrite vf 0 0 r.va.toNat r.port else s.replyRemote r.port [] 0x18 0).owe r.port 0)
  else match remoteTarget r s with
    | (.error (.cell pa), _) => .fault (.noSuchCell pa)
    | (.error (.code n), t) => .next ((t.replyRemote r.port [] n 0).owe r.port 0)
    | (.error (.data pa), t) => .next (((t.poison pa).replyRemote r.port [] 0x3E 0).owe r.port 0)
    | (.ok (pa, leaf), t) =>
      .next ((if r.write then
          let bs := valBytes r.data.toNat r.size
          ((writePiece (t.spill pa bs) pa bs (.gen vf r.va.toNat) none).markDirty vf pa).replyRemote r.port [] 0 leaf
        else
          let x := readPiece (t.fixSoft pa r.size) ⟨0, 0⟩ pa r.size
          x.st.replyRemote r.port x.bytes 0 leaf).owe r.port 0)

/-! ## Training and lanes (20 R515, R518, R520) -/

/-- LINK_TRAINING_COMPLETE: both ends adopt the epoch after the later of theirs, and each learns the other's identity, NODEID as it stands
(R518); what waits leaves. -/
def execLinkTrainingComplete (port farEpoch nbr : Nat) (s : State) : Host.Outcome State Fault Refusal :=
  .next (if port < 12 && (s.link port).st == 1 && !s.asleep then
      s.modLink port fun l => Link.drain
        { l with
          st := 2, epoch := (max l.epoch farEpoch + 1) % 65536, nbr := nbr % 1024, own := s.plat.nodeid % 1024, buf := [] }
        (12 * s.choice + port)
    else s)

/-- Codes of the spares in the events of class 6 (22 R554): core, array row, array column, vale, bank, lane, HBM rows; 7 stands
for a strath and 8 for a CXL port, which have none (log 27, PRESUMED). -/
def State.repairEvent (s : State) (kind unit spare : Nat) : State := s.alert 0x6000 kind [unit, spare]

/-- LANE_REPAIR: the spare takes the place of a lane; the epoch and the up state stay (log 67, DESIGN CHOICE). -/
def execLaneRepair (port lane : Nat) (s : State) : Host.Outcome State Fault Refusal :=
  .next (if 12 ≤ port || 8 ≤ lane then s
    else if (s.link port).spu then s.repairEvent 1 (port * 8 + lane) 5
    else (s.modLink port fun l => { l with spu := true, badl := lane }).linkWork port |>.repairEvent 2 (port * 8 + lane) 5)

/-! ## Timing messages (20 R527, R528) -/

/-- The rate by which a package follows its upstream port: free within ±200 ppm (log 92, DESIGN CHOICE). -/
def slewOf (w : Word) : Int := max (-ppm200) (min ppm200 w.toInt)

/-- A port whose messages the package follows (R527). -/
def Plat.follows (p : Plat) (port : Nat) : Bool := !p.tmctl.getLsbD 0 && field p.tmctl 1 4 == port

/-- n timing messages can leave a port at once. -/
def Link.timely (l : Link) (n : Nat) : Bool := n ≤ l.cred[4] && !(l.queue.any fun x => x.1 == 4)

/-- The offset from the upstream port that the four times of a delay request-response give, half nanoseconds rounded down (R527; log 92, DESIGN CHOICE).
-/
def ptpOffset (t1 t2 t3 t4 : Nat) : Int := (((t2 : Int) - t1) - ((t4 : Int) - t3)) / 2

/-- A measured offset: LOCK goes where it passes 20 ns, and comes back with 16 measurements within it (R528). -/
def Plat.tookOffset (p : Plat) (ofs slew : Int) : Plat :=
  let near := decide (-20 ≤ ofs) && decide (ofs ≤ 20)
  { p with
    ofs := ofs, good := if near then p.good + 1 else 0
    lock := near && (p.lock || 16 ≤ p.good + 1)
    slew := slew, ptp := .reset }

/-- What a timing message brings about, its time the global timer's at its first beat (R527; log 92, DESIGN CHOICE). A message that can not leave
at once is not sent. -/
def State.timing (s : State) (port : Nat) : PtpMsg → State
  | .send =>
    if (s.link port).timely 2 then
      (((s.sendFlit port 4 (.timing port 0 0)).sendFlit port 4 (.timing port 1 s.timer)).linkWork port).linkWork port
    else s
  | .sync => if s.plat.follows port then s.modPlat fun p => { p with ptp := ⟨none, some s.timer, none⟩ } else s
  | .followUp t1 =>
    if s.plat.follows port && s.plat.ptp.t2.isSome && (s.link port).timely 1 then
      (s.modPlat fun p => { p with ptp := ⟨some t1, p.ptp.t2, some s.timer⟩ }).sendFlit port 4 (.timing port 2 0)
    else s
  | .delayReq => s.sendFlit port 4 (.timing port 3 s.timer)
  | .delayResp t4 =>
    match s.plat.follows port, s.plat.ptp with
    | true, ⟨some t1, some t2, some t3⟩ =>
      s.tick.modPlat fun p => p.tookOffset (ptpOffset t1 t2 t3 t4) (slewOf (Config.freeWord s.choice))
    | _, _ => s

/-- PTP_MESSAGE: a timing message at a port, which is link work (20 R515). -/
def execPtpMessage (port : Nat) (msg : PtpMsg) (s : State) : Host.Outcome State Fault Refusal :=
  .next (if !s.linkUp port || s.asleep then s
    else
      let t := s.timing port msg
      match msg with
      | .send => t
      | _ => (t.linkWork port).owe port 4)

/-! ## UCIe modules and CXL ports (20 R510, R523) -/

/-- UCIE_MODULE_FAIL: the other module carries its transactions (log 67, DESIGN CHOICE). -/
def execUcieModuleFail (i : Fin 2) (s : State) : Host.Outcome State Fault Refusal :=
  .next (s.modPlat fun p => { p with ucie := p.ucie.set i false })

/-- CXL_PORT_FAIL: every later access to the steppe tier raises the uncorrectable data error (log 67, DESIGN CHOICE). -/
def execCxlPortFail (i : Fin 8) (s : State) : Host.Outcome State Fault Refusal :=
  .next (if s.plat.cxl[i].st == 2 then
      (s.modPlat fun p => { p with noSteppe := true, cxl := p.cxl.set i { p.cxl[i] with st := 3 } }).repairEvent 1 i.val 8
    else s)

end Sys2Proof.Machine
end

