-- ==== Sys2Proof/Machine/Service.lean ====
section
/-! DEFINITION. Replays, voltage, scrubbing, spares, drains, retirement and refresh (17 R486, R489; 21 R536 to R538; 22 R552,
R562 to R567). -/

namespace Sys2Proof.Machine

open Sys2Proof

/-! ## Replays and voltage (21 R537, R538) -/

/-- A replay of a unit of a strath is counted (log 39, DEDUCED). -/
def Strath.replayed (x : Strath) (unit : Nat) : Strath :=
  { x with rply := min (x.rply + 1) 0xFFFFFFFF, late := assocSet unit (assocGet 0 unit x.late + 1) x.late }

/-- The number of a unit of a vale. -/
def replayNumber (v : Nat) : ReplayUnit → Nat
  | .engine n e => (v * 8 + n) * 5 + engNum e
  | .array => 5120 + v
  | .async i => 5248 + 3 * v + i.val

/-- A unit that is to work in the next cycle, and not in a replay, begins one: the work of that cycle, t in R538, fails its check and is
discarded, so the cycles t to t + 2 do not advance (log 39, DEDUCED). -/
def State.beginReplay (s : State) (v : Nat) : ReplayUnit → Option State
  | .engine n e => (s.coreOf v n).bind fun k =>
      if k.st != .running || k.frozen || (k.eng e).halted || (k.eng e).replay != 0 || (k.cr.shd && e != .c) then none
      else some (s.onCore k.id fun u => u.modEng e fun x => { x with replay := 3 })
  | .array => (s.holderCore v).bind fun k =>
      if k.atRest || k.r.eM.replay != 0 || (s.vale v).use != .lease k.id.core then none
      else some (s.onCore k.id fun u => u.arrayRerun 3)
  | .async i =>
      if ((s.working v i.val).isNone && !(i.val == 1 && s.updates.any fun w => CoreId.valeIdx w.core == v)) || vget (s.vale v).xrep 0 i.val != 0 then none
      else some (s.modVale v fun x => { x with xrep := vset x.xrep i.val 3 })

/-- TIMING_ERROR_REPLAY (R538): what the unit does in the cycle t that follows is discarded before it has left it (R539): t and the two
cycles after it do not advance, and its work is done in t + 3 (log 39, DEDUCED). -/
def execTimingErrorReplay (v : Nat) (u : ReplayUnit) (s : State) : Host.Outcome State Fault Refusal :=
  .next (match s.beginReplay v u with
    | none => s
    | some t => t.modPlat fun p =>
        { p with straths := vmod p.straths .reset (v / 8) fun x => x.replayed (replayNumber v u) })

/-- A window of 2^20 cycles begins (R537). -/
def Strath.fresh (x : Strath) (cycle : Nat) : Strath := { x with late := [], since := cycle }

/-- VOLTAGE_TRIM: a strath's voltage changes, in steps of 5 mV from 650 to 900 mV; MAXV says whether it stands at 900 mV (R537). -/
def execVoltageTrim (strath mv : Nat) (s : State) : Host.Outcome State Fault Refusal :=
  .next (if mv < 650 || 900 < mv || mv % 5 != 0 then s
    else s.modPlat fun p =>
      { p with straths := vmod p.straths .reset strath fun x =>
          let y := if mv == 900 && x.volt != 900 then x.fresh s.cycle else x
          { y with volt := mv, maxv := mv == 900 } })

/-- A window has passed in which a unit of a strath at 900 mV was above one replay in 4,096 cycles. -/
def Strath.failing (cycle : Nat) (x : Strath) : Bool := x.volt == 900 && x.since + 2 ^ 20 ≤ cycle && x.late.any fun r => 256 < r.2

/-- STRATH_REPAIR_NEEDED: the event that names the strath. -/
def execStrathRepairNeeded (strath : Nat) (s : State) : Host.Outcome State Fault Refusal :=
  .next (if (vget s.plat.straths .reset strath).failing s.cycle && strath < 16 then
      (s.modPlat fun p => { p with straths := vmod p.straths .reset strath fun x => x.fresh s.cycle }).repairEvent 1 strath 7
    else s)

/-! ## The clock (21 R534 to R536) -/

/-- CLKDIV_WRITE: a written divider waits; a second one replaces it. -/
def execClkdivWrite (w : Word) (s : State) : Host.Outcome State Fault Refusal :=
  .next { s with plat := s.plat.writeDiv w }

/-- The boundary of a written divider may come: it was not written in a hollow entry or the hollow state, which make it wait for the wake
(R536). -/
def Plat.mayChange (p : Plat) : Bool := p.divNext.isSome && !p.divHeld && !p.divGo && p.hst != 2

/-- CLKDIV_CHANGE: the end of this cycle is the boundary at which the written divider takes effect (R536). -/
def execClkdivChange (s : State) : Host.Outcome State Fault Refusal :=
  .next (if s.plat.mayChange then s.modPlat fun p => { p with divGo := true } else s)

/-- The written divider is in force (R536). -/
def Plat.newDiv (p : Plat) : Plat := { p with div := p.divNext.getD p.div, divNext := none, divAge := 0, divHeld := false, divGo := false }

/-- The boundary at the end of a cycle (R536). -/
def Plat.endDiv (p : Plat) : Plat :=
  if p.divGo then p.newDiv else if p.divNext.isSome then { p with divAge := p.divAge + 1 } else p

/-- HCCTL_CLEAR (22 R552): the counters of the core in focus are zeroed. -/
def execHcctlClear (s : State) : Host.Outcome State Fault Refusal :=
  .next (s.modCr fun r => r.writeHcctl (r.hcctl ||| 2))

/-! ## Scrubbing and refresh (22 R562 to R564; 17 R489) -/

/-- A cycle of a channel group that books to OVERHEAD (17 R489). -/
def State.groupWork (s : State) (g : Nat) : State := s.modBooks fun b => { b with moving := b.moving ++ [⟨9, g, OVERHEAD⟩] }

/-- HBM_REFRESH: a channel group refreshes, which books to OVERHEAD. -/
def execHbmRefresh (g : Nat) (s : State) : Host.Outcome State Fault Refusal :=
  .next (if 32 ≤ g then s else s.groupWork g)

/-- SCRUB of the 64-bit unit at an address of a tier: 0 the near tier, 3 the scratchpads. An uncorrectable error brings its
event alone; a correctable one is corrected. -/
def execScrub (tier a : Nat) (s : State) : Host.Outcome State Fault Refusal :=
  let pa := tier * 2 ^ 48 + a % 2 ^ 48
  let u := pa / 8
  .next (if tier != 0 && tier != 3 then s
    else
      let t := if tier == 0 then s.transfer pa OVERHEAD else s
      if t.bad.contains u then t.poison (u * 8)
      else if t.soft.contains u then t.corrected u
      else t)

/-! ## Spares (22 R565 to R567) -/

def State.spare (s : State) (v : Nat) : Spare := assocGet Spare.reset v s.plat.spares
def State.modSpare (s : State) (v : Nat) (f : Spare → Spare) : State :=
  s.modPlat fun p => { p with spares := assocSet v (f (s.spare v)) p.spares }

/-- The number under which a retired unit is kept: a core's engines go together. -/
def unitKey (cls i : Nat) : Nat × Nat := if cls < 5 then (0, i) else (cls, i)

/-- The books of a unit that enters service: its counts begin, but for cycles that a split still has to book (17 R487, R491; log 22,
DEDUCED). -/
def Books.renew (b : Books) (k i : Nat) : Books := b.modUnit k i fun u => { u with booked := 0, elapsed := u.held }

/-- A spare enters service under the number of a unit, which may have been retired. -/
def State.revive (s : State) (cls i : Nat) : State :=
  let s := (unitClasses cls).foldl (fun (t : State) k => t.modBooks fun b => b.renew k i) s
  if s.plat.gone.contains (unitKey cls i) then
    ((unitClasses cls).foldl (fun t k => t.addUnit k true) s).modPlat fun p =>
      { p with gone := p.gone.filter (· != unitKey cls i) }
  else s

/-- No lease of a vale's array is held or being granted. -/
def Vale.betweenLeases (x : Vale) : Bool := x.holder.isNone && x.grant.isNone

/-- The content of a bank that has come into service: 4,096 lines of 64 bytes, each byte free (log 8, DESIGN CHOICE). -/
def newBank (v b : Nat) (s : State) : State :=
  (List.range 4096).foldl (fun t i =>
    let r := remoteBytes t 64
    { r.2 with mem := Memory.writeN r.2.mem (scratchBase v + 2048 * i + 64 * b) r.1 }) s

/-- Spare cores hold no text and no pager image yet, and no unit of their stores fails. -/
def freshCores (p : CoreId → Bool) (s : State) : State :=
  let t := s.mapCores fun c => if p c.id then { c with held := none, pgheld := none } else c
  { t with bad := t.bad.filter fun u => !(9 * 2 ^ 45 ≤ u && p (coreAt ((u - 9 * 2 ^ 45) / 2 ^ 15))) }

/-- The unit that a spare replaces exists (R565). -/
def knownSpare : SpareKind → Bool
  | .core n => n < 1024
  | .arrayRow v => v < 128
  | .arrayCol v => v < 128
  | .vale v => v < 128
  | .bank v b => v < 128 && b < 32
  | .lane port lane => port < 12 && lane < 8
  | .hbmRow g _ => g < 32

/-- The unit and the spare in the payload of an event of class 6 (R554; log 27, PRESUMED). -/
def spareNames : SpareKind → Nat × Nat
  | .core n => (n, 0)
  | .arrayRow v => (v, 1)
  | .arrayCol v => (v, 2)
  | .vale v => (v, 3)
  | .bank v b => (v * 32 + b, 4)
  | .lane port lane => (port * 8 + lane, 5)
  | .hbmRow g _ => (g, 6)

/-- A spare is left (R565). -/
def State.spareLeft (s : State) : SpareKind → Bool
  | .core n => !(s.spare (n / 8)).csp
  | .arrayRow v => (s.spare v).rows < 8
  | .arrayCol v => (s.spare v).cols < 8
  | .vale v => vget s.plat.vsp 0 (v / 32) < 2
  | .bank v _ => (s.spare v).bnk < 2
  | .lane port _ => !(s.link port).spu
  | .hbmRow _ _ => true

/-- A drain has come to its end. -/
def State.drainDue (s : State) (v : Nat) : Bool := (s.spare v).drn && !s.valeUsed v

/-- The moment at which a spare comes into service (R565); rows, when their content is being copied. -/
def State.spareDue (s : State) : SpareKind → Bool
  | .core n => !s.coreUsed n && (s.vale (n / 8)).betweenLeases
  | .arrayRow v => (s.vale v).betweenLeases
  | .arrayCol v => (s.vale v).betweenLeases
  | .vale v => s.drainDue v
  | .bank v _ => s.drainDue v
  | .lane _ _ => true
  | .hbmRow g row => s.plat.rows.contains (g, row)

/-- A spare takes the number of the unit that it replaces (R565). -/
def State.install (s : State) : SpareKind → State
  | .core n => freshCores (fun c => coreNum c == n) ((s.modSpare (n / 8) fun x => { x with csp := true }).revive 0 n)
  | .arrayRow v => (s.modSpare v fun x => { x with rows := x.rows + 1 }).modVale v fun x => { x with plate := none }
  | .arrayCol v => (s.modSpare v fun x => { x with cols := x.cols + 1 }).modVale v fun x => { x with plate := none }
  | .vale v =>
    let t := s.modPlat fun p => { p with vsp := vmod p.vsp 0 (v / 32) (· + 1) }
    freshCores (fun c => CoreId.valeIdx c == v)
      ([5, 6, 7, 8].foldl (fun t c => t.revive c v) ((List.range 8).foldl (fun t i => t.revive 0 (v * 8 + i)) t))
  | .bank v b => newBank v b (s.modSpare v fun x => { x with bnk := x.bnk + 1 })
  | .lane port lane => (s.modLink port fun l => { l with spu := true, badl := lane }).linkWork port
  | .hbmRow g row => s.modPlat fun p => { p with rows := p.rows.filter (· != (g, row)) }

/-- A spare waits for its moment; the content of rows begins to be copied (R565). -/
def State.awaitSpare (s : State) (k : SpareKind) : State :=
  let t := s.modPlat fun p => { p with coming := if p.coming.contains k then p.coming else p.coming ++ [k] }
  match k with
  | .hbmRow g row => t.modPlat fun p => { p with rows := p.rows ++ [(g, row)] }
  | _ => t

/-- SPARE_INTO_SERVICE: a spare takes the number of the unit that it replaces, once its moment has come; a need with no spare
left is an event (R565, R567; log 27, PRESUMED). -/
def execSpareIntoService (k : SpareKind) (s : State) : Host.Outcome State Fault Refusal :=
  let n := spareNames k
  let done := fun (t : State) => t.modPlat fun p => { p with coming := p.coming.filter (· != k) }
  .next (if !knownSpare k then s
    else if !s.spareLeft k then (done s).repairEvent 1 n.1 n.2
    else if s.spareDue k then (done (s.install k)).repairEvent 2 n.1 n.2
    else s.awaitSpare k)

/-- DRAIN_REQUEST (R566): the dispatcher places no new gang on the vale. -/
def execDrainRequest (v : Nat) (s : State) : Host.Outcome State Fault Refusal :=
  .next (if v < 128 then s.modSpare v fun x => { x with drn := true } else s)

/-- DRAIN_COMPLETE (R566). -/
def execDrainComplete (v : Nat) (s : State) : Host.Outcome State Fault Refusal :=
  .next (if s.drainDue v then (s.modSpare v fun x => { x with drn := false }).repairEvent 3 v 3 else s)

/-- The units of a class, by number. -/
def unitTotal (cls : Nat) : Nat := unitCounts.toList.getD cls 0

/-- UNIT_RETIREMENT (17 R486): a unit leaves service, and books nothing after it; its counts stand still. A core that a gang holds stays. -/
def execUnitRetirement (cls i : Nat) (s : State) : Host.Outcome State Fault Refusal :=
  .next (if unitTotal cls ≤ i || s.plat.gone.contains (unitKey cls i) || (cls < 5 && s.coreUsed i) then s
    else ((unitClasses cls).foldl (fun t k => (t.addUnit k false).modBooks fun b => b.modUnit k i id) s).modPlat fun p =>
      { p with gone := p.gone ++ [unitKey cls i] })

end Sys2Proof.Machine
end

