-- ==== Sys2Proof/Machine/Power.lean ====
section
/-! DEFINITION. The hollow state: entry, the interval, wake (21 R544 to R549; 17 R493; 13 R428). -/

namespace Sys2Proof.Machine

open Sys2Proof

/-! ## Entry (R544) -/

/-- C of a core waits in a HOLLOW. -/
def Core.inHollow (c : Core) : Bool :=
  c.st == .running && match c.cwait with
    | .hollow _ => true
    | _ => false

/-- Entry may begin: the package runs, it is ready, and no image commit is under way. -/
def State.mayEnter (s : State) : Bool := s.plat.hst == 0 && s.plat.ready && !s.plat.mbxRuns 3

/-- A running core stops in place at the end of a cycle of its own, its snapshot kept; its lease ends where another core requests (08 R294), a grant under way for it is
dropped. -/
def haltCore (s : State) (c : CoreId) : State :=
  s.onCore c fun u =>
    if u.core.st != .running || u.core.frozen then u
    else
      let u1 := u.freezeLease
      (u1.modVale u1.valeIdx fun v =>
        { v with grant := match v.grant with | some g => if g.core == c.core then none else some g | none => none }).modCore fun k =>
        { k with frozen := true, cr := { k.cr with cyc0 := u1.cycle + 1 - k.cr.cyc0 } }

/-- The package's updates of SAEQs are performed. -/
def State.performAll (s : State) : State :=
  (s.updates.map SaWork.wid).foldl (fun t k => match performUpdate k t with
    | .next u => u
    | _ => t) s

/-- Every channel group enters or leaves self-refresh, a cycle of OVERHEAD (R549; log 70, DEDUCED). -/
def State.selfRefresh (s : State) : State := (List.range 32).foldl State.groupWork s

/-- The cores that have still to stop. -/
def State.toStop (s : State) : List CoreId := (s.cores.filter fun c => c.st == .running && !c.frozen).map Core.id

/-- Once every core of a placed gang has stopped, moves are abandoned, posted writes are performed, epoch announcements leave by every
port that is up, and the stores go into self-refresh (log 70, DEDUCED). -/
def quiesce (s : State) : Host.Outcome State Fault Refusal :=
  .next (if s.plat.hst != 1 || s.plat.calm || !s.toStop.isEmpty then s
    else ({ s.performAll with moves := [] }.sendAll 3 Sent.epoch).selfRefresh.modPlat fun p => { p with calm := true })

/-- Entry begins: the dispatcher and the commands stop, and the cores of placed gangs are to (log 70, DEDUCED; log 63, DEDUCED). -/
def State.enter (s : State) (asked : Bool) : State := s.modPlat fun p => { p with hst := 1, calm := false, asked := asked }

/-- The warning input is asserted. -/
def State.warned (s : State) : State :=
  s.modPlat fun p => { p with warn := true, warnAt := if p.warn then p.warnAt else s.timer }

/-- HOLLOW_ENTRY: a HOLLOW that waits, or the asserted warning where HOLCTL lets it, begins an entry. -/
def execHollowEntry (s : State) : Host.Outcome State Fault Refusal :=
  .next (if s.cores.any Core.inHollow && s.mayEnter then s.enter (!(s.plat.warn && s.plat.auto))
    else
      let t := s.warned
      if t.mayEnter && t.plat.auto then t.enter false else t)

/-- HOLLOW_ENTRY_COMPLETE: the package holds its memory; only the timer runs (log 68, DESIGN CHOICE; log 70, DEDUCED). -/
def execHollowEntryComplete (s : State) : Host.Outcome State Fault Refusal :=
  .next (if s.plat.hst == 1 && s.plat.calm then s.modPlat fun p => { p with hst := 2, since := s.timer, hcnt := min (p.hcnt + 1) 0xFFFF } else s)

/-! ## Wake (R546; 17 R493) -/

/-- Every unit in service adds h cycles to its elapsed count and books them to HELD (log 70, DEDUCED). -/
def Books.addHollow (gone : List (Nat × Nat)) (b : Books) (h : Nat) : Books :=
  let b1 := (List.range 13).foldl (fun b k => b.credit k HELD (h * b.units.toList.getD k 0)) b
  { b1 with
    elapsed := b1.elapsed.mapIdx fun i x => x + h * b1.units.toList.getD i 0
    age := b1.age + h
    own := b1.own.map fun u =>
      if gone.contains (unitKey u.cls u.idx) then u else { u with booked := u.booked + h, elapsed := u.elapsed + h } }

/-- Wake may begin: at once after a HOLLOW alone, else WDLY µs after the warning went away. -/
def State.wakeDue (s : State) : Bool :=
  let p := s.plat
  p.hst == 2 && (p.asked || (!p.warn && p.warnAt + p.wdly * 1000 ≤ s.timer))

/-- Wake begins once it is due, and the interval is booked (R493; log 70, DEDUCED). -/
def beginWake (s : State) : Host.Outcome State Fault Refusal :=
  .next (if s.wakeDue then
      let d := s.timer - s.plat.since
      (s.modBooks fun b => b.addHollow s.plat.gone (17 * d / 20)).selfRefresh.modPlat fun p => { p with hst := 3, span := d, hlast := d / 1000 }
    else s)

/-- WAKE: the warning goes away; once its delay has passed, wake begins. -/
def execWake (s : State) : Host.Outcome State Fault Refusal :=
  beginWake (if s.plat.warn then s.modPlat fun p => { p with warn := false, warnAt := s.timer } else s)

/-- A core that stopped for the hollow state goes on from its cycle; its HOLLOW gets the interval. -/
def State.goesOn (s : State) (c : Core) : Core :=
  if !(c.st == .running && c.frozen) then c
  else
    { c with
      frozen := false
      cwait := if c.inHollow then .none else c.cwait
      cr := { c.cr with cyc0 := s.cycle + 1 - c.cr.cyc0 } }

/-- The responses of the HOLLOWs that wait. -/
def State.hollowReply (s : State) (r : Read) : Read :=
  if s.cores.any fun c => c.id == r.core && (match c.cwait with
      | .hollow k => k == r.id
      | _ => false) then
    { r with ready := true, arr := match r.arr with
      | .reg (.s i _) => .reg (.s i (word s.plat.span))
      | .reg (.h i _) => .reg (.h i (word s.plat.span))
      | x => x }
  else r

/-- The store ticks of the interval are booked in order, and the pages are published once (R549; log 70, DEDUCED). -/
def State.catchUp (s : State) : State :=
  let n := s.timer / 1000 - s.books.tick
  let t := (List.range (n - 1)).foldl (fun t _ => t.bookStores.modBooks fun b => { b with tick := b.tick + 1 }) s
  if n == 0 then s
  else match execAccountTick t with
    | .next u => u
    | _ => t

/-- WAKE_COMPLETE (R546): ports retrain under a new epoch, cores and commands go on, a divider written in the interval takes effect (R536; log
68, DESIGN CHOICE; log 70, DEDUCED). -/
def execWakeComplete (s : State) : Host.Outcome State Fault Refusal :=
  .next (if s.plat.hst != 3 then s
    else
      let t := s.catchUp
      let t1 := ({ t with reads := t.reads.map t.hollowReply }.mapCores t.goesOn).modPlat fun p =>
        { (if p.divHeld then p.newDiv else p) with hst := 0, calm := false, asked := false }
      (((List.range 12).filter fun i => t1.linkUp i).foldl State.epochChange t1).scheduleAll)

end Sys2Proof.Machine
end

