-- ==== Sys2Proof/Machine/Engine.lean ====
section
/-! DEFINITION. The cycle of an engine: its run, checks of words, skipping, slip, and what follows its turn; trap entry, breath
meets, ring deadlock, completion of a core; responses and prefetch walks (01 R12 to R20, R37 to R46, R55 to R58; 05 R142 to
R156; 06 R190, R232; 13 R402 to R404; 14 R440; 22 R550 to R553). -/

namespace Sys2Proof.Machine

open Sys2Proof

/-! ## Words of the shadow context (13 R403, R404) -/

def csrcTop : CSrc → Nat
  | .reg r => r.val
  | .imm _ => 0

/-- The highest C register code that a word names; 0 for a word that names none, and for those that the shadow context does
not admit at all. -/
def topReg : Instr → Nat
  | .loop _ (.c r) _ => r.val
  | .add _ d a b => max (max d.val a.val) (csrcTop b)
  | .sub _ d a b => max (max d.val a.val) (csrcTop b)
  | .mul _ d a b => max (max d.val a.val) (csrcTop b)
  | .mulh _ d a b => max (max d.val a.val) (csrcTop b)
  | .mulhu _ d a b => max (max d.val a.val) (csrcTop b)
  | .div _ d a b => max (max d.val a.val) (csrcTop b)
  | .divu _ d a b => max (max d.val a.val) (csrcTop b)
  | .rem _ d a b => max (max d.val a.val) (csrcTop b)
  | .remu _ d a b => max (max d.val a.val) (csrcTop b)
  | .and _ d a b => max (max d.val a.val) (csrcTop b)
  | .or _ d a b => max (max d.val a.val) (csrcTop b)
  | .xor _ d a b => max (max d.val a.val) (csrcTop b)
  | .sll _ d a b => max (max d.val a.val) (csrcTop b)
  | .srl _ d a b => max (max d.val a.val) (csrcTop b)
  | .sra _ d a b => max (max d.val a.val) (csrcTop b)
  | .min _ d a b => max (max d.val a.val) (csrcTop b)
  | .max _ d a b => max (max d.val a.val) (csrcTop b)
  | .minu _ d a b => max (max d.val a.val) (csrcTop b)
  | .maxu _ d a b => max (max d.val a.val) (csrcTop b)
  | .slt _ d a b => max (max d.val a.val) (csrcTop b)
  | .sltu _ d a b => max (max d.val a.val) (csrcTop b)
  | .seq _ d a b => max (max d.val a.val) (csrcTop b)
  | .sel _ d a b => max (max d.val a.val) (csrcTop b)
  | .addq _ d a b => max (max d.val a.val) (csrcTop b)
  | .li _ d _ => d.val
  | .lih _ d _ => d.val
  | .beq _ a b _ _ _ => max a.val b.val
  | .bne _ a b _ _ _ => max a.val b.val
  | .blt _ a b _ _ _ => max a.val b.val
  | .bge _ a b _ _ _ => max a.val b.val
  | .bltu _ a b _ _ _ => max a.val b.val
  | .bgeu _ a b _ _ _ => max a.val b.val
  | .jal _ d _ _ => d.val
  | .jalr _ d a _ => max d.val a.val
  | .ld _ d a _ => max d.val a.val
  | .st _ a b _ => max a.val b.val
  | .ldaq _ d a => max d.val a.val
  | .strl _ a b => max a.val b.val
  | .xpush _ _ a n => a.val + n.toNat - 1
  | .xpop _ d _ => d.val
  | .xstat _ d _ => d.val
  | .time _ _ d => d.val
  | .cyc _ _ d _ => d.val
  | .acrd _ _ d a => max d.val a.val
  | .stmt _ _ d a => max d.val a.val
  | .crr _ d _ => d.val
  | .crw _ a _ => a.val
  | .tlbi _ a _ => a.val
  | .snaprd _ _ d a => max d.val a.val
  | .snapwr _ _ d a => max d.val (a.val + 1)
  | .wpset _ _ _ a => a.val + 1
  | .acsw _ _ d a => max d.val a.val
  | .preempt _ _ d a => max d.val a.val
  | .keysel _ _ d a => max d.val a.val
  | .hollow _ _ d => d.val
  | _ => 0

/-! ## Words as they are walked (05 R149 to R156) -/

/-- The offset of a transfer of control whose target its word gives. -/
def transferOff : Instr → Option (BitVec 16)
  | .br _ _ _ o => some o
  | .bcq _ _ _ _ o => some o
  | .beq _ _ _ _ _ o => some o
  | .bne _ _ _ _ _ o => some o
  | .blt _ _ _ _ _ o => some o
  | .bge _ _ _ _ _ o => some o
  | .bltu _ _ _ _ _ o => some o
  | .bgeu _ _ _ _ _ o => some o
  | .jal _ _ _ o => some o
  | .abne _ _ _ _ _ o => some o
  | .ablt _ _ _ _ _ o => some o
  | _ => none

/-- The words from a loop instruction's own on to its body end. -/
def loopReach : Instr → Option Nat
  | .loop _ _ len => some (1 + len.toNat)
  | .loopi _ _ n len => some (loopiWords n + len.toNat)
  | _ => none

/-- The transfer or loop of a word stays among words 0 to `last`. -/
def staysIn (last pc : Nat) (i : Instr) : Bool :=
  (match transferOff i with
   | some o => let t := (pc : Int) + o.toInt; 0 ≤ t && t ≤ last
   | none => true) &&
  (match loopReach i with
   | some n => pc + n ≤ last
   | none => true)

/-- After a word an engine goes on to the word that follows it: it is no transfer, and it halts nothing; a BREATH may leave for another
word (05 R156; log 38, DEDUCED). -/
def walksOn : Instr → Bool
  | .jalr _ _ _ _ => false
  | .halt _ _ => false
  | .mark _ _ _ notify => !notify
  | .breath _ _ _ => false
  | .eret _ _ _ => false
  | i => (transferOff i).isNone

/-- The check of the word at an index (R152): its instruction, or the detail code (log 38, DEDUCED). -/
def State.decodeAt (s : State) (e : Engine) (pc : Nat) : Except Nat Instr := do
  let w := s.wordAt e pc
  let i ← if (Engine.ofTag (w.extractLsb' 25 3)).isSome && w.getLsbD 24 && pc == s.lastWord e then .error 2
    else decode w (s.wordAt e (pc + 1))
  if e == .c && s.inShadow && 16 ≤ topReg i then .error 4
  else if !staysIn (s.lastWord e) pc i then .error 7
  else .ok i

/-- An engine checks a word that it walks (R153): C every one, the others those of their own tag or a reserved one. -/
def checksWord (e : Engine) (w : IWord) : Bool :=
  e == .c || ownWordOf e w || (Engine.ofTag (w.extractLsb' 25 3)).isNone

/-! ## The run (01 R13 to R18) -/

/-- Slip allows the word n after the one at which an engine stands (R18). The shadow context walks without slip (log 31, DEDUCED). -/
def State.slipAllows (s : State) (e : Engine) (n : Nat) : Bool :=
  (e == .c && s.inShadow) || (s.eng e).walked + n < s.core.slip.minWalked + s.core.slip.win

/-- What an engine's run ends at: an own word, nothing within its 8 words, an illegal word, a word in a failing unit of the
store (22 R564), or a word that slip bars. -/
inductive Head where
  | own (i : Instr)
  | dry
  | bad (detail : Nat)
  | fail (unit : Nat)
  | slip
  deriving DecidableEq, Repr

/-- An engine passes over n words that are not its own; it remembers where its run began. -/
def passWords (e : Engine) (n : Nat) (s : State) : State :=
  s.modEng e fun x => { x with back := x.back.or (some (x.pc, x.walked, x.levels)) }.over n

/-- The run from where an engine stands, with room for that many words: what it ends at, and the state in which the engine
stands there; a pair for which there is no room is left out of it (R13; log 38, DEDUCED). An own word after which the engine would
pass the last word of the store is one that it stops at (05 R156; log 38, DEDUCED). The shadow context has no word of another engine to pass over (13 R404; log 31, DEDUCED). -/
def walkRun (e : Engine) : Nat → Nat → State → Head × State
  | 0, _, s => (.dry, s)
  | k + 1, room, s =>
    let pc := s.pcOf e
    let w := s.wordAt e pc
    let n := wordLen w
    if room == 0 then (.dry, s)
    else if room < n && pc ≤ s.lastWord e && (s.badFetch e pc 1).isNone then (.dry, s)
    else if !s.slipAllows e 0 then (.slip, s)
    else if s.lastWord e < pc then (.bad 7, s)
    else match s.badFetch e pc (min n room) with
    | some u => (.fail u, s)
    | none =>
      match (if checksWord e w then (s.decodeAt e pc).map some else .ok none) with
      | .error d => (.bad d, s)
      | .ok i =>
        if n == 2 && !s.slipAllows e 1 then (.slip, s)
        else match i, ownWordOf e w with
          | some i, true => if s.lastWord e < pc + n && walksOn i then (.bad 7, s) else (.own i, s)
          | _, _ =>
            if e == .c && s.inShadow then (.bad 4, s)
            else if s.lastWord e < pc + n then (.bad 7, s)
            else walkRun e k (room - n) (passWords e n s)

/-- The run of an engine in this cycle. -/
def State.walk (s : State) (e : Engine) : Head × State := walkRun e 9 8 s

/-- An engine takes part in this cycle: its core runs, it has not halted, and the shadow context has not frozen it. -/
def State.moves? (s : State) (e : Engine) : Bool :=
  s.core.st == .running && !s.core.frozen && !(s.eng e).halted && (e == .c || !s.core.cr.shd)

/-- A cause of the engine's own instruction waits to be taken: the engine stays stopped (13 R399). -/
def State.ownCause (s : State) (e : Engine) : Bool := !s.inShadow && s.core.cr.pending.any fun c => c.unit == engNum e

/-- M waits to get back the lease that a freeze ended, before its rows go on (08 R295). -/
def State.wantsLease (s : State) (e : Engine) : Bool := e == .m && s.core.r.lease.cut && !s.core.r.lease.held

/-- Nothing that lies outside the next instruction keeps an engine from forming its run (R13). -/
def State.forms (s : State) (e : Engine) : Bool :=
  s.moves? e && (s.eng e).replay == 0 && !s.ownCause e && (s.eng e).stall.isNone && !s.wantsLease e &&
    !(e == .m && s.core.r.occ.isSome)

/-- The own word at which an engine's run ends, and the state in which the engine stands at it. -/
def State.head (s : State) (e : Engine) : Option (Instr × State) :=
  if s.forms e then
    match s.walk e with
    | (.own i, t) => some (i, t)
    | _ => none
  else none

/-- An advancing cycle without an own word (R13, R39). -/
def State.pass (s : State) (e : Engine) : State := (s.settle e).modEng e fun x => { x with wait := .none, back := none }

/-- An engine stops before an illegal word, having walked what came before it (05 R153, R154; log 38, DEDUCED). -/
def stopIllegal (e : Engine) (d : Nat) (s : State) : State :=
  let walked := (s.eng e).back.isSome
  let t := (if walked then s.settle e else s).modEng e fun x => { x with back := none }
  let pc := min (t.pcOf e) (t.lastWord e)
  raise e ((illegalCause t e d).atWord t e pc) t

/-- An engine's fetch meets an uncorrectable error: the cause is imprecise, and the fetch is made again after ERET (22 R564).
The store delivers nothing, and TRAPWORD is a free value (log 18, DESIGN CHOICE). -/
def stopFetch (e : Engine) (unit : Nat) (t : State) : Host.Outcome State Fault Refusal :=
  .next (raise e { errorCause t e unit with word := Config.freeWord t.choice } t.tick)

/-- In a cycle of M's long instruction M walks on over words that are not its own, where its run holds no other (R13; 10 R373; log 38,
DEDUCED). -/
def occWalk (s : State) : State :=
  match s.walk .m with
  | (.dry, t) => t.modEng .m fun x => { x with back := none }
  | _ => s

/-- One cycle of M's long instruction (08 R283). -/
def occTurn (o : Occ) (s : State) : Host.Outcome State Fault Refusal :=
  match occWork o ((occWalk s).settle .m) with
  | .ok t => .next (t.modEng .m fun x => { x with wait := .none })
  | .error (.trap c) => .next (raise .m (c.atWord s .m o.word) s)
  | .error st => stopped .m st s

/-- A departure from a barrier takes effect when the sequencer releases the waiter, also in a cycle of a replay of C: what is left is the
result in sD, or C's place in a split or a join (21 R540; log 7, DESIGN CHOICE). -/
def departNow (s : State) : State :=
  match s.core.cwait with
  | .departed o _ view =>
    match s.decodeAt .c (s.pcOf .c) with
    | .ok (.domsplit _ _ _ a) => s.joinSplit (((s.settle .c).sReg a).toNat % 256) view
    | .ok (.domjoin _ _ _) => s.joinUp view
    | _ =>
      let (t, x) := s.depart o view
      t.setWait (.answered x 0)
  | _ => s

/-- A cycle of a replay of an engine; for M, of the array's rerun that it is (R38; 21 R538; 08 R285). -/
def replayed (e : Engine) (s : State) : State :=
  let s := if e == .c && !s.inShadow then departNow s else s
  let t := (stalled e .replay s).modEng e fun x => { x with replay := x.replay - 1 }
  if e == .m then t.modR fun r => { r with lease := { r.lease with rerun := r.lease.rerun - 1 } } else t

/-- ENGINE_RUN: the cycle of an engine whose run does not issue a word. One whose run ends at an own word stands at it
afterwards, and that word's instruction is what comes about in the cycle. -/
def execEngineRun (e : Engine) (s : State) : Host.Outcome State Fault Refusal :=
  let x := s.eng e
  if !s.moves? e then .next s
  else if x.replay != 0 && !(s.wantsLease e && s.core.r.lease.rerun != 0) then .next (replayed e s)
  else if s.ownCause e then .next (stalled e .fault s)
  else if x.stall.isSome then .next (stalled e .mem s)
  else if s.wantsLease e then
    .next ((stalled e .lease s).modR fun r => { r with lease := { r.lease with req := true } })
  else match (if e == .m then s.core.r.occ else none) with
    | some o => occTurn o s
    | none =>
      match s.walk e with
      | (.own _, t) => .next t
      | (.dry, t) => .next (t.pass e)
      | (.slip, _) => .next (stalled e .slip s)
      | (.bad d, t) => .next (stopIllegal e d t)
      | (.fail u, t) => stopFetch e u t

/-- OPERATION_LANDING: in an advancing cycle of an engine, what it has in flight comes one cycle nearer and lands (01 R39). -/
def execOperationLanding (e : Engine) (s : State) : Host.Outcome State Fault Refusal :=
  .next (if s.moves? e then s.settle e else s)

/-! ## Trap entry (13 R402) -/

/-- C is at an instruction boundary outside the shadow context, and a cause is pending. -/
def State.trapDue (s : State) : Bool :=
  s.core.st == .running && !s.core.frozen && !s.inShadow && !s.core.cr.pending.isEmpty && s.core.r.eC.stall.isNone &&
    s.core.r.eC.replay == 0

/-- TRAP_ENTRY: C takes the pending cause of highest priority; a lease that another core asks for ends (08 R295; log 32, DEDUCED). -/
def execTrapEntry (s : State) : Host.Outcome State Fault Refusal :=
  .next (if s.trapDue then (takeTrap (s.pcOf .c) s).freezeLease else s)

/-! ## Responses and prefetch walks (06 R190, R232; 14 R440) -/

/-- A request of a remote load still waits for a credit of its port (20 R517). -/
def State.unsent (s : State) (r : Read) : Bool :=
  r.far.any fun x => (vget s.plat.links .reset x.1).queue.any fun q => match q.2 with
    | .load l => l.tag == x.2
    | _ => false

/-- The response of a read may be taken in. -/
def State.mayRespond (s : State) (r : Read) : Bool :=
  r.ready && !s.unsent r && match s.cores.find? fun c => c.id == r.core with
    | some c => c.st == .running && !c.frozen && (r.eng == .c || !c.cr.shd)
    | none => false

/-- The requests of a remote load have been answered (14 R450). -/
def dropLoads (r : Read) (out : List Sent) : List Sent :=
  out.filter fun x => match x with
    | .load l => !(r.far.contains (l.port, l.tag))
    | _ => true

/-- Adds an operation behind those issued before it (R206). -/
def insertPend (p : Pend) : List Pend → List Pend
  | [] => [p]
  | q :: t => if p.born < q.born then p :: q :: t else q :: insertPend p t

/-- The response of a read of the core in focus: a register is written in the engine's next advancing cycle, after the results issued
before it (06 R190, R206). -/
def takeIn (r : Read) (u : State) : State :=
  let u1 : State := match r.arr with
    | .reg l => u.modEng r.eng fun x => { x with pend := insertPend ⟨1, l, r.born⟩ x.pend }
    | .slot q sid x => u.modR fun y => y.qFill (.lq q) sid x true
    | .record => u.modCore fun c => { c with agc := some r.word }
  let u2 := u1.sendToks r.eng r.toks
  ({ u2 with outbox := dropLoads r u2.outbox }.modEng r.eng fun x =>
    { x with stall := if x.stall == some r.id then none else x.stall }).dropIds r.eng [r.id]

/-- LOAD_RESPONSE (06 R190, R232): a response arrives; its register or queue entry is ready, its signals go out. -/
def execLoadResponse (k : Nat) (s : State) : Host.Outcome State Fault Refusal :=
  match s.reads.find? fun r => r.id == k with
  | none => .next s
  | some r =>
    .next (if s.mayRespond r then
      { s with reads := s.reads.filter fun x => x.id != k }.onCore r.core (takeIn r)
    else s)

/-- TABLE_WALK (14 R440): a prefetch walk of a stream ends; its leaf is cached unless an access of the stream would fault by it. -/
def execTableWalk (k : Nat) (s : State) : Host.Outcome State Fault Refusal :=
  match s.walks.find? fun w => w.id == k with
  | none => .next s
  | some w =>
    .next ({ s with walks := s.walks.filter fun x => x.id != k }.onCore w.core fun u =>
      let e : Engine := if w.strm == 3 then .s else .a
      let cache := u.core.tlb (.strm w.strm)
      if cache.any (·.hits u.vf w.page) then u
      else match walkVa (walkerOf u.valeIdx u.core.cr.acctid.toNat) u.vf (u.vfunOf u.vf) w.page (u.party e) u with
        | (.error _, p, t) => t.setParty e p
        | (.ok leaf, p, t) =>
          match useLeaf (u.vfunOf u.vf) (u.core.cr.lvl == 0) (w.strm == 3) w.page leaf with
          | .error _ => t.setParty e p
          | .ok _ => (t.setParty e p).modCore fun c => c.setTlb (.strm w.strm) (tlbUse 4 (t.tagLeaf leaf) cache))

/-! ## Breath meets (01 R55, R56) -/

/-- The marks and number of the BREATH at which an engine waits. -/
def State.breathOf (s : State) (e : Engine) : Option (Marks × Nat) :=
  if (s.eng e).wait != .breath then none
  else match s.decodeAt e (s.pcOf e) with
    | .ok (.breath m _ k) => some (m, k.toNat)
    | _ => none

def engines : List Engine := [.c, .a, .m, .v, .s]

/-- Every engine is at a BREATH, or has halted, C at one; nothing is in flight (log 33, DEDUCED). -/
def State.breathMet (s : State) : Bool :=
  s.core.st == .running && !s.core.frozen && !s.inShadow && (s.breathOf .c).isSome &&
    (engines.all fun e => (s.eng e).halted || (s.breathOf e).isSome) &&
    (engines.all fun e => (s.eng e).pend.isEmpty && (s.eng e).mkq.isEmpty && (s.unacked e).isEmpty) &&
    (engines.all fun e => (s.eng e).replay == 0) && s.core.r.occ.isNone && !(s.reads.any fun r => r.core == s.core.id)

/-- The queues, token FIFOs, condition FIFOs and inbound queues of a core hold nothing but cut markers. -/
def Regs.quiet (r : Regs) : Bool :=
  r.lq.toList.all Fifo.isEmpty && r.mq.toList.all Fifo.isEmpty && r.sq.toList.all Fifo.isEmpty && r.saq.isEmpty &&
    r.iq.toList.all Fifo.isEmpty && r.cond.toList.all Fifo.isEmpty && r.tok.toList.all fun t => t.toks.isEmpty

/-- The checks of R55 (log 33, DEDUCED). -/
def State.breathOk (s : State) : Bool :=
  s.core.r.quiet && engines.all fun e =>
    (s.eng e).levels.isEmpty && !(s.eng e).halted && (s.breathOf e).map Prod.snd == (s.breathOf .c).map Prod.snd

/-- Every cut marker of a queue is discarded. -/
def Fifo.noCuts {α : Type} (q : Fifo α) : Fifo α :=
  ⟨q.slots.filter fun t => !t.cut, q.freed + (q.slots.filter fun t => t.cut).length⟩

def Regs.noCuts (r : Regs) : Regs :=
  { r with
    lq := r.lq.map Fifo.noCuts, mq := r.mq.map Fifo.noCuts, sq := r.sq.map Fifo.noCuts, saq := r.saq.noCuts
    iq := r.iq.map Fifo.noCuts }

/-- The power level granted to the plain of the core in focus (21 R541). -/
def State.powerLevel (s : State) : Nat :=
  let p := vget s.plat.pwr (0, 0) s.core.id.plain
  max p.1 p.2

/-- An engine leaves its BREATH for a word; its signals go out. -/
def leaveBreath (target : Option Nat) (s : State) (e : Engine) : State :=
  match s.breathOf e with
  | none => s
  | some (m, _) =>
    let t := s.sendToks e (signalList e m)
    t.modEng e fun x => { x with pc := target.getD (x.pc + 1), walked := x.walked + 1, wait := .none }

/-- C's BREATH has not issued: its tokens go back, its reserved entries are free. -/
def undoBreath (s : State) : State :=
  match s.breathOf .c with
  | none => s
  | some (m, _) => s.modR fun r => (signalList .c m).foldl unreserve ((waitList .c m).foldl unpop r)

/-- BREATH_SWITCH of the core in focus: the five engines go on together, or C takes the breath-state trap (log 33, DEDUCED).
-/
def execBreathSwitch (s : State) : Host.Outcome State Fault Refusal :=
  .next (if !s.breathMet then s
    else if s.breathOk then
      let k := ((s.breathOf .c).map Prod.snd).getD 0
      let w := assocGet (0 : IWord) (k * 3 + s.powerLevel) s.core.swt
      let target := if w.getLsbD 31 then some (w.extractLsb' 0 15).toNat else none
      engines.foldl (leaveBreath target) (s.modR Regs.noCuts)
    else
      let t := undoBreath s
      (raise .c (causeAt t .c 0x06 0) t).freezeLease)

/-! ## Ring deadlock (01 R58) -/

/-- Some command of the core in focus will add to a flag when it completes. -/
def State.flagToCome (s : State) (n : Fin 16) : Bool :=
  s.cmds.any fun c => c.core == s.core.id && c.gang == s.core.launch && c.fen && c.flag == n && c.stage != .complete

/-- C's word waits for something outside the core: a command's result, room for a command or a packet; not for room in a
token FIFO that it signals. -/
def State.waitsOutside (s : State) (e : Engine) : Bool :=
  e == .c && match s.head .c with
    | none => false
    | some (i, _) =>
      (signalList .c i.marks).all (fun f => s.core.r.tok[f].hasRoom) && match i with
        | .xpush _ _ _ _ => true
        | .xpop _ _ _ => true
        | .launch _ _ _ => true
        | _ => false

/-- An engine of the core in focus is in an internal stall. -/
def State.internalStall (s : State) (e : Engine) : Bool :=
  match (s.eng e).wait with
  | .token => true
  | .resv => !s.waitsOutside e
  | .pop => !s.waitsOutside e
  | .cond => true
  | .slip => true
  | .breath => true
  | .flag n => !s.flagToCome n
  | _ => false

/-- Every live engine is in an internal stall. -/
def State.stuck (s : State) : Bool :=
  (engines.any fun e => (s.eng e).live) && engines.all fun e => !(s.eng e).live || s.internalStall e

/-- RING_DEADLOCK of the core in focus: C takes the trap at its waiting instruction, which has not issued, or, halted, at once; where C
waits for slip at a word that is not its own, at the word where its run begins (log 13, DEDUCED). -/
def execRingDeadlock (s : State) : Host.Outcome State Fault Refusal :=
  .next (if s.core.cr.dead < 1024 || s.inShadow || s.core.st != .running || s.core.frozen then s
    else
      let t := (undoBreath s).modCr fun r => { r with dead := 0 }
      let u := match t.head .c with
        | some (_, u) => u
        | none => t
      (raise .c (causeAt u .c 0x07 0) u).freezeLease)

/-! ## What follows an engine's turn -/

/-- The engine of a number that C's turn began with: the shadow context's, or the kernel's. -/
def engThen (shd : Bool) (c : Core) (e : Engine) : Eng := if e == .c then (if shd then c.cr.sh else c.r.eC) else c.eng e

/-- The class of an engine's cycle (22 R550), from the states before and after its turn; none while it does not count (log
32, DEDUCED; log 69, DEDUCED; log 32, DEDUCED). -/
def classOf (e : Engine) (before after : State) : Option Nat :=
  let shd := before.core.cr.shd
  let x := engThen shd before.core e
  let y := engThen shd after.core e
  if before.core.st == .ended && before.plat.hst == 0 then some 5
  else if before.core.st != .running || before.core.frozen then none
  else if x.halted || (e != .c && shd) || y.wait == .fault then some 5
  else if shd && !after.core.cr.shd then some 0
  else match before.head e with
    | some (i, t) =>
      if (engThen shd t.core e).walked + i.nwords ≤ y.walked then some 0
      else if !shd && after.core.cr.shd then some 3
      else match waitCode y.wait with
        | 1 => some 2
        | 2 => some 2
        | 8 => some 2
        | 3 => some 4
        | 5 => some 4
        | 9 => some 4
        | _ => some 3
    | none =>
      if !shd && after.core.cr.shd then some 3
      else match waitCode y.wait with
        | 3 => some 4
        | 5 => some 4
        | 9 => some 4
        | _ => if x.walked < y.walked then some 1 else some 3

/-- The token FIFOs that hold no token for the instruction at which an engine waits. -/
def lackedTokens (e : Engine) (before after : State) : List (Fin 10) :=
  if (after.eng e).wait != .token then []
  else match before.head e with
    | some (i, _) => (waitList e i.marks).filter fun f => match before.core.r.tok[f].toks with
      | [] => true
      | t :: _ => t.fresh
    | none => []

/-- The flags of which some engine waits in an FWAIT. -/
def flagWaits (s : State) : List (Fin 16) :=
  (engines.filterMap fun e =>
    if (s.eng e).halted || (s.core.cr.shd && e != .c) then none
    else match (s.eng e).wait with
      | .flag n => some n
      | _ => none).eraseDups

/-- The counters of 22 R551 after an engine's turn (log 69, DEDUCED). -/
def countTurn (e : Engine) (before after : State) : State :=
  if !before.core.cr.hcctl.getLsbD 0 then after
  else match classOf e before after with
    | none => after
    | some k =>
      after.modCr fun r =>
        { r with
          hcnt := vmod r.hcnt 0 (6 * engNum e + k) (· + 1)
          twcnt := (lackedTokens e before after).foldl (fun v f => vmod v 0 f.val (· + 1)) r.twcnt
          fwcnt := if e == .s then (flagWaits after).foldl (fun v n => vmod v 0 n.val (· + 1)) r.fwcnt else r.fwcnt }

/-- The loop ends that an engine's run passes without issuing, as traced transfers (22 R555). -/
def walkTraces (e : Engine) : Nat → State → List (Nat × Nat × Nat)
  | 0, _ => []
  | k + 1, s =>
    let pc := s.pcOf e
    let n := wordLen (s.wordAt e pc)
    if ownWordOf e (s.wordAt e pc) then []
    else
      let t := passWords e n s
      let rest := walkTraces e k t
      if t.pcOf e == pc + n then rest else (pc + n - 1, t.pcOf e, (t.eng e).walked) :: rest

/-- The trace of the loop ends passed by a run that was walked: before what its own word brought (log 40, PRESUMED). -/
def traceRun (e : Engine) (before after : State) : State :=
  let t := before.core.cr.trctl
  if !(t.getLsbD 0 && (t.extractLsb' 1 3).toNat == engNum e) then after
  else
    let x := (engThen before.core.cr.shd before.core e).walked
    let y := (engThen before.core.cr.shd after.core e).walked
    let passed := (walkTraces e 8 before).filter fun p => x < p.2.2 && p.2.2 ≤ y
    let k := before.alerts.length
    { after with alerts := after.alerts.take k ++ passed.map (fun p => ⟨traceSource before.core.id, 1, [p.1, p.2.1, p.2.2], before.timer, none⟩) ++
        after.alerts.drop k }

/-- A's cycle counts for the table reads of its generators (03 R118). -/
def tickTables (s : State) : State :=
  let x := s.core.r.eA
  if s.moves? .a && (x.wait == .none || x.wait == .table || x.wait == .breath) then
    s.modR fun r => { r with g := r.g.map Gen.tick }
  else s

/-- The five engines of a core have halted: it completes, and discards what its queues hold; the cycle is its owner's (R45, R46, R62;
08 R294). -/
def completeCore (s : State) : State :=
  let r0 := s.core
  let r := r0.r
  if s.core.st == .running && !s.core.frozen && !s.inShadow && s.core.cr.pending.isEmpty &&
      (engines.all fun e => (s.eng e).halted) then
    let aband := engines.any fun e => !(s.eng e).notified
    let s1 := (if r.lease.held then s.endLease else s).modVale s.valeIdx fun v =>
      { v with grant := match v.grant with
        | some g => if g.core == s.core.id.core then none else some g
        | none => none }
    (s1.modBooks (bookEngines false r0)).modCore fun c =>
      { c with
        st := .ended, status := BitVec.ofNat 64 (aband.toNat + (!r.quiet).toNat <<< 1)
        r := { c.r with
          lq := Vector.replicate 4 .empty, mq := Vector.replicate 2 .empty, sq := Vector.replicate 2 .empty, saq := .empty
          iq := Vector.replicate 4 .empty, cond := Vector.replicate 4 .empty, tok := Vector.replicate 10 .empty
          lease := .none } }
  else s

/-- The cycles for which the core in focus has been stuck (log 69, DEDUCED). -/
def countStuck (s : State) : State :=
  if s.core.st != .running || s.core.frozen then s
  else s.modCr fun r => { r with dead := if !r.shd && s.stuck then r.dead + 1 else 0 }

/-- The turn passes on: to the core's next engine, to the next core of this cycle, or to the package. -/
def passTurn (e : Engine) (s : State) : State :=
  match e with
  | .s =>
    match s.todo with
    | c :: cs => { s with done := s.done ++ [s.core], core := c, todo := cs, turn := .eng .c }
    | [] =>
      match s.done with
      | c :: cs => { s with core := c, done := [], todo := cs ++ [s.core], turn := .pkg }
      | [] => { s with turn := .pkg }
  | e => { s with turn := .eng (nextEng e) }

/-- Whether an engine's cycle was one of a replay: it came nearer to the replay's end (21 R538). -/
def noteRedo (e : Engine) (before after : State) : State :=
  let shd := before.core.cr.shd
  after.modEng e fun x => { x with redo := (engThen shd after.core e).replay < (engThen shd before.core e).replay }

/-- What follows an engine's turn (log 3, DESIGN CHOICE). -/
def afterTurn (e : Engine) (before after : State) : State :=
  let s1 := noteRedo e before (traceRun e before (countTurn e before after))
  let s2 := if !before.core.cr.shd && s1.core.cr.shd then s1.freezeLease else s1
  let s3 := match e with
    | .a => tickTables s2
    | .m => noteCarry before s2
    | .s => completeCore (countStuck s2)
    | _ => s2
  passTurn e s3

end Sys2Proof.Machine
end

