-- ==== Sys2Proof/Machine/Softmax.lean ====
section
/-! DEFINITION. The streaming softmax: MSCL, MSMX, MSMN, MSMG (08 R318 to R324). -/

namespace Sys2Proof.Machine

open Sys2Proof

/-! ## SMX (R318) -/

def smxScale (x : BitVec 256) : BitVec 32 := x.extractLsb' 0 32
def smxKlen (x : BitVec 256) : Nat := (x.extractLsb' 32 32).toNat
def smxQpos (x : BitVec 256) : Nat := (x.extractLsb' 64 32).toNat
def smxKpos (x : BitVec 256) : Nat := (x.extractLsb' 96 32).toNat
def smxCausal (x : BitVec 256) : Bool := x.getLsbD 128
def smxKstep (x : BitVec 256) : Bool := x.getLsbD 129

/-- SMX as MSCL sets it (R319). -/
def smxOf (a b : Word) (causal kstep : Bool) : BitVec 256 :=
  (BitVec.ofBool kstep ++ BitVec.ofBool causal ++ b.extractLsb' 32 32 ++ b.extractLsb' 0 32 ++ a.extractLsb' 32 32 ++
    a.extractLsb' 0 32).setWidth 256

/-- KPOS advanced by w, modulo 2^32. -/
def smxStep (x : BitVec 256) (w : Nat) : BitVec 256 :=
  x.extractLsb' 128 128 ++ BitVec.ofNat 32 (smxKpos x + w) ++ x.extractLsb' 0 96

/-- MSCL (R319). -/
def execMscl (m : Marks) (a b : Fin 4) (o : Option (Bool × Bool)) (s : State) : Host.Outcome State Fault Refusal :=
  issueM (optWords o) m (fun u =>
    let p := o.getD (false, false)
    .ok { st := u.post .m 1 (.smx (smxOf (u.eReg .m a) (u.eReg .m b) p.1 p.2)) }) s

/-! ## MSMX (R320, R321) -/

/-- round_rne of a difference of FP32 values, as exp_dv takes it. -/
def diff32 (x y : BitVec 32) : BitVec 32 := BitVec.ofNat 32 (roundV .f32 ((f32v x).sub (f32v y)))

/-- exp_dv(x − m), 1.0 where they are equal. -/
def expDiff (x m : BitVec 32) : BitVec 32 := if (f32v x).eq (f32v m) then 0x3F800000 else expDv (diff32 x m)

/-- The larger of two FP32 values, NaN when either is NaN. -/
def max32 (x y : BitVec 32) : BitVec 32 := BitVec.ofNat 32 (roundV .f32 (numMax (f32v x) (f32v y)))

/-- A score after scale and mask, and its ovf. -/
def score (smx : BitVec 256) (i j : Nat) (s : BitVec 32) : BitVec 32 × Bool :=
  let k := smxKpos smx + j
  if smxKlen smx ≤ k || (smxCausal smx && smxQpos smx + i < k) then (0xFF800000, false) else mul32 (smxScale smx) s

/-- The pairwise tree of add32, and whether any addition saturated (R265, R85). -/
def sumTree : Nat → List (BitVec 32 × Bool) → BitVec 32 × Bool
  | 0, xs => xs.headD (0, false)
  | k + 1, xs => sumTree k (groupTree xs)

/-- What MSMX makes of one row. -/
structure FoldedRow where
  prow : PRow
  set  : RowSet
  ovf  : Nat

/-- One row of MSMX: format entry, SMX, row number, S and O (log 80, DEDUCED). -/
def foldRow (f : BitVec 20) (smx : BitVec 256) (i : Nat) (s o : Row) : FoldedRow :=
  let fa := (Fmt.ofCode (fmtA f)).getD .bf16
  let w := if fa.isB8 then 256 else 128
  let xs := (List.range w).map fun j => score smx i j (rowSum s.sum j)
  let mx := xs.foldl (fun m x => max32 m x.1) 0xFF800000
  let mn := max32 o.rmax mx
  let ps := xs.map fun x => if x.1 == 0xFF800000 then (0 : BitVec 32) else expDiff x.1 mn
  let alpha := expDiff o.rmax mn
  let sc := (List.range (w / 32)).map fun b =>
    chooseScale fa (fmtScm f) (((ps.drop (32 * b)).take 32).map f32v)
  let val := fun j => scaleValue (sc.getD (j / 32) 0xFE)
  let cs := (List.range w).map fun j => toFmt ((f32v (ps.getD j 0)).div (val j)) fa (fmtSat f)
  let pv := (List.range w).map fun j =>
    (BitVec.ofNat 32 (toFmt ((decodeFmt fa (cs.getD j (0, false)).1).mul (val j)) .f32 true).1, false)
  let rs := sumTree 8 pv
  let sums := (List.range 256).map fun j => mul32 (rowSum o.sum j) alpha
  let d1 := mul32 o.rden alpha
  let d2 := add32 d1.1 rs.1
  let bad := fun j => (xs.getD j (0, false)).2 || (cs.getD j (0, false)).2 || (sums.getD j (0, false)).2
  { prow := ⟨ofLanes (2048 / w) (fun j => (cs.getD j (0, false)).1),
      BitVec.ofNat 128 (packLanes 16 (fun b => sc.getD b 0xFE) 8)⟩
    set := { sum := some (BitVec.ofNat 8192 (packLanes 32 (fun j => (sums.getD j (0, false)).1.toNat) 256))
             rmax := some mn, rden := some d2.1, valid := some (o.valid && s.valid) }
    ovf := countTo bad 256 + (rs.2 || d1.2 || d2.2).toNat }

/-- The check of MSMX on its entry (R80): the failing check. -/
def smxFmtCheck (x : BitVec 20) : Option Nat :=
  match Fmt.ofCode (fmtA x) with
  | none => some 1
  | some a =>
    if !(a.isB8 || a == .bf16 || a == .f16) then some 4
    else if fmtScm x && !a.isB8 then some 3
    else none

/-- MSMX. -/
def execMsmx (m : Marks) (x : Bool) (rows : BitVec 6) (o a : Acc) (s : State) : Host.Outcome State Fault Refusal :=
  issueM (xWords x) m (fun u => do
    let n := rowsOf rows
    let (fi, f, u) := u.fmtEntry .m
    match smxFmtCheck f with
    | some c => .error (fmtCause u .m fi c)
    | none =>
      let (i, j) := (u.accNum o, u.accNum a)
      if !rangeOk i n || !rangeOk j n then .error (rangeFault u)
      if !typeOk u.core.r i n false || !typeOk u.core.r j n false then .error (typeFault u)
      let smx := u.core.r.smx
      let lat := n + 19
      let row := fun k =>
        let r := foldRow f smx k (u.core.r.row (j + k)) (u.core.r.row (i + k))
        [(lat, Land.pbuf k r.prow), (lat, .rowSet (i + k) r.set), (lat, .rowOvf (i + k) r.ovf)]
      let w := if ((Fmt.ofCode (fmtA f)).map Fmt.isB8).getD false then 256 else 128
      let v := if smxKstep smx then u.post .m 1 (.smx (smxStep smx w)) else u
      .ok { st := v.postRows row n, lat := lat }) s

/-! ## MSMN (R322) -/

/-- A row divided by its denominator. -/
def normRow (x : Row) : RowSet :=
  let l := f32v x.rden
  if l.isZero then { sum := some 0, lz := some true }
  else
    { sum := some (BitVec.ofNat 8192 (packLanes 32 (fun j => (toFmt ((f32v (rowSum x.sum j)).div l) .f32 true).1) 256))
      lz := some false }

/-- Whether a row's normalisation saturates, by element (02 R77; log 44, DEDUCED). -/
def normOvf (x : Row) : Nat :=
  let l := f32v x.rden
  if l.isZero then 0 else countTo (fun j => (toFmt ((f32v (rowSum x.sum j)).div l) .f32 true).2) 256

/-- MSMN (log 44, DEDUCED; log 80, DEDUCED). -/
def execMsmn (m : Marks) (x : Bool) (rows : BitVec 6) (o : Acc) (s : State) : Host.Outcome State Fault Refusal :=
  issueM (xWords x) m (fun u => do
    let n := rowsOf rows
    let i := u.accNum o
    if !rangeOk i n then .error (rangeFault u)
    if !typeOk u.core.r i n false then .error (typeFault u)
    let row := fun k =>
      let r := u.core.r.row (i + k)
      [(n + 14, Land.rowSet (i + k) (normRow r)), (n + 14, .rowOvf (i + k) (normOvf r))]
    .ok { st := u.postRows row n, lat := n + 14 }) s

/-! ## MSMG (R323) -/

/-- Row Y merged into row X: what is written, and what is added to OVF where that lands (log 80, DEDUCED). -/
def mergeRow (x y : Row) : RowSet × Nat :=
  let fin := fun (z : RowSet) (n : Nat) => ({ z with valid := some (x.valid && y.valid) }, y.ovf.toNat + n)
  if (f32v y.rden).isZero then fin {} 0
  else if (f32v x.rden).isZero then fin { sum := some y.sum, rmax := some y.rmax, rden := some y.rden } 0
  else
    let mm := max32 x.rmax y.rmax
    let ax := expDiff x.rmax mm
    let ay := expDiff y.rmax mm
    let one := fun (p q : BitVec 32) =>
      let a := mul32 p ax
      let b := mul32 q ay
      let c := add32 a.1 b.1
      (c.1, a.2 || b.2 || c.2)
    let out := (List.range 256).map fun j => one (rowSum x.sum j) (rowSum y.sum j)
    let d := one x.rden y.rden
    fin { sum := some (BitVec.ofNat 8192 (packLanes 32 (fun j => (out.getD j (0, false)).1.toNat) 256))
          rmax := some mm, rden := some d.1 }
      (countTo (fun j => (out.getD j (0, false)).2) 256 + d.2.toNat)

/-- MSMG. -/
def execMsmg (m : Marks) (x : Bool) (rows : BitVec 6) (d a : Acc) (s : State) : Host.Outcome State Fault Refusal :=
  issueM (xWords x) m (fun u => do
    let n := rowsOf rows
    let (i, j) := (u.accNum d, u.accNum a)
    if !rangeOk i n || !rangeOk j n then .error (rangeFault u)
    if !typeOk u.core.r i n false || !typeOk u.core.r j n false then .error (typeFault u)
    let row := fun k =>
      let r := mergeRow (u.core.r.row (i + k)) (u.core.r.row (j + k))
      [(n + 14, Land.rowSet (i + k) r.1), (n + 14, .rowOvf (i + k) r.2)]
    .ok { st := u.postRows row n, lat := n + 14 }) s

end Sys2Proof.Machine
end

