-- ==== Sys2Proof/Machine/VConv.lean ====
section
/-! DEFINITION. V's conversions: VCVT, VQNT and VDQN, the counter VOVF, and the format table as V uses it (07 R253, R255
to R258; 02 R78 to R83). -/

namespace Sys2Proof.Machine

open Sys2Proof

/-- The number of active lanes below n whose conversion overflowed (R78). -/
def ovfCount (act : Nat → Bool) (ovf : Nat → Bool) (n : Nat) : Nat := countTo (fun j => act j && ovf j) n

/-- Lands an addition to VOVF with a conversion's result. -/
def State.postOvf (s : State) (lat n : Nat) : State := if n == 0 then s else s.post .v lat (.vovf n)

/-- The source lane that feeds destination lane j of VCVT: none outside the range of a narrowing (R253). -/
def cvtLane (ws wd part j : Nat) : Option Nat :=
  if ws == wd then some j
  else if wd < ws then
    let ns := 2048 / ws
    if part * ns ≤ j && j < part * ns + ns then some (j - part * ns) else none
  else some (part * (2048 / wd) + j)

/-- VCVT (R253). -/
def execVcvt (m : Marks) (d : VDst) (a : VSrc) (o : Option VPay) (s : State) : Host.Outcome State Fault Refusal :=
  issue .v (optWords o) m (fun t => do
    let p := payOf vCvtR o
    let src := (Fmt.ofCode (p.ops.extractLsb' 0 6)).getD .f32
    let part := (p.ops.extractLsb' 6 2).toNat
    let (slot, t1) ← t.vReserve d
    let (x, t2) ← t1.vRead src a
    let conv := fun i => toFmt (decodeFmt src (lane src.width x i)) p.ty (p.ops.getLsbD 8)
    let at' := cvtLane src.width p.ty.width part
    let old := t2.vOld d
    let act := fun j => (at' j).isSome && t2.vActive p j
    let r := ofLanes p.ty.width fun j =>
      match at' j with
      | none => lane p.ty.width old j
      | some i =>
        if t2.vActive p j then (conv i).1
        else match d with
          | .v _ => if p.zm then 0 else lane p.ty.width old j
          | _ => 0
    let n := ovfCount act (fun j => (conv ((at' j).getD 0)).2) p.ty.lanes
    .ok { st := (t2.vPut d slot 4 r).postOvf 4 n, lat := 4 }) s

/-- What VQNT and VDQN work with: format, scaling, saturation, and the state after the format table was read. -/
structure QntSet where
  fmt  : Fmt
  scl  : Bool
  sat  : Bool
  st   : State

/-- Format, scaling and saturation of VQNT and VDQN (R255, R256): the word's own, or the active entry's. -/
def qntSet (t : State) (p : VPay) : Except Stop QntSet :=
  if !p.ops.getLsbD 6 then .ok ⟨p.ty, p.ops.getLsbD 8, p.ops.getLsbD 7, t⟩
  else
    let (i, x, t1) := t.fmtEntry .v
    match Fmt.ofCode (fmtA x) with
    | none => .error (fmtCause t .v i 1)
    | some f => .ok ⟨if f.isB8 || f == .i8 then f else p.ty, fmtScm x, fmtSat x, t1⟩

/-- Register 4g + k of a group. -/
def groupReg (g : Fin 12) (k : Nat) : Fin 48 := ⟨(4 * g.val + k) % 48, Nat.mod_lt _ (by decide)⟩

/-- Element i of the 256 FP32 values of a group. -/
def groupVal (s : State) (g : Fin 12) (i : Nat) : Num :=
  decodeFmt .f32 (lane 32 s.core.r.v[groupReg g (i / 64)] (i % 64))

/-- The scale register of an OPS field. -/
def sregOf (p : VPay) : Fin 48 := ⟨(p.ops.extractLsb' 0 6).toNat % 48, Nat.mod_lt _ (by decide)⟩

/-- The scale code of block b (R257). -/
def qntScale (s : State) (g : Fin 12) (p : VPay) (f : Fmt) (scl : Bool) (b : Nat) : Nat :=
  chooseScale f scl (((List.range 32).filter fun k => s.vActive p (32 * b + k)).map fun k => groupVal s g (32 * b + k))

/-- VQNT (R255 to R257; log 37, DEDUCED). -/
def execVqnt (m : Marks) (d : VDst) (g : Fin 12) (o : Option VPay) (s : State) : Host.Outcome State Fault Refusal :=
  issue .v (optWords o) m (fun t => do
    let p := payOf (vQntR d) o
    let q ← qntSet t p
    let (slot, t1) ← q.st.vReserve d
    let sc := (List.range 8).map fun b => qntScale t1 g p q.fmt q.scl b
    let one := fun i => toFmt ((groupVal t1 g i).div (scaleValue (sc.getD (i / 32) 0))) q.fmt q.sat
    let r := t1.vMerge d p 8 (fun i => (one i).1)
    let vs : Block := BitVec.ofNat 2048 (packLanes 16 (fun b => sc.getD b 0) 8)
    let n := ovfCount (t1.vActive p) (fun i => (one i).2) 256
    .ok { st := ((t1.vPut d slot 6 r).post .v 6 (.v (sregOf p) vs)).postOvf 6 n, lat := 6 }) s

/-- VDQN (R258; log 30, DEDUCED). -/
def execVdqn (m : Marks) (g : Fin 12) (a : VSrc) (o : Option VPay) (s : State) : Host.Outcome State Fault Refusal :=
  issue .v (optWords o) m (fun t => do
    let p := payOf vDqnR o
    let q ← qntSet t p
    let (x, t1) ← q.st.vRead q.fmt a
    let vs := t1.core.r.v[sregOf p]
    let sc := fun b => if q.scl then containerCode (lane 16 vs b) else 0x0FE
    let one := fun i => toFmt ((decodeFmt q.fmt (lane 8 x i)).mul (scaleValue (sc (i / 32)))) .f32 q.sat
    let reg := fun (u : State) (k : Nat) =>
      let old := t1.core.r.v[groupReg g k]
      let r := ofLanes 32 fun l =>
        if t1.vActive p (64 * k + l) then (one (64 * k + l)).1 else if p.zm then 0 else lane 32 old l
      u.post .v 6 (.v (groupReg g k) r)
    let n := ovfCount (t1.vActive p) (fun i => (one i).2) 256
    .ok { st := ([0, 1, 2, 3].foldl reg t1).postOvf 6 n, lat := 6 }) s

end Sys2Proof.Machine
end

