-- ==== Sys2Proof/Machine/Dispatch.lean ====
section
/-! DEFINITION. One arm per instruction or step of the Evril, each a direct call of its meaning. -/

namespace Sys2Proof.Machine

open Sys2Proof

def exec (i : Instr) (s : State) : Host.Outcome State Fault Refusal :=
  match i with
  | .nop m e => Sys2Proof.Machine.execNop m e s
  | .loop m r len => Sys2Proof.Machine.execLoop m r len s
  | .loopi m e n len => Sys2Proof.Machine.execLoopi m e n len s
  | .br m e kill off => Sys2Proof.Machine.execBr m e kill off s
  | .bcq m e kill cut off => Sys2Proof.Machine.execBcq m e kill cut off s
  | .fset m e f n => Sys2Proof.Machine.execFset m e f n s
  | .fwait m e f n => Sys2Proof.Machine.execFwait m e f n s
  | .mark m e n notify => Sys2Proof.Machine.execMark m e n notify s
  | .halt m e => Sys2Proof.Machine.execHalt m e s
  | .breath m e k => Sys2Proof.Machine.execBreath m e k s
  | .qclr m q => Sys2Proof.Machine.execQclr m q s
  | .recv m d => Sys2Proof.Machine.execRecv m d s
  | .lcrd m d lv => Sys2Proof.Machine.execLcrd m d lv s
  | .add m d a b => Sys2Proof.Machine.execAdd m d a b s
  | .sub m d a b => Sys2Proof.Machine.execSub m d a b s
  | .mul m d a b => Sys2Proof.Machine.execMul m d a b s
  | .mulh m d a b => Sys2Proof.Machine.execMulh m d a b s
  | .mulhu m d a b => Sys2Proof.Machine.execMulhu m d a b s
  | .div m d a b => Sys2Proof.Machine.execDiv m d a b s
  | .divu m d a b => Sys2Proof.Machine.execDivu m d a b s
  | .rem m d a b => Sys2Proof.Machine.execRem m d a b s
  | .remu m d a b => Sys2Proof.Machine.execRemu m d a b s
  | .and m d a b => Sys2Proof.Machine.execAnd m d a b s
  | .or m d a b => Sys2Proof.Machine.execOr m d a b s
  | .xor m d a b => Sys2Proof.Machine.execXor m d a b s
  | .sll m d a b => Sys2Proof.Machine.execSll m d a b s
  | .srl m d a b => Sys2Proof.Machine.execSrl m d a b s
  | .sra m d a b => Sys2Proof.Machine.execSra m d a b s
  | .min m d a b => Sys2Proof.Machine.execMin m d a b s
  | .max m d a b => Sys2Proof.Machine.execMax m d a b s
  | .minu m d a b => Sys2Proof.Machine.execMinu m d a b s
  | .maxu m d a b => Sys2Proof.Machine.execMaxu m d a b s
  | .slt m d a b => Sys2Proof.Machine.execSlt m d a b s
  | .sltu m d a b => Sys2Proof.Machine.execSltu m d a b s
  | .seq m d a b => Sys2Proof.Machine.execSeq m d a b s
  | .sel m d a b => Sys2Proof.Machine.execSel m d a b s
  | .addq m d a b => Sys2Proof.Machine.execAddq m d a b s
  | .li m d j => Sys2Proof.Machine.execLi m d j s
  | .lih m d j => Sys2Proof.Machine.execLih m d j s
  | .beq m a b kill cut off => Sys2Proof.Machine.execBeq m a b kill cut off s
  | .bne m a b kill cut off => Sys2Proof.Machine.execBne m a b kill cut off s
  | .blt m a b kill cut off => Sys2Proof.Machine.execBlt m a b kill cut off s
  | .bge m a b kill cut off => Sys2Proof.Machine.execBge m a b kill cut off s
  | .bltu m a b kill cut off => Sys2Proof.Machine.execBltu m a b kill cut off s
  | .bgeu m a b kill cut off => Sys2Proof.Machine.execBgeu m a b kill cut off s
  | .jal m d kill off => Sys2Proof.Machine.execJal m d kill off s
  | .jalr m d a kill => Sys2Proof.Machine.execJalr m d a kill s
  | .ld m d a o => Sys2Proof.Machine.execLd m d a o s
  | .st m a b o => Sys2Proof.Machine.execSt m a b o s
  | .ldaq m d a => Sys2Proof.Machine.execLdaq m d a s
  | .strl m a b => Sys2Proof.Machine.execStrl m a b s
  | .cbc m set a => Sys2Proof.Machine.execCbc m set a s
  | .sendv m set a => Sys2Proof.Machine.execSendv m set a s
  | .xpush m x a n => Sys2Proof.Machine.execXpush m x a n s
  | .xpop m d x => Sys2Proof.Machine.execXpop m d x s
  | .xstat m d x => Sys2Proof.Machine.execXstat m d x s
  | .launch m d a => Sys2Proof.Machine.execLaunch m d a s
  | .open m x d a => Sys2Proof.Machine.execOpen m x d a s
  | .openw m x d a => Sys2Proof.Machine.execOpenw m x d a s
  | .close m x d a => Sys2Proof.Machine.execClose m x d a s
  | .hqry m x d a => Sys2Proof.Machine.execHqry m x d a s
  | .seal m x d a => Sys2Proof.Machine.execSeal m x d a s
  | .rbstg m x d a => Sys2Proof.Machine.execRbstg m x d a s
  | .rbcmt m x d => Sys2Proof.Machine.execRbcmt m x d s
  | .rbabt m x d => Sys2Proof.Machine.execRbabt m x d s
  | .rclm m x d a => Sys2Proof.Machine.execRclm m x d a s
  | .sacq m x a => Sys2Proof.Machine.execSacq m x a s
  | .srel m x a => Sys2Proof.Machine.execSrel m x a s
  | .bara m x d a => Sys2Proof.Machine.execBara m x d a s
  | .barw m x d a => Sys2Proof.Machine.execBarw m x d a s
  | .baraw m x d a => Sys2Proof.Machine.execBaraw m x d a s
  | .waitmk m x d a => Sys2Proof.Machine.execWaitmk m x d a s
  | .domsplit m x d a => Sys2Proof.Machine.execDomsplit m x d a s
  | .domjoin m x d => Sys2Proof.Machine.execDomjoin m x d s
  | .rbndr m x d a => Sys2Proof.Machine.execRbndr m x d a s
  | .ubndr m x a => Sys2Proof.Machine.execUbndr m x a s
  | .time m x d => Sys2Proof.Machine.execTime m x d s
  | .cyc m x d sel => Sys2Proof.Machine.execCyc m x d sel s
  | .acrd m x d a => Sys2Proof.Machine.execAcrd m x d a s
  | .stmt m x d a => Sys2Proof.Machine.execStmt m x d a s
  | .trap m x n => Sys2Proof.Machine.execTrap m x n s
  | .eret m x abandon => Sys2Proof.Machine.execEret m x abandon s
  | .crr m d num => Sys2Proof.Machine.execCrr m d num s
  | .crw m a num => Sys2Proof.Machine.execCrw m a num s
  | .tlbi m a t => Sys2Proof.Machine.execTlbi m a t s
  | .snaprd m x d a => Sys2Proof.Machine.execSnaprd m x d a s
  | .snapwr m x d a => Sys2Proof.Machine.execSnapwr m x d a s
  | .wpset m x n a => Sys2Proof.Machine.execWpset m x n a s
  | .acsw m x d a => Sys2Proof.Machine.execAcsw m x d a s
  | .preempt m x d a => Sys2Proof.Machine.execPreempt m x d a s
  | .keysel m x d a => Sys2Proof.Machine.execKeysel m x d a s
  | .hollow m x d => Sys2Proof.Machine.execHollow m x d s
  | .aadd m d a b => Sys2Proof.Machine.execAadd m d a b s
  | .asub m d a b => Sys2Proof.Machine.execAsub m d a b s
  | .aaddq m d a b => Sys2Proof.Machine.execAaddq m d a b s
  | .amul m d a b => Sys2Proof.Machine.execAmul m d a b s
  | .asll m d a b => Sys2Proof.Machine.execAsll m d a b s
  | .asrl m d a b => Sys2Proof.Machine.execAsrl m d a b s
  | .ali m d j => Sys2Proof.Machine.execAli m d j s
  | .ahi m d j => Sys2Proof.Machine.execAhi m d j s
  | .amov m d a => Sys2Proof.Machine.execAmov m d a s
  | .ald m d a o => Sys2Proof.Machine.execAld m d a o s
  | .ldq m q a o => Sys2Proof.Machine.execLdq m q a o s
  | .ldqs m q a b o => Sys2Proof.Machine.execLdqs m q a b o s
  | .ldqx m q a b o => Sys2Proof.Machine.execLdqx m q a b o s
  | .ldro m q a o => Sys2Proof.Machine.execLdro m q a o s
  | .agc m g a off => Sys2Proof.Machine.execAgc m g a off s
  | .agld m g q => Sys2Proof.Machine.execAgld m g q s
  | .agsa m g => Sys2Proof.Machine.execAgsa m g s
  | .saq m a o => Sys2Proof.Machine.execSaq m a o s
  | .dset m d a add => Sys2Proof.Machine.execDset m d a add s
  | .abne m a b kill cut off => Sys2Proof.Machine.execAbne m a b kill cut off s
  | .ablt m a b kill cut off => Sys2Proof.Machine.execAblt m a b kill cut off s
  | .vadd m d a b o => Sys2Proof.Machine.execVadd m d a b o s
  | .vsub m d a b o => Sys2Proof.Machine.execVsub m d a b o s
  | .vmul m d a b o => Sys2Proof.Machine.execVmul m d a b o s
  | .vfma m d a b o => Sys2Proof.Machine.execVfma m d a b o s
  | .vfms m d a b o => Sys2Proof.Machine.execVfms m d a b o s
  | .vmax m d a b o => Sys2Proof.Machine.execVmax m d a b o s
  | .vmin m d a b o => Sys2Proof.Machine.execVmin m d a b o s
  | .vabs m d a o => Sys2Proof.Machine.execVabs m d a o s
  | .vneg m d a o => Sys2Proof.Machine.execVneg m d a o s
  | .vrcp m d a o => Sys2Proof.Machine.execVrcp m d a o s
  | .vrsq m d a o => Sys2Proof.Machine.execVrsq m d a o s
  | .vexp m d a o => Sys2Proof.Machine.execVexp m d a o s
  | .vlog2 m d a o => Sys2Proof.Machine.execVlog2 m d a o s
  | .vcvt m d a o => Sys2Proof.Machine.execVcvt m d a o s
  | .vqnt m d g o => Sys2Proof.Machine.execVqnt m d g o s
  | .vdqn m g a o => Sys2Proof.Machine.execVdqn m g a o s
  | .vand m d a b o => Sys2Proof.Machine.execVand m d a b o s
  | .vor m d a b o => Sys2Proof.Machine.execVor m d a b o s
  | .vxor m d a b o => Sys2Proof.Machine.execVxor m d a b o s
  | .vnot m d a o => Sys2Proof.Machine.execVnot m d a o s
  | .vshl m d a b o => Sys2Proof.Machine.execVshl m d a b o s
  | .vshr m d a b o => Sys2Proof.Machine.execVshr m d a b o s
  | .vsra m d a b o => Sys2Proof.Machine.execVsra m d a b o s
  | .viadd m d a b o => Sys2Proof.Machine.execViadd m d a b o s
  | .visub m d a b o => Sys2Proof.Machine.execVisub m d a b o s
  | .vimul m d a b o => Sys2Proof.Machine.execVimul m d a b o s
  | .vdot4 m d a b o => Sys2Proof.Machine.execVdot4 m d a b o s
  | .vpopc m d a o => Sys2Proof.Machine.execVpopc m d a o s
  | .vsign m d a o => Sys2Proof.Machine.execVsign m d a o s
  | .vcmp m k a b o => Sys2Proof.Machine.execVcmp m k a b o s
  | .vsel m d a b o => Sys2Proof.Machine.execVsel m d a b o s
  | .vrsum m d a o => Sys2Proof.Machine.execVrsum m d a o s
  | .vrmax m d a o => Sys2Proof.Machine.execVrmax m d a o s
  | .vbc m d a o => Sys2Proof.Machine.execVbc m d a o s
  | .vperm m d a b o => Sys2Proof.Machine.execVperm m d a b o s
  | .vslide m d a b o => Sys2Proof.Machine.execVslide m d a b o s
  | .vmov m d a o => Sys2Proof.Machine.execVmov m d a o s
  | .vli m d o => Sys2Proof.Machine.execVli m d o s
  | .vlid m d o => Sys2Proof.Machine.execVlid m d o s
  | .kand m x d a b => Sys2Proof.Machine.execKand m x d a b s
  | .kor m x d a b => Sys2Proof.Machine.execKor m x d a b s
  | .kxor m x d a b => Sys2Proof.Machine.execKxor m x d a b s
  | .kandn m x d a b => Sys2Proof.Machine.execKandn m x d a b s
  | .knot m x d a => Sys2Proof.Machine.execKnot m x d a s
  | .kmov m x d a => Sys2Proof.Machine.execKmov m x d a s
  | .kset m d e => Sys2Proof.Machine.execKset m d e s
  | .ksetImm m d n => Sys2Proof.Machine.execKsetImm m d n s
  | .kcnt m x d a => Sys2Proof.Machine.execKcnt m x d a s
  | .vxtr m d a o => Sys2Proof.Machine.execVxtr m d a o s
  | .vins m d e o => Sys2Proof.Machine.execVins m d e o s
  | .vclamp m d a b o => Sys2Proof.Machine.execVclamp m d a b o s
  | .vround m d a o => Sys2Proof.Machine.execVround m d a o s
  | .mlease m => Sys2Proof.Machine.execMlease m s
  | .mleasePlate m p sc t => Sys2Proof.Machine.execMleasePlate m p sc t s
  | .mrel m => Sys2Proof.Machine.execMrel m s
  | .mwld m x p t => Sys2Proof.Machine.execMwld m x p t s
  | .mwlds m x p sc t => Sys2Proof.Machine.execMwlds m x p sc t s
  | .mma m x rows d src t => Sys2Proof.Machine.execMma m x rows d src t s
  | .mmas m x rows d src sc => Sys2Proof.Machine.execMmas m x rows d src sc s
  | .mzero m x f l int => Sys2Proof.Machine.execMzero m x f l int s
  | .msmx m x rows o b => Sys2Proof.Machine.execMsmx m x rows o b s
  | .msmn m x rows o => Sys2Proof.Machine.execMsmn m x rows o s
  | .msmg m x rows d a => Sys2Proof.Machine.execMsmg m x rows d a s
  | .mepi m x rows a ovf clr => Sys2Proof.Machine.execMepi m x rows a ovf clr s
  | .mmov m x rows f => Sys2Proof.Machine.execMmov m x rows f s
  | .mmova m x f field => Sys2Proof.Machine.execMmova m x f field s
  | .mscl m a b o => Sys2Proof.Machine.execMscl m a b o s
  | .mfmt m x a t => Sys2Proof.Machine.execMfmt m x a t s
  | .mstat m d => Sys2Proof.Machine.execMstat m d s
  | .stq m q => Sys2Proof.Machine.execStq m q s
  | .stql m q => Sys2Proof.Machine.execStql m q s
  | .saeq m vq iq o => Sys2Proof.Machine.execSaeq m vq iq o s
  | .sfence m => Sys2Proof.Machine.execSfence m s
  | .stz m n => Sys2Proof.Machine.execStz m n s
  | .engineRun e => Sys2Proof.Machine.execEngineRun e s
  | .operationLanding e => Sys2Proof.Machine.execOperationLanding e s
  | .loadResponse k => Sys2Proof.Machine.execLoadResponse k s
  | .generatorTableRead g => Sys2Proof.Machine.execGeneratorTableRead g s
  | .tableWalk k => Sys2Proof.Machine.execTableWalk k s
  | .timingErrorReplay v u => Sys2Proof.Machine.execTimingErrorReplay v u s
  | .breathSwitch => Sys2Proof.Machine.execBreathSwitch s
  | .gangCompletion l => Sys2Proof.Machine.execGangCompletion l s
  | .ringDeadlock => Sys2Proof.Machine.execRingDeadlock s
  | .trapEntry => Sys2Proof.Machine.execTrapEntry s
  | .commandStart c => Sys2Proof.Machine.execCommandStart c s
  | .copy c => Sys2Proof.Machine.execCopy c s
  | .mcast c => Sys2Proof.Machine.execMcast c s
  | .gather c => Sys2Proof.Machine.execGather c s
  | .scatter c => Sys2Proof.Machine.execScatter c s
  | .prefPromote c => Sys2Proof.Machine.execPrefPromote c s
  | .prefDemote c => Sys2Proof.Machine.execPrefDemote c s
  | .sigath c => Sys2Proof.Machine.execSigath c s
  | .copyxSave c => Sys2Proof.Machine.execCopyxSave c s
  | .copyxRestore c => Sys2Proof.Machine.execCopyxRestore c s
  | .sacc c => Sys2Proof.Machine.execSacc c s
  | .allreduce c => Sys2Proof.Machine.execAllreduce c s
  | .reduce c => Sys2Proof.Machine.execReduce c s
  | .bcast c => Sys2Proof.Machine.execBcast c s
  | .allgather c => Sys2Proof.Machine.execAllgather c s
  | .alltoall c => Sys2Proof.Machine.execAlltoall c s
  | .commandCompletion c => Sys2Proof.Machine.execCommandCompletion c s
  | .barrierPost c => Sys2Proof.Machine.execBarrierPost c s
  | .resultElementPlace c => Sys2Proof.Machine.execResultElementPlace c s
  | .phaseCompletion o => Sys2Proof.Machine.execPhaseCompletion o s
  | .barrierRelease c => Sys2Proof.Machine.execBarrierRelease c s
  | .podReleaseTick o => Sys2Proof.Machine.execPodReleaseTick o s
  | .openwTimeout c => Sys2Proof.Machine.execOpenwTimeout c s
  | .leaseGrant v => Sys2Proof.Machine.execLeaseGrant v s
  | .leaseIdleEnd v => Sys2Proof.Machine.execLeaseIdleEnd v s
  | .leaseBudgetEnd v => Sys2Proof.Machine.execLeaseBudgetEnd v s
  | .hostPush p vf q ws => Sys2Proof.Machine.execHostPush p vf q ws s
  | .hostConfigWrite lvl off w => Sys2Proof.Machine.execHostConfigWrite lvl off w s
  | .dispatchDecision => Sys2Proof.Machine.execDispatchDecision s
  | .gangIssue l => Sys2Proof.Machine.execGangIssue l s
  | .preemptionStop l => Sys2Proof.Machine.execPreemptionStop l s
  | .gangResume l => Sys2Proof.Machine.execGangResume l s
  | .dualRunCompare l => Sys2Proof.Machine.execDualRunCompare l s
  | .capturePreimage l page => Sys2Proof.Machine.execCapturePreimage l page s
  | .migrationMove vf va near => Sys2Proof.Machine.execMigrationMove vf va near s
  | .migrationCommit k => Sys2Proof.Machine.execMigrationCommit k s
  | .leafExchange c => Sys2Proof.Machine.execLeafExchange c s
  | .dtctlCurChange vf cur => Sys2Proof.Machine.execDtctlCurChange vf cur s
  | .dirtyFlipSettle vf => Sys2Proof.Machine.execDirtyFlipSettle vf s
  | .namespaceExport vf a => Sys2Proof.Machine.execNamespaceExport vf a s
  | .namespaceImport vf a => Sys2Proof.Machine.execNamespaceImport vf a s
  | .valevfWrite v w => Sys2Proof.Machine.execValevfWrite v w s
  | .clkdivWrite w => Sys2Proof.Machine.execClkdivWrite w s
  | .clkdivChange => Sys2Proof.Machine.execClkdivChange s
  | .hcctlClear => Sys2Proof.Machine.execHcctlClear s
  | .spdmRequest => Sys2Proof.Machine.execSpdmRequest s
  | .imageChunk => Sys2Proof.Machine.execImageChunk s
  | .imageCommit => Sys2Proof.Machine.execImageCommit s
  | .mailboxReset => Sys2Proof.Machine.execMailboxReset s
  | .accountTick => Sys2Proof.Machine.execAccountTick s
  | .flitReceive f => Sys2Proof.Machine.execFlitReceive f s
  | .remoteAccess r => Sys2Proof.Machine.execRemoteAccess r s
  | .linkEpochChange port => Sys2Proof.Machine.execLinkEpochChange port s
  | .linkTrainingComplete port farEpoch nbr => Sys2Proof.Machine.execLinkTrainingComplete port farEpoch nbr s
  | .laneRepair port lane => Sys2Proof.Machine.execLaneRepair port lane s
  | .ptpMessage port msg => Sys2Proof.Machine.execPtpMessage port msg s
  | .ucieModuleFail j => Sys2Proof.Machine.execUcieModuleFail j s
  | .cxlPortFail j => Sys2Proof.Machine.execCxlPortFail j s
  | .powerGood => Sys2Proof.Machine.execPowerGood s
  | .bringupWatchdog => Sys2Proof.Machine.execBringupWatchdog s
  | .hollowEntry => Sys2Proof.Machine.execHollowEntry s
  | .hollowEntryComplete => Sys2Proof.Machine.execHollowEntryComplete s
  | .wake => Sys2Proof.Machine.execWake s
  | .wakeComplete => Sys2Proof.Machine.execWakeComplete s
  | .powerLoss => Sys2Proof.Machine.execPowerLoss s
  | .voltageTrim strath mv => Sys2Proof.Machine.execVoltageTrim strath mv s
  | .strathRepairNeeded strath => Sys2Proof.Machine.execStrathRepairNeeded strath s
  | .scrub tier a => Sys2Proof.Machine.execScrub tier a s
  | .spareIntoService k => Sys2Proof.Machine.execSpareIntoService k s
  | .drainComplete v => Sys2Proof.Machine.execDrainComplete v s
  | .drainRequest v => Sys2Proof.Machine.execDrainRequest v s
  | .unitRetirement cls j => Sys2Proof.Machine.execUnitRetirement cls j s
  | .hbmRefresh g => Sys2Proof.Machine.execHbmRefresh g s

end Sys2Proof.Machine
end

