-- ==== Sys2Proof/Machine/Package.lean ====
section
/-! DEFINITION. The package's part of a cycle: what is due before the cycle ends, what may come about in it in an order that the
spec leaves open, and the end of the cycle (log 3, DESIGN CHOICE, log 6, DESIGN CHOICE; 01 R26, R28; 04 R132; 06 R223; 17 R487; 21 R534 to R549). -/

namespace Sys2Proof.Machine

open Sys2Proof

/-- Something that the package does. -/
abbrev Act := State → Host.Outcome State Fault Refusal

/-- An act with a core in focus. -/
def onFocus (c : CoreId) (f : Act) : Act := fun s =>
  match f (s.focus c) with
  | .next t => .next (t.focus s.core.id)
  | o => o

/-! ## What is due -/

/-- The references of the barriers. -/
def State.barriers (s : State) : List SyncRef :=
  (s.syncs.filterMap fun x => if x.due then some (SyncRef.obj x.oid) else none) ++
    (s.domains.filterMap fun d => if s.domDue d then some (SyncRef.dom d.id) else none)

/-- A table read of a generator ends in this cycle. -/
def Gen.readDue (g : Gen) : Bool := (g.cur.rdg && 6 ≤ g.cur.rcy) || (g.ahead.rdg && 6 ≤ g.ahead.rcy)

/-- A gang has a fault to spread, or nothing more to do. -/
def State.gangDue (s : State) (g : Gang) : Bool :=
  !g.ended && (g.st == .running || g.st == .stopping) &&
    ((g.fault.isNone && (s.gangCores g).any fun c => (faultOf c).isSome) || s.runDone g)

/-- A core has pre-empted its own gang: it stops at C's first boundary after the PREEMPT, when the pool holds the gang's save
areas (13 R419; 16 R474; log 63, DEDUCED). -/
def State.quitDue (s : State) (g : Gang) : Bool :=
  g.st == .stopping && !g.ended && !g.quit.isEmpty && g.fault.isNone && !((s.gangCores g).any fun c => (faultOf c).isSome) &&
    (g.area.isSome || s.canSave ((s.runsOf g.pk.launch).filter fun x => x.st == .stopping) []) &&
    (s.gangCores g).any fun c => c.st == .running && g.quit.contains c.id

/-- What every core has due. -/
def State.coreActs (s : State) : List Act :=
  s.cores.flatMap fun c =>
    let f := s.focus c.id
    (if f.breathMet then [onFocus c.id execBreathSwitch] else []) ++
    (if 1024 ≤ c.cr.dead && c.st == .running && !c.frozen && !c.cr.shd then [onFocus c.id execRingDeadlock] else []) ++
    (if c.st == .running && !c.frozen && c.r.g[0].readDue then [onFocus c.id (execGeneratorTableRead 0)] else []) ++
    (if c.st == .running && !c.frozen && c.r.g[1].readDue then [onFocus c.id (execGeneratorTableRead 1)] else []) ++
    match c.cwait with
    | .released _ _ cyc => if cyc ≤ s.cycle + 1 && !(c.st == .running && c.frozen) then [execBarrierRelease c.id] else []
    | _ => []

/-- What every vale has due. -/
def State.valeActs (s : State) : List Act :=
  s.liveVales.flatMap fun v =>
    (if s.grantDue v then [execLeaseGrant v] else []) ++ (if s.freezeDue v then [execFreezeSave v] else []) ++
    (if s.idleDue v then [execLeaseIdleEnd v] else []) ++
    (if s.budgetDue v then [execLeaseBudgetEnd v] else [])

/-- A written divider that is larger comes into force within 16 cycles (21 R536). -/
def Plat.divDue (p : Plat) : Bool := p.mayChange && p.div < p.divNext.getD 0 && 15 ≤ p.divAge

/-- A spare whose moment has come, and after the last of them the end of a drain (22 R565, R566). Rows come when their copy is done. -/
def State.spareActs (s : State) : List Act :=
  ((s.plat.coming.filter fun k => match k with
    | .hbmRow _ _ => false
    | k => s.spareDue k).map execSpareIntoService) ++
    ((s.plat.spares.map Prod.fst).filter s.drainDue).map execDrainComplete

/-- What the package has due while it runs, the gangs' ends first (log 68, DESIGN CHOICE). -/
def State.dueActs (s : State) : List Act :=
  ((s.disp.gangs.filter s.gangDue).map fun g => execGangCompletion g.pk.launch) ++ s.coreActs ++
    ((s.disp.gangs.filter s.quitDue).map fun g => execPreemptionStop g.pk.launch) ++
    s.barriers.map execPhaseCompletion ++
    ((s.ticks.filter fun t => t.tick ≤ s.timer).map fun t => execPodReleaseTick t.obj) ++ s.valeActs ++ s.spareActs ++
    ((s.openws.filter fun w => match w.limit with
      | some l => l ≤ s.timer
      | none => false).map fun w => execOpenwTimeout w.core) ++
    (if s.plat.divDue then [execClkdivChange] else []) ++
    (if (s.cores.any Core.inHollow || (s.plat.warn && s.plat.auto)) && s.mayEnter then [execHollowEntry] else []) ++
    (if s.frees.any s.freeDue then [freeHeld] else []) ++
    ((List.range 16).filter fun i => (vget s.plat.straths .reset i).failing s.cycle).map execStrathRepairNeeded

/-- What an entry into the hollow state and a wake have due: the cores that have not stopped go on (21 R536, R544). -/
def State.hollowActs (s : State) : List Act :=
  (if s.plat.hst == 1 && !s.plat.calm then (if s.toStop.isEmpty then [quiesce] else s.coreActs ++ s.valeActs) else []) ++
    (if s.plat.divDue then [execClkdivChange] else [])

/-- The first thing that must come about before the cycle ends; the ticks of a hollow interval and its wake are booked at the end of the
wake (21 R549). -/
def State.due (s : State) : Option Act :=
  if s.plat.power.isNone then none
  else if s.plat.hst == 2 then (if s.wakeDue then some beginWake else none)
  else
    ((if s.tickDue && s.plat.hst != 3 then [execAccountTick] else []) ++ (if s.bootLate then [execBringupWatchdog] else []) ++
      (if s.plat.hst == 0 then s.dueActs else s.hollowActs)).head?

/-! ## What may come about -/

/-- The step that a command takes next; none while a replay of its engine runs (21 R538). -/
def cmdAct (s : State) (c : Cmd) : List Act :=
  if 0 < vget (s.vale (CoreId.valeIdx c.core)).xrep 0 c.x.val then []
  else match c.stage with
  | .queued => if s.canStart c then [execCommandStart c.id] else []
  | .started =>
    (match c.kind with
    | some .copy => [execCopy c.id]
    | some .mcast => [execMcast c.id]
    | some .gather => [execGather c.id]
    | some .scatter => [execScatter c.id]
    | some .pref => [if c.es == 0 then execPrefPromote c.id else execPrefDemote c.id]
    | some .sigath => [execSigath c.id]
    | some .copyx => [if (c.bits 0 48 1) == 0 then execCopyxSave c.id else execCopyxRestore c.id]
    | some .sacc => [execSacc c.id]
    | some .coll => [match c.bits 0 46 3 with
        | 0 => execAllreduce c.id
        | 1 => execReduce c.id
        | 2 => execBcast c.id
        | 3 => execAllgather c.id
        | _ => execAlltoall c.id]
    | none => [])
  | .performed => [execCommandCompletion c.id]
  | .posted => [execCommandCompletion c.id]
  | .posting => [execBarrierPost c.id]
  | .complete => if s.canPlace c then [execResultElementPlace c.id] else []

/-- The moves that the engine may begin by its own choice: of any page of a function that lets it (14 R447; log 48, DESIGN CHOICE). -/
def State.ownMoves (s : State) : List Act :=
  ((List.range 32).filter fun i => (s.vfunOf i).migctl.getLsbD 0).flatMap fun i =>
    [execMigrationMove i (Config.movePage s.choice i) true, execMigrationMove i (Config.movePage s.choice i) false]

/-- The dispatcher's and the migration engine's steps that may come next. -/
def State.dispActs (s : State) : List Act :=
  (s.moves.map fun m => execMigrationCommit m.id) ++
    s.ownMoves ++
    ((s.cores.filter fun c => c.cr.lxgo == 1).map fun c => execLeafExchange c.id) ++
    (s.disp.gangs.flatMap fun g => ((g.capt.map Capture.want).getD []).map fun p => execCapturePreimage g.pk.launch p) ++
    ((s.disp.gangs.filter fun (g : Gang) => g.st == .chosen && !g.ended && Nat.blt g.since s.cycle).map fun g =>
      if g.saved.isEmpty then execGangIssue g.pk.launch else execGangResume g.pk.launch) ++
    ((s.disp.gangs.filter fun g => g.st == .stopping && !g.ended).map fun g => execPreemptionStop g.pk.launch) ++
    ((s.disp.gangs.filter fun g => g.pk.dual && g.ended).map fun g => execDualRunCompare g.pk.launch) ++
    (if (s.disp.queues.any fun q => !q.2.fifo.isEmpty) || (s.disp.gangs.any fun g => g.st == .stopped) ||
        (s.vales.any fun x => x.2.vfNext.isSome) then [execDispatchDecision] else []) ++
    (((List.range 32).filter fun i => (s.vfunOf i).dtctl.getLsbD 4).map execDirtyFlipSettle) ++
    (((List.range 32).filter fun i => (s.vfunOf i).nsx != 0).map fun i => execNamespaceExport i (s.vfunOf i).nsx) ++
    (((List.range 32).filter fun i => (s.vfunOf i).nsi != 0 && (s.vfunOf i).nsi != 0xFFFFFFFFFFFFFFFF).map fun i =>
      execNamespaceImport i (s.vfunOf i).nsi)

/-- The platform's steps that may come next. -/
def State.platActs (s : State) : List Act :=
  (if s.plat.ready || s.plat.rcv then [] else [execPowerGood]) ++ (if s.plat.mayChange then [execClkdivChange] else []) ++
    ((s.plat.coming.filter fun k => match k with
      | .hbmRow _ _ => true
      | _ => false).map execSpareIntoService) ++
    (if s.plat.mbx.go then [match s.plat.mbx.op with
      | 1 => execSpdmRequest
      | 2 => execImageChunk
      | 3 => execImageCommit
      | _ => execMailboxReset] else [])

/-- What may come about next, but for the inputs; the package may also end the cycle (log 6, DESIGN CHOICE; log 68, DESIGN
CHOICE). -/
def State.mayActs (s : State) : List Act :=
  if s.plat.power.isNone then []
  else match s.plat.hst with
    | 0 => s.cmds.flatMap (cmdAct s) ++ ((s.updates.filter fun w => vget (s.vale (CoreId.valeIdx w.core)).xrep 0 1 == 0).map fun w => performUpdate w.wid) ++ ((s.reads.filter s.mayRespond).map fun r => execLoadResponse r.id) ++
        (s.walks.map fun w => execTableWalk w.id) ++ s.dispActs ++ s.platActs
    | 1 => if s.plat.calm then [execHollowEntryComplete] else (s.toStop.map fun c => (fun t => .next (haltCore t c) : Act)) ++
        (if s.plat.mayChange then [execClkdivChange] else [])
    | 3 => [execWakeComplete]
    | _ => []

/-- An input that comes from outside: no instruction word, and nothing that an engine does by itself (log 6, DESIGN CHOICE).
-/
def isInput (i : Instr) : Bool :=
  (Instr.raw i).isNone && match i with
    | .engineRun _ => false
    | .operationLanding _ => false
    | .trapEntry => false
    | _ => true

/-- An input that waits stays where it is: a remote write to a page that moves (14 R450), a push whose completion record, which it may
come to at once, lies in one (14 R444). -/
def inputWaits (s : State) (i : Instr) : Bool :=
  match i with
  | .remoteAccess r => remoteWaits r s
  | .hostPush _ vf _ ws => s.pagesHeld (vf % 32) (packetOf ws).cmpl 64
  | _ => false

/-- The first input that may land, and the inputs without it (log 6, DESIGN CHOICE). -/
def takeInput (s : State) : List Instr → Option (Instr × List Instr)
  | [] => none
  | i :: is =>
    if isInput i && !inputWaits s i then some (i, is)
    else (takeInput s is).map fun r => (r.1, if isInput i then i :: r.2 else r.2)

/-! ## The end of a cycle -/

/-- What a core's cycle produced can be seen, and what it freed can be reserved (01 R26); slip is measured anew (R18; log 71, DEDUCED). -/
def commitCore (c : Core) : Core :=
  let r := c.r
  let x : Core := { c with
    r := { c.r with
      lq := r.lq.map Fifo.commit, mq := r.mq.map Fifo.commit, sq := r.sq.map Fifo.commit, saq := r.saq.commit
      iq := r.iq.map Fifo.commit, cond := r.cond.map Fifo.commit, tok := r.tok.map TokFifo.commit, f := r.f.map Flag.commit }
    xp := c.xp.map fun (p : XPort) =>
      { p with
        res := p.res.map fun (e : Result) => { e with fresh := false }
        sres := p.sres.map fun (e : Result) => { e with fresh := false } } }
  let live := [r.eC, r.eA, r.eM, r.eV, r.eS].filter Eng.live
  { x with still := c.frozen, slip := ⟨((live.map Eng.walked).min?).getD 0, c.cr.slipw⟩ }

/-- The rate of the global timer beside its own, in units of 2^−32 (20 R527). -/
def Plat.rate (p : Plat) : Int := if p.tmctl.getLsbD 0 then (p.tmadj.extractLsb' 0 32).toInt else p.slew

/-- The global timer after a cycle: 20 / 17 ns times the divider, slewed (20 R526; 21 R534). -/
def State.runTimer (s : State) : State :=
  let n := s.plat.part + (20 * s.plat.div * (2 ^ 32 + s.plat.rate)).toNat
  { s with timer := (s.timer + n / (17 * 2 ^ 32)) % 2 ^ 64 }.modPlat fun p => { p with part := n % (17 * 2 ^ 32) }

/-- An engine of a core takes part in this cycle. -/
def Core.engineRuns (c : Core) (e : Engine) : Bool := c.st == .running && !c.frozen && !(c.eng e).halted && (e == .c || !c.cr.shd)

/-- An engine reads a unit with an error in a store within its core, or in a unit that serves it: an uncorrectable one is its cause 0x3E, a
correctable one is corrected (22 R562 to R564; log 18, DESIGN CHOICE). -/
def State.innerFlaw (s : State) (core engine : Nat) (fatal : Bool) : State :=
  let u := 10 * 2 ^ 45 + core % 1024 * 8 + engine % 5
  match s.cores.find? fun c => coreNum c.id == core % 1024, engOfNum (engine % 5) with
  | some c, some e =>
    if !c.engineRuns e then s
    else if fatal then s.onCore c.id fun t => raise e (errorCause t e u) t
    else s.corrected u
  | _, _ => s

/-- An error arises (log 18, DESIGN CHOICE). A unit of the near tier, the expanders or a scratchpad may get one, a unit of an instruction
or pager store an uncorrectable one; a correctable one there is met by a fetch at once. -/
def State.addFlaw (s : State) (f : Config.Flaw) : State :=
  match f with
  | .inner core engine fatal => s.innerFlaw core engine fatal
  | .cell u fatal =>
    if 4 * 2 ^ 45 ≤ u && !(9 * 2 ^ 45 ≤ u && u < 9 * 2 ^ 45 + 2 ^ 25) then s
    else if 4 * 2 ^ 45 ≤ u && !fatal then s.corrected u
    else if fatal then { s with bad := if s.bad.contains u then s.bad else s.bad ++ [u] }
    else { s with soft := if s.soft.contains u || s.bad.contains u then s.soft else s.soft ++ [u] }
  | f => { s with flaws := s.flaws ++ [f] }

/-- The windows of 2^20 cycles over which replays are counted end, but one whose event is still to come (21 R537). -/
def Plat.endWindow (p : Plat) (cycle : Nat) : Plat :=
  { p with straths := p.straths.map fun (x : Strath) =>
      if x.since + 2 ^ 20 ≤ cycle && !x.failing cycle then x.fresh cycle else x }

/-- The first core by number has the next turn. -/
def State.firstTurn (s : State) : State :=
  match s.cores.foldr insertCore [] with
  | c :: cs => { s with core := c, done := [], todo := cs, turn := .eng .c }
  | [] => { s with turn := .eng .c }

/-- The arrays and the books at the end of a cycle; the copies of HBM rows work, and once the cores have stopped for the hollow state the
arrays rest. -/
def State.endArrays (s : State) : State :=
  let vs := s.liveVales
  let on := s.plat.hst == 0 || (s.plat.hst == 1 && !s.plat.calm)
  let s := s.plat.rows.foldl (fun t r => t.groupWork r.1) s
  let s1 := (if on then vs.foldl State.beginCount s else s).bookCycle
  let s2 := vs.foldl State.runReplays (vs.foldl State.fetchCycle s1).splitCmds
  vs.foldl (fun t v => if on then t.endCount v else t.modVale v Vale.turnOver) s2

/-- The end of a cycle of the arithmetic clock. -/
def State.endCycle (s : State) : State :=
  let s1 := s.endArrays.ctlCommit.mapCores commitCore
  let s2 := s1.deliver.runTimer
  let s3 := (Config.flaw s.choice).foldl State.addFlaw { s2 with cycle := s2.cycle + 1 }
  (s3.modPlat fun p => p.endDiv.endWindow s3.cycle).tick.firstTurn

/-- Nothing more comes about in this cycle: without power the package waits, in the hollow state only the timer runs (log 3, DESIGN CHOICE). -/
def State.close (s : State) : State :=
  if s.plat.power.isNone then s.tick else if s.plat.hst == 2 then s.runTimer.tick else s.endCycle

/-! ## The package's turn -/

/-- What the package does next: an input lands, or an act of its own. -/
inductive Next where
  | input (i : Instr) (s : State)
  | act (o : Host.Outcome State Fault Refusal)

/-- What is due comes first; else what may come next is chosen freely (log 6, DESIGN CHOICE; log 3, DESIGN CHOICE; log 75, DEDUCED). -/
def State.next (s : State) : Next :=
  match s.due with
  | some f => .act (f s)
  | none =>
    let acts := s.mayActs
    let inp := takeInput s s.inputs
    let n := acts.length + (if inp.isSome then 1 else 0)
    let k := Config.eventPick s.choice % (n + 1)
    let t := s.tick
    match acts[k]?, inp with
    | some f, _ => .act (f t)
    | none, some (i, rest) => if k == acts.length then .input i { t with inputs := rest } else .act (.next t.close)
    | none, none => .act (.next t.close)

end Sys2Proof.Machine
end

