-- ==== Sys2Proof/Machine/Turn.lean ====
section
/-! DEFINITION. One turn: an engine's, with the instruction at which its run ends, or the package's (01 R13; 13 R402; log 3, DESIGN CHOICE). -/

namespace Sys2Proof.Machine

open Sys2Proof

/-- C stands at a boundary and a cause is pending (13 R402). The word that C reaches in this cycle does not issue; a cause
of its own that it would raise is pending with the others (log 32, DEDUCED). -/
def boundary (s : State) : Host.Outcome State Fault Refusal :=
  match s.head .c with
  | some (.trap _ _ _, _) => execTrapEntry s
  | some (i, t) =>
    match exec i t with
    | .next u => if u.core.cr.shd then .next u else execTrapEntry s
    | _ => execTrapEntry s
  | none =>
    if !s.forms .c then execTrapEntry s
    else match s.walk .c with
      | (.bad d, t) => .next (stopIllegal .c d t)
      | (.fail u, t) => stopFetch .c u t
      | _ => execTrapEntry s

/-- What comes about in an engine's cycle: a trap entry of C, the instruction at which its run ends, or its run alone. -/
def engineTurn (e : Engine) (s : State) : Host.Outcome State Fault Refusal :=
  if e == .c && s.trapDue then boundary s
  else match s.head e with
    | some (i, t) => exec i t
    | none => execEngineRun e s

/-- An engine's turn, and what follows it (log 3, DESIGN CHOICE). -/
def turnOf (e : Engine) (s : State) : Host.Outcome State Fault Refusal :=
  match engineTurn e s with
  | .next t => .next (afterTurn e s t)
  | o => o

/-- The package's turn. -/
def packageTurn (s : State) : Host.Outcome State Fault Refusal :=
  match s.next with
  | .input i t => exec i t
  | .act o => o

/-- The engine that a first word names; C reads a word of a reserved tag (05 R142, R153; log 26, DESIGN CHOICE). -/
def fetchEngine (w : IWord) : Engine := (Engine.ofTag (w.extractLsb' 25 3)).getD .c

/-- An engine as it is launched, at word 0 (log 26, DESIGN CHOICE). -/
def Eng.fetching (x : Eng) : Eng :=
  { x with
    pc := 0, walked := 0, levels := [], live := true, halted := false, wait := .none, stall := none, replay := 0, redo := false, back := none }

/-- The core in focus runs a text of some words, its engine e at word 0, and this engine's turn is next (log 26, DESIGN CHOICE). -/
def State.loadText (s : State) (e : Engine) (ws : List IWord) : State :=
  let c := s.core
  let r := { c.r with occ := none, lease := { c.r.lease with cut := false } }
  let k : Core := { c with
    st := .running, frozen := false, text := ws, r := r, cwait := .none, slip := ⟨0, c.slip.win⟩
    cr := { c.cr with shd := false, pending := [] } }
  { s with core := k.modEng e Eng.fetching, turn := .eng e }

end Sys2Proof.Machine
end

