-- ==== Sys2Proof/Machine/Step.lean ====
section
/-! DEFINITION. One step: the turn of an engine of the core in focus, or one thing that the package does (log 3, DESIGN CHOICE). -/

namespace Sys2Proof.Machine

open Sys2Proof

/-- One step (log 3, DESIGN CHOICE). -/
def step (s : State) : Host.Outcome State Fault Refusal :=
  match s.turn with
  | .eng e => turnOf e s
  | .pkg => packageTurn s

/-- s with the instruction of some bits of spec/opcode_table.json at word 0 of the text of the core in focus, where its
engine fetches next (log 26, DESIGN CHOICE): the core runs, the engine stands at word 0, and its turn is next. -/
def State.withFetchWord (s : State) (nbits w : Nat) : State :=
  let bits := if nbits < 64 then w % 2 ^ nbits else w
  let a := BitVec.ofNat 32 bits
  s.loadText (fetchEngine a) [a, BitVec.ofNat 32 (bits / 2 ^ 32)]

end Sys2Proof.Machine
end

