-- ==== Sys2Proof/Safety.lean ====
section
/-! DEFINITION. What a safe state is, in the terms that the claims use. -/

namespace Sys2Proof.Machine

open Sys2Proof

/-- Every memory that the package holds is in its canonical form: physical storage, the staging image, the mailbox. -/
def State.memOk (s : State) : Bool := Memory.wf s.mem && Memory.wf s.plat.staging && Memory.wf s.plat.mbx.buf

/-- An engine has at most four active loop levels (01 R12, R32). -/
def Eng.levelsOk (x : Eng) : Bool := x.levels.length ≤ 4

/-- The loop levels of a core, its shadow context's among them. -/
def Core.levelsOk (c : Core) : Bool :=
  c.r.eC.levelsOk && c.r.eA.levelsOk && c.r.eM.levelsOk && c.r.eV.levelsOk && c.r.eS.levelsOk && c.cr.sh.levelsOk

/-- A flag holds 0 to 255, additions of this cycle included (01 R27). -/
def Flag.ok (f : Flag) : Bool := f.val + f.sub + f.inc ≤ 255

/-- The flags of a core. -/
def Core.flagsOk (c : Core) : Bool := c.r.f.toList.all Flag.ok

/-- A run that goes wrong: a step that ends in a fault or a refusal. -/
def goesOn (s : State) : Bool :=
  match step s with
  | .next _ => true
  | _ => false

/-! ## The words of the statements -/

/-- Nothing holds back an instruction of engine e, of n words and marks m (01 R13, R18, R23, R24, R38), and u is the state
in which it acts: what its engine has in flight has come one cycle nearer, its waits have popped, its signals have their
entries. -/
structure Admits (e : Engine) (n : Nat) (m : Marks) (s u : State) : Prop where
  bars   : shadowBars e m s = false
  gate   : gate e n s = .ok ()
  enters : (popWaits e (waitList e m) (s.settle e)).bind (reserveSignals (signalList e m)) = .ok u

/-- The state in which an instruction that acted to give u has issued: its signals go out with its result, after lat
advancing cycles, and its engine walks on over n words, and skip more that it passes over, or to a target. -/
def finish (e : Engine) (n : Nat) (m : Marks) (lat : Nat) (u : State) (skip : Nat := 0) (jump : Option Nat := none) : State :=
  retire e n skip jump (deliverSignals e (signalList e m) { st := u, lat := lat })

/-- The state in which a load of e has issued: its signals go out with the response of read k (01 R24). -/
def finishLoad (e : Engine) (n : Nat) (m : Marks) (k : Nat) (u : State) : State :=
  retire e n 0 none (deliverSignals e (signalList e m) { st := u, resp := some k })

/-- An engine's own instruction i of n words stands at its program counter, decoded, and slip admits its words. -/
structure StandsAt (e : Engine) (i : Instr) (s : State) : Prop where
  forms : s.forms e = true
  own   : ownWordOf e (s.wordAt e (s.pcOf e)) = true
  reads : decode (s.wordAt e (s.pcOf e)) (s.wordAt e (s.pcOf e + 1)) = .ok i
  small : (e == .c && s.inShadow && 16 ≤ topReg i) = false
  stays : staysIn (s.lastWord e) (s.pcOf e) i = true
  sound : s.badFetch e (s.pcOf e) (wordLen (s.wordAt e (s.pcOf e))) = none
  inside : s.pcOf e + wordLen (s.wordAt e (s.pcOf e)) ≤ s.lastWord e + 1
  goes  : walksOn i = true → s.pcOf e + wordLen (s.wordAt e (s.pcOf e)) ≤ s.lastWord e
  slip  : ∀ j, j < wordLen (s.wordAt e (s.pcOf e)) → s.slipAllows e j = true

/-- The answer of a step or an instruction is a next state, and it has a property. -/
def NextIs (o : Host.Outcome State Fault Refusal) (p : State → Prop) : Prop := ∃ t, o = .next t ∧ p t

/-- What C has done when an instruction has brought it value x for sD with a response (06 R190): it waits for the read that
carries the value. -/
def replied (d : Fin 32) (x : Word) (u : State) : State := (u.awaitReg .c (u.cLand d x) []).1

/-- C issues an instruction whose answer x comes with its response. -/
def finishReply (n : Nat) (m : Marks) (d : Fin 32) (x : Word) (u : State) : State := finishLoad .c n m u.nextId (replied d x u)

end Sys2Proof.Machine
end

