-- ==== Sys2Proof/Certificates/Slice0/Obligations.lean ====
section
/-! DEFINITION. The statements for the provers. Each docstring cites the rules of spec/ that its statement formalises. -/

section Statements

open Sys2Proof Sys2Proof.Machine

/-! ## Encoding (05_encoding) -/

/-- Words that the spec works to the bit read as the instructions that they stand for: those of "Encodings worked to the bit"
(05, after R187), of 06 R207 and of R210, NOP.c of 05 R144, and STQ of sq0, written out from R142, R163 and R181. -/
def Obligations.WrittenWordsDecode : Prop :=
  decode 0x00000000 0 = .ok (.nop .none .c) ∧
    decode 0x01A07000 0x00123456 = .ok (.li .none 7 (.long 0x123456)) ∧
    decode 0x01A47000 0x009ABCDE = .ok (.lih .none 7 (.long 0x9ABCDE)) ∧
    decode 0x01A800C4 0x0002FFFA = .ok (.beq .none 3 4 true false 0xFFFA) ∧
    decode 0x81405180 0x10FFFFFD = .ok (.add ⟨true, false, false, true⟩ 5 6 (.imm 0xFFFFFD)) ∧
    decode 0x00740000 0 = .ok (.srl .none 0 0 (.reg 0)) ∧
    decode 0x02400000 0 = .ok (.aadd .none 0 (.a 0) (.src (.a 0))) ∧
    decode 0x94403070 0 = .ok (.vadd ⟨true, false, false, true⟩ (.v 3) (.v 1) (.lq 0) none) ∧
    decode 0x05487209 0x04054000 = .ok (.vmul .none (.v 7) (.v 8) (.v 9) (some ⟨0, false, true, 2, .bf16⟩)) ∧
    decode 0x06400000 0 = .ok (.mlease .none) ∧
    decode 0x081C0107 0 = .ok (.mark .none .s 7 true) ∧
    decode 0x0840020A 0 = .ok (.stq .none 0) ∧
    decode 0x0A000000 0 = .error 1 ∧ decode 0x0C400000 0 = .error 1 ∧
    decode 0x01405180 0x0AFFFFFD = .error 2 ∧ decode 0x03400000 0 = .error 2 ∧ decode 0x0037C000 0 = .error 3

/-- 05 R142 to R187: for every well-formed instruction that has words, decoding its words gives it back, with every
operand at every value that its encoding admits. -/
def Obligations.DecodeInvertsEncode : Prop :=
  ∀ i : Instr, i.wf = true → encode i ≠ [] → decodeWords (encode i) = .ok i

namespace Sys2Proof.Machine

/-- The opcodes that an engine's table reserves (05 R168, R171, R176 to R182), by its tag in ENG. -/
def reservedOp (g k : Nat) : Bool :=
  (0x0C < k && k < 0x10) || (g == 1 && 0x24 < k) || (g == 2 && 0x3B < k) || (g == 3 && 0x1F < k) || (g == 4 && 0x14 < k)

/-- The sub-operations that the groups of C reserve. -/
def reservedSub (g k b : Nat) : Bool :=
  g == 0 && ((k == 0x3B && 8 < b) || (k == 0x3C && 9 < b) || (k == 0x3E && 3 < b) || (k == 0x3F && 11 < b))

/-- The opcodes of class none, which take no extension word. -/
def noneOp (g k : Nat) : Bool :=
  (k ≤ 0x0C && k != 2) || (g == 0 && (k == 0x31 || (0x34 ≤ k && k ≤ 0x3A) || k == 0x3D)) ||
    (g == 1 && (k == 0x18 || k == 0x1F || k == 0x20)) || (g == 3 && (k == 0x10 || k == 0x11 || k == 0x1F)) ||
    (g == 4 && (k == 0x10 || k == 0x11 || k == 0x13))

/-- The opcodes of class req, which have one always. -/
def reqOp (g k : Nat) : Bool :=
  (g == 0 && 0x2A ≤ k && k ≤ 0x30) || (g == 1 && (k == 0x1E || (0x22 ≤ k && k ≤ 0x24))) || (g == 2 && (k == 0x35 || k == 0x36))

/-- The extension word of a pair has the first word's tag, and neither has a bit that a pair does not admit (05 R149). -/
def goodPair (w w2 : IWord) : Prop :=
  w2.extractLsb' 25 3 = w.extractLsb' 25 3 ∧ w2.getLsbD 24 = false ∧ w.getLsbD 29 = false ∧ w.getLsbD 28 = false ∧
    w2.getLsbD 31 = false ∧ w2.getLsbD 30 = false

end Sys2Proof.Machine

/-- 05 R151: a word that decodes is the one word of its instruction: encoding what was read gives back the words read, so
no bit of them was dropped, and what was read is well formed. 05 R149, R152, details 1 to 3, in their order: a reserved ENG; a malformed pair,
X = 1 on an opcode of class none, X = 0 on one of class req; every reserved opcode, and every reserved sub-operation of a group. -/
def Obligations.DecodedWordsAreCanonical : Prop :=
  (∀ (w w2 : IWord) (i : Instr), decode w w2 = .ok i →
    i.wf = true ∧ encode i = if w.getLsbD 24 then [w, w2] else [w]) ∧
  ∀ w w2 : IWord,
    (5 ≤ (w.extractLsb' 25 3).toNat → decode w w2 = .error 1) ∧
      ((w.extractLsb' 25 3).toNat < 5 →
        let g := (w.extractLsb' 25 3).toNat
        let k := (w.extractLsb' 18 6).toNat
        (w.getLsbD 24 = true → (¬ goodPair w w2 ∨ noneOp g k = true) → decode w w2 = .error 2) ∧
        (w.getLsbD 24 = false → reqOp g k = true → decode w w2 = .error 2) ∧
        ((w.getLsbD 24 = false ∧ reqOp g k = false ∨ w.getLsbD 24 = true ∧ goodPair w w2 ∧ noneOp g k = false) →
          (reservedOp g k = true ∨ reservedSub g k (w.extractLsb' 0 6).toNat = true) → decode w w2 = .error 3))

/-! ## The step and the issue of an instruction (01_machine R13 to R26) -/

/-- 01 R13: where an engine whose turn it is stands at an own word that decodes to i and may form its run, the step runs
exactly i at that state, and then what follows a turn. For C no pending cause waits to be taken.
Model’s choices in it: log 3. -/
def Obligations.StepRunsTheDecodedInstruction : Prop :=
  ∀ (e : Engine) (i : Instr) (s : State), s.turn = .eng e → (e == .c && s.trapDue) = false → StandsAt e i s →
    step s = match exec i s with
      | .next t => .next (afterTurn e s t)
      | o => o

/-- 01 R13, R18, R23, R24, R38: when an instruction may issue. 01 R22 to R24: an issue pops one token from each FIFO that it waits on and reserves one entry in each that it
signals; every other FIFO stays as it was. 01 R13, R25: an instruction that a wait, a signal or a gate holds back pops nothing, reserves nothing and moves
nothing: only its WAIT code changes (an engine that has arrived at its BREATH keeps it), and the words passed in this cycle are given back. Stated of the instructions with a C
register result, of NOP and of FSET and FWAIT.
Model’s choices in it: log 31, 33, 37. -/
def Obligations.IssueConditions : Prop :=
  ((∀ (e : Engine) (n : Nat) (m : Marks) (s : State),
    (∃ u, Admits e n m s u) ↔
      (¬ (e = .c ∧ s.inShadow = true ∧ m ≠ .none) ∧ s.core.st = .running ∧ s.core.frozen = false ∧
        (s.eng e).halted = false ∧ (s.inShadow = true ∨ ∀ c ∈ s.core.cr.pending, c.unit ≠ engNum e) ∧
        (e = .c ∨ s.inShadow = false) ∧ (s.eng e).stall = none ∧ (s.eng e).replay = 0 ∧
        (e = .m → s.core.r.occ = none ∧ (s.core.r.lease.cut = true → s.core.r.lease.held = true)) ∧
        (s.inShadow = true ∨ (s.eng e).walked + n - 1 < s.core.slip.minWalked + s.core.slip.win) ∧
        (∀ f ∈ waitList e m, ∃ t ts, (s.settle e).core.r.tok[f].toks = t :: ts ∧ t.fresh = false) ∧
        ∀ f ∈ signalList e m, (s.settle e).core.r.tok[f].hasRoom = true)) ∧
  ∀ (e : Engine) (n : Nat) (m : Marks) (s u : State), Admits e n m s u → ∀ f : Fin 10,
    u.core.r.tok[f].toks = (if f ∈ waitList e m then (s.settle e).core.r.tok[f].toks.tail
      else (s.settle e).core.r.tok[f].toks) ∧
    u.core.r.tok[f].resv = (s.settle e).core.r.tok[f].resv + (if f ∈ signalList e m then 1 else 0)) ∧
  ∀ (i : Instr) (e : Engine) (n : Nat) (m : Marks) (s : State) (w : Wait),
    ((∃ d a b, i = .add m d a b ∧ e = .c ∧ n = csrcWords b) ∨ (∃ d a b, i = .mul m d a b ∧ e = .c ∧ n = csrcWords b) ∨
      (i = .nop m e ∧ n = 1) ∨ ∃ f k, i = .fset m e f k ∧ n = 1 ∧ s.inShadow = false) →
    shadowBars e m s = false →
    (gate e n s = .error (.stall w) ∨
      gate e n s = .ok () ∧
        (popWaits e (waitList e m) (s.settle e)).bind (reserveSignals (signalList e m)) = .error (.stall w)) →
    NextIs (exec i s) fun t =>
      t = s.modEng e fun x => match x.back with
        | none => { x with wait := if x.wait = .breath then .breath else w }
        | some (pc, walked, levels) => { x with pc := pc, walked := walked, levels := levels, wait := w, back := none }

/-- 01 R15, R195, R196, R33: where an engine stands after an issue. Without a transfer its walked count has grown by the
words, and at the end of the innermost body it is at the body's start again while iterations remain; a transfer puts it at
the target, where only the levels whose bodies hold the target, outermost first, stay active. 01 R39: an operation of latency L, 1 < L, lands at the L-th advancing cycle of its engine: until then its register keeps
its value, and in that cycle it takes the result. Said of a C register while nothing else is in flight.
Model’s choices in it: log 28, 29. -/
def Obligations.IssueMovesTheEngine : Prop :=
  (∀ (e : Engine) (n : Nat) (m : Marks) (u : State),
    (u.core.cr.trctl.getLsbD 0 = false) → m.sp = false → m.sn = false →
    let t := (finish e n m 1 u).eng e
    let x := u.eng e
    t.walked = x.walked + n ∧ t.wait = .none ∧
      (x.levels = [] → t.pc = x.pc + n ∧ t.levels = []) ∧
      (∀ ls l, x.levels = ls ++ [l] → l.stop ≠ x.pc + n → t.pc = x.pc + n ∧ t.levels = x.levels) ∧
      (∀ ls l, x.levels = ls ++ [l] → l.stop = x.pc + n → l.index + 1 < l.count →
        t.pc = l.start ∧ t.levels = ls ++ [{ l with index := l.index + 1 }]) ∧
      (∀ l, x.levels = [l] → l.stop = x.pc + n → l.count ≤ l.index + 1 → t.pc = x.pc + n ∧ t.levels = []) ∧
      ∀ target, ((finish e n m 1 u 0 (some target)).eng e).pc = target ∧
        ((finish e n m 1 u 0 (some target)).eng e).levels =
          x.levels.takeWhile fun l => l.start ≤ target && target < l.stop) ∧
  ∀ (s : State) (lat : Nat) (r : Fin 32) (x : Word), s.inShadow = false → 1 < lat → (s.eng .c).pend = [] →
    (s.eng .c).mkq = [] →
    let at_ := fun k => (fun t : State => t.settle .c)^[k] (s.putC lat r x)
    (∀ k, k < lat - 1 → (at_ k).sReg r = s.sReg r) ∧ (at_ (lat - 1)).sReg r = x

/-! ## The integer operations of C (06_control_access R204 to R207) -/

namespace Sys2Proof.Machine

/-- The operations ADD to ADDQ (06 R204). -/
inductive IntOp where
  | add | sub | mul | mulh | mulhu | div | divu | rem | remu | and | or | xor | sll | srl | sra | min | max | minu | maxu
  | slt | sltu | seq | sel | addq
  deriving DecidableEq, Repr

def IntOp.instr (m : Marks) (d a : Fin 32) (b : CSrc) : IntOp → Instr
  | .add => .add m d a b
  | .sub => .sub m d a b
  | .mul => .mul m d a b
  | .mulh => .mulh m d a b
  | .mulhu => .mulhu m d a b
  | .div => .div m d a b
  | .divu => .divu m d a b
  | .rem => .rem m d a b
  | .remu => .remu m d a b
  | .and => .and m d a b
  | .or => .or m d a b
  | .xor => .xor m d a b
  | .sll => .sll m d a b
  | .srl => .srl m d a b
  | .sra => .sra m d a b
  | .min => .min m d a b
  | .max => .max m d a b
  | .minu => .minu m d a b
  | .maxu => .maxu m d a b
  | .slt => .slt m d a b
  | .sltu => .sltu m d a b
  | .seq => .seq m d a b
  | .sel => .sel m d a b
  | .addq => .addq m d a b

/-- The column L of R204. -/
def IntOp.latency : IntOp → Nat
  | .mul => 3
  | .mulh => 3
  | .mulhu => 3
  | .div => 12
  | .divu => 12
  | .rem => 12
  | .remu => 12
  | _ => 1

/-- The column res of R204, with the division cases of R205: a and b the source values, d the prior value of sD. -/
def IntOp.res (a b d : Word) : IntOp → Word
  | .add => BitVec.ofNat 64 (a.toNat + b.toNat)
  | .sub => BitVec.ofInt 64 (a.toInt - b.toInt)
  | .mul => BitVec.ofNat 64 (a.toNat * b.toNat)
  | .mulh => (a.signExtend 128 * b.signExtend 128).extractLsb' 64 64
  | .mulhu => (a.setWidth 128 * b.setWidth 128).extractLsb' 64 64
  | .div => if b = 0 then BitVec.allOnes 64 else a.sdiv b
  | .divu => if b = 0 then BitVec.allOnes 64 else a.udiv b
  | .rem => if b = 0 then a else a.srem b
  | .remu => if b = 0 then a else a.umod b
  | .and => a &&& b
  | .or => a ||| b
  | .xor => a ^^^ b
  | .sll => BitVec.ofNat 64 (a.toNat * 2 ^ (b.extractLsb' 0 6).toNat)
  | .srl => BitVec.ofNat 64 (a.toNat / 2 ^ (b.extractLsb' 0 6).toNat)
  | .sra => BitVec.ofInt 64 (a.toInt / 2 ^ (b.extractLsb' 0 6).toNat)
  | .min => if a.toInt ≤ b.toInt then a else b
  | .max => if a.toInt ≤ b.toInt then b else a
  | .minu => if a.toNat ≤ b.toNat then a else b
  | .maxu => if a.toNat ≤ b.toNat then b else a
  | .slt => if a.toInt < b.toInt then 1 else 0
  | .sltu => if a.toNat < b.toNat then 1 else 0
  | .seq => if a = b then 1 else 0
  | .sel => if d = 0 then b else a
  | .addq => BitVec.ofInt 64 (Max.max (-(2 ^ 63)) (Min.min (2 ^ 63 - 1) (a.toInt + b.toInt)))

end Sys2Proof.Machine

/-- 06 R204, R205: each integer operation, with either form of its second source, assigns its res to sD (h0 to h15 in the
shadow context) with its latency; division never traps. 06 R207: LI writes the sign-extended immediate; LIH shifts sD left by the immediate's width and puts it in. -/
def Obligations.IntegerOperationsAssignTheirResult : Prop :=
  (∀ (op : IntOp) (m : Marks) (d a : Fin 32) (b : CSrc) (s u : State), Admits .c (csrcWords b) m s u →
    exec (op.instr m d a b) s =
      .next (finish .c (csrcWords b) m op.latency (u.putC op.latency d (op.res (u.sReg a) (u.cSrc b) (u.sReg d))))) ∧
  ∀ (m : Marks) (d : Fin 32) (s u : State),
    (∀ i : BitVec 12, Admits .c 1 m s u →
      exec (.li m d (.short i)) s = .next (finish .c 1 m 1 (u.putC 1 d (BitVec.ofInt 64 i.toInt))) ∧
        exec (.lih m d (.short i)) s =
          .next (finish .c 1 m 1 (u.putC 1 d (BitVec.ofNat 64 ((u.sReg d).toNat * 2 ^ 12 + i.toNat))))) ∧
      ∀ i : BitVec 24, Admits .c 2 m s u →
        exec (.li m d (.long i)) s = .next (finish .c 2 m 1 (u.putC 1 d (BitVec.ofInt 64 i.toInt))) ∧
          exec (.lih m d (.long i)) s =
            .next (finish .c 2 m 1 (u.putC 1 d (BitVec.ofNat 64 ((u.sReg d).toNat * 2 ^ 24 + i.toNat))))

/-! ## The common block (06_control_access R193 to R203; 01_machine R27 to R46, R55) -/

namespace Sys2Proof.Machine

/-- The cut markers that a taken branch of e with cut = 1 pushes, one into each data queue that e produces (01 R34). -/
def withCuts (e : Engine) (cut : Bool) (u : State) : State :=
  if cut then u.modR fun r => (cutQueues e).foldl (fun r q => r.qCut q) r else u

/-- Each of those queues has a free entry. -/
def CutRoom (e : Engine) (cut : Bool) (u : State) : Prop := cut = true → ∀ q ∈ cutQueues e, u.core.r.qRoom q 1 = true

/-- The 64-bit value in the even and odd lanes of a v register, as RECV writes it (06 R202). -/
def recvValue (x : Word) (j : Nat) : BitVec 32 := if j % 2 = 0 then x.extractLsb' 0 32 else x.extractLsb' 32 32

end Sys2Proof.Machine

/-- 06 R193: NOP has no effect beyond its issue. 06 R194, R195: LOOP and LOOPI open the lowest inactive level over their body; a count of 0 passes over it unwalked;
with four levels active and a count that is not 0, the loop-depth trap is raised. -/
def Obligations.NopOnlyIssues : Prop :=
  (∀ (m : Marks) (e : Engine) (s u : State), Admits e 1 m s u → exec (.nop m e) s = .next (finish e 1 m 1 u)) ∧
  ∀ (m : Marks) (s u : State) (len : BitVec 12),
    (∀ r : LoopReg, Admits r.engine 1 m s u →
      let count := ((u.loopReg r).extractLsb' 0 32).toNat
      (count = 0 → exec (.loop m r len) s = .next (finish r.engine 1 m 1 u len.toNat)) ∧
      (count ≠ 0 → (u.eng r.engine).levels.length < 4 → exec (.loop m r len) s =
        .next (finish r.engine 1 m 1 (u.modEng r.engine fun x =>
          { x with levels := x.levels ++ [⟨x.pc + 1, x.pc + 1 + len.toNat, count, 0⟩] }))) ∧
      (count ≠ 0 → 4 ≤ (u.eng r.engine).levels.length →
        exec (.loop m r len) s = .next (raise r.engine (causeAt u r.engine 0x04 0) s))) ∧
    (∀ (e : Engine) (c : LoopCnt), Admits e (loopiWords c) m s u →
      let n := loopiWords c
      let count := loopiCount c
      (count = 0 → exec (.loopi m e c len) s = .next (finish e n m 1 u len.toNat)) ∧
      (count ≠ 0 → (u.eng e).levels.length < 4 → exec (.loopi m e c len) s =
        .next (finish e n m 1 (u.modEng e fun x =>
          { x with levels := x.levels ++ [⟨x.pc + n, x.pc + n + len.toNat, count, 0⟩] }))) ∧
      (count ≠ 0 → 4 ≤ (u.eng e).levels.length →
        exec (.loopi m e c len) s = .next (raise e (causeAt u e 0x04 0) s)))

/-- 01 R27, R28; 06 R198: FSET adds where fN + n stays at most 255, the addition counting from the next cycle and releasing
the engine's visible set; FWAIT subtracts where fN is at least n, whatever this cycle adds, and acquires what was released. 04 R131: while a remote write
of the engine is not performed, the addition waits for it, and its place in the flag is kept. 01 R26, R27: at the end of the cycle a flag holds what was added to it, and its additions and subtractions count anew.
Model’s choices in it: log 34, 77. -/
def Obligations.FlagsCount : Prop :=
  (∀ (m : Marks) (e : Engine) (f : Fin 16) (n : BitVec 8) (s u : State), Admits e 1 m s u →
    (e == .c && s.inShadow) = false →
    let x := u.core.r.f[f]
    let put := fun (y : Flag) => u.modR fun r => { r with f := r.f.set f y }
    let far := u.unacked e
    (x.val + x.sub + x.inc + u.core.flagHeld f + n.toNat ≤ 255 →
      (far = [] → exec (.fset m e f n) s =
        .next (finish e 1 m 1 (put { x with inc := x.inc + n.toNat, incView := x.incView ||| (u.eng e).view }))) ∧
      (far ≠ [] → exec (.fset m e f n) s =
        .next (finish e 1 m 1 (u.modEng e fun y => { y with mkq := y.mkq ++ [⟨none, 0, [], far, [], [(f, n.toNat)]⟩] })))) ∧
    (255 < x.val + x.sub + x.inc + u.core.flagHeld f + n.toNat →
      exec (.fset m e f n) s = .next (stalled e (.flagRoom f) s)) ∧
    (n.toNat ≤ x.val → exec (.fwait m e f n) s =
      .next (finish e 1 m 1 ((put { x with val := x.val - n.toNat, sub := x.sub + n.toNat }).modEng e fun y =>
        { y with view := y.view ||| x.view }))) ∧
    (x.val < n.toNat → exec (.fwait m e f n) s = .next (stalled e (.flag f) s))) ∧
  ∀ (f : Flag) (n : Nat) (v : View), (f.add n v).val = f.val ∧ (f.add n v).commit.val = f.val + f.inc + n ∧
    (f.add n v).commit.inc = 0 ∧ (f.add n v).commit.sub = 0

/-- 01 R43 to R45; 06 R199: MARK without notify issues and waits for what is in flight; a notify MARK and a HALT issue once
nothing of their engine is in flight, and halt it, the one with its mark retired and notified, the other without. 06 R199, 01 R43: a MARK that issues with nothing of its engine in flight retires at once: the engine's set holds it. 01 R55; 06 R200: BREATH waits at its word, its tokens popped once, until BREATH_SWITCH moves the core on.
Model’s choices in it: log 33, 77. -/
def Obligations.MarksAndHalts : Prop :=
  ((∀ (m : Marks) (e : Engine) (n : BitVec 8) (s u : State), Admits e 1 m s u → (e == .c && s.inShadow) = false →
    exec (.mark m e n false) s = .next (retire e 1 0 none (plainMark e n (signalList e m) u)) ∧
    (u.drained e = true →
      exec (.mark m e n true) s = .next (finish e 1 m 1 (u.modEng e fun x =>
        { x with marks := x.marks ||| (1#256 <<< n.toNat), halted := true, live := false, notified := true })) ∧
      exec (.halt m e) s = .next (finish e 1 m 1 (u.modEng e fun x =>
        { x with halted := true, live := false, notified := false }))) ∧
    (u.drained e = false → exec (.mark m e n true) s = .next (joined e .none s) ∧ exec (.halt m e) s = .next (joined e .none s))) ∧
  ∀ (e : Engine) (n : BitVec 8) (u : State), u.drained e = true →
    ((plainMark e n [] u).eng e).marks = (u.eng e).marks ||| (1#256 <<< n.toNat) ∧ ((plainMark e n [] u).eng e).mkq = []) ∧
  ∀ (m : Marks) (e : Engine) (k : BitVec 5) (s u : State), (e == .c && s.inShadow) = false → Admits e 1 m s u →
    ((s.eng e).wait ≠ .breath →
      exec (.breath m e k) s = .next (u.modEng e fun x => { x with wait := .breath, back := none })) ∧
    ((s.eng e).wait = .breath → exec (.breath m e k) s = .next (joined e .breath s))

/-- 01 R35, R36: what a pop does to a queue: it passes the cut markers at the head and takes the first entry; with nothing
but markers it waits. QCLR's discard ends with the first marker. Said of queues in which nothing came in this cycle. 06 R201 to R203: QCLR discards from its queue; RECV pops the iq of its engine into its register, LCRD writes the
iteration index of a level, 0 for an inactive one. 06 R215, R216: CBC pushes whether sA is not 0 into the condition FIFO of every engine of the set, SENDV the value of sA
into its iq, where each of them has a free entry; where one has none, C waits. -/
def Obligations.PopsPassCutMarkers : Prop :=
  ((∀ (cuts : List (Slot Block)) (x : Slot Block) (rest : List (Slot Block)) (b : Block) (freed : Nat),
    (∀ t ∈ cuts, t.cut = true ∧ t.fresh = false) →
    (x.cut = false → x.fresh = false → x.data = some b →
      Fifo.pop ⟨cuts ++ x :: rest, freed⟩ = some (b, ⟨rest, freed + cuts.length + 1⟩)) ∧
    Fifo.pop ⟨cuts, freed⟩ = none ∧
    (∀ blocks : List (Slot Block), (∀ t ∈ blocks, t.cut = false) → x.cut = true → x.fresh = false →
      Fifo.clearToCut ⟨blocks ++ x :: rest, freed⟩ = some ⟨rest, freed + blocks.length + 1⟩) ∧
    ∀ blocks : List (Slot Block), (∀ t ∈ blocks, t.cut = false) → Fifo.clearToCut ⟨blocks, freed⟩ = none) ∧
  ∀ (m : Marks) (s u : State),
    (∀ (q : QclrQ) (t : State), Admits q.engine 1 m s u → u.clearQueue (qclrId q) = .ok t →
      exec (.qclr m q) s = .next (finish q.engine 1 m 1 t)) ∧
    (∀ (d : RecvDst) (x : Word) (r : Regs), Admits d.engine 1 m s u → u.core.r.iqPop d.engine = .ok (x, r) →
      exec (.recv m d) s = .next (finish d.engine 1 m 1 ((u.modR fun _ => r).post d.engine 1 (match d with
        | .a k => .a k x
        | .m k => .e k x
        | .s k => .e k x
        | .v k => .v k (BitVec.ofNat 2048 (packLanes 32 (fun j => (recvValue x j).toNat) 64)))))) ∧
    ∀ (d : LcrdDst) (lv : BitVec 2), Admits d.engine 1 m s u → (d.engine == .c && s.inShadow) = false →
      let x : Word := BitVec.ofNat 64 (((u.eng d.engine).levels[lv.toNat]?.map Level.index).getD 0)
      exec (.lcrd m d lv) s = .next (finish d.engine 1 m 1 (u.post d.engine 1 (match d with
        | .c k => .s k x
        | .a k => .a k x
        | .m k => .e k x
        | .s k => .e k x
        | .v k => .v k (BitVec.ofNat 2048 (packLanes 32 (fun _ => x.toNat) 64)))))) ∧
  ∀ (m : Marks) (set : BitVec 4) (a : Fin 32) (s u : State), Admits .c 1 m s u → s.inShadow = false →
    let es := [Engine.a, .m, .v, .s].filter fun e => match e with
      | .a => set.getLsbD 0
      | .m => set.getLsbD 1
      | .v => set.getLsbD 2
      | _ => set.getLsbD 3
    ((∀ e ∈ es, u.core.r.qRoom (.cond e) 1 = true) → exec (.cbc m set a) s =
      .next (finish .c 1 m 1 (u.modR fun r => es.foldl (fun r e => r.pushCond e (decide (u.sReg a ≠ 0))) r))) ∧
    ((∃ e ∈ es, u.core.r.qRoom (.cond e) 1 = false) → exec (.cbc m set a) s = .next (stalled .c .resv s)) ∧
    ((∀ e ∈ es, u.core.r.qRoom (.iq e) 1 = true) → exec (.sendv m set a) s =
      .next (finish .c 1 m 1 (u.modR fun r => es.foldl (fun r e => r.pushIq e (u.sReg a)) r))) ∧
    ((∃ e ∈ es, u.core.r.qRoom (.iq e) 1 = false) → exec (.sendv m set a) s = .next (stalled .c .resv s))

/-! ## Branches, conditions and inbound values of C (06 R208 to R216) -/

namespace Sys2Proof.Machine

/-- The conditional branches of C (06 R208). -/
inductive CondOp where
  | beq | bne | blt | bge | bltu | bgeu
  deriving DecidableEq, Repr

def CondOp.instr (m : Marks) (a b : Fin 32) (kill cut : Bool) (off : BitVec 16) : CondOp → Instr
  | .beq => .beq m a b kill cut off
  | .bne => .bne m a b kill cut off
  | .blt => .blt m a b kill cut off
  | .bge => .bge m a b kill cut off
  | .bltu => .bltu m a b kill cut off
  | .bgeu => .bgeu m a b kill cut off

/-- The column "Taken when" of R208. -/
def CondOp.holds (a b : Word) : CondOp → Bool
  | .beq => decide (a = b)
  | .bne => decide (a ≠ b)
  | .blt => decide (a.toInt < b.toInt)
  | .bge => decide (a.toInt ≥ b.toInt)
  | .bltu => decide (a.toNat < b.toNat)
  | .bgeu => decide (a.toNat ≥ b.toNat)

end Sys2Proof.Machine

/-- 06 R208, R210; 01 R34, R40, R41: each conditional branch of C is taken when its condition holds, and then goes to
pc + offset; kill cancels what C has in flight; cut pushes a marker into each iq, in the shadow context none. 06 R197, 01 R34, R40, R41: BR moves pc to pc + offset; BCQ pops one condition bit and is taken when it is 1; with kill
what the engine had in flight is cancelled; cut markers go with a taken BCQ alone. 06 R209: JAL writes pc + 2 and branches to pc + offset; JALR writes pc + 1 and branches to word a, where a lies within
the instruction store (the pager store in the shadow context); outside it is detail 7, and nothing is written. 05 R156: a branch that is not
taken goes on to the next word, which must lie in the store: else it is detail 7.
Model’s choices in it: log 13, 28, 38. -/
def Obligations.ConditionalBranchesOfC : Prop :=
  ((∀ (op : CondOp) (m : Marks) (a b : Fin 32) (kill cut : Bool) (off : BitVec 16) (s u v : State), Admits .c 2 m s u →
    let i := op.instr m a b kill cut off
    let taken := op.holds (u.sReg a) (u.sReg b)
    let cuts := cut && !s.inShadow
    let target := some ((s.pcOf .c : Int) + off.toInt).toNat
    (taken = false → u.pcOf .c + 2 ≤ u.lastWord .c → exec i s = .next (finish .c 2 m 1 u)) ∧
    (taken = false → u.lastWord .c < u.pcOf .c + 2 → exec i s = .next (raise .c (causeAt u .c 0x01 7) s)) ∧
    (taken = true → CutRoom .c cuts u → kill = false → exec i s = .next (finish .c 2 m 1 (withCuts .c cuts u) 0 target)) ∧
    (taken = true → CutRoom .c cuts u → kill = true → Admits .c 2 m (s.cancel .c) v → CutRoom .c cuts v →
      exec i s = .next (finish .c 2 m 1 (withCuts .c cuts v) 0 target))) ∧
  (∀ (m : Marks) (e : Engine) (kill : Bool) (off : BitVec 16) (s u v : State), (e == .c && s.inShadow) = false →
    Admits e 1 m s u → (kill = true → Admits e 1 m (s.cancel e) v) →
      exec (.br m e kill off) s =
        .next (finish e 1 m 1 (if kill then v else u) 0 (some ((s.pcOf e : Int) + off.toInt).toNat))) ∧
  ∀ (m : Marks) (e : Engine) (kill cut : Bool) (off : BitVec 16) (s u v : State) (r r' : Regs),
    (e == .c && s.inShadow) = false → Admits e 1 m s u →
      (u.core.r.condPop e = .ok (false, r) → u.pcOf e + 1 ≤ u.lastWord e →
        exec (.bcq m e kill cut off) s = .next (finish e 1 m 1 (u.modR fun _ => r))) ∧
      (u.core.r.condPop e = .ok (false, r) → u.lastWord e < u.pcOf e + 1 →
        exec (.bcq m e kill cut off) s = .next (raise e (causeAt u e 0x01 7) s)) ∧
      (u.core.r.condPop e = .ok (true, r) → CutRoom e cut (u.modR fun _ => r) → kill = false →
        exec (.bcq m e kill cut off) s = .next (finish e 1 m 1 (withCuts e cut (u.modR fun _ => r)) 0
          (some ((s.pcOf e : Int) + off.toInt).toNat))) ∧
      (u.core.r.condPop e = .ok (true, r) → CutRoom e cut (u.modR fun _ => r) → kill = true →
        Admits e 1 m (s.cancel e) v → v.core.r.condPop e = .ok (true, r') → CutRoom e cut (v.modR fun _ => r') →
        exec (.bcq m e kill cut off) s = .next (finish e 1 m 1 (withCuts e cut (v.modR fun _ => r')) 0
          (some ((s.pcOf e : Int) + off.toInt).toNat)))) ∧
  ∀ (m : Marks) (d a : Fin 32) (kill : Bool) (off : BitVec 16) (s u v : State),
    (Admits .c 2 m s u → (kill = true → Admits .c 2 m (s.cancel .c) v) →
      exec (.jal m d kill off) s = .next (finish .c 2 m 1
        ((if kill then v else u).putC 1 d (BitVec.ofNat 64 (s.pcOf .c + 2))) 0 (some ((s.pcOf .c : Int) + off.toInt).toNat))) ∧
    (Admits .c 1 m s u → (kill = true → Admits .c 1 m (s.cancel .c) v) →
      ((u.sReg a).toNat ≤ s.lastWord .c →
        exec (.jalr m d a kill) s = .next (finish .c 1 m 1
          ((if kill then v else u).putC 1 d (BitVec.ofNat 64 (s.pcOf .c + 1))) 0 (some (u.sReg a).toNat))) ∧
      (s.lastWord .c < (u.sReg a).toNat →
        exec (.jalr m d a kill) s = .next (raise .c (causeAt u .c 0x01 7) s)))

/-! ## C's loads and stores (06 R211 to R213; 03 R106 to R112; 04 R130 to R132) -/

/-- 06 R190, R211, R212: LD checks bits 63:55, then alignment, then what translation answers; C waits for the response,
and with it sD takes the n bytes, sign- or zero-extended. 06 R211: the extension of a load: n little-endian bytes as a signed or an unsigned value. 06 R211, R212; 04 R130: LDAQ loads as LD of 8 bytes, with its address faults; bound to a channel object in scope it acquires what the write whose
value it returns released; bound to none it acquires nothing; out of scope it takes the object-scope fault. 04 R132: a load from a byte range in a near, steppe or host page, where every write to the range is in the reader's
visible set, returns the bytes that memory holds. Said for reads with no recorded data error.
Model’s choices in it: log 5, 16, 37, 84. -/
def Obligations.LoadsOfC : Prop :=
  (((∀ (m : Marks) (d a : Fin 32) (o : Option LdOpt) (s u : State), Admits .c (optWords o) m s u →
    let va := u.sReg a + ldOff o
    let n := ldSize o
    (2 ^ 55 ≤ va.toNat →
      exec (.ld m d a o) s = .next (raise .c (xCause u .c va ⟨0x10, 0, false, false, 0⟩) s)) ∧
    (va.toNat < 2 ^ 55 → va.toNat % n ≠ 0 →
      exec (.ld m d a o) s = .next (raise .c { causeAt u .c 0x13 0 with addr := va } s)) ∧
    (va.toNat < 2 ^ 55 → va.toNat % n = 0 →
      (∀ st, u.loadGen .c .c va n = .error st → exec (.ld m d a o) s = stopped .c st s) ∧
      ∀ bs w port t, u.loadGen .c .c va n = .ok (bs, w, port, t) →
        exec (.ld m d a o) s = .next (finishLoad .c (optWords o) m t.nextId
          (t.awaitReg .c (u.cLand d (extend n (ldSigned o) bs)) port [(va.toNat, n)]).1))) ∧
  ∀ (sz : BitVec 2) (sx : Bool) (bs : List Byte), bs.length = szBytes sz →
    let x := (List.range bs.length).foldl (fun n i => n + (bs.getD i 0).toNat * 256 ^ i) 0
    extend (szBytes sz) sx bs =
      if sx then BitVec.ofInt 64 (if 2 * x < 2 ^ (8 * szBytes sz) then (x : Int) else x - 2 ^ (8 * szBytes sz))
      else BitVec.ofNat 64 x) ∧
  ∀ (m : Marks) (d a : Fin 32) (s u : State), Admits .c 1 m s u →
    let va := u.sReg a
    (2 ^ 55 ≤ va.toNat → exec (.ldaq m d a) s = .next (raise .c (xCause u .c va ⟨0x10, 0, false, false, 0⟩) s)) ∧
    (va.toNat < 2 ^ 55 → va.toNat % 8 ≠ 0 → exec (.ldaq m d a) s = .next (raise .c { causeAt u .c 0x13 0 with addr := va } s)) ∧
    (va.toNat < 2 ^ 55 → va.toNat % 8 = 0 → ∀ st, u.loadGen .c .c va 8 = .error st → exec (.ldaq m d a) s = stopped .c st s) ∧
    (va.toNat < 2 ^ 55 → va.toNat % 8 = 0 → ∀ bs w port t, u.loadGen .c .c va 8 = .ok (bs, w, port, t) →
      let go := fun (v : State) => finishLoad .c 1 m v.nextId (v.awaitReg .c (u.cLand d (extend 8 false bs)) port [(va.toNat, 8)]).1
      let oid := u.channelOf (.gen u.vf va.toNat)
      (oid = none → exec (.ldaq m d a) s = .next (go t)) ∧
      (∀ x, oid = some x → u.inScope x = true →
        exec (.ldaq m d a) s = .next (go (t.acquire .c ((w.bind Write.rel).getD 0)))) ∧
      ∀ x, oid = some x → u.inScope x = false →
        exec (.ldaq m d a) s = .next (raise .c { causeAt u .c 0x28 0 with addr := va } s))) ∧
  ∀ (e : Engine) (t : TlbId) (va : Word) (n pa : Nat) (s s1 : State),
    s.translate e t false va = .ok (.cell pa, s1) → s1.bad = [] → s1.soft = [] → s1.plat.noSteppe = false →
    (∀ w ∈ s1.hist, w.touches pa n = true → (s1.eng e).view.testBit w.id = true) →
    ∃ w t', s.loadGen e t va n = .ok (Memory.readN s1.mem pa n, w, [], t')

/-- 06 R211 to R213; 03 R112: ST and STRL translate as writes after the checks of an address, stop on what translation answers, fault on sealed
bytes, wait for the pre-image of a page that a capture takes (22 R560), and put the low bytes of sB at the address; STRL of a byte that no channel object in scope binds takes the object-scope fault, and
otherwise releases the writes bound to the object, once C's remote writes are performed (04 R131). 03 R92; 14 R453; 16 R478: the bytes that a translated store changes. In a page of the package they are the bytes of the
store and, where its tier is tracked, one byte of the function's dirty bitmap, which gains one bit; a store toward another
package, and one that a dual launch keeps back, changes none. Memory keeps its canonical form.
Model’s choices in it: log 15, 16, 18, 37, 77. -/
def Obligations.StoresOfC : Prop :=
  (∀ (m : Marks) (a b : Fin 32) (o : Option StOpt) (s u : State),
    (Admits .c (optWords o) m s u →
      let va := u.sReg a + stOff o
      let n := stSize o
      let bs := valBytes (u.sReg b).toNat n
      (2 ^ 55 ≤ va.toNat →
        exec (.st m a b o) s = .next (raise .c (xCause u .c va ⟨0x10, 0, false, false, 0⟩) s)) ∧
      (va.toNat < 2 ^ 55 → va.toNat % n ≠ 0 →
        exec (.st m a b o) s = .next (raise .c { causeAt u .c 0x13 0 with addr := va } s)) ∧
      (va.toNat < 2 ^ 55 → va.toNat % n = 0 → ∀ st, u.translate .c .c true va = .error st → exec (.st m a b o) s = stopped .c st s) ∧
      (va.toNat < 2 ^ 55 → va.toNat % n = 0 → ∀ loc t, u.translate .c .c true va = .ok (loc, t) →
        ((∃ i, i < n ∧ u.isSealed u.vf (va.toNat + i) (loc.byte i) = true) →
          exec (.st m a b o) s = .next (raise .c { causeAt u .c 0x15 0 with addr := va } s)) ∧
        ∀ t2, (∀ i, i < n → u.isSealed u.vf (va.toNat + i) (loc.byte i) = false) → t.okWrite .c (loc.pieces n) = .ok t2 →
          (t2.preimage va loc = .ok () →
            exec (.st m a b o) s = .next (finish .c (optWords o) m 1 (t2.putLoc .c loc va bs none))) ∧
          ∀ st, t2.preimage va loc = .error st → exec (.st m a b o) s = stopped .c st s)) ∧
    (Admits .c 1 m s u →
      let va := u.sReg a
      let at_ := Loc.gen u.vf va.toNat
      (2 ^ 55 ≤ va.toNat → exec (.strl m a b) s = .next (raise .c (xCause u .c va ⟨0x10, 0, false, false, 0⟩) s)) ∧
      (va.toNat < 2 ^ 55 → va.toNat % 8 ≠ 0 → exec (.strl m a b) s = .next (raise .c { causeAt u .c 0x13 0 with addr := va } s)) ∧
      (va.toNat < 2 ^ 55 → va.toNat % 8 = 0 → ∀ st, u.translate .c .c true va = .error st → exec (.strl m a b) s = stopped .c st s) ∧
      (va.toNat < 2 ^ 55 → va.toNat % 8 = 0 → ∀ loc t, u.translate .c .c true va = .ok (loc, t) →
        ((∃ i, i < 8 ∧ u.isSealed u.vf (va.toNat + i) (loc.byte i) = true) →
          exec (.strl m a b) s = .next (raise .c { causeAt u .c 0x15 0 with addr := va } s)) ∧
        ∀ t2, (∀ i, i < 8 → u.isSealed u.vf (va.toNat + i) (loc.byte i) = false) → t.okWrite .c (loc.pieces 8) = .ok t2 →
          (∀ oid, u.channelOf at_ = some oid → u.inScope oid = true → t2.preimage va loc = .ok () →
            (t2.unacked .c = [] → exec (.strl m a b) s = .next (finish .c 1 m 1
              (t2.putLoc .c loc va (valBytes (u.sReg b).toNat 8)
                (some (t2.carryObj oid (t2.eng .c).view ||| 1 <<< t2.nextWrite))))) ∧
            (t2.unacked .c ≠ [] → exec (.strl m a b) s = .next (stalled .c .mem s))) ∧
          ((u.channelOf at_ = none ∨ ∃ oid, u.channelOf at_ = some oid ∧ u.inScope oid = false) →
            exec (.strl m a b) s = .next (raise .c { causeAt u .c 0x28 0 with addr := va } s))))) ∧
  ∀ (s : State) (e : Engine) (loc : PLoc) (va : Word) (bs : List Byte) (rel : Option View), Memory.wf s.mem = true →
    let t := s.putLoc e loc va bs rel
    Memory.wf t.mem = true ∧ (s.keeps s.core.launch = true → t.mem = s.mem) ∧
    (∀ node rvf, loc = .remote node rvf → t.mem = s.mem) ∧
    ∀ pa, loc = .cell pa → s.keeps s.core.launch = false →
      let dirty := (s.dirtyCell s.vf pa).map Prod.fst
      (∀ i, i < bs.length → dirty ≠ some (pa + i) → Memory.read t.mem (pa + i) = bs.getD i 0) ∧
      (∀ k, (k < pa ∨ pa + bs.length ≤ k) → dirty ≠ some k → Memory.read t.mem k = Memory.read s.mem k) ∧
      ∀ c bit, s.dirtyCell s.vf pa = some (c, bit) → (c < pa ∨ pa + bs.length ≤ c) →
        Memory.read t.mem c = Memory.read s.mem c ||| (1#8 <<< bit)

/-! ## Commands and launches (06 R217 to R222) -/

/-- 06 R217 to R220: XPUSH hands over n registers as one command, where fewer than 8 are outstanding (2 on the shadow path),
and otherwise waits; XPOP takes the oldest result element and acquires what it reports, and waits for one; XSTAT reads how
many commands are outstanding, how many elements wait, whether one holds a fault record, whether the engine works. 06 R222: LAUNCH waits for a free entry of the packet's queue; a packet that the dispatcher refuses yields 0; another
enters the queue under the next launch identity, which sD receives, with C's visible set. 04 R131: LAUNCH waits for C's remote
writes. 16 R478: in a run of a dual launch it takes the privilege fault.
Model’s choices in it: log 76, 77. -/
def Obligations.CommandPortsOfC : Prop :=
  (∀ (m : Marks) (x : Fin 3) (d a : Fin 32) (n : BitVec 6) (s u : State), Admits .c 1 m s u →
    let sh := u.inShadow
    let p := u.core.xp[x]
    let waiting := if sh then p.sres else p.res
    let c := { u.newCmd x a n.toNat with bens := u.cmdBens (u.newCmd x a n.toNat) }
    let v := { u with cmds := u.cmds ++ [c], nextId := u.nextId + 1 }
    let pushed := if (u.newCmd x a n.toNat).kind == some .coll then v.countColl else v
    (p.outstanding sh < xCap sh →
      exec (.xpush m x a n) s = .next (finish .c 1 m 1 (pushed.modPort x fun p => p.count sh (· + 1))) ∧
      c.words = (List.range n.toNat).map fun i => u.sReg ⟨(a.val + i) % 32, Nat.mod_lt _ (by decide)⟩) ∧
    (xCap sh ≤ p.outstanding sh → exec (.xpush m x a n) s = .next (stalled .c .resv s)) ∧
    (∀ r rs, waiting = r :: rs → r.fresh = false →
      let q := (if sh then { p with sres := rs } else { p with res := rs }).count sh (· - 1)
      exec (.xpop m d x) s = .next (finish .c 1 m 1 (((u.modPort x fun _ => q).acquire .c r.view).putC 1 d r.word))) ∧
    (waiting = [] → exec (.xpop m d x) s = .next (stalled .c .pop s)) ∧
    (p.outstanding sh ≤ 8 → waiting.length ≤ 8 → ∃ w : Word,
      exec (.xstat m d x) s = .next (finish .c 1 m 1 (u.putC 1 d w)) ∧
        (w.extractLsb' 0 4).toNat = p.outstanding sh ∧ (w.extractLsb' 4 4).toNat = waiting.length ∧
        w.getLsbD 8 = waiting.any Result.fault ∧ w.extractLsb' 10 54 = 0 ∧
        (w.getLsbD 9 = true ↔ ∃ c ∈ u.cmds, c.core = u.core.id ∧ c.x = x ∧ c.stage ≠ .queued ∧
          c.stage ≠ .complete))) ∧
  ∀ (m : Marks) (d a : Fin 32) (s u : State), Admits .c 1 m s u → s.inShadow = false →
    (((u.gang u.core.launch).map Gang.dual).getD false = true → exec (.launch m d a) s = .next (raise .c (causeAt u .c 0x02 0) s)) ∧
    (((u.gang u.core.launch).map Gang.dual).getD false = false →
    let p := packetOf ((List.range 8).map fun i => u.sReg (nextReg a i))
    let q := u.queue (queueKey u.vf p.queue)
    let refused := p.bad q || !q.dev || decide (u.core.cr.lvl.toNat < p.lvl)
    (32 ≤ q.fifo.length → exec (.launch m d a) s = .next (stalled .c .resv s)) ∧
    (q.fifo.length < 32 → u.unacked .c ≠ [] → exec (.launch m d a) s = .next (stalled .c .mem s)) ∧
    (q.fifo.length < 32 → u.unacked .c = [] → refused = true → exec (.launch m d a) s = .next (finishReply 1 m d 0 u)) ∧
    (q.fifo.length < 32 → u.unacked .c = [] → refused = false →
      let r := u.accept u.vf p (u.eng .c).view
      r.1 = u.disp.next ∧ exec (.launch m d a) s = .next (finishReply 1 m d (BitVec.ofNat 64 r.1) r.2)))

/-! ## The name directory (09 R352 to R358) -/

/-- 09 R355 to R357: OPEN and OPENW answer −6 for a malformed name, −1 for an unbound one (OPENW: at limit 0; else it waits for
it), −2 with the handle table full, and else the lowest free handle, with an acquire; CLOSE frees a handle or answers −4;
RCLM pops an event, or answers 0. 13 R404: in the shadow context a word of the DIR group is a double trap. 16 R465: the DIR group waits while the
namespace of its function moves. 09 R352, R355: what opening a name finds: nothing bound is −1; the object bound at this point, and the lowest handle that
the gang does not hold, of 4,096; with none free, −2. 09 R354 to R357: HQRY reads a field of the object that a handle holds; SEAL makes an object of a well-formed record's range
and opens it, or answers −6, −9, −7, −5 or −2, in that order, and waits while a write that has issued is still to come to its bytes (03 R112); RBSTG stages a pair or answers −6, −4 or −8; RBCMT applies the
stage and answers its size, or −5 where the namespace would hold more than 65,536 names; RBABT empties it. Those that release wait for C's remote writes (04 R131). In a run of a dual launch those that write take the privilege fault.
Model’s choices in it: log 12, 31, 41, 42, 77. -/
def Obligations.NamesAreOpenedAndClosed : Prop :=
  (∀ (m : Marks) (x : Bool) (d a : Fin 32) (s u : State),
    let all := fun (o : Host.Outcome State Fault Refusal) =>
      exec (.open m x d a) s = o ∧ exec (.openw m x d a) s = o ∧ exec (.close m x d a) s = o ∧ exec (.hqry m x d a) s = o ∧
        exec (.seal m x d a) s = o ∧ exec (.rbstg m x d a) s = o ∧ exec (.rbcmt m x d) s = o ∧ exec (.rbabt m x d) s = o ∧
        exec (.rclm m x d a) s = o
    (s.inShadow = true → all (.next (doubleTrap 0x01 s))) ∧
    (s.inShadow = false → Admits .c (xWords x) m s u → ((u.gang u.core.launch).map Gang.dual).getD false = false →
      u.dirBusy = true → all (.next (stalled .c .sync s)))) ∧
  ((∀ (m : Marks) (x : Bool) (d a : Fin 32) (s u : State), Admits .c (xWords x) m s u → s.inShadow = false →
    u.dirBusy = false →
    let n := xWords x
    (∀ t, readName (u.sReg a) u = .ok (none, t) →
      exec (.open m x d a) s = .next (finishReply n m d (-6) t) ∧ exec (.openw m x d a) s = .next (finishReply n m d (-6) t)) ∧
    (∀ name t, readName (u.sReg a) u = .ok (some name, t) →
      (t.openName t.core.launch t.vf name = .error (-1) →
        exec (.open m x d a) s = .next (finishReply n m d (-1) t) ∧
        (((u.sReg d).extractLsb' 0 32 = 0) → exec (.openw m x d a) s = .next (finishReply n m d (-1) t)) ∧
        ((u.sReg d).extractLsb' 0 32 ≠ 0 → NextIs (exec (.openw m x d a) s) fun t' =>
          (t'.eng .c).stall = some t.nextId ∧
            ∃ limit, t'.openws = t.openws ++ [⟨t.core.id, t.nextId, d.val, name, limit⟩] ∧
              limit = if (u.sReg d).extractLsb' 0 32 = 0xFFFFFFFF then none
                else some (t.timer + ((u.sReg d).extractLsb' 0 32).toNat * 1000))) ∧
      (t.openName t.core.launch t.vf name = .error (-2) →
        exec (.open m x d a) s = .next (finishReply n m d (-2) t) ∧
        exec (.openw m x d a) s = .next (finishReply n m d (-2) t)) ∧
      ∀ i view v, t.openName t.core.launch t.vf name = .ok (i, view, v) →
        exec (.open m x d a) s = .next (finishReply n m d (BitVec.ofNat 64 i) (v.acquire .c view)) ∧
        exec (.openw m x d a) s = .next (finishReply n m d (BitVec.ofNat 64 i) (v.acquire .c view))) ∧
    (let held := fun (h : Handle) => h.gang == u.core.launch && h.idx == (u.sReg a).toNat
     (u.handles.any held = true → exec (.close m x d a) s = .next (finishReply n m d 0
        (State.reclaim { u with handles := u.handles.filter fun h => !held h }))) ∧
     (u.handles.any held = false → exec (.close m x d a) s = .next (finishReply n m d (-4) u))) ∧
    (((u.gang u.core.launch).map Gang.dual).getD false = false → u.unacked .c = [] → (∀ r ∈ u.reclaims, r.vf ≠ u.vf) →
      exec (.rclm m x d a) s = .next (finishReply n m d 0 u)) ∧
    ∀ r t, ((u.gang u.core.launch).map Gang.dual).getD false = false → u.unacked .c = [] → u.reclaims.find? (fun r => r.vf == u.vf) = some r →
      storeWords (u.sReg a) ([r.ident, r.base, r.size, r.acct].map (BitVec.ofNat 64)) u = .ok t →
      exec (.rclm m x d a) s = .next (finishReply n m d 1 { t with
        reclaims := t.reclaims.filter fun y => y.ident != r.ident
        objs := t.objs.filter fun o => o.ident != r.ident })) ∧
  ∀ (s : State) (gang vf : Nat) (name : List Byte),
    ((∀ n ∈ s.names, ¬ (n.vf = vf ∧ n.name = name)) → s.openName gang vf name = .error (-1)) ∧
    ∀ i view t, s.openName gang vf name = .ok (i, view, t) →
      i < 4096 ∧ (∀ h ∈ s.handles, ¬ (h.gang = gang ∧ h.idx = i)) ∧
        (∀ j, j < i → ∃ h ∈ s.handles, h.gang = gang ∧ h.idx = j) ∧
        ∃ n ∈ s.names, n.vf = vf ∧ n.name = name ∧
          t = { s with handles := s.handles ++ [⟨gang, i, n.ident⟩] }) ∧
  ∀ (m : Marks) (x : Bool) (d a : Fin 32) (s u : State), Admits .c (xWords x) m s u → s.inShadow = false →
    u.dirBusy = false →
    let n := xWords x
    let g := u.core.launch
    let sel := ((u.sReg a).extractLsb' 12 4).toNat
    ((u.sReg a).extractLsb' 16 48 ≠ 0 ∨ 8 ≤ sel → exec (.hqry m x d a) s = .next (finishReply n m d (-6) u)) ∧
    ((u.sReg a).extractLsb' 16 48 = 0 → sel < 8 →
      (u.handleObj g ((u.sReg a).extractLsb' 0 12).toNat = none → exec (.hqry m x d a) s = .next (finishReply n m d (-4) u)) ∧
      ∀ o, u.handleObj g ((u.sReg a).extractLsb' 0 12).toNat = some o →
        let fields : List Word := [BitVec.ofNat 64 o.base, BitVec.ofNat 64 o.size, o.ext[1] ++ o.ext[0], o.ext[3] ++ o.ext[2],
          o.fmt, o.scalep, BitVec.ofNat 64 o.ident,
          if ∀ p ∈ pagesOf o.base o.size, u.pageTier o.vf p = some 0 then 1 else 0]
        let after := if sel = 7 then u.walkPages o.vf u.core.cr.acctid.toNat (pagesOf o.base o.size) else u
        exec (.hqry m x d a) s = .next (finishReply n m d (fields.getD sel 0) after)) ∧
    (((u.gang g).map Gang.dual).getD false = false → u.unacked .c = [] →
      (∀ ws t0, readWords (u.sReg a) 8 u = .ok (ws, t0) →
        let base := (ws.getD 0 0).toNat
        let size := (ws.getD 1 0).toNat
        let t := t0.walkPages t0.vf t0.core.cr.acctid.toNat (pagesOf base size)
        let formed := (u.sReg a).toNat % 64 = 0 ∧ sealOk ws = true
        let placed := ∀ p ∈ pagesOf base size, t.pageTier t.vf p = some 0 ∨ t.pageTier t.vf p = some 1
        let free := (∀ o ∈ t.objs, o.vf = t.vf → o.base + o.size ≤ base ∨ base + size ≤ o.base) ∧
          ∀ b ∈ t.binds, rangesMeet b.base b.len (.gen t.vf base) size = false
        let room := (t.objs.countP fun o => o.live) < 65536
        (¬ formed → exec (.seal m x d a) s = .next (finishReply n m d (-6) t0)) ∧
        (formed → ¬ placed → exec (.seal m x d a) s = .next (finishReply n m d (-9) t)) ∧
        (formed → placed → ¬ free → exec (.seal m x d a) s = .next (finishReply n m d (-7) t)) ∧
        (formed → placed → free → ¬ room → exec (.seal m x d a) s = .next (finishReply n m d (-5) t)) ∧
        (formed → placed → free → room → t.freeHandle t.core.launch = none →
          exec (.seal m x d a) s = .next (finishReply n m d (-2) t)) ∧
        ∀ h, formed → placed → free → room → t.freeHandle t.core.launch = some h →
          ∃ o : Obj, o.base = base ∧ o.size = size ∧ o.vf = t.vf ∧ o.ident = t.nextId % 2 ^ 32 ∧ o.fmt = ws.getD 4 0 ∧
            o.scalep = ws.getD 5 0 ∧ o.live = true ∧ o.acct = t.core.cr.acctid.toNat ∧
            (o.ext[1] ++ o.ext[0] = ws.getD 2 0 ∧ o.ext[3] ++ o.ext[2] = ws.getD 3 0) ∧
            o.view = t.carryRange t.vf base size (t.eng .c).view ∧
            (t.owesTo o = true → exec (.seal m x d a) s = .next (stalled .c .mem s)) ∧
            (t.owesTo o = false → exec (.seal m x d a) s = .next (finishReply n m d (BitVec.ofNat 64 h) { t with
              nextId := t.nextId + 1, objs := t.objs ++ [o]
              handles := t.handles ++ [⟨t.core.launch, h, o.ident⟩] }))) ∧
      (∀ ws name t t2, readWords (u.sReg a) 1 u = .ok (ws, t) → readName (u.sReg a + 8) t = .ok (name, t2) →
        let w := ws.getD 0 0
        let unb := w.getLsbD 63
        let o := t2.handleObj t2.core.launch (w.extractLsb' 0 12).toNat
        let formed := name.isSome = true ∧ w.extractLsb' 12 51 = 0 ∧ (unb = true → w.extractLsb' 0 12 = 0)
        let rest := t2.staged.filter fun p => !(p.gang == t2.core.launch && p.name == name.getD [])
        let mine := rest.countP fun p => p.gang == t2.core.launch
        (¬ formed → exec (.rbstg m x d a) s = .next (finishReply n m d (-6) t2)) ∧
        (formed → unb = false → o = none → exec (.rbstg m x d a) s = .next (finishReply n m d (-4) t2)) ∧
        (formed → (unb = true ∨ o ≠ none) → 64 ≤ mine → exec (.rbstg m x d a) s = .next (finishReply n m d (-8) t2)) ∧
        (formed → (unb = true ∨ o ≠ none) → mine < 64 →
          exec (.rbstg m x d a) s = .next (finishReply n m d (BitVec.ofNat 64 (mine + 1)) (State.reclaim { t2 with
            staged := rest ++ [⟨t2.core.launch, name.getD [], if unb then none else o.map Obj.ident⟩] })))) ∧
      (let mine := u.staged.filter fun p => p.gang == g
       let kept := u.staged.filter fun p => p.gang != g
       let view := fun (k : Nat) => match u.objs.find? fun o => o.ident == k with
          | some o => u.carryRange o.vf o.base o.size (u.eng .c).view
          | none => 0
       let names := mine.foldl (fun ns p => applyPair u.vf view p ns) u.names
       (names.length ≤ 65536 →
          let v := State.reclaim { u with names := names, staged := kept }
          exec (.rbcmt m x d) s = .next (finishReply n m d (BitVec.ofNat 64 mine.length) (settleOpenws v.openws v))) ∧
       (65536 < names.length → exec (.rbcmt m x d) s = .next (finishReply n m d (-5) u)) ∧
       exec (.rbabt m x d) s = .next (finishReply n m d (BitVec.ofNat 64 mine.length)
          (State.reclaim { u with staged := kept })))) ∧
    (((u.gang g).map Gang.dual).getD false = false → u.unacked .c ≠ [] →
      let w := Host.Outcome.next (stalled .c .mem s)
      exec (.seal m x d a) s = w ∧ exec (.rbstg m x d a) s = w ∧ exec (.rbcmt m x d) s = w ∧ exec (.rbabt m x d) s = w ∧
        exec (.rclm m x d a) s = w) ∧
    (((u.gang g).map Gang.dual).getD false = true →
      let c := causeAt u .c 0x02 0
      exec (.seal m x d a) s = .next (raise .c c s) ∧ exec (.rbstg m x d a) s = .next (raise .c c s) ∧
        exec (.rbcmt m x d) s = .next (raise .c c s) ∧ exec (.rbabt m x d) s = .next (raise .c c s) ∧
        exec (.rclm m x d a) s = .next (raise .c c s))

/-! ## Synchronisation (09 R341 to R351; 01 R49 to R54) -/

/-- 09 R342, R344, R346, R347: SREL adds n to a flag object and releases, once C's remote writes to bytes bound to the object are
performed (04 R131); past 0xFFFF_FFFF it takes the sync-object fault.
WAITMK waits until each engine of its set holds the mark or has halted, and answers who halted without it. UBNDR removes the
live binding that begins at its address, or takes the binding fault. 09 R342: naming an object: one that does not exist, or of another kind, is the sync-object fault; one whose scope does not
hold the core is the object-scope fault (04 R128). 09 R348, 03 R109: RBNDR reads its record; a malformed one, or a range that may not be bound, is the binding fault; with OID
0 it creates the object and answers its OID, or 0 with no slot free; with another it binds to that object, which must exist and
be in scope.
Model’s choices in it: log 41, 43, 77, 87, 88. -/
def Obligations.FlagsMarksAndBindings : Prop :=
  ((∀ (m : Marks) (x : Bool) (d a : Fin 32) (s u : State), Admits .c (xWords x) m s u → s.inShadow = false →
    let n := xWords x
    let w := u.sReg a
    (∀ o, u.named (opOid w) 2 = .ok o →
      let sum := o.value + (o.rels.map HeldRel.n).sum + opVal w
      let far := u.unackedOf o.oid
      (sum < 2 ^ 32 → o.rels = [] → far = [] → exec (.srel m x a) s = .next (finish .c n m 1
        (u.putFlag { o with value := o.value + opVal w, view := o.view ||| u.relView o.oid }))) ∧
      (sum < 2 ^ 32 → (∀ r ∈ o.rels, r.wids ≠ []) → far ≠ [] → exec (.srel m x a) s = .next (finish .c n m 1
        (u.putFlag { o with rels := o.rels ++ [⟨opVal w, u.relView o.oid, far⟩] }))) ∧
      (2 ^ 32 ≤ sum → exec (.srel m x a) s = .next (raise .c (causeAt u .c 0x2A 0) s))) ∧
    (let mark := (w.extractLsb' 0 8).toNat
     let got := fun (e : Engine) => (u.eng e).marks.getLsbD mark
     let bits := [(Engine.c, 8), (.a, 9), (.m, 10), (.v, 11), (.s, 12)].filter fun p => w.getLsbD p.2
     ((∀ p ∈ bits, got p.1 = true ∨ (u.eng p.1).halted = true) → ∃ r : Word,
       exec (.waitmk m x d a) s = .next (finish .c n m 1 (u.putC 1 d r)) ∧
         (∀ k, r.getLsbD k = true ↔ ∃ p ∈ bits, p.2 = k ∧ got p.1 = false)) ∧
     ((∃ p ∈ bits, got p.1 = false ∧ (u.eng p.1).halted = false) → exec (.waitmk m x d a) s = .next (stalled .c .sync s))) ∧
    (let mine := fun (b : Binding) => b.base == u.baseLoc w && b.gang == u.core.launch
     (u.binds.any mine = true → exec (.ubndr m x a) s = .next (finish .c n m 1
       { u with binds := u.binds.filter fun b => !mine b })) ∧
     (u.binds.any mine = false → exec (.ubndr m x a) s = .next (raise .c (causeAt u .c 0x29 0) s)))) ∧
  ∀ (s : State) (oid : BitVec 32) (kind : Nat),
    (s.syncObj oid = none → s.named oid kind = .error (.trap (causeAt s .c 0x2A 0))) ∧
    ∀ o, s.syncObj oid = some o →
      (s.inScope oid = false → s.named oid kind = .error (.trap (causeAt s .c 0x28 0))) ∧
      (s.inScope oid = true → (oid.extractLsb' 28 4).toNat ≠ kind →
        s.named oid kind = .error (.trap (causeAt s .c 0x2A 0))) ∧
      (s.inScope oid = true → (oid.extractLsb' 28 4).toNat = kind → s.named oid kind = .ok o)) ∧
  ∀ (m : Marks) (x : Bool) (d a : Fin 32) (s u t : State) (ws : List Word), Admits .c (xWords x) m s u →
    s.inShadow = false → readWords (u.sReg a) 4 u = .ok (ws, t) →
    let n := xWords x
    let r := bindRec ws
    let bound := fun (v : State) (oid : BitVec 32) =>
      if r.len = 0 then v
      else { v with binds := v.binds ++ [⟨v.baseLoc r.base, r.len, oid, v.core.launch⟩] }
    let good := r.ok (ws.getD 2 0) t.core.pod.isSome = true ∧ (r.len ≠ 0 → t.bindable r.base r.len = true)
    (¬ good → exec (.rbndr m x d a) s = .next (raise .c (causeAt t .c 0x29 0) s)) ∧
    (good → r.oid = 0 →
      (t.create r = none → exec (.rbndr m x d a) s = .next (finishReply n m d 0 t)) ∧
      ∀ oid v, t.create r = some (oid, v) →
        exec (.rbndr m x d a) s = .next (finishReply n m d (oid.setWidth 64) (bound v oid))) ∧
    (good → r.oid ≠ 0 →
      (t.syncObj r.oid = none → exec (.rbndr m x d a) s = .next (raise .c (causeAt t .c 0x2A 0) s)) ∧
      ((t.syncObj r.oid).isSome = true → t.inScope r.oid = false →
        exec (.rbndr m x d a) s = .next (raise .c (causeAt t .c 0x28 0) s)) ∧
      ((t.syncObj r.oid).isSome = true → t.inScope r.oid = true →
        exec (.rbndr m x d a) s = .next (finishReply n m d (r.oid.setWidth 64) (bound t r.oid))))

/-- 09 R346, 01 R51: BARA arrives at a phase and answers its number: of an arrival barrier, with the barrier-overrun fault or
a wait where R343 says so; of the domain barrier, the phase DOMM.STEP, unless PHASE is 1, which is the sync-object fault. 09 R343: an arrival of n arrivals and b bytes at phase k of a barrier, below 2^31 phases: below PH, or past NA or NB, it is
an overrun; beyond PH + 3 it waits; else it is counted, and phase k has been named.
Model’s choices in it: log 43, 77. -/
def Obligations.BaraArrives : Prop :=
  (∀ (m : Marks) (x : Bool) (d a : Fin 32) (s u : State), Admits .c (xWords x) m s u → s.inShadow = false →
    let n := xWords x
    let w := u.sReg a
    (opOid w = 0 →
      (u.core.cr.domm.getLsbD 40 = true → exec (.bara m x d a) s = .next (raise .c (causeAt u .c 0x2A 0) s)) ∧
      (u.core.cr.domm.getLsbD 40 = false → exec (.bara m x d a) s = .next (finish .c n m 1
        ((u.domArrive (u.eng .c).view).putC 1 d (BitVec.ofNat 64 (dommStep u.core.cr.domm)))))) ∧
    (opOid w ≠ 0 →
      (∀ o, u.named (opOid w) 1 = .ok o →
        let got := o.arrive (opVal w) 1 0 (u.relView o.oid) (u.unackedOf o.oid)
        (got = .wait → exec (.bara m x d a) s = .next (stalled .c .sync s)) ∧
        (got = .overrun → exec (.bara m x d a) s = .next (raise .c (causeAt u .c 0x2B 0) s)) ∧
        ∀ y, got = .ok y → exec (.bara m x d a) s = .next (finish .c n m 1
          ((u.setObj y).putC 1 d (BitVec.ofNat 64 (opVal w))))) ∧
      ∀ c, u.named (opOid w) 1 = .error (.trap c) → exec (.bara m x d a) s = .next (raise .c c s))) ∧
  ∀ (o : SyncObj) (k n b : Nat) (view : View) (far : List Nat), o.ph + 3 < 2 ^ 31 → k < 2 ^ 31 →
    (k < o.ph → o.arrive k n b view far = .overrun) ∧ (o.ph + 3 < k → o.arrive k n b view far = .wait) ∧
    (o.ph ≤ k → k ≤ o.ph + 3 →
      ((o.na < (o.phase k).arr + n ∨ o.nb < (o.phase k).bytes + b) → o.arrive k n b view far = .overrun) ∧
      ((o.phase k).arr + n ≤ o.na → (o.phase k).bytes + b ≤ o.nb → ∃ y, o.arrive k n b view far = .ok y ∧
        (y.phase k).arr = (o.phase k).arr + n ∧ (y.phase k).bytes = (o.phase k).bytes + b ∧
        (y.phase k).view = (o.phase k).view ||| view ∧ (y.phase k).wids = (o.phase k).wids ++ far ∧ (∃ j, y.named = some j ∧ k ≤ j) ∧ y.ph = o.ph ∧ y.na = o.na ∧
        y.nb = o.nb ∧ ∀ j, j ≠ k → y.phase j = o.phase j))

/-- 09 R346, R344; 01 R51, R53, R54: how C's waits begin, once what they need is there. SACQ joins the waiters of its flag
object and is served if its turn has come; BARW names its phase, and finds one before the first completed; BARAW arrives and waits; DOMSPLIT and DOMJOIN begin as a BARAW
on the domain barrier, where DEPTH allows it; what follows is the instruction met with that wait. 09 R346; 01 R51: how C's waits end. A served SACQ acquires its object; a departure acquires its phase and answers PH of the
barrier, or DOMM.STEP after it; DOMSPLIT and DOMJOIN, released from the barrier, join their split or their parent, and answer
the new DOMM; a departure that came about in a replay of C has its effects already and leaves its answer (21 R540). A wait that
has not been answered goes on. 09 R346; 01 R51: what a departure does to C: it leaves its wait, acquires the phase, and, at a domain barrier, sets PHASE
to 0 and STEP one on.
Model’s choices in it: log 7, 41, 43. -/
def Obligations.WaitsBegin : Prop :=
  (∀ (m : Marks) (x : Bool) (d a : Fin 32) (s u : State), Admits .c (xWords x) m s u → s.inShadow = false →
    s.core.cwait = .none →
    let w := u.sReg a
    let phase := u.core.cr.domm.getLsbD 40
    (∀ o, u.named (opOid w) 2 = .ok o → exec (.sacq m x a) s = exec (.sacq m x a)
      ((s.setWait (.sacq o.oid (opVal w))).putFlag
        { o with waiters := o.waiters ++ [(s.core.id, s.core.launch, opVal w)] })) ∧
    (opOid w ≠ 0 → ∀ o, u.named (opOid w) 1 = .ok o →
      (0 ≤ (o.ph : Int) + phaseDiff o.ph (opVal w) → exec (.barw m x d a) s = exec (.barw m x d a)
        ((s.setObj (o.name (phaseAbs o.ph (opVal w)))).waitPhase (.obj o.oid) (phaseAbs o.ph (opVal w)))) ∧
      ((o.ph : Int) + phaseDiff o.ph (opVal w) < 0 →
        exec (.barw m x d a) s = exec (.barw m x d a) (s.setWait (.departed (.obj o.oid) 0 0))) ∧
      ∀ y, o.arrive (opVal w) 1 0 (u.relView o.oid) (u.unackedOf o.oid) = .ok y → exec (.baraw m x d a) s = exec (.baraw m x d a)
        ((s.setObj y).waitPhase (.obj o.oid) (phaseAbs o.ph (opVal w)))) ∧
    (opOid w = 0 → (phase = false → exec (.barw m x d a) s = .next (raise .c (causeAt u .c 0x2A 0) s)) ∧
      (phase = true → exec (.baraw m x d a) s = .next (raise .c (causeAt u .c 0x2A 0) s))) ∧
    (∀ dm, u.domain u.core.dom = some dm →
      let go := (s.domArrive (u.eng .c).view).waitPhase (.dom dm.id) dm.ph
      (opOid w = 0 → phase = false → exec (.baraw m x d a) s = exec (.baraw m x d a) go) ∧
      (opOid w = 0 → phase = true → exec (.barw m x d a) s = exec (.barw m x d a)
        (s.waitPhase (.dom dm.id) (if dm.arrived.contains s.core.id then dm.ph else dm.ph - 1))) ∧
      (dommDepth u.core.cr.domm ≠ 3 → phase = false → exec (.domsplit m x d a) s = exec (.domsplit m x d a) go) ∧
      (dommDepth u.core.cr.domm ≠ 0 → phase = false → exec (.domjoin m x d) s = exec (.domjoin m x d) go)) ∧
    (dommDepth u.core.cr.domm = 3 → exec (.domsplit m x d a) s = .next (raise .c (causeAt u .c 0x05 0) s)) ∧
    (dommDepth u.core.cr.domm = 0 → exec (.domjoin m x d) s = .next (raise .c (causeAt u .c 0x05 0) s))) ∧
  (∀ (m : Marks) (x : Bool) (d a : Fin 32) (s u : State), Admits .c (xWords x) m s u → s.inShadow = false →
    let n := xWords x
    (∀ v view, s.core.cwait = .answered v view →
      exec (.sacq m x a) s = .next (finish .c n m 1 ((u.acquire .c view).setWait .none)) ∧
      exec (.domsplit m x d a) s = .next (finish .c n m 1 (((u.acquire .c view).setWait .none).putC 1 d v)) ∧
      exec (.domjoin m x d) s = .next (finish .c n m 1 (((u.acquire .c view).setWait .none).putC 1 d v)) ∧
      exec (.barw m x d a) s = .next (finish .c n m 1 ((u.setWait .none).putC 1 d v)) ∧
      exec (.baraw m x d a) s = .next (finish .c n m 1 ((u.setWait .none).putC 1 d v))) ∧
    (∀ o k view, s.core.cwait = .departed o k view →
      let r := u.depart o view
      exec (.barw m x d a) s = .next (finish .c n m 1 (r.1.putC 1 d r.2)) ∧
      exec (.baraw m x d a) s = .next (finish .c n m 1 (r.1.putC 1 d r.2)) ∧
      ∀ i, o = .dom i →
        exec (.domsplit m x d a) s = exec (.domsplit m x d a) (s.joinSplit (((s.settle .c).sReg a).extractLsb' 0 8).toNat view) ∧
        exec (.domjoin m x d) s = exec (.domjoin m x d) (s.joinUp view)) ∧
    ∀ o k, s.core.cwait = .barrier o k → exec (.barw m x d a) s = .next (stalled .c .sync s) ∧
      exec (.baraw m x d a) s = .next (stalled .c .sync s) ∧ exec (.domsplit m x d a) s = .next (stalled .c .sync s) ∧
      exec (.domjoin m x d) s = .next (stalled .c .sync s)) ∧
  ∀ (s : State) (o : SyncRef) (view : View), s.inShadow = false →
    let r := s.depart o view
    r.1.core.cwait = .none ∧ (r.1.eng .c).view = (s.eng .c).view ||| view ∧
      (∀ oid x, o = .obj oid → s.syncObj oid = some x → r.2 = BitVec.ofNat 64 (x.ph % 2 ^ 32) ∧ r.1.core.cr.domm = s.core.cr.domm) ∧
      ∀ i, o = .dom i → r.1.core.cr.domm.getLsbD 40 = false ∧
        (r.1.core.cr.domm.extractLsb' 41 23).toNat = ((s.core.cr.domm.extractLsb' 41 23).toNat + 1) % 2 ^ 23 ∧
        r.2 = BitVec.ofNat 64 (((s.core.cr.domm.extractLsb' 41 23).toNat + 1) % 2 ^ 23) ∧
        r.1.core.cr.domm.extractLsb' 8 32 = s.core.cr.domm.extractLsb' 8 32

/-- 09 R343, R350, R351; 01 R51: PHASE_COMPLETION advances PH of a barrier whose current phase has its arrivals, its bytes and a
name, and begins its release with the next cycle, or, at pod scope, at a tick at least 2,000 ns on; a domain's phase completes
when every member has arrived and its tagged commands are performed; POD_RELEASE_TICK begins the release of a pod's phase when
its tick has come; BARRIER_RELEASE ends the wait of a core whose cycle has come. 09 R343: when the current phase of a barrier is complete: its arrivals and its bytes, the writes that they release performed (04 R131),
and some phase not below it named. 09 R350: a waiter resumes φ × SPACE cycles after its release begins, and 0 to 3 more; φ is (PHV of its vale) mod (NPH + 1)
at plain scope, (PHV + plain) mod (NPH + 1) at a wider one; core and vale scope skip the sequencer. 09 R349: by
the settings with which the release began. Said of arrival barriers.
Model’s choices in it: log 7, 71. -/
def Obligations.BarriersRelease : Prop :=
  ((∀ (s : State),
    (∀ oid o, s.syncObj oid = some o → o.due = true →
      let y := fun (t0 : Option Nat) => { o with
        ph := o.ph + 1, phases := o.phases.filter (·.k != o.ph), past := ⟨o.ph, (o.phase o.ph).view, t0, s.bugles⟩ :: o.past }
      (oidScope oid ≠ 4 →
        exec (.phaseCompletion (.obj oid)) s = .next (s.setObj (y (some (s.cycle + 1)))).scheduleAll) ∧
      (oidScope oid = 4 → NextIs (exec (.phaseCompletion (.obj oid)) s) fun t => ∃ k, s.timer + 2000 ≤ k ∧
        t = State.sendAll { s.setObj (y none) with ticks := s.ticks ++ [(⟨.obj oid, o.ph, k⟩ : PodTick)] } 5 fun _ => Sent.podTick oid o.ph k)) ∧
    (∀ oid o, s.syncObj oid = some o → o.due = false → exec (.phaseCompletion (.obj oid)) s = .next s) ∧
    (∀ i dm, s.domain i = some dm →
      (s.domDue dm = true → exec (.phaseCompletion (.dom i)) s = .next (s.setDomain { dm with
        ph := dm.ph + 1, arrived := [], view := 0, wids := [], tagged := dm.tagged.filter (·.1 != dm.ph)
        past := ⟨dm.ph, s.phaseView dm, some (s.cycle + 1), s.bugles⟩ :: dm.past }).scheduleAll) ∧
      (s.domDue dm = false → exec (.phaseCompletion (.dom i)) s = .next s)) ∧
    (∀ oid o k, s.syncObj oid = some o → s.ticks.find? (fun t => t.obj == .obj oid && t.tick ≤ s.timer) = some k →
      exec (.podReleaseTick (.obj oid)) s = .next (({ s with ticks := s.ticks.filter (· != k) }.setObj { o with
        past := o.past.map fun (p : PastPhase) =>
          if p.k == k.phase then { p with t0 := some (s.cycle + 1), set := s.bugles } else p }).scheduleAll)) ∧
    NextIs (exec (.barrierRelease s.core.id) s) fun t =>
      (∀ o k c, s.core.cwait = .released o k c → c ≤ s.cycle + 1 →
        t.core.cwait = .departed o k (((s.pastOf o k).map PastPhase.view).getD 0)) ∧
      (∀ o k c, s.core.cwait = .released o k c → s.cycle + 1 < c → t.core = s.core) ∧ t.mem = s.mem) ∧
  ∀ (o : SyncObj), o.due = true ↔
    (o.oid.extractLsb' 28 4).toNat = 1 ∧ (o.phase o.ph).arr = o.na ∧ (o.phase o.ph).bytes = o.nb ∧ (o.phase o.ph).wids = [] ∧ ∃ n, o.named = some n ∧ o.ph ≤ n) ∧
  ∀ (s : State) (c : Core) (oid : BitVec 32) (o : SyncObj) (k t0 : Nat) (p : PastPhase),
    c.cwait = .barrier (.obj oid) k → s.syncObj oid = some o → o.past.find? (·.k == k) = some p → p.t0 = some t0 →
    let scope := (oid.extractLsb' 25 3).toNat
    let home := (oid.extractLsb' 21 2).toNat
    let b := vget p.set .reset (if scope = 2 then c.id.plain else home)
    let phv := (((if c.id.vale < 16 then b.ph0 else b.ph1).extractLsb' (4 * (c.id.vale % 16)) 3)).toNat
    let nph := (b.space.extractLsb' 8 3).toNat
    let space := max 1 (b.space.extractLsb' 0 8).toNat
    let φ := if scope ≤ 1 then 0 else if scope = 2 then phv % (nph + 1) else (phv + c.id.plain) % (nph + 1)
    ∃ r, (schedule s c).cwait = .released (.obj oid) k r ∧ t0 + φ * space ≤ r ∧ r ≤ t0 + φ * space + 3

/-! ## Time, counts and statements (06 R223 to R226) -/

/-- 06 R223 to R225: TIME, CYC and ACRD read the timer, a counter of the core and a word of the account's page, in their issue
cycle; indices of 512 and above read 0. 06 R226; 16 R478: STMT checks its buffer, reads the nonce and waits until its statement is written at a tick; in a run of a
dual launch it is the privilege fault. A buffer that holds an uncorrectable error, or whose pre-image is still to be taken,
stops it as any store of C.
Model’s choices in it: log 10, 18, 82. -/
def Obligations.CountersAreRead : Prop :=
  (∀ (m : Marks) (x : Bool) (d a : Fin 32) (s u : State), Admits .c (xWords x) m s u →
    let put := fun (w : Word) => Host.Outcome.next (finish .c (xWords x) m 1 (u.putC 1 d w))
    exec (.time m x d) s = put (BitVec.ofNat 64 u.timer) ∧
    exec (.cyc m x d 0) s = put (BitVec.ofNat 64 (u.cycle - u.core.cr.cyc0)) ∧
    exec (.cyc m x d 1) s = put (BitVec.ofNat 64 u.core.r.eC.walked) ∧
    exec (.cyc m x d 2) s = put (BitVec.ofNat 64 u.core.r.eA.walked) ∧
    exec (.cyc m x d 3) s = put (BitVec.ofNat 64 u.core.r.eM.walked) ∧
    exec (.cyc m x d 4) s = put (BitVec.ofNat 64 u.core.r.eV.walked) ∧
    exec (.cyc m x d 5) s = put (BitVec.ofNat 64 u.core.r.eS.walked) ∧
    exec (.acrd m x d a) s =
      put (if 512 ≤ (u.sReg a).toNat then 0 else u.pageWord u.core.cr.acctid.toNat (u.sReg a).toNat)) ∧
  ∀ (m : Marks) (x : Bool) (d a : Fin 32) (s u : State), Admits .c (xWords x) m s u →
    let va := u.sReg a
    let dual := ((u.gang u.core.launch).map Gang.dual).getD false
    (dual = true → exec (.stmt m x d a) s = .next (raise .c (causeAt u .c 0x02 0) s)) ∧
    (dual = false → 2 ^ 55 ≤ va.toNat →
      exec (.stmt m x d a) s = .next (raise .c (xCause u .c va ⟨0x10, 0, false, false, 0⟩) s)) ∧
    (dual = false → va.toNat < 2 ^ 55 → va.toNat % 4096 ≠ 0 →
      exec (.stmt m x d a) s = .next (raise .c { causeAt u .c 0x13 0 with addr := va } s)) ∧
    (dual = false → va.toNat < 2 ^ 55 → va.toNat % 4096 = 0 → ∀ ws t loc t2, readWords va 4 u = .ok (ws, t) →
      t.translate .c .c true va = .ok (loc, t2) →
      (∀ i, i < 522 → t2.isSealed t2.vf (va.toNat + 32 + i) ((loc.byte 32).byte i) = false) →
      (∀ v, t2.okWrite .c ((loc.byte 32).pieces 522) = .ok v → t2.preimage va loc = .ok () →
      NextIs (exec (.stmt m x d a) s) fun r =>
        (r.eng .c).stall = some t2.nextId ∧ r.mem = t2.mem ∧
          r.books.pledges = t2.books.pledges ++ [⟨t2.core.id, t2.core.launch, t2.nextId, t2.core.cr.acctid.toNat, t2.vf, va,
            ws.flatMap fun w => valBytes w.toNat 8⟩]) ∧
      (∀ st, t2.okWrite .c ((loc.byte 32).pieces 522) = .error st → exec (.stmt m x d a) s = stopped .c st s) ∧
      ∀ v st, t2.okWrite .c ((loc.byte 32).pieces 522) = .ok v → t2.preimage va loc = .error st →
        exec (.stmt m x d a) s = stopped .c st s)

/-! ## Control registers and levels (13 R394 to R397, R413, R415) -/

/-- 13 R394, R397, R413, R415: CRR and CRW of a number that no map names are illegal, detail 4; below a register's least level,
and for a write that no level may make, they take the privilege fault; else CRR reads the register in its issue cycle and CRW's
value is written from the next cycle on, VOVF's before the additions of its own (02 R78). 13 R396: the map of the control registers: their numbers, and the least levels that read and write them; 0 user, 1 guest, 2
hyper, 3 maker. 13 R395, R401, R415, R418; 01 R19; 08 R291; 09 R349: what a written value leaves in a register: SLIPW is held to 16 to 4,096,
PAGERLV to 1 to 2, LEASEB to 1 to 256; ERETPC keeps 15 bits, ACCTID 12; BSPACE's SPACE is at least 1.
Model’s choices in it: log 50. -/
def Obligations.ControlRegistersAreReadAndWritten : Prop :=
  ((∀ (m : Marks) (d a : Fin 32) (num : BitVec 12) (s u : State), Admits .c 2 m s u →
    let lvl := u.core.cr.lvl.toNat
    let w := u.sReg a
    (ctlLevels num.toNat = none → exec (.crr m d num) s = .next (raise .c (causeAt u .c 0x01 4) s) ∧
      exec (.crw m a num) s = .next (raise .c (causeAt u .c 0x01 4) s)) ∧
    ∀ rd wr, ctlLevels num.toNat = some (rd, wr) →
      (lvl < rd → exec (.crr m d num) s = .next (raise .c (causeAt u .c 0x02 0) s)) ∧
      (rd ≤ lvl → exec (.crr m d num) s = .next (finish .c 2 m 1 (u.putC 1 d (u.ctlRead num.toNat)))) ∧
      ((wr = none ∨ ∃ k, wr = some k ∧ lvl < k) → exec (.crw m a num) s = .next (raise .c (causeAt u .c 0x02 0) s)) ∧
      ∀ k, wr = some k → k ≤ lvl →
        (num ≠ 0x005 → exec (.crw m a num) s = .next (finish .c 2 m 1
          { u with ctl := u.ctl ++ [⟨u.core.id, lvl, u.selVf, num.toNat, w⟩] })) ∧
        (num = 0x005 → exec (.crw m a num) s = .next (finish .c 2 m 1
          (u.modCr fun r => { r with vovf := w.extractLsb' 0 32 })))) ∧
  (∀ r ∈ ([(0x000, 0, none), (0x001, 0, none), (0x002, 0, none), (0x003, 0, none), (0x004, 0, some 0), (0x005, 0, some 0),
      (0x006, 0, none), (0x020, 1, none), (0x021, 1, none), (0x022, 1, none), (0x023, 1, none), (0x024, 1, none),
      (0x025, 1, some 1), (0x026, 1, some 2), (0x027, 0, none), (0x030, 0, some 2), (0x031, 0, some 2), (0x032, 0, some 2),
      (0x033, 0, some 2), (0x040, 0, none), (0x041, 2, none), (0x042, 2, none), (0x050, 1, some 2), (0x051, 1, some 2),
      (0x052, 1, some 2), (0x053, 1, some 2), (0x054, 1, some 2), (0x055, 1, some 2)] : List (Nat × Nat × Option Nat)),
    ctlLevels r.1 = some r.2) ∧
  (∀ k, k < 16 → ctlLevels (0x010 + k) = some (0, none)) ∧ (∀ k, k < 8 → ctlLevels (0x060 + k) = some (0, none)) ∧
  ∀ n ∈ [0x007, 0x00F, 0x028, 0x02F, 0x034, 0x043, 0x04F, 0x056, 0x05F, 0x068, 0x07F], ctlLevels n = none) ∧
  ∀ (s : State) (w : Word) (c : CoreId) (lvl : Nat), s.core.id.plain < 4 →
    let after := fun (n : Nat) => (s.ctlWrite ⟨c, lvl, s.selVf, n, w⟩).ctlRead n
    let f := fun (lo n : Nat) => (w.extractLsb' lo n).toNat
    (after 0x004).toNat = max 16 (min 4096 (f 0 13)) ∧ (after 0x025).toNat = f 0 15 ∧
    (after 0x026).toNat = max 1 (min 2 (f 0 2)) ∧ (after 0x030).toNat = max 1 (min 256 (f 0 9)) ∧
    (after 0x040).toNat = f 0 12 ∧ (after 0x031).toNat = max 1 (f 0 8) + 256 * f 8 3 ∧
    after 0x032 = w &&& 0x7777777777777777 ∧ after 0x033 = w &&& 0x7777777777777777

/-! ## Traps (13 R399 to R406, R414) -/

/-- 13 R400 to R402: entry takes the pending cause of highest priority and records it; ERETPC is C's word that has not issued;
the level becomes PAGERLV's; C is in the shadow context at word 0 with no loop active; nothing else of the core changes, and
nothing of memory. 13 R399: of the pending causes, none comes before the one taken: none has a lower priority number, and among equals none
an earlier unit.
Model’s choices in it: log 13, 32, 38. -/
def Obligations.TrapEntryRecordsTheCause : Prop :=
  (∀ (s : State) (c : CauseRec) (p : Nat), firstCause s.core.cr.pending = some c →
    let t := takeTrap p s
    let w := t.core.cr.cause
    (w.extractLsb' 0 8).toNat = c.code % 256 ∧ (w.extractLsb' 8 3).toNat = c.unit % 8 ∧ w.getLsbD 11 = c.imp ∧
      w.getLsbD 12 = s.core.r.eC.halted ∧ w.extractLsb' 13 2 = s.core.cr.lvl ∧
      w.getLsbD 15 = !(dropCause c s.core.cr.pending).isEmpty ∧ (w.extractLsb' 16 16).toNat = c.detail % 65536 ∧
      w.extractLsb' 32 32 = 0 ∧
    t.core.cr.trapPc = BitVec.ofNat 64 c.pc ∧ t.core.cr.trapWord = c.word ∧ t.core.cr.trapAddr = c.addr ∧
      t.core.cr.trapPos = c.pos ∧ t.core.cr.eretPc = BitVec.ofNat 64 (p % 2 ^ 15) ∧
      t.core.cr.pending = dropCause c s.core.cr.pending ∧ t.core.cr.lvl = s.pagerLevel ∧ t.core.cr.shd = true ∧
      t.core.cr.sh.pc = 0 ∧ t.core.cr.sh.levels = [] ∧
    t.core.r = s.core.r ∧ t.core.cr.h = s.core.cr.h ∧ t.core.xp = s.core.xp ∧ t.mem = s.mem) ∧
  ∀ (cs : List CauseRec) (c : CauseRec), firstCause cs = some c → c ∈ cs ∧ ∀ d ∈ cs,
    causePrio c.code c.unit ≤ causePrio d.code d.unit ∧ (causePrio c.code c.unit = causePrio d.code d.unit → c.unit ≤ d.unit)

/-- 13 R402, R404, R406, R414: TRAP n raises cause 0x03 with DETAIL n, which C takes right after it among what is pending;
outside the shadow context ERET takes the privilege fault; in it, it returns: to the level of CAUSE.PLV, to ERETPC (or to the beginning of the run
that meets it), C halted
where CAUSE.CH says so. Said of an ERET with no pending record rewritten. 13 R404: in the shadow context a word with a dependence mark, an instruction that it does not admit, and a cause of C's own
instruction are double traps: the core stops, and its status names both causes. Said of the core in focus: the other cores of its gang
stop in the step that completes the gang, which O48 and O49 state.
Model’s choices in it: log 13, 31, 32. -/
def Obligations.TrapAndReturn : Prop :=
  (∀ (m : Marks) (x : Bool) (n : BitVec 12) (s u : State), Admits .c (xWords x) m s u →
    (s.inShadow = false →
      let t := finish .c (xWords x) m 1 (u.modCr fun r => { r with pending := r.pending ++ [causeAt u .c 0x03 n.toNat] })
      exec (.trap m x n) s = .next (takeTrap t.core.r.eC.pc t) ∧
      ∀ ab, exec (.eret m x ab) s = .next (raise .c (causeAt u .c 0x02 0) s)) ∧
    (s.inShadow = true → exec (.trap m x n) s = .next (doubleTrap 0x03 s) ∧
      exec (.eret m x true) s = .next (abandonGang (finish .c (xWords x) m 1 u)) ∧
      (u.core.overlay = [] → NextIs (exec (.eret m x false) s) fun t =>
        t.core.cr.shd = false ∧ t.core.cr.lvl = u.core.cr.cause.extractLsb' 13 2 ∧
        (let target := (u.core.cr.eretPc.extractLsb' 0 15).toNat
         t.pcOf .c = target ∨
           (t.pcOf .c = u.core.r.eC.pc ∧ Eng.runMeets .c u.core.text target 8 8 u.core.r.eC = true)) ∧ (t.eng .c).halted = u.core.cr.cause.getLsbD 12 ∧
        t.core.r.s = u.core.r.s ∧ t.core.cr.h = u.core.cr.h ∧ t.mem = s.mem))) ∧
  ∀ (s : State), s.inShadow = true →
    (∀ code, let t := doubleTrap code s
      t.core.st = .stopped ∧ t.core.frozen = true ∧ t.core.r = s.core.r ∧ t.core.cr = s.core.cr ∧
        (t.core.status.extractLsb' 0 8).toNat = code % 256 ∧
        t.core.status.extractLsb' 8 8 = s.core.cr.cause.extractLsb' 0 8) ∧
    (∀ c, c.code ≠ 0x3E → c.code ≠ 0x01 → raise .c c s = doubleTrap c.code s) ∧
    (∀ (m : Marks) (d a b : Fin 32), m ≠ .none → exec (.add m d a (.reg b)) s = .next (doubleTrap 0x01 s)) ∧
    ∀ (m : Marks) (x k c : Bool) (d a : Fin 32) (set : BitVec 4) (off : BitVec 16) (f : Fin 16) (n : BitVec 8) (h : BitVec 5),
      ∀ i ∈ [Instr.cbc m set a, .sendv m set a, .launch m d a, .br m .c k off, .bcq m .c k c off, .fset m .c f n,
        .fwait m .c f n, .mark m .c n x, .halt m .c, .breath m .c h, .open m x d a, .openw m x d a, .close m x d a,
        .hqry m x d a, .seal m x d a, .rbstg m x d a, .rbcmt m x d, .rbabt m x d, .rclm m x d a, .sacq m x a, .srel m x a,
        .bara m x d a, .barw m x d a, .baraw m x d a, .waitmk m x d a, .rbndr m x d a, .ubndr m x a],
        exec i s = .next (doubleTrap 0x01 s)

/-! ## System instructions (13 R413 to R428) -/

/-- 13 R416 to R428: what the system instructions do at their level. TLBI drops translations and waits for its response; SNAPRD
and SNAPWR read and write words of the frozen core; WPSET sets a watchpoint and ACSW the account, from the next cycle; PREEMPT
asks for a stop, frees a held gang (19 R508: once the COPYX commands that name its cores complete), or answers why not; KEYSEL takes a slot, a new key where asked, and answers the slot's counter; HOLLOW waits
for the wake. 13 R394, R413, R416: below its least level a system instruction takes the privilege fault and does nothing: TLBI guest, and
hyper for type 2; SNAPRD and SNAPWR guest, and the shadow context; ACSW and KEYSEL hyper; PREEMPT guest; HOLLOW maker.
Model’s choices in it: log 9, 51, 52, 62, 77. -/
def Obligations.SystemInstructionsAct : Prop :=
  (∀ (m : Marks) (x : Bool) (d a : Fin 32) (s u : State),
    (∀ t, Admits .c (optWords t) m s u → (if t = some 2 then 2 else 1) ≤ u.core.cr.lvl.toNat →
      let v := u.tlbi ((t.map BitVec.toNat).getD 0) (u.sReg a).toNat
      exec (.tlbi m a t) s = .next (finishLoad .c (optWords t) m v.nextId (v.awaitReg .c .nothing []).1)) ∧
    (Admits .c (xWords x) m s u →
      let n := xWords x
      let lvl := u.core.cr.lvl.toNat
      let w := u.sReg a
      let w1 := u.sReg (nextReg a 1)
      let dual := ((u.gang u.core.launch).map Gang.dual).getD false
      (u.inShadow = true → 1 ≤ lvl →
        exec (.snaprd m x d a) s = .next (finish .c n m 1
          (u.putC 1 d (snapWord u.core u.reads u.pagerLevel u.cycNow w.toNat))) ∧
        let st := snapStatus lvl w.toNat w1
        exec (.snapwr m x d a) s = .next (finish .c n m 1 ((if st = 0
          then u.modCore fun c => if ownShadow w.toNat then { c with overlay := assocSet w.toNat w1 c.overlay } else putWord c w.toNat w1
          else u).putC 1 d (BitVec.ofInt 64 st)))) ∧
      (∀ k : BitVec 2, exec (.wpset m x k a) s = .next (finish .c n m 1
        ((u.ctlLater (0x60 + k.toNat) (wpWord w (w1.extractLsb' 16 2).toNat)).ctlLater (0x64 + k.toNat)
          ((w1.extractLsb' 0 16).setWidth 64)))) ∧
      (2 ≤ lvl →
        (16 ≤ w.toNat ∧ w.toNat ≤ 4095 → exec (.acsw m x d a) s =
          .next (finish .c n m 1 ((u.ctlLater 0x40 w).putC 1 d (u.core.cr.acctid.setWidth 64)))) ∧
        (¬ (16 ≤ w.toNat ∧ w.toNat ≤ 4095) → exec (.acsw m x d a) s = .next (finish .c n m 1 (u.putC 1 d (-1)))) ∧
        let k := (w.extractLsb' 0 6).toNat
        ((w.extractLsb' 6 2 ≠ 0 ∨ w.extractLsb' 9 55 ≠ 0) → exec (.keysel m x d a) s = .next (finishReply n m d (-1) u)) ∧
        (w.extractLsb' 6 2 = 0 → w.extractLsb' 9 55 = 0 → ∃ key,
          let v := if w.getLsbD 8 then (u.setKeySlot k (key, 0)).tick else u
          exec (.keysel m x d a) s = .next (finishReply n m d (v.keySlot k).2
            (v.modCr fun r => { r with keyslot := BitVec.ofNat 7 (64 + k) })))) ∧
      (1 ≤ lvl → dual = false →
        let l := (w.extractLsb' 0 32).toNat
        let hold := w.getLsbD 32
        let free := w.getLsbD 33
        (w.extractLsb' 34 30 ≠ 0 ∨ (hold = true ∧ free = true) →
          exec (.preempt m x d a) s = .next (finishReply n m d (-3) u)) ∧
        (w.extractLsb' 34 30 = 0 → ¬ (hold = true ∧ free = true) →
          (∀ k, u.preemptBad l free = some k → exec (.preempt m x d a) s = .next (finishReply n m d (BitVec.ofInt 64 k) u)) ∧
          (u.preemptBad l free = none →
            (free = true → u.unacked .c = [] → exec (.preempt m x d a) s = .next (finishReply n m d 0 (u.freeGangs l)) ∧
              ((∀ g ∈ u.runsOf l, u.copyxOf g = []) → u.freeGangs l =
                u.mapGangs l fun g => { g with hold := false, view := g.view ||| (u.eng .c).view }) ∧
              ∀ g ∈ u.disp.gangs, g.pk.launch = l → g.ended = false → ∀ k ∈ u.copyxOf g, (k, g.key) ∈ (u.freeGangs l).frees) ∧
            (free = true → u.unacked .c ≠ [] → exec (.preempt m x d a) s = .next (stalled .c .mem s)) ∧
            let v := u.mapGangs l fun g => { g with
              st := .stopping, hold := g.hold || hold
              quit := if g.key == u.core.launch then u.core.id :: g.quit else g.quit }
            (free = false → (∃ g ∈ u.runsOf l, g.key = u.core.launch) →
              exec (.preempt m x d a) s = .next (finish .c n m 1 (v.putC 1 d 0))) ∧
            (free = false → (∀ g ∈ u.runsOf l, g.key ≠ u.core.launch) → NextIs (exec (.preempt m x d a) s) fun t =>
              (t.eng .c).stall = some u.nextId ∧ t.disp.asked = u.disp.asked ++ [⟨u.core.id, u.nextId, l⟩] ∧
                t.disp.gangs = v.disp.gangs)))) ∧
      (lvl = 3 → dual = false → NextIs (exec (.hollow m x d) s) fun t =>
        (t.eng .c).stall = some u.nextId ∧ t.core.cwait = .hollow u.nextId ∧ t.pcOf .c = (finish .c n m 1 u).pcOf .c))) ∧
  ∀ (m : Marks) (x : Bool) (d a : Fin 32) (s u : State),
    (∀ t, Admits .c (optWords t) m s u →
      u.core.cr.lvl.toNat < (if t = some 2 then 2 else 1) → exec (.tlbi m a t) s = .next (raise .c (causeAt u .c 0x02 0) s)) ∧
    (Admits .c (xWords x) m s u →
      let fault := Host.Outcome.next (raise .c (causeAt u .c 0x02 0) s)
      (u.inShadow = false ∨ u.core.cr.lvl.toNat < 1 →
        exec (.snaprd m x d a) s = fault ∧ exec (.snapwr m x d a) s = fault) ∧
      (u.core.cr.lvl.toNat < 1 → exec (.preempt m x d a) s = fault) ∧
      (u.core.cr.lvl.toNat < 2 → exec (.acsw m x d a) s = fault ∧ exec (.keysel m x d a) s = fault) ∧
      (u.core.cr.lvl.toNat < 3 → exec (.hollow m x d) s = fault))

/-! ## The A engine (06 R227 to R243; 03 R94 to R119) -/

namespace Sys2Proof.Machine

/-- The arithmetic of A (06 R229): the operation of C that it computes as. -/
def aOps (m : Marks) (d : Fin 16) (a : ASrc) (b : AOp) : List (IntOp × Nat × Instr) :=
  [(.add, 1, .aadd m d a b), (.sub, 1, .asub m d a b), (.addq, 1, .aaddq m d a b), (.mul, 2, .amul m d a b),
    (.sll, 1, .asll m d a b), (.srl, 1, .asrl m d a b)]

end Sys2Proof.Machine

/-- 06 R231 to R233, R190: ALD waits for its value; the queue loads reserve an entry of lq, or wait for one, and go on, with the
block that their reads return on its way: 256 bytes at va, or 64 elements of 4 bytes at va + j × stride, or at va + 4 × x_j, an
index 0xFFFF_FFFF reading nothing and giving 0. LDQX reads its indices from scratch. LDRO reads bytes of sealed objects held
open, and takes the read-only fault at the first that is not. A read that faults stops A with the entry freed. 06 R227, R233; 03 R101, R106, R107: the checks of an A access of n bytes before translation, in their order: the form of the
address, alignment, the window.
Model’s choices in it: log 5, 16, 37, 83. -/
def Obligations.LoadsOfA : Prop :=
  (∀ (m : Marks) (d : Fin 16) (q : Fin 4) (a b : ASrc) (s u : State),
    (∀ o, Admits .a (optWords o) m s u →
      let va := u.aSrc a + ldOff o
      (∀ r, u.readA .a (.strm 2) va (ldSize o) (ldSize o) = .ok r →
        exec (.ald m d a o) s = .next (finishLoad .a (optWords o) m r.st.nextId
          (r.st.awaitReg .a (.a d (extend (ldSize o) (ldSigned o) r.bytes)) r.far [(va.toNat, ldSize o)]).1)) ∧
      ∀ st, u.readA .a (.strm 2) va (ldSize o) (ldSize o) = .error st → exec (.ald m d a o) s = stopped .a st s) ∧
    (∀ o, Admits .a (optWords o) m s u → u.core.r.qRoom (.lq q) 1 = false →
      ∀ i ∈ [Instr.ldq m q a o, .ldqs m q a b o, .ldqx m q a b o, .ldro m q a o], exec i s = .next (stalled .a .resv s)) ∧
    (∀ o, Admits .a (optWords o) m s u → u.core.r.qRoom (.lq q) 1 = true →
      let va := u.aSrc a + aOff o
      let k := u.core.r.qReserve (.lq q)
      let t := u.modR fun _ => k.1
      let go := fun (r : ARead) (elems : List (Nat × Nat)) => Host.Outcome.next (finishLoad .a (optWords o) m r.st.nextId
        (r.st.await .a (.slot q k.2 (blockOf r.bytes)) r.far elems).1)
      let block := fun (addr : Nat → Option Word) (v : State) =>
        readElems .a (.strm 2) 4 4 [0, 0, 0, 0] addr (fun _ c => c) 64 0 v
      let row := fun (x : Word) (j : Nat) => some (x + BitVec.ofNat 64 (4 * j))
      let step := fun (j : Nat) => some (va + BitVec.ofNat 64 j * u.aSrc b)
      (∀ r, block (row va) t = .ok r → exec (.ldq m q a o) s = go r [(va.toNat, 256)]) ∧
      (∀ st, block (row va) t = .error st → exec (.ldq m q a o) s = stopped .a st s ∧ exec (.ldro m q a o) s = stopped .a st s) ∧
      (∀ r, block step t = .ok r → exec (.ldqs m q a b o) s = go r (elemList step)) ∧
      (∀ st, block step t = .error st → exec (.ldqs m q a b o) s = stopped .a st s) ∧
      ((u.aSrc b).getLsbD 63 = false →
        exec (.ldqx m q a b o) s = .next (raise .a { causeAt u .a 0x14 0 with addr := u.aSrc b } s)) ∧
      ((u.aSrc b).getLsbD 63 = true → ∀ x, block (row (u.aSrc b)) t = .ok x →
        let picked := fun (j : Nat) =>
          let i := bytesVal ((x.bytes.drop (4 * j)).take 4)
          if i = 0xFFFFFFFF then none else some (va + BitVec.ofNat 64 (4 * i))
        (∀ r, block picked x.st = .ok r → exec (.ldqx m q a b o) s = go r (elemList picked)) ∧
        ∀ st, block picked x.st = .error st → exec (.ldqx m q a b o) s = stopped .a st s) ∧
      (∀ r, block (row va) t = .ok r →
        ((va.getLsbD 63 = false ∧ ∀ i, i < 256 → u.heldOpen (va.toNat + i) = true) →
          exec (.ldro m q a o) s = go r [(va.toNat, 256)]) ∧
        (va.getLsbD 63 = true → exec (.ldro m q a o) s = .next (raise .a { causeAt u .a 0x16 0 with addr := va } s)) ∧
        ∀ k, k < 256 → va.getLsbD 63 = false → (∀ i, i < k → u.heldOpen (va.toNat + i) = true) →
          u.heldOpen (va.toNat + k) = false → exec (.ldro m q a o) s =
            .next (raise .a { causeAt u .a 0x16 0 with addr := va + BitVec.ofNat 64 (k / 4 * 4) } s)))) ∧
  ∀ (s : State) (e : Engine) (va : Word) (n align : Nat), 0 < n →
    let o := (va.extractLsb' 0 63).toNat
    let lo := (s.core.cr.spw.extractLsb' 0 11).toNat * 4096
    let hi := lo + (s.core.cr.spw.extractLsb' 16 12).toNat * 4096
    let scratch := va.getLsbD 63
    let bad := scratch = true ∧ va.extractLsb' 23 40 ≠ 0
    let far := scratch = false ∧ va.extractLsb' 55 8 ≠ 0
    let odd := va.toNat % align ≠ 0
    let out := scratch = true ∧ (o < lo ∨ hi ≤ o ∨ o + n - 1 < lo ∨ hi ≤ o + n - 1)
    (bad → checkA s e va n align = .error (.trap { causeAt s e 0x14 0 with addr := va })) ∧
    (far → checkA s e va n align = .error (.trap (xCause s e va ⟨0x10, 0, false, false, 0⟩))) ∧
    (¬ bad → ¬ far → odd → checkA s e va n align = .error (.trap { causeAt s e 0x13 0 with addr := va })) ∧
    (¬ bad → ¬ far → ¬ odd → out → checkA s e va n align = .error (.trap { causeAt s e 0x14 0 with addr := va })) ∧
    (¬ bad → ¬ far → ¬ odd → ¬ out → checkA s e va n align = .ok ())

/-- 06 R234, R236, R400: AGC takes the descriptor fault, with its check number, on a record in generic memory or not aligned to
64, on a non-zero Z bit, on a scratch tensor that breaks R97, on ES = 3 or a tile length of 0, on SH or TLEN without an indirect
dimension; A stalls until the record has been read, and then AGC loads it, at step 0, and starts the read of the first table entry. 03 R114 to R116; 06 R235: where the elements of a generator's block lie. Element j of step s, whose coordinates are the tile's
origin and the step's indices, lies at BASE + c0 × size and what the other dimensions contribute: the coordinate × its stride,
and for the indirect one, with table entry e, e × PS + (c mod 2^h) × stride; and the table index is c >> h. 06 R236, 03 R97: the records that AGC accepts.
Model’s choices in it: log 37, 60, 79. -/
def Obligations.GeneratorsAreLoaded : Prop :=
  ((∀ (m : Marks) (g : Fin 2) (a : ASrc) (off : BitVec 24) (s u : State), Admits .a 2 m s u →
    let va := u.aSrc a + BitVec.ofInt 64 off.toInt
    let fault := fun (k : Nat) => Host.Outcome.next (raise .a (causeAt u .a 0x20 (k + 16 * g.val)) s)
    ((va.getLsbD 63 = false ∨ va.toNat % 64 ≠ 0) → exec (.agc m g a off) s = fault 7) ∧
    (va.getLsbD 63 = true → va.toNat % 64 = 0 → u.core.agc ≠ some (u.pcOf .a) → (s.eng .a).wait ≠ .breath →
      NextIs (exec (.agc m g a off) s) fun t => (t.eng .a).wait = .mem ∧ t.core.r.g = s.core.r.g ∧ t.mem = s.mem ∧
        ∃ r ∈ t.reads, r.core = s.core.id ∧ r.arr = .record) ∧
    (va.getLsbD 63 = true → va.toNat % 64 = 0 → u.core.agc = some (u.pcOf .a) → ∀ r,
      readElems .a (.strm 2) 4 4 [] (fun j => some (va + BitVec.ofNat 64 (4 * j))) (fun _ c => c) 32 0 u = .ok r →
      let x : Gen := { Gen.reset with recd := recordOf r.bytes, loaded := true, view := (u.eng .a).view }
      (∀ k, x.check = some k → exec (.agc m g a off) s = fault k) ∧
      (x.check = none → exec (.agc m g a off) s = .next (finish .a 2 m 1 ((r.st.setGen g
        (if x.ind ≠ 0 ∧ x.tabOk (x.tabIdx 0) = true then { x with ahead := .start (u.eng .a).view (x.tabIdx 0) } else x)).modCore
          fun c => { c with agc := none }))))) ∧
  ∀ (g : Gen) (s e j : Nat),
    let rec32 := fun (w : Fin 16) (hi : Bool) => (g.recd[w].extractLsb' (if hi then 32 else 0) 32).toNat
    let tl0 := (g.recd[6].extractLsb' 32 16).toNat
    let tl1 := (g.recd[6].extractLsb' 48 16).toNat
    let tl2 := (g.recd[7].extractLsb' 0 16).toNat
    let size := 2 ^ (g.recd[7].extractLsb' 32 2).toNat
    let c0 := rec32 3 false + s % tl0 * (256 / size) + j
    let c := fun (i : Nat) => if i = 1 then rec32 3 true + s / tl0 % tl1 else if i = 2 then rec32 4 false + s / (tl0 * tl1) % tl2
      else rec32 4 true + s / (tl0 * tl1 * tl2) % (g.recd[7].extractLsb' 16 16).toNat
    let stride := fun (i : Nat) => if i = 1 then (g.recd[5].extractLsb' 0 32).toInt
      else if i = 2 then (g.recd[5].extractLsb' 32 32).toInt else (g.recd[6].extractLsb' 0 32).toInt
    let ind := (g.recd[7].extractLsb' 40 2).toNat
    let h := (g.recd[7].extractLsb' 42 4).toNat
    let part := fun (i : Nat) =>
      if i = ind then (e : Int) * g.recd[8].toInt + ((c i % 2 ^ h : Nat) : Int) * stride i else (c i : Int) * stride i
    g.addr s e j = BitVec.ofInt 64 ((g.recd[0].toNat : Int) + (c0 * size : Nat) + part 1 + part 2 + part 3) ∧
      (ind ≠ 0 → g.tabIdx s = c ind / 2 ^ h)) ∧
  ∀ (g : Gen),
    let f := fun (w : Fin 16) (lo n : Nat) => (g.recd[w].extractLsb' lo n).toNat
    let scratch := g.recd[0].getLsbD 63
    let rot := f 7 34 5
    (g.check = none ↔
      (f 7 39 1 = 0 ∧ f 7 46 18 = 0 ∧ f 9 23 9 = 0 ∧ f 10 32 32 = 0 ∧ (∀ w : Fin 16, 11 ≤ w.val → g.recd[w] = 0) ∧
        (scratch = false → rot = 0)) ∧
      (scratch = true → rot ≠ 0 → (g.recd[5].extractLsb' 0 32).toInt % 2048 = 0 ∧ f 6 32 16 * 256 ≤ 2048) ∧
      f 7 32 2 ≠ 3 ∧ f 6 32 16 ≠ 0 ∧ f 6 48 16 ≠ 0 ∧ f 7 0 16 ≠ 0 ∧ f 7 16 16 ≠ 0 ∧
      (f 7 40 2 = 0 → f 7 42 4 = 0 ∧ f 9 32 32 = 0))

/-- 06 R237 to R239; 03 R117, R118: AGLD reserves an entry of lq and AGSA one of saq, or waits, and advances the step; what AGLD
reads fills the entry, what AGSA pushes is the block's address with the mask of the bytes inside. A generator that none has
loaded is descriptor fault 6; an index at or beyond TLEN is the indirect-table fault, and an entry outside the window the window
fault; while the table entry is being read, A
waits. 03 R118: GENERATOR_TABLE_READ ends the reads of a generator that have run for 6 cycles: each holds its entry, read from the
table in scratch; a read that has run for fewer goes on.
Model’s choices in it: log 37, 79. -/
def Obligations.GeneratorsProduceBlocks : Prop :=
  (∀ (m : Marks) (g : Fin 2) (q : Fin 4) (s u : State), Admits .a 1 m s u →
    let t := u.endReads g 5
    let x := t.gen g
    (x.steps = 0 → ∀ i ∈ [Instr.agld m g q, .agsa m g],
      exec i s = .next (raise .a (genCause u g 0x20 (6 + 16 * g.val) 0) s)) ∧
    (x.steps ≠ 0 → x.ind ≠ 0 → x.inside x.step ≠ 0 → x.tlen ≤ x.tabIdx x.step → ∀ i ∈ [Instr.agld m g q, .agsa m g],
      exec i s = .next (raise .a { genCause u g 0x17 0 0 with addr := 0 } s)) ∧
    (x.steps ≠ 0 → x.ind ≠ 0 → x.inside x.step ≠ 0 → x.tabIdx x.step < x.tlen → ∀ y, x.entry (x.tabIdx x.step) = some y →
      y.rdg = false →
      let at' := x.tbase + 4 * x.tabIdx x.step
      let lo := (t.core.cr.spw.extractLsb' 0 11).toNat * 4096
      let hi := lo + (t.core.cr.spw.extractLsb' 16 12).toNat * 4096
      (2 ^ 23 < at' + 4 ∨ at' < lo ∨ hi < at' + 4) → ∀ i ∈ [Instr.agld m g q, .agsa m g],
        exec i s = .next (raise .a { genCause u g 0x14 0 0 with addr := BitVec.ofNat 64 (2 ^ 63 + at' % 2 ^ 23) } s)) ∧
    (x.steps ≠ 0 → (s.eng .a).wait ≠ .breath → ∀ y, x.need t.core.cr.spw = .wait y → ∀ i ∈ [Instr.agld m g q, .agsa m g],
      NextIs (exec i s) fun r => (r.eng .a).wait = .table ∧ r.core.r.lq = s.core.r.lq ∧ r.mem = s.mem) ∧
    (x.steps ≠ 0 → t.bad = [] → t.soft = [] → t.plat.noSteppe = false → ∀ e, x.need t.core.cr.spw = .entry e →
      (t.core.r.qRoom (.lq q) 1 = true →
        let k := t.core.r.qReserve (.lq q)
        ∀ r, genRead (t.modR fun _ => k.1) g x e = .ok r →
          let v := r.st.setGen g x.advance
          exec (.agld m g q) s = .next (finishLoad .a 1 m v.nextId
            (v.await .a (.slot q k.2 (blockOf r.bytes)) r.far (x.pieces e)).1)) ∧
      (t.core.r.qRoom .saq 1 = true → ∃ y : SaqEntry,
        y.addr = x.addr x.step e 0 ∧ y.agsa = true ∧ y.step = x.step ∧ y.gen = g.val ∧ y.word = u.pcOf .a ∧
        (∀ b, b < 256 → y.mask.getLsbD b =
          decide (¬ (x.ind ≠ 0 ∧ e = 0xFFFFFFFF) ∧ b < x.inside x.step * x.esize)) ∧
        (y.rot = if isScratch x.base = true then x.rot else 0) ∧
        exec (.agsa m g) s = .next (finish .a 1 m 1 ((t.modR fun r =>
          { r with saq := r.saq.push r.nextSid y, nextSid := r.nextSid + 1 }).setGen g x.advance)))) ∧
    x.advance.step = if x.steps ≤ x.step + 1 then 0 else x.step + 1) ∧
  ∀ (g : Fin 2) (s : State), NextIs (exec (.generatorTableRead g) s) fun t =>
    (∀ (x : TabEntry), x = (s.gen g).cur → (x.rdg = false ∨ x.rcy < 6) → (t.gen g).cur = x) ∧
    ((s.gen g).cur.rdg = true → 6 ≤ (s.gen g).cur.rcy →
      (t.gen g).cur.held = true ∧ (t.gen g).cur.rdg = false ∧ (t.gen g).cur.index = (s.gen g).cur.index) ∧
    (∀ (x : TabEntry), x = (s.gen g).ahead → (x.rdg = false ∨ x.rcy < 6) → (t.gen g).ahead = x) ∧
    ((s.gen g).ahead.rdg = true → 6 ≤ (s.gen g).ahead.rcy →
      (t.gen g).ahead.held = true ∧ (t.gen g).ahead.rdg = false ∧ (t.gen g).ahead.index = (s.gen g).ahead.index) ∧
    t.mem = s.mem

/-- 06 R240, R241: SAQ pushes its address with a full mask into saq, or waits for an entry; DSET writes a descriptor register, or
adds to it modulo 2^64. 06 R229, R230: the arithmetic of A has the effects of C's operations on a and p registers, AMUL with latency 2; ALI and AHI
are LI and LIH; AMOV copies. ABNE and ABLT branch where the values differ, or the first is less, with the kill and cut bits of
C's branches, the cut markers going into lq0 to lq3 and saq.
Model’s choices in it: log 5, 28. -/
def Obligations.StoreAddressesAndDescriptors : Prop :=
  (∀ (m : Marks) (a : ASrc) (s u : State),
    (∀ o, Admits .a (optWords o) m s u →
      (u.core.r.qRoom .saq 1 = false → exec (.saq m a o) s = .next (stalled .a .resv s)) ∧
      (u.core.r.qRoom .saq 1 = true → exec (.saq m a o) s = .next (finish .a (optWords o) m 1 (u.modR fun r => { r with
        saq := r.saq.push r.nextSid { addr := u.aSrc a + aOff o, mask := BitVec.allOnes 256, word := u.pcOf .a, agsa := false
                                      step := 0, gen := 0, rot := 0, row := 0 }
        nextSid := r.nextSid + 1 })))) ∧
    ∀ (k : Fin 8) (add : Bool), Admits .a 2 m s u → NextIs (exec (.dset m k a add) s) fun t =>
      t.core.r.d = u.core.r.d.set k (if add then BitVec.ofNat 64 (u.core.r.d[k].toNat + (u.aSrc a).toNat) else u.aSrc a) ∧
        t.mem = s.mem ∧ t.pcOf .a = (finish .a 2 m 1 u).pcOf .a) ∧
  ∀ (m : Marks) (d : Fin 16) (a b : ASrc) (c : AOp) (s u : State),
    (Admits .a (aopWords c) m s u → ∀ p ∈ aOps m d a c, exec p.2.2 s = .next (finish .a (aopWords c) m p.2.1
      (u.post .a p.2.1 (.a d (p.1.res (u.aSrc a) (u.aOp c) 0))))) ∧
    (∀ i : BitVec 12, Admits .a 1 m s u →
      exec (.ali m d (.short i)) s = .next (finish .a 1 m 1 (u.post .a 1 (.a d (BitVec.ofInt 64 i.toInt)))) ∧
      exec (.ahi m d (.short i)) s = .next (finish .a 1 m 1
        (u.post .a 1 (.a d (BitVec.ofNat 64 (u.core.r.a[d].toNat * 2 ^ 12 + i.toNat)))))) ∧
    (∀ i : BitVec 24, Admits .a 2 m s u →
      exec (.ali m d (.long i)) s = .next (finish .a 2 m 1 (u.post .a 1 (.a d (BitVec.ofInt 64 i.toInt)))) ∧
      exec (.ahi m d (.long i)) s = .next (finish .a 2 m 1
        (u.post .a 1 (.a d (BitVec.ofNat 64 (u.core.r.a[d].toNat * 2 ^ 24 + i.toNat)))))) ∧
    (Admits .a 1 m s u → exec (.amov m d a) s = .next (finish .a 1 m 1 (u.post .a 1 (.a d (u.aSrc a))))) ∧
    ∀ (kill cut : Bool) (off : BitVec 16) (v : State), Admits .a 2 m s u →
      ∀ p ∈ [(decide (u.aSrc a ≠ u.aSrc b), Instr.abne m a b kill cut off),
          (decide ((u.aSrc a).toInt < (u.aSrc b).toInt), .ablt m a b kill cut off)],
        let target := some ((s.pcOf .a : Int) + off.toInt).toNat
        (p.1 = false → exec p.2 s = .next (finish .a 2 m 1 u)) ∧
        (p.1 = true → CutRoom .a cut u → kill = false → exec p.2 s = .next (finish .a 2 m 1 (withCuts .a cut u) 0 target)) ∧
        (p.1 = true → CutRoom .a cut u → kill = true → Admits .a 2 m (s.cancel .a) v → CutRoom .a cut v →
          exec p.2 s = .next (finish .a 2 m 1 (withCuts .a cut v) 0 target))

/-! ## The V engine (07 R244 to R268) -/

namespace Sys2Proof.Machine

/-- A result of the lane form of R244: active lanes hold r, the others keep the destination's lane, or hold 0 where the mask
zeroes or the destination is a queue. -/
def LaneResult (u : State) (d : VDst) (p : VPay) (r : Nat → Nat) (x : Block) : Prop :=
  ∀ j, j < 2048 / p.ty.width → lane p.ty.width x j =
    if u.vActive p j = true then r j % 2 ^ p.ty.width
    else match d with
      | .v k => if p.zm then 0 else lane p.ty.width u.core.r.v[k] j
      | _ => 0

/-- A function of the type, the OPS bits and two lanes. -/
abbrev LaneFn := Fmt → BitVec 13 → Nat → Nat → Nat

/-- The value of a lane as an integer of its width, signed, and a lane of an integer, its low bits kept. -/
def vInt (f : Fmt) (x : Nat) : Int := (BitVec.ofNat f.width x).toInt
def vWrap (f : Fmt) (x : Int) : Nat := (BitVec.ofInt f.width x).toNat
/-- The highest integer of a type. -/
def vTop (f : Fmt) : Int := 2 ^ (f.width - 1) - 1
/-- An integer held to the range of a type. -/
def vHeld (f : Fmt) (x : Int) : Int := max (-(2 ^ (f.width - 1))) (min (vTop f) x)
/-- The value of a lane of a float type. -/
def vVal (f : Fmt) (x : Nat) : Num := decodeFmt f x

/-- The operations of two sources that act lane by lane, with the types' rule, the latency and r_j (07 R249, R250, R259). -/
def vTwos (m : Marks) (d : VDst) (a b : VSrc) (o : Option VPay) : List (VRule × Nat × Instr × LaneFn) :=
  [(vF, 4, .vadd m d a b o, fun f _ x y => roundV f ((vVal f x).add (vVal f y))),
    (vF, 4, .vsub m d a b o, fun f _ x y => roundV f ((vVal f x).sub (vVal f y))),
    (vF, 4, .vmul m d a b o, fun f _ x y => roundV f ((vVal f x).mul (vVal f y))),
    (vFI, 2, .vmax m d a b o, fun f _ x y =>
      if f.isI then vWrap f (max (vInt f x) (vInt f y)) else roundV f (numMax (vVal f x) (vVal f y))),
    (vFI, 2, .vmin m d a b o, fun f _ x y =>
      if f.isI then vWrap f (min (vInt f x) (vInt f y)) else roundV f (numMin (vVal f x) (vVal f y))),
    (vSatI, 2, .viadd m d a b o, fun f p x y =>
      vWrap f (if p.getLsbD 0 then vHeld f (vInt f x + vInt f y) else vInt f x + vInt f y)),
    (vSatI, 2, .visub m d a b o, fun f p x y =>
      vWrap f (if p.getLsbD 0 then vHeld f (vInt f x - vInt f y) else vInt f x - vInt f y)),
    (vI, 3, .vimul m d a b o, fun f _ x y => vWrap f (vInt f x * vInt f y)),
    (vFI, 2, .vclamp m d a b o, fun f _ x y =>
      if f.isI then
        let h := min (Int.natAbs (vInt f y) : Int) (vTop f)
        vWrap f (max (-h) (min (vInt f x) h))
      else roundV f (numMax (vVal f y).abs.neg (numMin (vVal f x) (vVal f y).abs))),
    (vAny, 2, .vand m d a b o, fun _ _ x y => x &&& y), (vAny, 2, .vor m d a b o, fun _ _ x y => x ||| y),
    (vAny, 2, .vxor m d a b o, fun _ _ x y => x ^^^ y),
    (vAny, 2, .vshl m d a b o, fun f _ x y => if f.width ≤ y then 0 else x * 2 ^ y),
    (vAny, 2, .vshr m d a b o, fun _ _ x y => x / 2 ^ y),
    (vAny, 2, .vsra m d a b o, fun f _ x y => ((BitVec.ofNat f.width x).sshiftRight y).toNat)]

/-- The operations of one source that act lane by lane (07 R249 to R254, R259, R266). -/
def vOnes (m : Marks) (d : VDst) (a : VSrc) (o : Option VPay) : List (VRule × Nat × Instr × (Fmt → BitVec 13 → Nat → Nat)) :=
  [(vF, 2, .vabs m d a o, fun f _ x => if (vVal f x).isNan then nanCode f else x % 2 ^ (f.width - 1)),
    (vF, 2, .vneg m d a o, fun f _ x => if (vVal f x).isNan then nanCode f else x ^^^ 2 ^ (f.width - 1)),
    (vF32, 8, .vexp m d a o, fun _ _ x => (expDv (BitVec.ofNat 32 x)).toNat),
    (vF, 8, .vrcp m d a o, fun f _ x => roundV f (rcpNum (vVal f x))),
    (vF, 8, .vrsq m d a o, fun f _ x => rsqCode f (vVal f x)), (vF, 8, .vlog2 m d a o, fun f _ x => log2Code f (vVal f x)),
    (vRnd, 4, .vround m d a o, fun f p x => roundIntegral f (p.extractLsb' 0 2).toNat (vVal f x)),
    (vAny, 2, .vnot m d a o, fun f _ x => 2 ^ f.width - 1 - x),
    (vAny, 2, .vpopc m d a o, fun f _ x => ((List.range f.width).filter x.testBit).length),
    (vAny, 1, .vmov m d a o, fun _ _ x => x)]

/-- The pairwise tree of R265 over the first 2^k of x. -/
def pairTree (f : Nat → Nat → Nat) : Nat → (Nat → Nat) → Nat
  | 0, x => x 0
  | k + 1, x => pairTree f k fun j => f (x (2 * j)) (x (2 * j + 1))

/-- The levels of that tree: 2^k is the lane count. -/
def treeDepth (f : Fmt) : Nat := if f.width = 8 then 8 else if f.width = 16 then 7 else 6

end Sys2Proof.Machine

/-- 07 R244, R245, R249 to R252, R254, R259, R266: the lane operations. A destination queue's entry is reserved, the sources are
read or popped, each active lane takes its operation's result, and the block lands after the operation's latency; with no free
entry, or nothing to pop, V waits. VFMA and VFMS read the destination's lane too.
Model’s choices in it: log 11. -/
def Obligations.LaneOperations : Prop :=
  ∀ (m : Marks) (d : VDst) (a b : VSrc) (o : Option VPay) (s u : State), Admits .v (optWords o) m s u →
    (∀ p ∈ vTwos m d a b o,
      let pay := o.getD p.1.dfltPay
      let w := pay.ty.width
      (∀ slot t x y v, u.vReserve d = .ok (slot, t) → t.vRead2 pay.ty a b = .ok (x, y, v) →
        ∃ r, LaneResult v d pay (fun j => p.2.2.2 pay.ty pay.ops (lane w x j) (lane w y j)) r ∧
          exec p.2.2.1 s = .next (finish .v (optWords o) m p.2.1 (v.vPut d slot p.2.1 r))) ∧
      (∀ st, u.vReserve d = .error st → exec p.2.2.1 s = stopped .v st s) ∧
      ∀ slot t st, u.vReserve d = .ok (slot, t) → t.vRead2 pay.ty a b = .error st → exec p.2.2.1 s = stopped .v st s) ∧
    (∀ p ∈ vOnes m d a o,
      let pay := o.getD p.1.dfltPay
      (∀ slot t x v, u.vReserve d = .ok (slot, t) → t.vRead pay.ty a = .ok (x, v) →
        ∃ r, LaneResult v d pay (fun j => p.2.2.2 pay.ty pay.ops (lane pay.ty.width x j)) r ∧
          exec p.2.2.1 s = .next (finish .v (optWords o) m p.2.1 (v.vPut d slot p.2.1 r))) ∧
      (∀ st, u.vReserve d = .error st → exec p.2.2.1 s = stopped .v st s) ∧
      ∀ slot t st, u.vReserve d = .ok (slot, t) → t.vRead pay.ty a = .error st → exec p.2.2.1 s = stopped .v st s) ∧
    ∀ (k : Fin 48) x y v,
      let pay := o.getD vF.dfltPay
      let f := pay.ty
      let at_ := fun (z : Block) (j : Nat) => vVal f (lane f.width z j)
      u.vRead2 f a b = .ok (x, y, v) →
        (∃ r, LaneResult v (.v k) pay (fun j => roundV f (((at_ x j).mul (at_ y j)).add (at_ v.core.r.v[k] j))) r ∧
          exec (.vfma m k a b o) s = .next (finish .v (optWords o) m 4 (v.vPut (.v k) none 4 r))) ∧
        ∃ r, LaneResult v (.v k) pay (fun j => roundV f ((at_ v.core.r.v[k] j).sub ((at_ x j).mul (at_ y j)))) r ∧
          exec (.vfms m k a b o) s = .next (finish .v (optWords o) m 4 (v.vPut (.v k) none 4 r))

/-- 07 R260 to R263, R265 to R268: the operations whose lanes come from whole sources, compares and selects, constants, and the
moves between V's lanes and its e registers. 07 R264, R268: the mask operations, each with latency 1, and the constants VLI and VLID. -/
def Obligations.WholeBlockOperations : Prop :=
  (∀ (m : Marks) (d : VDst) (a b : VSrc) (o : Option VPay) (s u : State), Admits .v (optWords o) m s u →
    (∀ slot t x v, u.vReserve d = .ok (slot, t) →
      let done := fun (i : Instr) (r : VRule) (lat : Nat) (c : Fmt → BitVec 13 → Nat → Nat) =>
        let pay := o.getD r.dfltPay
        ∃ z, LaneResult v d pay (c pay.ty pay.ops) z ∧
          exec i s = .next (finish .v (optWords o) m lat (v.vPut d slot lat z))
      (∀ pay, pay = o.getD vFI.dfltPay → t.vRead2 pay.ty a a = .ok (x, x, v) →
        let on := fun (n : Nat) (f : Fmt) (j : Nat) => if v.vActive pay j = true then lane f.width x j else n
        done (.vrsum m d a o) vFI 8 (fun f _ _ => pairTree (fun p q =>
          if f.isI then vWrap f (vInt f p + vInt f q) else roundV f ((vVal f p).add (vVal f q))) (treeDepth f) (on 0 f)) ∧
        done (.vrmax m d a o) vFI 8 (fun f _ _ => pairTree (fun p q =>
          if f.isI then (if vInt f p < vInt f q then q else p) else roundV f (numMax (vVal f p) (vVal f q))) (treeDepth f)
          (on (if f.isI then 2 ^ (f.width - 1) else infCode f true) f))) ∧
      (∀ pay, pay = o.getD vBcR.dfltPay → t.vRead2 pay.ty a a = .ok (x, x, v) →
        done (.vbc m d a o) vBcR 2 (fun f p _ => lane f.width x (p.extractLsb' 0 8).toNat)) ∧
      ∀ y pay, t.vRead2 pay.ty a b = .ok (x, y, v) →
        (pay = o.getD vAny.dfltPay → done (.vperm m d a b o) vAny 2 (fun f _ j =>
          lane f.width x (lane f.width y j % (2048 / f.width)))) ∧
        (pay = o.getD vSlideR.dfltPay → done (.vslide m d a b o) vSlideR 2 (fun f p j =>
          let n := 2048 / f.width
          let i := j + (p.extractLsb' 0 9).toNat
          if i < n then lane f.width x i else lane f.width y (i - n))) ∧
        (pay = o.getD vSelR.dfltPay → done (.vsel m d a b o) vSelR 2 (fun f p j =>
          if (v.core.r.k[(p.extractLsb' 0 3).toNat % 8]'(Nat.mod_lt _ (by decide))).getLsbD j then lane f.width x j
          else lane f.width y j))) ∧
    (∀ slot t x v, u.vReserve d = .ok (slot, t) → t.vRead (o.getD vAny.dfltPay).ty a = .ok (x, v) →
      let pay := o.getD vAny.dfltPay
      ∃ z : Block, (∀ j, j < 2048 → z.getLsbD j = (decide (j < 2048 / pay.ty.width) && v.vActive pay j &&
          (lane pay.ty.width x j).testBit (pay.ty.width - 1))) ∧
        exec (.vsign m d a o) s = .next (finish .v (optWords o) m 2 (v.vPut d slot 2 z))) ∧
    (∀ (k : Fin 48) x y v, u.vRead2 .i8 a b = .ok (x, y, v) →
      let pay := o.getD vDot.dfltPay
      let i8 := fun (z : Block) (j : Nat) => vInt .i8 (lane 8 z j)
      let sum := fun (j : Nat) => vInt .i32 (lane 32 v.core.r.v[k] j) + (i8 x (4 * j) * i8 y (4 * j) +
        i8 x (4 * j + 1) * i8 y (4 * j + 1) + i8 x (4 * j + 2) * i8 y (4 * j + 2) + i8 x (4 * j + 3) * i8 y (4 * j + 3))
      ∃ z : Block, (∀ j, j < 64 → lane 32 z j = if v.vActive pay j = true then
          vWrap .i32 (if pay.ops.getLsbD 0 then vHeld .i32 (sum j) else sum j)
          else if pay.zm then 0 else lane 32 v.core.r.v[k] j) ∧
        exec (.vdot4 m k a b o) s = .next (finish .v (optWords o) m 3 (v.vPut (.v k) none 3 z))) ∧
    (∀ (k : Fin 8) x y v, u.vRead2 (o.getD vCmpR.dfltPay).ty a b = .ok (x, y, v) →
      let pay := o.getD vCmpR.dfltPay
      let f := pay.ty
      let num := fun (z : Block) (j : Nat) => if f.isI then
        (if pay.ops.getLsbD 3 then Machine.Num.ofInt (lane f.width z j : Nat) else .ofInt (vInt f (lane f.width z j)))
        else vVal f (lane f.width z j)
      ∃ z : BitVec 256, (∀ j, j < 256 → z.getLsbD j = (decide (j < 2048 / f.width) &&
          if v.vActive pay j = true then cmpNum (pay.ops.extractLsb' 0 3).toNat (num x j) (num y j)
          else !pay.zm && v.core.r.k[k].getLsbD j)) ∧
        exec (.vcmp m k a b o) s = .next (finish .v (optWords o) m 2 (v.post .v 2 (.k k z)))) ∧
    (∀ (e : Fin 4) x v, u.vRead (o.getD vLaneR.dfltPay).ty a = .ok (x, v) →
      let pay := o.getD vLaneR.dfltPay
      let c := lane pay.ty.width x (pay.ops.extractLsb' 0 8).toNat
      exec (.vxtr m e a o) s = .next (finish .v (optWords o) m 2 (v.post .v 2 (.e e
        (if pay.ty.isI then BitVec.ofInt 64 (vInt pay.ty c) else BitVec.ofNat 64 c))))) ∧
    ∀ (k : Fin 48) (e : Fin 4),
      let pay := o.getD vLaneR.dfltPay
      let w := pay.ty.width
      ∃ z : Block, (∀ j, j < 2048 / w → lane w z j = if j = (pay.ops.extractLsb' 0 8).toNat
          then (u.core.r.eV.e[e]).toNat % 2 ^ w else lane w u.core.r.v[k] j) ∧
        exec (.vins m k e o) s = .next (finish .v (optWords o) m 2 (u.post .v 2 (.v k z)))) ∧
  ∀ (m : Marks) (s u : State),
    (∀ (x : Bool) (d a b : Fin 8) (e : Fin 4), Admits .v (xWords x) m s u →
      let k := u.core.r.k
      (∀ p ∈ [(Instr.kand m x d a b, k[a] &&& k[b]), (.kor m x d a b, k[a] ||| k[b]), (.kxor m x d a b, k[a] ^^^ k[b]),
          (.kandn m x d a b, k[a] &&& ~~~k[b]), (.knot m x d a, ~~~k[a]), (.kmov m x d a, k[a])],
        exec p.1 s = .next (finish .v (xWords x) m 1 (u.post .v 1 (.k d p.2)))) ∧
      exec (.kcnt m x e a) s = .next (finish .v (xWords x) m 1 (u.post .v 1 (.e e
        (BitVec.ofNat 64 ((List.range 256).filter k[a].getLsbD).length))))) ∧
    (∀ (d : Fin 8) (e : Fin 4), Admits .v 1 m s u → ∃ z : BitVec 256,
      (∀ j, j < 256 → z.getLsbD j = decide (j < (u.core.r.eV.e[e]).toNat)) ∧
        exec (.kset m d e) s = .next (finish .v 1 m 1 (u.post .v 1 (.k d z)))) ∧
    (∀ (d : Fin 8) (n : BitVec 9), Admits .v 2 m s u → ∃ z : BitVec 256,
      (∀ j, j < 256 → z.getLsbD j = decide (j < n.toNat)) ∧
        exec (.ksetImm m d n) s = .next (finish .v 2 m 1 (u.post .v 1 (.k d z)))) ∧
    ∀ (d : VDst) (p : VPay) slot t, Admits .v 2 m s u → u.vReserve d = .ok (slot, t) →
      (∃ z, LaneResult t d p (fun _ => (toFmt (.ofInt p.ops.toInt) p.ty true).1) z ∧
        exec (.vli m d p) s = .next (finish .v 2 m 1 (t.vPut d slot 1 z))) ∧
      ∃ z, LaneResult t d p (fun _ => if p.ty.width = 8 then p.ops.toNat else p.ops.toNat * 2 ^ (p.ty.width - 13)) z ∧
        exec (.vlid m d p) s = .next (finish .v 2 m 1 (t.vPut d slot 1 z))

/-- 07 R253, R255 to R258; 02 R78: the conversions. VCVT converts lane by lane, or into or out of a part of the wider side; VQNT
quantises a group under one scale per block and writes codes and scales; VDQN reverses it; overflows of active lanes join VOVF. 07 R257: the scale of a block is the lowest code whose value times the largest finite value of the format reaches amax, or
0x1FE; and 0x0FE (1.0) where scaling is off, amax is 0 or the block holds a NaN.
Model’s choices in it: log 30. -/
def Obligations.Conversions : Prop :=
  (∀ (m : Marks) (d : VDst) (g : Fin 12) (a : VSrc) (o : Option VPay) (s u : State), Admits .v (optWords o) m s u →
    (∀ slot t x v src,
      let p := o.getD vCvtR.dfltPay
      Fmt.ofCode (p.ops.extractLsb' 0 6) = some src → u.vReserve d = .ok (slot, t) → t.vRead src a = .ok (x, v) →
      let ws := src.width
      let wd := p.ty.width
      let part := (p.ops.extractLsb' 6 2).toNat
      let from_ := fun (j : Nat) => if ws = wd then some j
        else if wd < ws then (if part * (2048 / ws) ≤ j ∧ j < part * (2048 / ws) + 2048 / ws then some (j - part * (2048 / ws)) else none)
        else some (part * (2048 / wd) + j)
      let conv := fun (i : Nat) => toFmt (decodeFmt src (lane ws x i)) p.ty (p.ops.getLsbD 8)
      ∃ z : Block, (∀ j, j < 2048 / wd → lane wd z j = match from_ j with
          | none => (match d with | .v k => lane wd v.core.r.v[k] j | _ => 0)
          | some i => if v.vActive p j = true then (conv i).1 % 2 ^ wd
            else match d with | .v k => if p.zm then 0 else lane wd v.core.r.v[k] j | _ => 0) ∧
        exec (.vcvt m d a o) s = .next (finish .v (optWords o) m 4 ((v.vPut d slot 4 z).postOvf 4
          ((List.range (2048 / wd)).filter fun j => match from_ j with
            | none => false
            | some i => v.vActive p j && (conv i).2).length))) ∧
    (∀ q slot t,
      let p := o.getD (vQntR d).dfltPay
      qntSet u p = .ok q → q.st.vReserve d = .ok (slot, t) → p.ty.width = 8 →
      let x := fun (i : Nat) => decodeFmt .f32 (lane 32 (t.core.r.v[groupReg g (i / 64)]) (i % 64))
      let sc := fun (b : Nat) => chooseScale q.fmt q.scl
        (((List.range 32).filter fun k => t.vActive p (32 * b + k)).map fun k => x (32 * b + k))
      let one := fun (i : Nat) => toFmt ((x i).div (scaleValue (sc (i / 32)))) q.fmt q.sat
      ∃ z y : Block, LaneResult t d p (fun i => (one i).1) z ∧
        (∀ b, b < 128 → lane 16 y b = if b < 8 then sc b % 2 ^ 16 else 0) ∧
        exec (.vqnt m d g o) s = .next (finish .v (optWords o) m 6 (((t.vPut d slot 6 z).post .v 6 (.v (sregOf p) y)).postOvf 6
          ((List.range 256).filter fun i => t.vActive p i && (one i).2).length))) ∧
    ∀ q x v,
      let p := o.getD vDqnR.dfltPay
      qntSet u p = .ok q → q.st.vRead q.fmt a = .ok (x, v) →
      let sc := fun (b : Nat) => if q.scl then containerCode (lane 16 (v.core.r.v[sregOf p]) b) else 0x0FE
      let one := fun (i : Nat) => toFmt ((decodeFmt q.fmt (lane 8 x i)).mul (scaleValue (sc (i / 32)))) .f32 q.sat
      ∃ z : Fin 4 → Block, (∀ (k : Fin 4) l, l < 64 → lane 32 (z k) l =
          if v.vActive p (64 * k.val + l) = true then (one (64 * k.val + l)).1 % 2 ^ 32
          else if p.zm then 0 else lane 32 (v.core.r.v[groupReg g k.val]) l) ∧
        exec (.vdqn m g a o) s = .next (finish .v (optWords o) m 6
          (((((v.post .v 6 (.v (groupReg g 0) (z 0))).post .v 6 (.v (groupReg g 1) (z 1))).post .v 6
            (.v (groupReg g 2) (z 2))).post .v 6 (.v (groupReg g 3) (z 3))).postOvf 6
          ((List.range 256).filter fun i => v.vActive p i && (one i).2).length))) ∧
  ∀ (f : Fmt) (xs : List Machine.Num),
    let amax := xs.foldl (fun m x => if x.isFin && m.lt x.abs then x.abs else m) (.fin false 0 1)
    let fits := fun (c : Nat) => amax.le ((maxFinite f).mul (scaleValue c)) = true
    chooseScale f false xs = 0x0FE ∧ ((amax.isZero = true ∨ ∃ x ∈ xs, x.isNan = true) → chooseScale f true xs = 0x0FE) ∧
    (amax.isZero = false → (∀ x ∈ xs, x.isNan = false) →
      (∀ c, c < 0x1FF → fits c → (∀ b, b < c → ¬ fits b) → chooseScale f true xs = c) ∧
      ((∀ c, c < 0x1FF → ¬ fits c) → chooseScale f true xs = 0x1FE))

/-! ## The S engine (07 R269 to R279) -/

/-- 07 R269, R271: the pieces in which S writes a block: each lies within one 4-byte element and together they are the bytes
that the mask enables. 07 R271, R276; 03 R92: the bytes of memory that checked pieces of S change: those of the pieces that lie in the package, and
of the dirty bitmap; every other byte reads as before, and memory keeps its canonical form. The bytes of pieces that do not overlap
read back as the data written, but for those that a run of a dual launch keeps unperformed (16 R478).
Model’s choices in it: log 15, 44. -/
def Obligations.MaskedBytesAreWritten : Prop :=
  (∀ (mask : BitVec 256),
    (∀ p ∈ maskPieces mask, 0 < p.2 ∧ p.1 / 4 = (p.1 + p.2 - 1) / 4 ∧ p.1 + p.2 ≤ 256) ∧
    (∀ i, i < 256 → (mask.getLsbD i = true ↔ ∃ p ∈ maskPieces mask, p.1 ≤ i ∧ i < p.1 + p.2)) ∧
    ∀ (x : SaqEntry) (base : Nat) (data : Block) (ps : List (Nat × Nat)) (s t : State) (qs : List SPiece),
      checkPieces x base data none ps s = .ok (qs, t) →
      qs.map (fun q => (q.va, q.bytes)) = ps.map (fun p => (rotA (x.addr + BitVec.ofNat 64 (base + p.1)) x.row x.rot,
        (List.range p.2).map fun k => data.extractLsb' (8 * (p.1 + k)) 8)) ∧ t.mem = s.mem) ∧
  ∀ (rel : Option View) (ps : List SPiece) (s : State), Memory.wf s.mem = true →
    let t := ps.foldl (putPiece rel) s
    Memory.wf t.mem = true ∧
    (∀ k, (∀ p ∈ ps, ∀ pa, p.loc = .cell pa → (k < pa ∨ pa + p.bytes.length ≤ k) ∧
        (isScratch p.va = false → (s.dirtyCell s.vf pa).map Prod.fst ≠ some k)) →
      Memory.read t.mem k = Memory.read s.mem k) ∧
    ∀ p ∈ ps, ∀ pa, p.loc = .cell pa → (isScratch p.va = true ∨ s.keeps s.core.launch = false) →
      (∀ q ∈ ps, q ≠ p → ∀ qa, q.loc = .cell qa → qa + q.bytes.length ≤ pa ∨ pa + p.bytes.length ≤ qa) →
      ∀ i, i < p.bytes.length → (∀ q ∈ ps, ∀ qa, q.loc = .cell qa → isScratch q.va = false →
        (s.dirtyCell s.vf qa).map Prod.fst ≠ some (pa + i)) → Memory.read t.mem (pa + i) = p.bytes.getD i 0

/-- 07 R271 to R273, R276, R277, R279: STQ and STQL wait for their entries, check every masked byte and write them; STQL releases
the channel object of its bytes, or takes the object-scope fault, where they have none, or not one, or it is out of scope; SAEQ sends the updates of the elements that its indices name, in ascending
order, to be performed; each reads its element and writes the result; a fault leaves the entries in place and names their producer; STZ writes zero blocks in ascending order and resumes at the
block that failed; SFENCE issues once every earlier write is performed. 07 R273, 04 R136: one update of SAEQ: what element e becomes with value v, for each operation.
Model’s choices in it: log 15, 44, 74, 77. -/
def Obligations.StoresOfS : Prop :=
  (∀ (m : Marks) (q vq iq : Fin 2) (s u : State),
    (Admits .s 1 m s u →
      (∀ st, popPair q u = .error st → exec (.stq m q) s = stopped .s st s ∧ exec (.stql m q) s = stopped .s st s) ∧
      (∀ x y t, popPair q u = .ok (x, y, t) →
        (∀ c, checkBlock y 0 x (maskPieces y.mask) t = .error (.trap c) →
          exec (.stq m q) s = .next (raise .s { c with pos := y.pos } s) ∧
          exec (.stql m q) s = .next (raise .s { c with pos := y.pos } s)) ∧
        ∀ ps v, checkBlock y 0 x (maskPieces y.mask) t = .ok (ps, v) →
          (holdPieces v ps = .ok () → exec (.stq m q) s = .next (finish .s 1 m 1 (ps.foldl (putPiece none) v))) ∧
          (∀ st, holdPieces v ps = .error st → exec (.stq m q) s = stopped .s st s) ∧
          let bytes := ((List.range 256).filter fun i => y.mask.getLsbD i).map y.at
          let fault := fun (va : Word) =>
            Host.Outcome.next (raise .s { causeAt u .s 0x28 0 with addr := va, pos := y.pos } s)
          (bytes = [] → exec (.stql m q) s = .next (finish .s 1 m 1 v)) ∧
          (bytes ≠ [] → ∀ o, (∀ b ∈ bytes, v.channelOf (v.locOf b) = some o) →
            (v.inScope o = true → holdPieces v ps = .ok () →
              (v.unacked .s = [] → exec (.stql m q) s = .next (finish .s 1 m 1 (ps.foldl (putPiece
                (some (v.carryObj o (v.eng .s).view ||| (2 ^ (ps.countP fun p => !p.more) - 1) <<< v.nextWrite))) v))) ∧
              (v.unacked .s ≠ [] → exec (.stql m q) s = .next (stalled .s .mem s))) ∧
            (v.inScope o = false → exec (.stql m q) s = fault (bytes.headD 0))) ∧
          (bytes ≠ [] → v.channelOf (v.locOf (bytes.headD 0)) = none → exec (.stql m q) s = fault (bytes.headD 0)) ∧
          ∀ o b, v.channelOf (v.locOf (bytes.headD 0)) = some o →
            bytes.find? (fun a => v.channelOf (v.locOf a) != some o) = some b → exec (.stql m q) s = fault b) ∧
      (u.unacked .s = [] → exec (.sfence m) s = .next (finish .s 1 m 1 u)) ∧
      (u.unacked .s ≠ [] → exec (.sfence m) s = .next (stalled .s .mem s))) ∧
    (∀ o, Admits .s (optWords o) m s u →
      ∀ idx r1 vals r2 y t es v, u.core.r.qPop (.sq iq) = .ok (idx, r1) → r1.qPop (.sq vq) = .ok (vals, r2) →
        (u.modR fun _ => r2).saqHead = .ok (y, t) → checkElems y idx vals (List.range 64) t = .ok (es, v) →
        (∀ st, preimages v (es.map fun e => (e.va, .cell e.pa)) = .error st → exec (.saeq m vq iq o) s = stopped .s st s) ∧
        (preimages v (es.map fun e => (e.va, .cell e.pa)) = .ok () → exec (.saeq m vq iq o) s = .next (finish .s (optWords o) m 1
          (v.saSend ((o.map fun x => x.op.toNat).getD 0) ((o.map fun x => x.ft).getD false) es))) ∧
        (∀ op ft, es ≠ [] → ∃ w,
          (v.saSend op ft es).updates = v.updates ++ [w] ∧ w.core = v.core.id ∧ w.op = op ∧ w.ft = ft ∧
            w.elems = es.map (fun e => (e.va, e.pa, e.val)) ∧ (v.saSend op ft es).mem = v.mem) ∧
        es.map (fun e => (e.va, e.val)) = (((List.range 64).filter fun j => lane 32 idx j != 0xFFFFFFFF).map fun j =>
          (rotA (y.addr + BitVec.ofNat 64 (4 * lane 32 idx j)) y.row y.rot, lane 32 vals j)) ∧ v.mem = s.mem) ∧
    ∀ n, Admits .s (optWords n) m s u → ∀ x z, s.saqHead = .ok (x, z) →
      let count := (n.map fun k => k.toNat + 1).getD 1
      let from_ := s.core.r.stz
      (∀ t v y w, stzBlocks x (count - from_) from_ s = (t, none) → Admits .s (optWords n) m t v → v.saqHead = .ok (y, w) →
        exec (.stz m n) s = .next (finish .s (optWords n) m 1 (w.modR fun r => { r with stz := 0 }))) ∧
      ∀ t c, stzBlocks x (count - from_) from_ s = (t, some (.trap c)) → exec (.stz m n) s = .next (raise .s c t) ∧
        ∃ i, from_ ≤ i ∧ i < count ∧ t.core.r.stz = i) ∧
  (∀ (s : State) (w : SaWork) (va : Word) (pa val : Nat), Memory.wf s.mem = true → isScratch va = true →
    let t := (w.one ([], s) (va, pa, val)).2
    bytesVal (Memory.readN t.mem pa 4) = saUpdate w.op w.ft (bytesVal (Memory.readN s.mem pa 4)) val % 2 ^ 32 ∧
      ∀ k, (k < pa ∨ pa + 4 ≤ k) → Memory.read t.mem k = Memory.read s.mem k) ∧
  ∀ (e v : BitVec 32) (ft : Bool),
    saUpdate 0 ft e.toNat v.toNat = (e + v).toNat ∧
    saUpdate 1 ft e.toNat v.toNat = roundV .f32 ((decodeFmt .f32 e.toNat).add (decodeFmt .f32 v.toNat)) ∧
    saUpdate 2 false e.toNat v.toNat = (if e.toInt < v.toInt then v else e).toNat ∧
    saUpdate 2 true e.toNat v.toNat = roundV .f32 (numMax (decodeFmt .f32 e.toNat) (decodeFmt .f32 v.toNat)) ∧
    saUpdate 3 false e.toNat v.toNat = (if e.toInt < v.toInt then e else v).toNat ∧
    saUpdate 3 true e.toNat v.toNat = roundV .f32 (numMin (decodeFmt .f32 e.toNat) (decodeFmt .f32 v.toNat)) ∧
    saUpdate 4 ft e.toNat v.toNat = (e ||| v).toNat ∧ saUpdate 5 ft e.toNat v.toNat = v.toNat

/-! ## The M engine (08 R282 to R323) -/

namespace Sys2Proof.Machine

/-- What M keeps and asks for while it waits for the lease (08 R292). -/
def leaseAsked (s : State) (r : Regs → Regs := id) : State :=
  ((stalled .m .lease s).modR fun x => { x with lease := { x.lease with req := true } }).modR r

/-- A counted command of the lease (08 R294). -/
def counted (u : State) : State := u.modR fun r => { r with lease := { r.lease with cnt := r.lease.cnt + 1 } }

/-- Operations of M, each with the advancing cycles to its landing. -/
def posted (xs : List (Nat × Land)) (u : State) : State := xs.foldl (fun v x => v.post .m x.1 x.2) u

/-- The resident plate has a tag, with a sealed identity (08 R302). -/
def residentSealed (v : State) (tag : PlateTag) : Prop :=
  tag.ident ≠ none ∧ ∃ p, (v.vale v.valeIdx).plate = some p ∧ p.tag = tag

end Sys2Proof.Machine

/-- 08 R297, R302, R303: MWLD, MWLDS and MLEASE with a plate, the lease held: a plate with the sealed identity of the resident
one is claimed in two cycles; any other is fetched, in 64 cycles, or 32 for 16-bit elements, and 4 more with scales,
and once more where its checksum failed (R304). The plate
that an MLEASE asked for is fetched within the new lease, in one cycle where it matches. A pair that fails a check traps. 08 R286, R287: a pair is checked on every row that is touched: its Z fields, its alignment, its rotation, its last byte below
2^23 and every byte in the gang's window; the first check that fails, in the order of the check numbers, is the cause's detail.
Model’s choices in it: log 18, 37, 39. -/
def Obligations.PlatesAreLoaded : Prop :=
  (∀ (m : Marks) (x : Bool) (p q : Fin 4) (tl : Tile) (s u : State),
    (∀ z ∈ [((none : Option (Fin 4)), xWords x, Instr.mwld m x p tl), (some q, xWords x, .mwlds m x p q tl),
        (none, 1, .mleasePlate m p none tl), (some q, 1, .mleasePlate m p (some q) tl)],
      Admits .m z.2.1 m s u → u.core.r.lease.held = true → u.core.r.lease.plate = none →
      (∀ c, plateOf (counted u) p z.1 tl = .error (.trap c) → exec z.2.2 s = .next (raise .m c s)) ∧
      ∀ tag v, plateOf (counted u) p z.1 tl = .ok (tag, v) →
        tag.scales.isSome = z.1.isSome ∧
        (residentSealed v tag → exec z.2.2 s = .next (finish .m z.2.1 m 2
          ((v.modR fun r => { r with claim := some tag }).occupy .fetch 2))) ∧
        (¬residentSealed v tag → ∀ again w, v.fetchPlate tag = .ok (again, w) →
          let n := (if tag.wide then 32 else 64) + (if tag.scales.isSome then 4 else 0)
          exec z.2.2 s = .next (finish .m z.2.1 m n ((if again then w.arrayRerun n else w).occupy .fetch n)) ∧
            w.core.r.claim = some tag ∧ w.mem = s.mem ∧ ∃ pl, (w.vale w.valeIdx).plate = some pl ∧ pl.tag = tag)) ∧
    (∀ sc tag, Admits .m 1 m s u → u.core.r.lease.held = true → u.core.r.lease.plate = some tag →
      let v := (counted u).modR fun r => { r with lease := { r.lease with plate := none } }
      (residentSealed v tag → exec (.mleasePlate m p sc tl) s =
        .next (finish .m 1 m 1 (v.modR fun r => { r with claim := some tag }))) ∧
      (¬residentSealed v tag → v.core.r.claimOwn = false → ∀ again w, v.fetchPlate tag = .ok (again, w) →
        exec (.mleasePlate m p sc tl) s = .next (finish .m 1 m (fetchCycles tag)
          ((if again then w.arrayRerun (fetchCycles tag) else w).occupy .fetch (fetchCycles tag))) ∧
          w.core.r.claim = some tag))) ∧
  ∀ (spw x y : Word) (t n len : Nat),
    let base := (x.extractLsb' 0 23).toNat
    let rp := (y.extractLsb' 0 23).toNat
    let tp := (y.extractLsb' 23 23).toNat
    let rot := (y.extractLsb' 46 5).toNat
    let o := fun (r : Nat) => base + t * tp + r * rp
    let z := x.extractLsb' 23 41 ≠ 0 ∨ y.extractLsb' 51 13 ≠ 0
    let a := base % 64 ≠ 0 ∨ rp % 64 ≠ 0 ∨ tp % 64 ≠ 0
    let r := rot ≠ 0 ∧ (rp % 2048 ≠ 0 ∨ 2048 < len)
    let e := 2 ^ 23 < o (n - 1) + len
    let w := inWindow spw (o 0) = true ∧ inWindow spw (o (n - 1) + len - 1) = true
    (z → pairCheck spw x y t n len = some 1) ∧ (¬z → a → pairCheck spw x y t n len = some 2) ∧
    (¬z → ¬a → r → pairCheck spw x y t n len = some 3) ∧ (¬z → ¬a → ¬r → e → pairCheck spw x y t n len = some 4) ∧
    (¬z → ¬a → ¬r → ¬e → ¬w → pairCheck spw x y t n len = some 5) ∧
    (¬z → ¬a → ¬r → ¬e → w → pairCheck spw x y t n len = none) ∧
    ∀ i j, (tileRef x y t).line i j = rotAddr ((o i + j) % 2 ^ 23) i rot

/-- 08 R293, R294: the arbiter grants a free array to the first requesting core after its pointer, in 4 cycles, and those of a
restore where a freeze had cut its lease (R295); the grant gives
the lease once the claim matches the resident plate, or has been refetched, or an MLEASE's plate takes its place; a lease that
another core asks for ends after 64 idle cycles, this one among them, or at its last counted command; with no other request the count starts again. 08 R292, R294, R297, R298: without the lease a counted command, and MLEASE, ask for it and wait; with it MLEASE only issues;
in the cycle of the grant they issue, where nothing is fetched, so that M's next instruction issues in the cycle after it. MREL
ends the lease and keeps the claim.
Model’s choices in it: log 39, 45, 71, 81. -/
def Obligations.LeasesPassOn : Prop :=
  (∀ (v : Nat) (s : State) (c : Core),
    ((s.vale v).holder = none → (s.vale v).grant = none → (∀ k ∈ s.valeCores v, k.asks = false) → s.arbitrate v = s) ∧
    ((s.vale v).holder = none → (s.vale v).grant = none → ∀ i, i < 8 →
      let core := fun (j : Nat) => ((s.vale v).pointer + 1 + j) % 8
      let asks := fun (j : Nat) => ∃ k ∈ s.valeCores v, k.id.core = core j ∧ k.asks = true
      (s.vale v).saving = 0 → asks i → (∀ j, j < i → ¬asks j) →
      ((s.arbitrate v).vale v).pointer = core i ∧ ∃ n, ((s.arbitrate v).vale v).grant = some ⟨core i, n, 0⟩ ∧
        ((∀ k, s.coreOf v (core i) = some k → k.r.lease.cut = false) → n = 4) ∧
        ∀ k, s.coreOf v (core i) = some k → k.r.lease.cut = true → n = 4 + k.r.saveCycles) ∧
    (∀ g, (s.vale v).grant = some g → g.left ≤ 1 → (s.vale v).switching = true → s.coreOf v g.core = some c →
      (c.r.claim = none ∨ c.r.lease.plate ≠ none ∨ claimMatches c.r (s.vale v).plate = true →
        NextIs (exec (.leaseGrant v) s) fun t => (t.vale v).holder = some c.id.core ∧ (t.vale v).grant = none ∧
          (t.vale v).bud = (s.vale v).leaseb ∧ t.mem = s.mem ∧
          ∃ k ∈ t.cores, ∃ k0 ∈ s.cores, k.id = c.id ∧ k0.id = c.id ∧ k.r.lease.held = true ∧ k.r.lease.req = false ∧
            k.r.lease.cnt = k0.r.lease.cnt ∧ k.r.claim = k0.r.lease.plate.or k0.r.claim) ∧
      (∀ tag, c.r.claim = some tag → c.r.lease.plate = none → claimMatches c.r (s.vale v).plate = false →
        NextIs (exec (.leaseGrant v) s) fun t => ∃ again : Bool,
          let more := if again then fetchCycles tag else 0
          (t.vale v).grant = some ⟨c.id.core, 1 + fetchCycles tag + more, more⟩)) ∧
    (s.holderCore v = some c → s.otherReq v c.id.core = true →
      (63 ≤ (s.vale v).idle → arrayBusy c.r = false →
        NextIs (exec (.leaseIdleEnd v) s) fun t => (t.vale v).holder = none ∧ t.mem = s.mem) ∧
      ((s.vale v).idle < 63 ∨ arrayBusy c.r = true → exec (.leaseIdleEnd v) s = .next s) ∧
      ((s.vale v).bud ≤ c.r.lease.cnt → c.r.occ = none → c.r.lease.rerun = 0 →
        NextIs (exec (.leaseBudgetEnd v) s) fun t => (t.vale v).holder = none ∧ t.mem = s.mem)) ∧
    (s.holderCore v = some c → s.otherReq v c.id.core = false → (s.vale v).bud ≤ c.r.lease.cnt → c.r.occ = none → c.r.lease.rerun = 0 →
      NextIs (exec (.leaseBudgetEnd v) s) fun t => t.vale v = s.vale v ∧ ∃ k ∈ t.cores, k.id = c.id ∧ k.r.lease.cnt = 0)) ∧
  ∀ (m : Marks) (x : Bool) (rows : BitVec 6) (d : Acc) (src sc : MSrc) (p q : Fin 4) (tl : Tile) (s u : State),
    (Admits .m 1 m s u →
      (u.core.r.lease.held = true → exec (.mlease m) s = .next (finish .m 1 m 1 u) ∧
        NextIs (exec (.mrel m) s) fun t => t.core.r.lease.held = false ∧ t.core.r.claim = u.core.r.claim ∧ t.mem = s.mem ∧
          t.pcOf .m = (finish .m 1 m 1 u).pcOf .m ∧ (t.vale t.valeIdx).holder ≠ some t.core.id.core) ∧
      (u.core.r.lease.held = false → exec (.mrel m) s = .next (finish .m 1 m 1 u)) ∧
      (u.core.r.lease.held = false → u.grantNow = true → exec (.mlease m) s = .next (finish .m 1 m 1 u) ∧
        ∀ tag, u.core.r.lease.plate = some tag → u.plateHere tag true = true → ∀ z ∈ [none, some q],
          exec (.mleasePlate m p z tl) s = .next (finish .m 1 m 1 (((counted u).modR fun r =>
            { r with lease := { r.lease with plate := none } }).modR fun r => { r with claim := some tag }))) ∧
      (u.core.r.lease.held = false → u.grantNow = false → (s.eng .m).wait ≠ .breath → exec (.mlease m) s = .next (leaseAsked s) ∧
        ((u.core.r.lease.plate = none → ∀ tag v, plateOf u p (some q) tl = .ok (tag, v) →
          exec (.mleasePlate m p (some q) tl) s =
            .next (leaseAsked s fun r => { r with lease := { r.lease with plate := some tag } })) ∧
        (u.core.r.lease.plate = none → ∀ tag v, plateOf u p none tl = .ok (tag, v) →
          exec (.mleasePlate m p none tl) s =
            .next (leaseAsked s fun r => { r with lease := { r.lease with plate := some tag } }))))) ∧
    (Admits .m (xWords x) m s u → u.core.r.lease.held = false → (s.eng .m).wait ≠ .breath →
      ∀ i ∈ [Instr.mwld m x p tl, .mwlds m x p q tl, .mma m x rows d src tl, .mmas m x rows d src sc],
        exec i s = .next (leaseAsked s))

/-- 08 R306 to R309; 02 R84 to R86: a streamed row: the source's 256 bytes against the resident plate, landing 12 cycles on. An
INT8 column is the exact sum of its products; a column of floats is the tree over its groups of 32, each group rounded once from
its exact sum times both scales. A failed plate withholds the row; a checksum that fails reruns the row in 13 cycles, and withholds
it where it fails twice. A withheld row loses its VAL and keeps its sums. 08 R305, R306, R309: MMA and MMAS with the lease: an entry or a pair that fails its check, no claim, a claim that does not
match, another width, a row past acc.511 or of another type traps before anything is read; else row 0 streams in the issue cycle,
the command occupies M for a cycle a row, and signals go out with its last row, n + 11 cycles on.
Model’s choices in it: log 18, 37, 39. -/
def Obligations.RowsStreamThroughThePlate : Prop :=
  ((∀ (d : Nat) (src : MSrc) (sc : Option MSrc) (tile : Nat) (f : BitVec 20) (desc : Vector Word 4) (i : Nat) (s s1 s2 : State)
      (row : Block) (sa : BitVec 128) (p : Plate),
    aRow src (keptTile desc[0] desc[1] tile src) i s = .ok (row, s1) →
    aScale sc (sc.bind fun x => keptTile desc[2] desc[3] 0 x) i s1 = .ok (sa, s2) →
    (s.vale s.valeIdx).plate = some p →
      (p.failed = true → mmaRow d src sc tile f desc i s = .ok (s2.post .m 12 (.rowWithheld (d + i)))) ∧
      (p.failed = false → takeFlaw (rowFlaw s.valeIdx) s2.flaws = none → ∃ t ovf,
        mmaRow d src sc tile f desc i s = .ok (s2.post .m 12
          (.rowAcc (d + i) (if p.tag.wide then 128 else 256) (Fmt.ofCode (fmtA f) == some .i8) t ovf)) ∧
        (Fmt.ofCode (fmtA f) = some .i8 → p.tag.wide = false → ∀ c, c < 256 → rowSum t c = BitVec.ofInt 32
          (((List.range 256).map fun k => (BitVec.ofNat 8 (lane 8 row k)).toInt *
            (BitVec.ofNat 8 (lane 8 (p.rows.getD k 0) c)).toInt).sum)) ∧
        ∀ fa fb, Fmt.ofCode (fmtA f) = some fa → Fmt.ofCode (fmtB f) = some fb → fa ≠ .i8 →
          ∀ c, c < (if p.tag.wide then 128 else 256) →
            let w := if p.tag.wide then 16 else 8
            let scale := fun (x : Nat) => if fmtScm f then scaleValue (containerCode x) else Machine.Num.fin false 1 1
            let group := fun (g : Nat) => ((List.range 32).foldl (fun (x : GroupSum) k =>
              x.join (elemOf fa (lane w row (32 * g + k))) (elemOf fb (lane w (p.rows.getD (32 * g + k) 0) c))) .start).value fa fb
              (scale (sa.extractLsb' (16 * g) 16).toNat) (scale ((p.scales.getD g 0).extractLsb' (16 * c) 16).toNat)
            let v := fun (g : Nat) => (BitVec.ofNat 32 (group g).1, (group g).2)
            let add := fun (x y : BitVec 32 × Bool) => ((add32 x.1 y.1).1, (add32 x.1 y.1).2 || x.2 || y.2)
            let half := fun (g : Nat) => add (add (v g) (v (g + 1))) (add (v (g + 2)) (v (g + 3)))
            (rowSum t c, ovf.getLsbD c) = if p.tag.wide then half 0 else add (half 0) (half 4)) ∧
      (∀ twice fs, p.failed = false → takeFlaw (rowFlaw s.valeIdx) s2.flaws = some (twice, fs) → ∃ v : State,
        v.mem = s2.mem ∧ v.flaws = fs ∧ (v.eng .m).replay = 13 ∧ v.core.r.mstat.rrn = min (s2.core.r.mstat.rrn + 1) 0xFFFF ∧
        (twice = true → mmaRow d src sc tile f desc i s = .ok (v.post .m 12 (.rowWithheld (d + i)))) ∧
        (twice = false → ∃ t ovf, mmaRow d src sc tile f desc i s = .ok (v.post .m 12
          (.rowAcc (d + i) (if p.tag.wide then 128 else 256) (Fmt.ofCode (fmtA f) == some .i8) t ovf))))) ∧
  (∀ (s : State) (i : Nat), aRow .pbuf none i s = .ok ((s.core.r.prow i).codes, s)) ∧
  (∀ (s : State) (i : Nat) q x r, s.core.r.qPop (mqId q) = .ok (x, r) → aRow (.q q) none i s = .ok (x, s.modR fun _ => r)) ∧
  (∀ (fa fb : Fmt) (xs : List (Nat × Nat)) (sa sb : Machine.Num),
    (∀ x ∈ xs, (decodeFmt fa x.1).isFin = true ∧ (decodeFmt fb x.2).isFin = true) → sa.isNan = false → sb.isNan = false →
    let g := xs.foldl (fun (g : GroupSum) x => g.join (elemOf fa x.1) (elemOf fb x.2)) .start
    g.nan = false ∧ g.pinf = false ∧ g.ninf = false ∧ g.n = ((xs.map fun x => (elemOf fa x.1).n * (elemOf fb x.2).n).sum) ∧
    g.value fa fb sa sb = toFmt (((Machine.Num.scaled (decide (g.n < 0) || (g.n == 0 && g.mz)) g.n.natAbs
      (fmtStep fa + fmtStep fb)).mul sa).mul sb) .f32 true) ∧
  ∀ (r : Regs) (e : Engine) (i cols : Nat) (int : Bool) (t : BitVec 8192) (ovf : BitVec 256), i < 512 → cols ≤ 256 →
    let y := (r.land e (.rowAcc i cols int t ovf)).row i
    (∀ j, j < 256 → rowSum y.sum j = if j < cols then (accOne int (rowSum (r.row i).sum j) (rowSum t j)).1
      else rowSum (r.row i).sum j) ∧
    y.rmax = (r.row i).rmax ∧ y.rden = (r.row i).rden ∧ y.valid = (r.row i).valid ∧ y.int = (r.row i).int ∧
    y.ovf = satAdd32 (r.row i).ovf ((List.range cols).filter fun j =>
      (accOne int (rowSum (r.row i).sum j) (rowSum t j)).2 || ovf.getLsbD j).length ∧
    (∀ k, k ≠ i → (r.land e (.rowAcc i cols int t ovf)).row k = r.row k) ∧
    (r.land e (.rowWithheld i)).row i = { r.row i with valid := false } ∧
    (r.land e (.rowWithheld i)).mstat.whs = true ∧ (r.land e (.rowWithheld i)).mstat.whn = min (r.mstat.whn + 1) 0xFFFF ∧
    ∀ k, k ≠ i → (r.land e (.rowWithheld i)).row k = r.row k) ∧
  ∀ (m : Marks) (x : Bool) (rows : BitVec 6) (d : Acc) (src sc0 : MSrc) (tl0 : Tile) (s u : State),
    Admits .m (xWords x) m s u → u.core.r.lease.held = true →
    ∀ z ∈ [((none : Option MSrc), tl0, Instr.mma m x rows d src tl0), (some sc0, .zero, .mmas m x rows d src sc0)],
      let n := rows.toNat + 1
      let traps := fun (c : CauseRec) => exec z.2.2 s = .next (raise .m c s)
      (∀ c, (counted u).arrayFmt = .error (.trap c) → traps c) ∧
      ∀ f v1, (counted u).arrayFmt = .ok (f, v1) →
        let tile := v1.tileNum z.2.1
        (∀ c, keepPair v1 (some src) tile n 256 = .error (.trap c) → traps c) ∧
        ∀ x0 x1 v2, keepPair v1 (some src) tile n 256 = .ok (x0, x1, v2) →
          (∀ c, keepPair v2 z.1 0 n 16 = .error (.trap c) → traps c) ∧
          ∀ x2 x3 v, keepPair v2 z.1 0 n 16 = .ok (x2, x3, v) →
            let r := v.core.r
            let a := v.accNum d
            let int := decide (Fmt.ofCode (fmtA f) = some .i8)
            let typed := ∀ i, i < n → (r.row (a + i)).int = int
            (r.claim = none → traps (causeAt v .m 0x21 1)) ∧
            (∀ tag, r.claim = some tag →
              let hit := claimMatches r (v.vale v.valeIdx).plate
              (hit = false → traps (causeAt v .m 0x21 2)) ∧
              (hit = true → tag.wide ≠ fmtWide (fmtA f) → traps (causeAt v .m 0x21 3)) ∧
              (hit = true → tag.wide = fmtWide (fmtA f) → 512 < a + n → traps (causeAt v .m 0x22 0)) ∧
              (hit = true → tag.wide = fmtWide (fmtA f) → a + n ≤ 512 → ¬typed → traps (causeAt v .m 0x23 0)) ∧
              (hit = true → tag.wide = fmtWide (fmtA f) → a + n ≤ 512 → typed →
                ∀ w, mmaRow a src z.1 tile f #v[x0, x1, x2, x3] 0 v = .ok w →
                  exec z.2.2 s = .next (finish .m (xWords x) m (n + 11)
                    (w.occupy (.mma a src z.1 tile f #v[x0, x1, x2, x3]) n))))

/-- 08 R283: an instruction of n rows sends one row a cycle: row 0 in the cycle in which it issues, each other in its own, as
much nearer to its landing. 08 R311 to R313: MEPI converts rows to OFMT, and MMOV to sq1 takes their raw sums: blocks enter sq1 one a cycle, each filled
at the end of the 4th; overflows join the rows' OVF; a withheld row traps, and so does a row past acc.511 or a reserved OFMT. 08 R310, R313 to R315: rows in and out. MZERO writes launch rows in 2 cycles; MMOV copies whole rows, each landing two cycles
after its turn, or four v registers or four queue entries into a row's sums; MMOVA moves a side field in one cycle; a row past
acc.511 traps, and so does a range upside down; a join waits, its cycles advancing, while an operation on its rows is in flight.
Model’s choices in it: log 36, 37, 62, 80. -/
def Obligations.RowsAreOutput : Prop :=
  ((∀ (u : State) (row : Nat → List (Nat × Land)) (n : Nat), u.postRows row n = (posted (row 0) u).occupy
    (.later ((List.range (n - 1)).map fun k => (row (k + 1)).map fun l => (l.1 - (k + 1), l.2))) n) ∧
  ∀ (s : State) (o : Occ) (ls : List (Nat × Land)) (rest : List (List (Nat × Land))), s.moves? .m = true → (s.eng .m).replay = 0 →
    s.ownCause .m = false → (s.eng .m).stall = none → s.wantsLease .m = false → s.core.r.occ = some o → o.kind = .later (ls :: rest) →
    exec (.engineRun .m) s = .next (((posted ls (s.settle .m)).modR fun r =>
      { r with occ := if o.total ≤ o.run + 1 then none else some { o with run := o.run + 1, kind := .later rest } }).modEng .m
        fun x => { x with wait := .none })) ∧
  (∀ (m : Marks) (x : Bool) (rows : BitVec 6) (a : Acc) (clr : Bool) (s u : State), Admits .m (xWords x) m s u →
    let n := rows.toNat + 1
    let traps := fun (i : Instr) (c : CauseRec) => exec i s = .next (raise .m c s)
    let done := fun (i : Instr) (lat : Nat) (v : State) => exec i s = .next (finish .m (xWords x) m lat v)
    (∀ ovf fi f v, u.fmtEntry .m = (fi, f, v) →
      let i := Instr.mepi m x rows a ovf clr
      let b := v.accNum a
      let row := fun (k : Nat) => v.core.r.row (b + k)
      (Fmt.ofCode (fmtO f) = none → traps i (causeAt v .m 0x08 (fi.val + 1 <<< 4))) ∧
      ∀ o, Fmt.ofCode (fmtO f) = some o →
        let code := fun (k j : Nat) => toFmt (if (row k).int then Machine.Num.ofInt (rowSum (row k).sum j).toInt
          else f32v (rowSum (row k).sum j)) o (fmtSat f)
        let sat := fun (k : Nat) => ((List.range 256).filter fun j => (code k j).2).length
        (512 < b + n → traps i (causeAt v .m 0x22 0)) ∧
        (b + n ≤ 512 → (∃ k, k < n ∧ (row k).valid = false) → traps i (causeAt v .m 0x24 0)) ∧
        (b + n ≤ 512 → (∀ k, k < n → (row k).valid = true) → ∃ blocks : List Block,
          blocks.length = n * (o.width / 8) + ovf.toNat ∧
          (∀ k j, k < n → j < 256 → lane o.width (blocks.getD (k * (o.width / 8) + j / (2048 / o.width)) 0)
            (j % (2048 / o.width)) = (code k j).1 % 2 ^ o.width) ∧
          (ovf = true → ∀ k, k < 64 → lane 32 (blocks.getD (n * (o.width / 8)) 0) k =
            if k < n then (satAdd32 (row k).ovf (sat k)).toNat else 0) ∧
          ∀ w, pushAll blocks v = .ok w → done i (max 4 (blocks.length + 3)) (posted ((List.range n).map fun k =>
            (4, if clr then .rowOvfClear (b + k) else .rowOvf (b + k) (sat k))) w))) ∧
    (let i := Instr.mmov m x rows (.toSq a)
      let b := u.accNum a
      let row := fun (k : Nat) => u.core.r.row (b + k)
      (512 < b + n → traps i (causeAt u .m 0x22 0)) ∧
      (b + n ≤ 512 → (∀ p ∈ u.core.r.eM.pend, ∀ k, k < n → landsOn p.land (b + k) = false) →
        ((∃ k, k < n ∧ (row k).valid = false) → traps i (causeAt u .m 0x24 0)) ∧
        ((∀ k, k < n → (row k).valid = true) → ∃ blocks : List Block, blocks.length = 4 * n ∧
          (∀ k j, k < n → j < 256 → lane 32 (blocks.getD (4 * k + j / 64) 0) (j % 64) = (rowSum (row k).sum j).toNat) ∧
          ∀ w, pushAll blocks u = .ok w → done i (4 * n + 3) w))) ∧
    ∀ (b : Block) (v : State), (v.core.r.qRoom (.sq 1) 1 = false → pushSq1 b v = .error (.stall .resv)) ∧
      (v.core.r.qRoom (.sq 1) 1 = true → ∃ k, pushSq1 b v =
        .ok ((v.modR fun _ => (v.core.r.qReserve (.sq 1)).1).post .m 4 (.slot (.sq 1) k b)))) ∧
  ∀ (m : Marks) (x : Bool) (rows : BitVec 6) (d a : Acc) (int : Bool) (e : Fin 4) (g : Fin 4) (q : MQ) (s u : State),
    Admits .m (xWords x) m s u →
    let n := rows.toNat + 1
    let i := u.accNum d
    let j := u.accNum a
    let r := u.core.r
    let busy := fun (ks : List Nat) => ∃ p ∈ r.eM.pend, ∃ k ∈ ks, landsOn p.land k = true
    let traps := fun (c : Instr) (code : Nat) => exec c s = .next (raise .m (causeAt u .m code 0) s)
    let done := fun (c : Instr) (lat : Nat) (v : State) => exec c s = .next (finish .m (xWords x) m lat v)
    (j < i → traps (.mzero m x d a int) 0x22) ∧
    (i ≤ j → done (.mzero m x d a int) 2 (u.post .m 2 (.rowsZero (u.pcOf .m) i (j + 1 - i) int))) ∧
    (∀ pc b n k (y : Regs), k < 512 → (y.land .m (.rowsZero pc b n int)).row k =
      if b ≤ k ∧ k < b + n then ⟨0, 0xFF800000, 0, 0, true, int, false⟩ else y.row k) ∧
    (512 < i + n ∨ 512 < j + n → traps (.mmov m x rows (.rows d a)) 0x22) ∧
    (i + n ≤ 512 → j + n ≤ 512 →
      (busy (rowsFrom i n ++ rowsFrom j n) → exec (.mmov m x rows (.rows d a)) s = .next (joined .m .join s)) ∧
      (¬busy (rowsFrom i n ++ rowsFrom j n) → done (.mmov m x rows (.rows d a)) (n + 1)
        (u.postRows (fun k => [(k + 2, .row (i + k) (r.row (j + k)))]) n))) ∧
    (¬busy [i] → ∃ z : BitVec 8192,
      (∀ k (h : k < 256), rowSum z k = BitVec.ofNat 32 (lane 32 (r.v[4 * g.val + k / 64]) (k % 64))) ∧
      done (.mmov m x rows (.fromV d g)) 2 (u.post .m 2 (.rowSet i { sum := some z }))) ∧
    (i + n ≤ 512 → ¬busy (rowsFrom i n) → ∀ b r', r.qPop (mqId q) = .ok (b, r') →
      done (.mmov m x rows (.fromQ d q)) (4 * n + 2) ((u.modR fun _ => r').occupy (.fromQ i q [b]) (4 * n))) ∧
    (¬busy [j] → ∀ f : BitVec 2,
      done (.mmova m x (.read e a) f) 1 (u.post .m 1 (.e e (BitVec.ofNat 64 (match f.toNat with
        | 0 => (r.row j).rmax.toNat
        | 1 => (r.row j).rden.toNat
        | 2 => (r.row j).ovf.toNat
        | _ => (r.row j).valid.toNat + 2 * (r.row j).int.toNat + 4 * (r.row j).lz.toNat))))) ∧
    (¬busy [i] → ∀ f : BitVec 2,
      let w := u.core.r.eM.e[e]
      done (.mmova m x (.write d e) f) 1 (u.post .m 1 (.row i (match f.toNat with
        | 0 => { r.row i with rmax := w.setWidth 32 }
        | 1 => { r.row i with rden := w.setWidth 32 }
        | 2 => { r.row i with ovf := w.setWidth 32 }
        | _ => { r.row i with valid := w.getLsbD 0, int := w.getLsbD 1, lz := w.getLsbD 2 })))) ∧
    (busy [j] → ∀ f : BitVec 2, exec (.mmova m x (.read e a) f) s = .next (joined .m .join s))

/-- 08 R316 to R319; 02 R81: MFMT writes a format entry or FMTSRC, MSTAT reads M's status and clears its sticky bits, MSCL sets
SMX, each in one cycle. -/
def Obligations.MatrixControlIsSet : Prop :=
  ∀ (m : Marks) (s u : State),
    (∀ (x : Bool) (a : Fin 4), Admits .m (xWords x) m s u →
      let w := u.core.r.eM.e[a]
      (∀ t : BitVec 6, ∀ h : t.toNat < 16, NextIs (exec (.mfmt m x a t) s) fun v =>
        v.core.cr.fmte = u.core.cr.fmte.set t.toNat (w.setWidth 20) ∧ v.core.cr.fmtsrc = u.core.cr.fmtsrc ∧ v.mem = s.mem) ∧
      NextIs (exec (.mfmt m x a 16) s) fun v =>
        let src := fun (k : BitVec 3) => if 5 ≤ k.toNat then 4 else k
        v.core.cr.fmtsrc.extractLsb' 0 3 = src (w.extractLsb' 0 3) ∧ v.core.cr.fmtsrc.getLsbD 3 = false ∧
        v.core.cr.fmtsrc.extractLsb' 4 4 = w.extractLsb' 4 4 ∧ v.core.cr.fmtsrc.extractLsb' 8 3 = src (w.extractLsb' 8 3) ∧
        v.core.cr.fmtsrc.getLsbD 11 = false ∧ v.core.cr.fmtsrc.extractLsb' 12 4 = w.extractLsb' 12 4 ∧
        v.core.cr.fmte = u.core.cr.fmte ∧ v.mem = s.mem) ∧
    (∀ d : Fin 4, Admits .m 1 m s u →
      let r := u.core.r
      let p := (u.vale u.valeIdx).plate
      ∃ w : Word, w.getLsbD 0 = r.lease.held ∧ w.getLsbD 1 = r.lease.req ∧ w.getLsbD 2 = r.claim.isSome ∧
        w.getLsbD 3 = claimMatches r p ∧ w.getLsbD 4 = ((p.map Plate.failed).getD false) ∧ w.getLsbD 5 = r.mstat.lzs ∧
        w.getLsbD 6 = r.mstat.whs ∧ (w.extractLsb' 7 9).toNat = r.lease.cnt % 512 ∧
        (r.mstat.rrn < 2 ^ 16 → r.mstat.whn < 2 ^ 16 → (w.extractLsb' 16 16).toNat = r.mstat.rrn ∧
          (w.extractLsb' 32 16).toNat = r.mstat.whn ∧ w.extractLsb' 48 16 = 0) ∧
        exec (.mstat m d) s = .next (finish .m 1 m 1
          ((u.modR fun r => { r with mstat := { r.mstat with lzs := false, whs := false } }).post .m 1 (.e d w)))) ∧
    ∀ (a b : Fin 4) (o : Option (Bool × Bool)), Admits .m (optWords o) m s u →
      let x := u.core.r.eM.e[a]
      let y := u.core.r.eM.e[b]
      ∃ z : BitVec 256, z.extractLsb' 0 32 = x.extractLsb' 0 32 ∧ z.extractLsb' 32 32 = x.extractLsb' 32 32 ∧
        z.extractLsb' 64 32 = y.extractLsb' 0 32 ∧ z.extractLsb' 96 32 = y.extractLsb' 32 32 ∧
        z.getLsbD 128 = (o.getD (false, false)).1 ∧ z.getLsbD 129 = (o.getD (false, false)).2 ∧ z.extractLsb' 130 126 = 0 ∧
        exec (.mscl m a b o) s = .next (finish .m (optWords o) m 1 (u.post .m 1 (.smx z)))

namespace Sys2Proof.Machine

/-- A row of MSMX as 08 R320 gives it, over w score columns: the masked scores x, the new maximum mn and the scale alpha of the old
sums; the sums, the maximum and the code of each weight under its block's scale; and the elements that saturate in a step of the row,
its denominator being one more (02 R77). -/
structure FoldsTo (fa : Fmt) (scm sat : Bool) (smx : BitVec 256) (i : Nat) (s o : Row) (y : FoldedRow) : Prop where
  row : ∃ (x p : Nat → BitVec 32) (mn : BitVec 32) (sc : Nat → Nat),
    let w := if fa.isB8 then 256 else 128
    (∀ j, x j = if smxKlen smx ≤ smxKpos smx + j ∨ (smxCausal smx = true ∧ smxQpos smx + i < smxKpos smx + j) then 0xFF800000
      else (mul32 (smxScale smx) (rowSum s.sum j)).1) ∧
    mn = max32 o.rmax ((List.range w).foldl (fun m j => max32 m (x j)) 0xFF800000) ∧
    (∀ j, p j = if x j = 0xFF800000 then 0 else expDiff (x j) mn) ∧
    (∀ b, b < w / 32 → sc b = chooseScale fa scm ((List.range 32).map fun k => f32v (p (32 * b + k)))) ∧
    (∀ j, j < w → lane (2048 / w) y.prow.codes j =
      (toFmt ((f32v (p j)).div (scaleValue (sc (j / 32)))) fa sat).1 % 2 ^ (2048 / w)) ∧
    (∀ b, b < 8 → (y.prow.conts.extractLsb' (16 * b) 16).toNat = (if b < w / 32 then sc b else 0xFE) % 2 ^ 16) ∧
    (let pv := fun (j : Nat) =>
        (BitVec.ofNat 32 (toFmt ((decodeFmt fa (lane (2048 / w) y.prow.codes j)).mul (scaleValue (sc (j / 32)))) .f32 true).1, false)
     let tree := sumTree 8 ((List.range w).map pv)
     let old := mul32 o.rden (expDiff o.rmax mn)
     let masked := fun (j : Nat) => decide (smxKlen smx ≤ smxKpos smx + j) ||
       (smxCausal smx && decide (smxQpos smx + i < smxKpos smx + j))
     let lossy := fun (j : Nat) => (decide (j < w) && ((!masked j && (mul32 (smxScale smx) (rowSum s.sum j)).2) ||
       (toFmt ((f32v (p j)).div (scaleValue (sc (j / 32)))) fa sat).2)) || (mul32 (rowSum o.sum j) (expDiff o.rmax mn)).2
     y.set.rden = some (add32 old.1 tree.1).1 ∧
     y.ovf = ((List.range 256).filter lossy).length + (tree.2 || old.2 || (add32 old.1 tree.1).2).toNat) ∧
    y.set.rmax = some mn ∧ y.set.valid = some (o.valid && s.valid) ∧ y.set.int = none ∧ y.set.lz = none ∧
    ∃ z, y.set.sum = some z ∧ ∀ j, j < 256 → rowSum z j = (mul32 (rowSum o.sum j) (expDiff o.rmax mn)).1

/-- A row divided by its denominator (08 R322). -/
def NormsTo (x : Row) (y : RowSet) : Prop :=
  y.rmax = none ∧ y.rden = none ∧ y.valid = none ∧ y.int = none ∧ y.lz = some (f32v x.rden).isZero ∧ ∃ z, y.sum = some z ∧
    ∀ j, j < 256 → rowSum z j = if (f32v x.rden).isZero = true then 0
      else BitVec.ofNat 32 (toFmt ((f32v (rowSum x.sum j)).div (f32v x.rden)) .f32 true).1

/-- A row Y merged into a row X, and what its OVF gains where that lands (08 R323; 02 R77; log 80). -/
def MergesTo (x y : Row) (z : RowSet) (gain : Nat) : Prop :=
  let zx := (f32v x.rden).isZero
  let zy := (f32v y.rden).isZero
  let mm := max32 x.rmax y.rmax
  let a := fun (p : BitVec 32) => mul32 p (expDiff x.rmax mm)
  let b := fun (q : BitVec 32) => mul32 q (expDiff y.rmax mm)
  let one := fun (p q : BitVec 32) => (add32 (a p).1 (b q).1).1
  let lossy := fun (p q : BitVec 32) => (a p).2 || (b q).2 || (add32 (a p).1 (b q).1).2
  z.valid = some (x.valid && y.valid) ∧ z.int = none ∧ z.lz = none ∧ z.ovf = none ∧
  (zy = true → z.sum = none ∧ z.rmax = none ∧ z.rden = none ∧ gain = y.ovf.toNat) ∧
  (zy = false → zx = true → z.sum = some y.sum ∧ z.rmax = some y.rmax ∧ z.rden = some y.rden ∧ gain = y.ovf.toNat) ∧
  (zy = false → zx = false → z.rmax = some mm ∧ z.rden = some (one x.rden y.rden) ∧
    gain = y.ovf.toNat + (((List.range 256).filter fun j => lossy (rowSum x.sum j) (rowSum y.sum j)).length +
      (lossy x.rden y.rden).toNat) ∧ ∃ v, z.sum = some v ∧
    ∀ j, j < 256 → rowSum v j = one (rowSum x.sum j) (rowSum y.sum j))

end Sys2Proof.Machine

/-- 08 R320 to R323: MSMX folds rows of scores into running rows and the P buffer, n + 19 cycles on, KPOS in the issue cycle; MSMN
divides rows by their denominators and MSMG merges rows, n + 14 cycles on; each occupies M for a cycle a row. A row past acc.511
and a row of integers trap, and for MSMX an entry that is not for it. What overflows joins the rows’ OVF where it lands.
Model’s choices in it: log 37, 44, 80. -/
def Obligations.SoftmaxFoldsRows : Prop :=
  ∀ (m : Marks) (x : Bool) (rows : BitVec 6) (o a : Acc) (s u : State), Admits .m (xWords x) m s u →
    let n := rows.toNat + 1
    let traps := fun (i : Instr) (c : CauseRec) => exec i s = .next (raise .m c s)
    let done := fun (i : Instr) (v : State) (row : Nat → List (Nat × Land)) (lat : Nat) =>
      exec i s = .next (finish .m (xWords x) m lat (v.postRows row n))
    let ints := fun (r : Regs) (k : Nat) => ∃ j, j < n ∧ (r.row (k + j)).int = true
    (∀ fi f v, u.fmtEntry .m = (fi, f, v) →
      let i := v.accNum o
      let j := v.accNum a
      let r := v.core.r
      (∀ c, smxFmtCheck f = some c → traps (.msmx m x rows o a) (causeAt v .m 0x08 (fi.val + c <<< 4))) ∧
      ∀ fa, smxFmtCheck f = none → Fmt.ofCode (fmtA f) = some fa →
        (512 < i + n ∨ 512 < j + n → traps (.msmx m x rows o a) (causeAt v .m 0x22 0)) ∧
        (i + n ≤ 512 → j + n ≤ 512 → ints r i ∨ ints r j → traps (.msmx m x rows o a) (causeAt v .m 0x23 0)) ∧
        (i + n ≤ 512 → j + n ≤ 512 → ¬ints r i → ¬ints r j → ∃ y : Nat → FoldedRow,
          (∀ k, k < n → FoldsTo fa (fmtScm f) (fmtSat f) r.smx k (r.row (j + k)) (r.row (i + k)) (y k)) ∧
          let kpos := BitVec.ofNat 32 (smxKpos r.smx + if fa.isB8 then 256 else 128)
          done (.msmx m x rows o a) (if smxKstep r.smx then
              v.post .m 1 (.smx (r.smx.extractLsb' 128 128 ++ kpos ++ r.smx.extractLsb' 0 96)) else v) (fun k =>
            [(n + 19, Land.pbuf k (y k).prow), (n + 19, .rowSet (i + k) (y k).set), (n + 19, .rowOvf (i + k) (y k).ovf)])
            (n + 19))) ∧
    (let i := u.accNum o
      let j := u.accNum a
      let r := u.core.r
      (512 < i + n → traps (.msmn m x rows o) (causeAt u .m 0x22 0)) ∧
      (i + n ≤ 512 → ints r i → traps (.msmn m x rows o) (causeAt u .m 0x23 0)) ∧
      (i + n ≤ 512 → ¬ints r i → ∃ y : Nat → RowSet, (∀ k, k < n → NormsTo (r.row (i + k)) (y k)) ∧
        let c := fun (k : Nat) => if (f32v (r.row (i + k)).rden).isZero then 0 else ((List.range 256).filter fun j =>
          (toFmt ((f32v (rowSum (r.row (i + k)).sum j)).div (f32v (r.row (i + k)).rden)) .f32 true).2).length
        done (.msmn m x rows o) u (fun k => [(n + 14, Land.rowSet (i + k) (y k)), (n + 14, .rowOvf (i + k) (c k))]) (n + 14)) ∧
      (512 < i + n ∨ 512 < j + n → traps (.msmg m x rows o a) (causeAt u .m 0x22 0)) ∧
      (i + n ≤ 512 → j + n ≤ 512 → ints r i ∨ ints r j → traps (.msmg m x rows o a) (causeAt u .m 0x23 0)) ∧
      (i + n ≤ 512 → j + n ≤ 512 → ¬ints r i → ¬ints r j → ∃ (y : Nat → RowSet) (c : Nat → Nat),
        (∀ k, k < n → MergesTo (r.row (i + k)) (r.row (j + k)) (y k) (c k)) ∧
        done (.msmg m x rows o a) u (fun k => [(n + 14, Land.rowSet (i + k) (y k)), (n + 14, .rowOvf (i + k) (c k))]) (n + 14)))

/-! ## The cycle of an engine (01 R12 to R58) -/

/-- 01 R13, R17, R38, R39; 05 R153: an engine's cycle without an issue. One that is halted, or whose core does not run, does
nothing; a replay, a cause of its own, a response it waits for and slip hold it, and it keeps everything; a run that ends at an own
word leaves it standing there; a run of other words is an advancing cycle; an illegal word stops it, and so does a word that the
store cannot deliver (22 R564). A run walks at most 8 words,
and changes nothing but where the engine stands; in the shadow context a word of another engine is a double trap (13 R404). 06 R190, R206, R232; 14 R440: a response that has come, while its core runs, brings its value, which lands in its engine's next advancing
cycle behind what was issued before the load, or fills its entry of lq, and its read is no more; a response that has not come changes nothing. A prefetch walk ends without a cause, whatever it meets. 21 R540: in a
replay of C a departure takes its effects.
Model’s choices in it: log 7, 13, 18, 31, 38. -/
def Obligations.CyclesWithoutAnIssue : Prop :=
  (∀ (e : Engine) (s : State),
    (s.moves? e = false → exec (.engineRun e) s = .next s ∧ exec (.operationLanding e) s = .next s) ∧
    (s.moves? e = true → exec (.operationLanding e) s = .next (s.settle e) ∧
      ((s.eng e).replay ≠ 0 → ¬(e = .m ∧ s.wantsLease e = true ∧ s.core.r.lease.rerun ≠ 0) →
        let kept := fun (v : State) => (stalled e .replay v).modEng e fun x => { x with replay := x.replay - 1 }
        (e ≠ .c → e ≠ .m → exec (.engineRun e) s = .next (kept s)) ∧
        (e = .m → exec (.engineRun e) s =
          .next ((kept s).modR fun r => { r with lease := { r.lease with rerun := r.lease.rerun - 1 } })) ∧
        (e = .c → (s.inShadow = true ∨ ∀ o k view, s.core.cwait ≠ .departed o k view) → exec (.engineRun e) s = .next (kept s)) ∧
        ∀ o k view i, e = .c → s.inShadow = false → s.core.cwait = .departed o k view → s.decodeAt .c (s.pcOf .c) = .ok i →
          let d := s.depart o view
          (∀ m x p q, i ≠ .domsplit m x p q) → (∀ m x p, i ≠ .domjoin m x p) →
            exec (.engineRun e) s = .next (kept (d.1.setWait (.answered d.2 0)))) ∧
      ((s.eng e).replay = 0 → s.ownCause e = true → exec (.engineRun e) s = .next (stalled e .fault s)) ∧
      ((s.eng e).replay = 0 → s.ownCause e = false → (s.eng e).stall ≠ none →
        exec (.engineRun e) s = .next (stalled e .mem s))) ∧
    (s.forms .c = true → s.inShadow = true → s.lastWord .c ≥ s.pcOf .c → s.badFetch .c (s.pcOf .c) (wordLen (s.wordAt .c (s.pcOf .c))) = none →
      ownWordOf .c (s.wordAt .c (s.pcOf .c)) = false → NextIs (exec (.engineRun .c) s) fun t => t.core.st = .stopped ∧
        t.core.frozen = true ∧ t.core.status.getLsbD 31 = true ∧ t.mem = s.mem) ∧
    (s.forms e = true → ∀ h t, s.walk e = (h, t) →
      (∃ pc w b l, t = s.modEng e fun x => { x with pc := pc, walked := w, back := b, levels := l }) ∧
      (t.eng e).walked ≤ (s.eng e).walked + 8 ∧
      (∀ i, h = .own i → exec (.engineRun e) s = .next t ∧ ownWordOf e (t.wordAt e (t.pcOf e)) = true ∧
        t.decodeAt e (t.pcOf e) = .ok i ∧ (t.eng e).walked + wordLen (t.wordAt e (t.pcOf e)) ≤ (s.eng e).walked + 8) ∧
      (h = .dry → exec (.engineRun e) s = .next ((t.settle e).modEng e fun x => { x with wait := .none, back := none })) ∧
      (h = .slip → exec (.engineRun e) s = .next (stalled e .slip s)) ∧
      (∀ d, h = .bad d → e ≠ .c → (s.eng e).wait ≠ .breath → NextIs (exec (.engineRun e) s) fun r => (r.eng e).wait = .fault ∧ ∃ c,
        r.core.cr.pending = s.core.cr.pending ++ [c] ∧ c.code = 0x01 ∧ c.detail = d ∧ c.unit = engNum e) ∧
      ∀ x, h = .fail x → x ∈ s.bad ∧ (e ≠ .c → (s.eng e).wait ≠ .breath → NextIs (exec (.engineRun e) s) fun r => (r.eng e).wait = .fault ∧ r.bad = s.bad ∧
        ∃ c, r.core.cr.pending = s.core.cr.pending ++ [c] ∧ c.code = 0x3E ∧ c.imp = true ∧ c.addr = 0 ∧ c.unit = engNum e))) ∧
  ∀ (k : Nat) (s : State),
    ((∀ r ∈ s.reads, r.id ≠ k) → exec (.loadResponse k) s = .next s) ∧
    (∀ r, s.reads.find? (fun r => r.id == k) = some r →
      (s.mayRespond r = false → exec (.loadResponse k) s = .next s) ∧
      (s.mayRespond r = true → NextIs (exec (.loadResponse k) s) fun t => t.reads = s.reads.filter (fun x => x.id != k) ∧
        t.mem = s.mem ∧
        (r.core = s.core.id →
          (∀ l, r.arr = .reg l → ∃ xs ys, (s.eng r.eng).pend = xs ++ ys ∧ (t.eng r.eng).pend = xs ++ ⟨1, l, r.born⟩ :: ys ∧
            (∀ p ∈ xs, p.born ≤ r.born) ∧ ∀ p, ys.head? = some p → r.born < p.born) ∧
          (∀ d x, r.eng = .c → s.inShadow = false → s.core.r.eC.pend = [] → r.arr = .reg (.s d x) →
            (t.settle .c).core.r.s = s.core.r.s.set d x) ∧
          (∀ d x, r.eng = .a → s.core.r.eA.pend = [] → r.arr = .reg (.a d x) → (t.settle .a).core.r.a = s.core.r.a.set d x) ∧
          (∀ q sid x, r.arr = .slot q sid x → ((t.core.r.lq[q]).slots = (s.core.r.lq[q]).slots.map fun y =>
            if y.sid = sid ∧ y.cut = false then { y with data := some x, fresh := true } else y) ∧ t.core.r.s = s.core.r.s) ∧
          ((s.eng r.eng).stall = some k → (t.eng r.eng).stall = none) ∧
          (r.eng = .a → r.arr = .record → t.core.agc = some r.word) ∧
          (s.unacked r.eng = [] → ∀ f ∈ r.toks, ∃ x ∈ (t.core.r.tok[f]).toks, x.fresh = true)))) ∧
    ((∀ w ∈ s.walks, w.id ≠ k) → exec (.tableWalk k) s = .next s) ∧
    ∀ w, s.walks.find? (fun w => w.id == k) = some w → NextIs (exec (.tableWalk k) s) fun t =>
      t.walks = s.walks.filter (fun x => x.id != k) ∧ t.mem = s.mem ∧
        (w.core = s.core.id → t.core.cr.pending = s.core.cr.pending)

/-- 01 R55, R56: BREATHs that meet: with no level active, none halted, one number and nothing in the queues, every engine goes on
together, to the table's word or the next; else C takes the breath-state trap. Until they meet nothing happens. 01 R58; 13 R402; 21 R538: C takes the ring-deadlock trap when every engine has been stuck for 1,024 cycles, and not before;
at a boundary with a cause pending it enters the shadow context, ERETPC being the word at which C stands; a timing error holds its
unit for three cycles and is counted.
Model’s choices in it: log 13, 32, 33, 39. -/
def Obligations.BreathsMeet : Prop :=
  (∀ (s : State), (s.breathMet = false → exec .breathSwitch s = .next s) ∧
    (s.breathMet = true → s.breathOk = true → ∀ m k, s.breathOf .c = some (m, k) →
      let w := assocGet (0 : IWord) (k * 3 + s.powerLevel) s.core.swt
      NextIs (exec .breathSwitch s) fun t => t.mem = s.mem ∧ t.core.r.s = s.core.r.s ∧ t.core.r.v = s.core.r.v ∧
        ∀ e, t.pcOf e = (if w.getLsbD 31 then (w.extractLsb' 0 15).toNat else s.pcOf e + 1) ∧
          (t.eng e).walked = (s.eng e).walked + 1 ∧ (t.eng e).wait = .none) ∧
    (s.breathMet = true → s.breathOk = false → NextIs (exec .breathSwitch s) fun t => t.core.cr.shd = true ∧ t.mem = s.mem ∧
      (s.core.cr.pending = [] → t.core.cr.cause.extractLsb' 0 8 = 0x06) ∧ t.core.cr.eretPc = BitVec.ofNat 64 (s.pcOf .c % 2 ^ 15))) ∧
  ∀ (s : State),
    (s.core.cr.dead < 1024 → exec .ringDeadlock s = .next s) ∧
    (1024 ≤ s.core.cr.dead → s.inShadow = false → s.core.st = .running → s.core.frozen = false →
      NextIs (exec .ringDeadlock s) fun t => t.core.cr.shd = true ∧ t.core.cr.dead = 0 ∧ t.mem = s.mem ∧
        (s.core.cr.pending = [] → t.core.cr.cause.extractLsb' 0 8 = 0x07)) ∧
    (s.trapDue = false → exec .trapEntry s = .next s) ∧
    (s.core.st = .running → s.core.frozen = false → s.inShadow = false → s.core.cr.pending ≠ [] → s.core.r.eC.stall = none →
      s.core.r.eC.replay = 0 → NextIs (exec .trapEntry s) fun t => t.core.cr = (takeTrap (s.pcOf .c) s).core.cr ∧
        t.core.cr.shd = true ∧ t.mem = s.mem) ∧
    ∀ (e : Engine) (v n : Nat) (k : Core), s.coreOf v n = some k →
      let frozen := k.cr.shd = true ∧ e ≠ .c
      (k.st = .running → k.frozen = false → ¬frozen → (k.eng e).halted = false → (k.eng e).replay = 0 →
        NextIs (exec (.timingErrorReplay v (.engine n e)) s) fun t => (∃ x ∈ t.cores, x.id = k.id ∧ (x.eng e).replay = 3) ∧ t.mem = s.mem ∧
          ∀ h : v / 8 < 16, (t.plat.straths[v / 8]).rply = min ((s.plat.straths[v / 8]).rply + 1) 0xFFFFFFFF) ∧
      (k.st ≠ .running ∨ k.frozen = true ∨ frozen ∨ (k.eng e).halted = true ∨ (k.eng e).replay ≠ 0 → exec (.timingErrorReplay v (.engine n e)) s = .next s) ∧
      ∀ (v : Nat) (i : Fin 3), v < 128 →
        (s.working v i.val ≠ none → vget (s.vale v).xrep 0 i.val = 0 → NextIs (exec (.timingErrorReplay v (.async i)) s) fun t =>
          vget (t.vale v).xrep 0 i.val = 3 ∧ t.mem = s.mem ∧ t.core = s.core) ∧
        (s.working v i.val = none → (i = 1 → ∀ w ∈ s.updates, CoreId.valeIdx w.core ≠ v) →
          exec (.timingErrorReplay v (.async i)) s = .next s) ∧
        (s.holderCore v = none → exec (.timingErrorReplay v .array) s = .next s)

/-! ## Commands of the asynchronous engines (09 R326 to R351; 18 R504, R505) -/

namespace Sys2Proof.Machine

/-- What a command's run makes of its command (09 R331; 13 R420; 22 R564): its writes are made; or it ends at its failing element,
what came before standing, the transfers of that element's walk with it; or it pauses after an element that a watchpoint met, keeping
what it has read; or it waits, nothing done. -/
structure Settles (c : Cmd) (s : State) (r : Run) (f : Cmd → Cmd) (o : Host.Outcome State Fault Refusal) : Prop where
  done  : r.err = none → o = .next (r.st.setCmd (f { c with
    stage := .performed, wrote := r.wrote, wids := r.sent, view := r.party.view, floor := r.party.floor, elems := r.idx }))
  fault : ∀ code spent, r.err = some (.fault code spent) → o = .next ((r.st.pay spent).setCmd { c with
    stage := .complete, fault := some code, bytes := r.idx, detail := code, wrote := r.wrote, wids := r.sent, elems := r.idx })
  data  : ∀ pa spent, r.err = some (.data pa spent) → o = .next (((r.st.pay spent).poison pa).setCmd { c with
    stage := .complete, fault := some 0x3E, bytes := r.idx, detail := 0x3E, wrote := r.wrote, wids := r.sent, elems := r.idx })
  pause : r.err = some .pause → o = .next (r.st.setCmd { c with
    wrote := r.wrote, wids := r.sent, view := r.party.view, floor := r.party.floor, elems := r.idx, upto := r.idx
    data := r.data, sums := r.sums })
  wait  : r.err = some .wait → o = .next s
  hold  : ∀ p, r.err = some (.hold p) → o = .next (s.onCore c.core (wantPage p))

end Sys2Proof.Machine

/-- 09 R327 to R331, R343; 04 R131: a command starts after those that its core pushed before it, once the remote writes that its
push carries are performed, or is refused; one whose writes are performed at their destinations posts and adds to its flag, or waits for the flag; its element enters the FIFO in push order, with the bytes, the detail,
the type and the fault, which raises the command fault. 13 R424 to R427; 19 R508: a sealed image opens again under its key with the same words and bytes; with another counter it is
refused with 0x34, with another range or slot with 0x35. COPYX refuses a target that is not stopped, or of another key, or a range
outside its window, and takes the object-scope fault on a bound byte (04 R128); a save takes the slot's next counter, and a restore
writes what the image holds, and counts it. A watchpoint pauses either, which goes on with the image that it has (13 R420).
Model’s choices in it: log 35, 46, 60, 61, 75, 76, 77. -/
def Obligations.CommandsStartAndEnd : Prop :=
  (∀ (k : Nat) (s : State) (c : Cmd), s.cmd k = some c →
    let size := ((s.domain c.dom).map fun d => d.members.length).getD 0
    let fails := fun (code : Nat) => { c with stage := .complete, fault := some code, bytes := 0, detail := code }
    ((c.stage ≠ .queued ∨ c.wids ≠ [] ∨ ∃ d ∈ s.earlier c, d.stage = .queued) → exec (.commandStart k) s = .next s) ∧
    (s.canStart c = true →
      (c.refused size = true → exec (.commandStart k) s = .next (if c.kind = some .coll then
        { s.setCmd (fails 0x31) with voids := s.voids ++ [(c.dom, c.seq)] } else s.setCmd (fails 0x31))) ∧
      (c.refused size = false → c.rotFault = true → exec (.commandStart k) s = .next (s.setCmd (fails 0x20))) ∧
      (c.refused size = false → c.rotFault = false →
        exec (.commandStart k) s = .next (s.setCmd { c with stage := .started }))) ∧
    (s.paused c = true ∨ c.wids ≠ [] → exec (.commandCompletion k) s = .next s) ∧
    (s.paused c = false → c.wids = [] → (c.stage = .performed ∧ c.ben = false) ∨ c.stage = .posted →
      (c.fen = false → exec (.commandCompletion k) s = .next (s.setCmd { c with stage := .complete })) ∧
      ∀ h, s.cores.find? (fun x => x.id == c.core) = some h → c.fen = true →
        ((h.r.f[c.flag]).room (1 + h.flagHeld c.flag) = false →
          exec (.commandCompletion k) s = .next (s.setCmd { c with stage := .posted })) ∧
        ((h.r.f[c.flag]).room (1 + h.flagHeld c.flag) = true → NextIs (exec (.commandCompletion k) s) fun t => t.mem = s.mem ∧
          t.cmds = (s.setCmd { c with stage := .complete }).cmds ∧
          (h = s.core → (t.core.r.f[c.flag]).val = (s.core.r.f[c.flag]).val + 1 ∧
            (t.core.r.f[c.flag]).view = (s.core.r.f[c.flag]).view ||| c.wrote))) ∧
    (let o := (c.word 1).extractLsb' 0 32
      let pod := (s.cores.find? fun x => x.id == c.core).bind Core.pod
      ∀ i ∈ [Instr.commandCompletion k, .barrierPost k],
        (i = .commandCompletion k → s.paused c = false ∧ c.wids = [] ∧ c.stage = .performed ∧ c.ben = true) →
        (i = .barrierPost k → c.stage = .posting) →
        (s.syncObj o = none → exec i s = .next (s.setCmd (c.fail 0x2A c.elems))) ∧
        ∀ x, s.syncObj o = some x →
          (scopeHas x c.core pod = false → exec i s = .next (s.setCmd (c.fail 0x28 c.elems))) ∧
          (scopeHas x c.core pod = true → oidKind o ≠ 1 → exec i s = .next (s.setCmd (c.fail 0x2A c.elems))) ∧
          (scopeHas x c.core pod = true → oidKind o = 1 →
            (x.arrive (c.bits 1 32 32) 0 c.postBytes c.wrote [] = .wait → exec i s = .next (s.setCmd { c with stage := .posting })) ∧
            (x.arrive (c.bits 1 32 32) 0 c.postBytes c.wrote [] = .overrun → exec i s = .next (s.setCmd (c.fail 0x2B c.elems))) ∧
            (∀ y, x.arrive (c.bits 1 32 32) 0 c.postBytes c.wrote [] = .ok y → exec i s = .next ((s.setObj y).finishCmd c)))) ∧
    (s.canPlace c = false → exec (.resultElementPlace k) s = .next s) ∧
    (c.stage = .complete → c.wids = [] → c.work = 0 → s.earlier c = [] → NextIs (exec (.resultElementPlace k) s) fun t =>
      t.cmds = s.cmds.filter (fun d => d.id != c.id) ∧ t.mem = s.mem ∧
      (∀ n, c.tag = some n → ∀ d ∈ t.domains, d.id = c.dom → ∃ e ∈ s.domains, e.id = c.dom ∧
        assocGet 0 n d.tagged = assocGet 0 n e.tagged ||| c.wrote) ∧
      (c.core = s.core.id → ∃ e : Result, (e.word.extractLsb' 0 32).toNat = c.bytes % 2 ^ 32 ∧
        (c.typ < 2 ^ 15 → (e.word.extractLsb' 32 16).toNat = c.detail % 65536 ∧ (e.word.extractLsb' 48 15).toNat = c.typ ∧
          e.word.getLsbD 63 = c.fault.isSome) ∧ e.view = c.wrote ∧
        (c.shadow = false → (t.core.xp[c.x]).res = (s.core.xp[c.x]).res ++ [e] ∧
          (c.fault = none → t.core.cr.pending = s.core.cr.pending) ∧
          ∀ code, c.fault = some code → ∃ z, t.core.cr.pending = s.core.cr.pending ++ [z] ∧ z.imp = true ∧
            z.unit = 5 + c.x.val ∧ z.pc = c.pc ∧ z.code = (if code = 0x3E then 0x3E else 0x30)) ∧
        (c.shadow = true → (t.core.xp[c.x]).sres = (s.core.xp[c.x]).sres ++ [e] ∧ t.core.cr.pending = s.core.cr.pending)))) ∧
  (∀ (key : BitVec 256) (x : ImageOf), x.slot < 64 → x.ctr < 2 ^ 64 → x.first < 2 ^ 32 → x.words.length < 2 ^ 32 → x.off < 2 ^ 32 →
    x.bytes.length < 2 ^ 32 →
    let open_ := fun (ctr slot first : Nat) => openImage key ctr slot first x.words.length x.off x.bytes.length (sealImage key x)
    open_ x.ctr x.slot x.first = .ok (x.words, x.bytes) ∧
    (∀ ctr, ctr ≠ x.ctr → open_ ctr x.slot x.first = .error 0x34) ∧
    (∀ slot, slot < 64 → slot ≠ x.slot → open_ x.ctr slot x.first = .error 0x35) ∧
    ∀ first, first < 2 ^ 32 → first ≠ x.first → open_ x.ctr x.slot first = .error 0x35) ∧
  ∀ (k : Nat) (s : State) (c : Cmd), s.cmd k = some c → c.stage = .started → s.paused c = false → c.kind = some .copyx →
    let own := CoreId.valeIdx c.core
    (∀ i ∈ [(0, Instr.copyxSave k), (1, .copyxRestore k)], c.bits 0 48 1 = i.1 →
      (c.stoppedTarget s = none → exec i.2 s = .next (s.setCmd (c.fail 0x35 0))) ∧
      ∀ g t, c.stoppedTarget s = some (g, t) → (i.1 = 0 → t.cr.keyslot.toNat = 64 + c.xslot) → c.xfits g = false →
        exec i.2 s = .next (s.setCmd (c.fail 0x31 0))) ∧
    ∀ g t key ctr, c.stoppedTarget s = some (g, t) → s.keySlot c.xslot = (key, ctr) →
      (c.bits 0 48 1 = 0 → t.cr.keyslot.toNat ≠ 64 + c.xslot → exec (.copyxSave k) s = .next (s.setCmd (c.fail 0x35 0))) ∧
      (c.bits 0 48 1 = 0 → t.cr.keyslot.toNat = 64 + c.xslot → c.xfits g = true →
        (∀ i, c.xbound s = some i → exec (.copyxSave k) s = .next (s.setCmd (c.fail 0x28 i))) ∧
        (c.xbound s = none → ∀ img r0,
          (if c.upto = 0 then img = sealImage key ⟨c.xslot, (ctr + 1).toNat, c.xfirst,
              frozenWords t g.reads (s.plvOf g.vf) c.xfirst c.xcount, c.xoff,
              s.scratchBytes (CoreId.valeIdx c.target) c.xoff c.xlen⟩ ∧
            r0 = { Run.start c (s.setKeySlot c.xslot (key, ctr + 1)) with data := img.map BitVec.toNat }
           else img = c.data.map (BitVec.ofNat 8) ∧ r0 = Run.start c s) →
          let r := (List.range (img.length / 8)).foldl (fun r i => r.elem fun r =>
            r.write c own (c.word 2 + BitVec.ofNat 64 (8 * i)) ((img.drop (8 * i)).take 8) 8) r0
          Settles c s r (fun d => { d with bytes := img.length }) (exec (.copyxSave k) s))) ∧
      (c.bits 0 48 1 = 1 → c.xfits g = true →
        let r := (Run.start c s).readList c own 8 8 ((80 + 8 * c.xcount + c.xlen) / 8) fun i => c.word 2 + BitVec.ofNat 64 (8 * i)
        let img := r.data.flatMap fun x => valBytes x 8
        (r.err ≠ none → Settles c s r id (exec (.copyxRestore k) s)) ∧
        (r.err = none →
          (∀ code, openImage key ctr.toNat c.xslot c.xfirst c.xcount c.xoff c.xlen img = .error code →
            exec (.copyxRestore k) s = .next (r.st.setCmd { c.fail code 0 with floor := r.party.floor })) ∧
          ∀ ws bs, openImage key ctr.toNat c.xslot c.xfirst c.xcount c.xoff c.xlen img = .ok (ws, bs) →
            (∀ i, c.xbound r.st = some i →
              exec (.copyxRestore k) s = .next (r.st.setCmd { c.fail 0x28 i with floor := r.party.floor })) ∧
            (c.xbound r.st = none → let kept := fun (i : Nat) => c.xfirst + i < 5 ∨ c.xfirst + i = 6 ∨ c.xfirst + i = 11
              Settles c s (c.restore g ws bs r) (fun d =>
                { d with bytes := 8 * ((List.range c.xcount).filter fun i => ¬kept i).length + c.xlen }) (exec (.copyxRestore k) s))))

/-- 04 R123, R128; 09 R331 to R333; 03 R101: a command's elements: an element inside the extents is read at its address, any other
is the fill value; it is written at its destination. A write to scratch lies in its gang's window and gives memory its bytes; a read
there gives the bytes that nothing unordered has overwritten. 09 R333 to R337: COPY, MCAST, GATHER and SCATTER move the elements of their tile in order, GATHER and SCATTER by the index
list that they read first, once; BYTES counts what was written. An element that a watchpoint has met pauses the command, which goes
on after it (13 R420), keeping what it has read of its list. PREF moves the pages of its range and counts them in DETAIL, and waits
while another move holds one.
Model’s choices in it: log 35, 46, 47, 72, 75, 86. -/
def Obligations.CommandsMoveElements : Prop :=
  (∀ (c : Cmd) (r r1 : Run) (v : Nat) (va : Word) (bs : List Byte) (al n : Nat),
    (∀ e c1, (c.inside e c1 = false → r.element c e c1 = .ok (valBytes (c.bits 12 0 32) c.esize, r)) ∧
      (c.inside e c1 = true → r.element c e c1 = r.read c (c.vale c.svl) (c.srcAt e c1) c.esize c.esize)) ∧
    (∀ c1 e, r.err = none → r.idx < r.cmd.upto → Run.copyOne c [v] c1 r e = { r with idx := r.idx + 1 }) ∧
    (∀ c1 e r2, r.err = none → r.cmd.upto ≤ r.idx → r2.err = none → r.element c e (c1 e) = .ok (bs, r1) →
      r1.write c v (c.dstAt e (c.step e 1)) bs c.esize = .ok r2 →
      Run.copyOne c [v] c1 r e = { r2 with idx := r2.idx + 1, err := if r2.st.paused r2.cmd then some .pause else none }) ∧
    (∀ c1 e x, r.err = none → r.cmd.upto ≤ r.idx → r.element c e (c1 e) = .error x → Run.copyOne c [v] c1 r e = { r with err := some x }) ∧
    (isScratch va = true → let o := va.toNat % 2 ^ 63
      (r.write c v va bs al = .ok r1 → va.toNat % al = 0 ∧ inWindow c.spw o = true ∧ inWindow c.spw (o + bs.length - 1) = true ∧
        r1.st.mem = Memory.writeN r.st.mem (scratchCell v o) bs ∧ r1.wrote = r.wrote ||| 1 <<< r.st.nextWrite) ∧
      (r.read c v va n al = .ok (bs, r1) → r1.st.mem = r.st.mem ∧ inWindow c.spw o = true ∧
        (newerThan (r.party.view ||| r.party.floor) (scratchCell v o) n r.st.hist = [] →
          bs = Memory.readN r.st.mem (scratchCell v o) n)))) ∧
  (∀ (c : Cmd) (r : Run) (v n al k : Nat) (addr : Nat → Word), r.readList c v n al 0 addr = r ∧
    let t := r.readList c v n al k addr
    let next := r.readList c v n al (k + 1) addr
    (t.err ≠ none ∨ k < t.data.length → next = t) ∧
    (∀ x, t.err = none → t.data.length ≤ k → t.read c v (addr k) n al = .error x → next = { t with err := some x }) ∧
    ∀ bs t1, t.err = none → t.data.length ≤ k → t.read c v (addr k) n al = .ok (bs, t1) →
      next = { t1 with data := t1.data ++ [bytesVal bs], err := if t1.st.paused c then some .pause else t1.err }) ∧
  ∀ (k : Nat) (s : State) (c : Cmd), s.cmd k = some c → c.stage = .started → s.paused c = false →
    let r0 := Run.start c s
    let es := List.range c.tileElems
    (c.kind = some .copy → (es.foldl (Run.copyOne c [c.vale c.dvl] c.plainC1) r0).err = none →
      NextIs (exec (.copy k) s) fun t => t.mem = (es.foldl (Run.copyOne c [c.vale c.dvl] c.plainC1) r0).st.mem ∧
        ∀ d ∈ t.cmds, d.id = c.id → d.stage = .performed ∧ d.bytes = c.tileBytes) ∧
    (c.kind = some .copy → (es.foldl (Run.copyOne c [c.vale c.dvl] c.plainC1) r0).err ≠ none →
      Settles c s (es.foldl (Run.copyOne c [c.vale c.dvl] c.plainC1) r0) id (exec (.copy k) s)) ∧
    (c.kind = some .mcast → Settles c s (es.foldl (Run.copyOne c c.vales c.plainC1) r0)
      (fun d => { d with bytes := c.tileBytes * c.vales.length }) (exec (.mcast k) s)) ∧
    (c.kind = some .gather ∨ c.kind = some .scatter →
      let r1 := r0.readList c (CoreId.valeIdx c.core) 4 4 (c.tl 1) fun i => scratchA (c.bits 13 0 23) + BitVec.ofNat 64 (4 * i)
      let ix := r1.data
      (c.kind = some .gather → Settles c s
        (es.foldl (Run.copyOne c [c.vale c.dvl] fun e => ix.getD (c.step e 1) 0xFFFFFFFF) r1)
        (fun d => { d with bytes := c.tileBytes }) (exec (.gather k) s)) ∧
      (c.kind = some .scatter →
        let dests := (List.range (c.tl 1)).filterMap fun i =>
          let x := ix.getD i 0xFFFFFFFF
          if x = 0xFFFFFFFF ∨ c.bits 13 32 32 ≤ x then none else some x
        let row := c.tl 0 * c.tl 2 * c.tl 3 * c.esize
        (c.bits 0 20 1 = 0 → Settles c s (es.foldl (Run.scatterOne c ix) r1) (fun d => { d with bytes := dests.length * row })
          (exec (.scatter k) s)) ∧
        (c.bits 0 20 1 = 1 → Settles c s (es.foldl (Run.scatterSum c ix) r1)
          (fun d => { d with bytes := dests.eraseDups.length * row }) (exec (.scatter k) s)))) ∧
    (c.kind = some .pref →
      let pages := (List.range ((c.word 3).toNat / 65536)).map fun i => (c.word 2).toNat + 65536 * i
      ∀ p ∈ [(0, Instr.prefPromote k), (1, .prefDemote k)], c.es = p.1 →
        (pages.foldl (prefPage c p.1) (some (0, s)) = none → exec p.2 s = .next s) ∧
        ∀ n t, pages.foldl (prefPage c p.1) (some (0, s)) = some (n, t) →
          exec p.2 s = .next (t.setCmd { c with stage := .performed, detail := min n 0xFFFF })) ∧
    ∀ i ∈ [(CmdKind.copy, Instr.copy k), (.mcast, .mcast k), (.gather, .gather k), (.scatter, .scatter k), (.sacc, .sacc k),
      (.sigath, .sigath k)], c.kind ≠ some i.1 → exec i.2 s = .next s

/-- 09 R338, R339; 04 R136: SIGATH selects the blocks within RAD of the query, nearest first, and writes them, padding, their
index list and count; SACC updates its elements in windows of 64.
Model’s choices in it: log 46, 47, 75. -/
def Obligations.BlocksAreSelectedAndAccumulated : Prop :=
  (∀ (sigs : List Nat) (q rad cap : Nat),
    let dist := fun (i : Nat) => ((List.range 64).filter fun j => (sigs.getD i 0 ^^^ q).testBit j).length
    let all := selectBlocks sigs q rad sigs.length
    selectBlocks sigs q rad cap = all.take cap ∧ (∀ i, i ∈ all ↔ i < sigs.length ∧ dist i ≤ rad) ∧
      all.Pairwise fun a b => dist a < dist b ∨ (dist a = dist b ∧ a < b)) ∧
  (∀ (k : Nat) (s : State) (c : Cmd), s.cmd k = some c → c.stage = .started → s.paused c = false → c.kind = some .sigath →
    let own := CoreId.valeIdx c.core
    let blk := c.bits 4 0 32
    let cap := c.bits 6 16 12 + 1
    let r1 := (Run.start c s).readList c own 8 8 (c.bits 4 32 32) fun i => c.word 2 + BitVec.ofNat 64 (8 * i)
    let sel := selectBlocks r1.data (c.word 5).toNat (c.bits 6 0 7) cap
    let pad := (List.replicate (4 / c.esize) (valBytes (c.bits 9 0 32) c.esize)).flatten
    let piece := fun (b j : Nat) (r : Run) => match sel[b]? with
      | some i => (r.read c own (c.word 3 + BitVec.ofNat 64 (i * blk) + BitVec.ofNat 64 (4 * j)) 4 4).bind fun p =>
        p.2.write c (c.vale c.dvl) (c.word 7 + BitVec.ofNat 64 (b * blk) + BitVec.ofNat 64 (4 * j)) p.1 4
      | none => r.write c (c.vale c.dvl) (c.word 7 + BitVec.ofNat 64 (b * blk) + BitVec.ofNat 64 (4 * j)) pad 4
    let r2 := (List.range cap).foldl (fun r b => (List.range (blk / 4)).foldl (fun r j => r.elem (piece b j)) r) r1
    let r3 := r2.writes c own (c.word 8) (((List.range cap).map fun b => valBytes (sel.getD b 0xFFFFFFFF) 4) ++
      [valBytes sel.length 4])
    Settles c s r3 (fun d => { d with bytes := cap * blk, detail := sel.length }) (exec (.sigath k) s)) ∧
  ∀ (k : Nat) (s : State) (c : Cmd), s.cmd k = some c → c.stage = .started → s.paused c = false → c.kind = some .sacc →
    let n := c.bits 5 0 24
    ∀ r done, (List.range ((n + 63) / 64)).foldl (Run.saccStep c n) (Run.start c s, c.bytes / 4) = (r, done) →
      (r.err = none → NextIs (exec (.sacc k) s) fun t => t.mem = r.st.mem ∧
        ∀ d ∈ t.cmds, d.id = c.id → d.stage = .performed ∧ d.bytes = 4 * done ∧ d.elems = n) ∧
      (r.err ≠ none → Settles { c with bytes := 4 * done } s r id (exec (.sacc k) s))

namespace Sys2Proof.Machine

/-- One level of the tree of a reduction (09 R340): pairs in rank order combine, and an odd last value passes up. -/
def redLevel (red : Nat) (l : List Nat) : List Nat :=
  (List.range ((l.length + 1) / 2)).map fun i =>
    if 2 * i + 1 < l.length then redOf red (l.getD (2 * i) 0) (l.getD (2 * i + 1) 0) else l.getD (2 * i) 0

/-- k levels of the tree. -/
def redTree (red : Nat) : Nat → List Nat → Nat
  | 0, l => l.getD 0 0
  | k + 1, l => redTree red k (redLevel red l)

end Sys2Proof.Machine

/-- 09 R340; 18 R505: a collective waits until every member's command has started; members that disagree, or a refused member, end
it with cause 0x32; else each member reads what it contributes, waits until all have, and writes what its operation gives: the tree
over all ranks, for any number of them, the root's elements, every rank's in order, or the part that each rank has for it. A fault of a read ends all of them.
Model’s choices in it: log 46, 47, 75. -/
def Obligations.CollectivesAgree : Prop :=
  (∀ (k : Nat) (s : State) (c : Cmd), s.cmd k = some c → c.stage = .started → s.paused c = false → c.kind = some .coll →
    ∀ i ∈ [(0, Instr.allreduce k), (1, .reduce k), (2, .bcast k), (3, .allgather k), (4, .alltoall k)], c.bits 0 46 3 = i.1 →
      (c.phase = 2 → Settles c s ((Run.start c s).writes c (CoreId.valeIdx c.core) (c.word 3) (c.data.map fun x => valBytes x 4))
        (fun d => { d with bytes := 4 * c.data.length }) (exec i.2 s)) ∧
      (c.phase ≠ 2 → (c.dom, c.seq) ∈ s.voids → exec i.2 s = .next (s.setCmd (c.fail 0x32 0))) ∧
      (c.phase ≠ 2 → (c.dom, c.seq) ∉ s.voids →
        (s.collective c = none → exec i.2 s = .next s) ∧
        ∀ cs, s.collective c = some cs →
          (agree cs = false → exec i.2 s = .next (cs.foldl (fun t d => t.setCmd (d.fail 0x32 0)) s)) ∧
          (agree cs = true → c.phase = 0 →
            let r := collGive i.1 cs.length ((cs.map Cmd.id).idxOf c.id) c s
            (∀ code spent, r.err = some (.fault code spent) →
              exec i.2 s = .next (cs.foldl (fun t d => t.setCmd (d.fail code 0)) (r.st.pay spent))) ∧
            (∀ pa spent, r.err = some (.data pa spent) →
              exec i.2 s = .next (cs.foldl (fun t d => t.setCmd (d.fail 0x3E 0)) ((r.st.pay spent).poison pa))) ∧
            (r.err = none → exec i.2 s = .next (r.st.setCmd { c with
              phase := 1, upto := 0, data := r.data, elems := 0, wrote := r.wrote, wids := r.sent, view := r.party.view
              floor := r.party.floor }))) ∧
          (agree cs = true → c.phase = 1 →
            ((∃ d ∈ cs, d.phase ≠ 1) → exec i.2 s = .next s) ∧
            ((∀ d ∈ cs, d.phase = 1) →
              let gs := cs.map fun d => if i.1 = 4 then (d.data.take cs.length, d.data.drop cs.length) else ([], d.data)
              exec i.2 s = .next (cs.zipIdx.foldl (fun t x => t.setCmd { x.1 with
                phase := 2, data := collOut i.1 (x.1.bits 0 43 3) (x.1.bits 0 27 16) x.2 gs }) s))))) ∧
  (∀ (c : Cmd) (va : Word) (n size rank : Nat) (s : State) (r : Run),
    r.take c va 0 = r ∧
    r.take c va (n + 1) = ((r.take c va n).elem fun r => (r.read c (CoreId.valeIdx c.core) (va + BitVec.ofNat 64 (4 * n)) 4 4).map
      fun x => { x.2 with data := x.2.data ++ [bytesVal x.1] }) ∧
    let r0 := Run.start c s
    let all := r0.take c (c.word 2) (c.bits 4 0 32)
    (∀ op ∈ [0, 1, 3], collGive op size rank c s = all) ∧
    collGive 2 size rank c s = (if c.bits 0 27 16 = rank then all else r0) ∧
    collGive 4 size rank c s = (r0.take c (c.word 5) size).take c (c.word 2) (((r0.take c (c.word 5) size).data.take size).sum)) ∧
  ∀ (red root rank : Nat) (gs : List (List Nat × List Nat)),
    let part := fun (i : Nat) => (gs.getD i ([], [])).2
    (∀ k, 0 < gs.length → gs.length ≤ 2 ^ k → (∀ i, i < gs.length → (part i).length = (part 0).length) →
      ∀ j, j < (part 0).length → (collOut 0 red root rank gs).getD j 0 = redTree red k (gs.map fun g => g.2.getD j 0)) ∧
    collOut 1 red root rank gs = (if rank = root then collOut 0 red root rank gs else []) ∧
    (root < gs.length → collOut 2 red root rank gs = part root) ∧
    collOut 3 red root rank gs = gs.flatMap (fun g => g.2) ∧
    collOut 4 red root rank gs = gs.flatMap (fun g => (g.2.drop (g.1.take rank).sum).take (g.1.getD rank 0)) ∧
    ∀ a b : BitVec 32, redOf 0 a.toNat b.toNat = (a + b).toNat ∧ redOf 1 a.toNat b.toNat = (add32 a b).1.toNat ∧
      redOf 2 a.toNat b.toNat = (if a.toInt < b.toInt then b else a).toNat ∧
      redOf 3 a.toNat b.toNat = roundV .f32 (numMax (decodeFmt .f32 a.toNat) (decodeFmt .f32 b.toNat)) ∧
      redOf 4 a.toNat b.toNat = (if b.toInt < a.toInt then b else a).toNat ∧
      redOf 5 a.toNat b.toNat = roundV .f32 (numMin (decodeFmt .f32 a.toNat) (decodeFmt .f32 b.toNat))

/-! ## The host, the dispatcher and the life of a gang (13 R422 to R424; 16 R462 to R484; 19 R506, R507; 22 R559, R560) -/

/-- 16 R462, R463, R468; 20 R512; 21 R547: a push by the host in hollow entry or to a full queue is dropped and counted; before the
package is ready nothing happens; one that is not eight words is counted as refused; a refused packet leaves a record with STATUS 4,
or is counted; an accepted one waits under the next launch identity, with what its requester has seen. A write to a block takes effect
only for a level that may make it; any other write to a queue window is counted as refused; QCFG keeps its limits. 04 R139, R140; 20
R514; 22 R557: before its push a requester of the host has written host memory, and acquired what the completion records that it names
carry, and the records of the rings whose EVRP it has read.
Model’s choices in it: log 49, 56, 65, 75. -/
def Obligations.TheHostPushesAndConfigures : Prop :=
  (∀ (h : Fin 2) (a : Nat) (bs : List Byte) (ls : List Nat) (s : State),
    let seen := ls.foldl (fun v l => v ||| assocGet 0 l s.disp.rels) s.hosts[h].view
    (s.hostDo h ⟨[], ls, []⟩).mem = s.mem ∧ (s.hostDo h ⟨[], ls, []⟩).hosts[h].view = seen ∧
    (bs ≠ [] → a % 8 + bs.length ≤ 8 → a + bs.length ≤ 2 ^ 48 →
      (s.hostDo h ⟨[(a, bs)], ls, []⟩).mem = Memory.writeN s.mem (tierBase 2 + a) bs ∧
      (s.hostDo h ⟨[(a, bs)], ls, []⟩).hosts[h].view = seen ||| 1 <<< s.nextWrite) ∧
    ∀ vf lvl, vf < 32 → (s.hostDo h ⟨[], ls, [(lvl, 0x800000 + vf * 0x10000 + 0x448)]⟩).hosts[h].view =
      if s.plat.hst = 0 ∧ s.plat.ready = true ∧ 1 ≤ lvl then seen ||| (s.ring (.vf vf)).rel else seen) ∧
  ∀ (h : Fin 2) (work : HostWork) (lvl vf q o : Nat) (w : Word) (ws : List Word) (s : State), lvl ≤ 3 → vf < 32 → q < 64 → o < 0x10000 →
    let k := vf * 64 + q
    let p := packetOf ws
    let s0 := s.hostDo h work
    let push := exec (.hostPush ⟨h, lvl, work⟩ vf q ws) s
    let full := 32 ≤ (s.queue k).fifo.length
    let bad := p.bad (s.queue k) = true ∨ p.queue ≠ q
    let drops := NextIs push fun t => (t.queue k).fifo = (s.queue k).fifo ∧
      (t.queue k).drop = min ((s.queue k).drop + 1) 0xFFFF ∧ t.mem = s0.mem
    let refuses := NextIs push fun t => (t.queue k).fifo = (s.queue k).fifo ∧
      (t.queue k).refu = min ((s.queue k).refu + 1) 0xFFFF ∧ t.mem = s0.mem
    (s.plat.hst ≠ 0 → (ws.length = 8 → drops) ∧ (ws.length ≠ 8 → push = .next s0) ∧ exec (.hostConfigWrite lvl (0x800000 + vf * 0x10000 + o) w) s = .next s) ∧
    (s.plat.hst = 0 → s.plat.ready = false → push = .next s0 ∧
      exec (.hostConfigWrite lvl (0x800000 + vf * 0x10000 + o) w) s = .next s) ∧
    (s.plat.hst = 0 → s.plat.ready = true →
      (ws.length ≠ 8 → refuses) ∧ (ws.length = 8 → full → drops) ∧
      (ws.length = 8 → ¬full → bad → (p.cmpl % 64 ≠ 0 → refuses) ∧ (p.cmpl % 64 = 0 →
        push = .next (s0.complete vf { p with launch := 0 } IDLE ⟨4, false, false, false, 0, 0, 0⟩ 0))) ∧
      (ws.length = 8 → ¬full → ¬bad → NextIs push fun t => t.disp.next = (if s.disp.next + 1 = 2 ^ 32 then 1 else s.disp.next + 1) ∧
        t.mem = s0.mem ∧ ∃ x, (t.queue k).fifo = (s.queue k).fifo ++ [x] ∧ x.launch = s.disp.next ∧ x.words = p.words ∧
          x.born = s.timer ∧ x.view = s0.hosts[h].view) ∧
      (∀ off, off < 0x800000 → NextIs (exec (.hostConfigWrite lvl off w) s) fun t =>
        (t.queue (off / 0x40000 * 64 + off % 0x40000 / 0x1000)).refu =
          min ((s.queue (off / 0x40000 * 64 + off % 0x40000 / 0x1000)).refu + 1) 0xFFFF ∧ t.mem = s.mem) ∧
      (let write := exec (.hostConfigWrite lvl (0x800000 + vf * 0x10000 + o) w) s
       (o % 8 ≠ 0 ∨ mayWrite lvl (vfLevels o) = false → write = .next s) ∧
       (o % 8 = 0 → o < 0x200 → 2 ≤ lvl → NextIs write fun t =>
         let c := (t.queue (vf * 64 + o / 8)).cfg
         c.extractLsb' 0 3 = w.extractLsb' 0 3 ∧ (c.extractLsb' 3 8).toNat = max 1 (w.extractLsb' 3 8).toNat ∧
         c.getLsbD 11 = w.getLsbD 11 ∧ (c.extractLsb' 12 12).toNat = max 16 (w.extractLsb' 12 12).toNat ∧
         c.extractLsb' 24 40 = 0 ∧ (t.queue (vf * 64 + o / 8)).fifo = (s.queue (vf * 64 + o / 8)).fifo) ∧
       (o = 0x400 → 2 ≤ lvl → NextIs write fun t => (t.vfunOf vf).pgimg = w ∧ t.mem = s.mem) ∧
       (o = 0x408 → 2 ≤ lvl → NextIs write fun t => (t.vfunOf vf).saveb = w ∧ t.mem = s.mem) ∧
       (o = 0x410 → 2 ≤ lvl → NextIs write fun t => (t.vfunOf vf).savel = w ∧ t.mem = s.mem)))

/-- 16 R464, R470 to R473; 20 R525, R529; 21 R544: the dispatcher does nothing before the package is ready or in the hollow state.
A head whose predecessor failed, or whose listed object can not become resident, leaves with STATUS 3; a head alone that nothing holds is
placed on free cores, first fit in ascending order, with the lowest window that is free, or waits with its queue as it was, and is
remembered; then the fewest launches of a priority lower by 2 that make room, lowest first and latest issued first, stop, where their
areas fit, and else nothing stops. A written VALEVF takes effect on a vale without gangs. 01 R16, R49; 03 R99, R104; 13 R424; 16 R475, R478, R479: a run is
placed on cores that no run of its launch has had; a chosen run issues in a later cycle: .evmeta, the text, the pager image and the
argument block are read, and every core of the gang enters the launch state, at the image's entry, with its arguments, its place in one
domain and its window, and, where it did not hold it, the text for its slot base (10 R372, R388); a run whose image can not be read ends
with STATUS 2.
Model’s choices in it: log 19, 53, 54, 55, 57, 59, 75. -/
def Obligations.DecisionsPlaceGangs : Prop :=
  (∀ (s : State), (s.plat.hst ≠ 0 ∨ s.plat.ready = false → exec .dispatchDecision s = .next s) ∧
    (s.plat.hst = 0 → s.plat.ready = true →
      let u := s.applyVales
      (∀ v w, (s.vale v).vfNext = some w → s.valeUsed v = false → (u.vale v).vf = w % 32 ∧ (u.vale v).vfOn = (w / 32 % 2 == 1) ∧
        (u.vale v).vfDrain = false ∧ (u.vale v).vfNext = none) ∧
      (u.heads = [] → (∀ g ∈ u.disp.gangs, g.st ≠ .stopped) → exec .dispatchDecision s = .next u) ∧
      (∀ k p, u.heads = [(k, p)] → u.nsBusy (k / 64) = false → u.hold k p = .cancel → u.pagesHeld (k / 64) p.cmpl 64 = false →
        let q := u.queue k
        exec .dispatchDecision s = .next ((u.setQueue k { q with fifo := q.fifo.drop 1 }).complete (k / 64) p q.owner
          ⟨3, false, false, false, 0, 0, 0⟩ 0)) ∧
      (∀ k p, u.heads = [(k, p)] → (∀ g ∈ u.disp.gangs, g.st ≠ .stopped) → u.hold k p = .free → u.effPrio p < 8 → ∀ q d,
        u.pickHead [k] = some (k, d) → q = d.queue k → (u.queue k).fifo.head? = some p →
        (u.disp.head = [] → chooseQueue u [k] = some (k, d)) ∧ (∀ e, (k, p.launch, e) ∈ u.disp.head → d = u) ∧
        let others := d.disp.head.filter fun h => d.stillHead h && h.2.1 != p.launch
        let stay : State := { d with disp := { d.disp with head := others ++ [(k, p.launch, u.effPrio p)] } }
        let vs := u.victims (u.effPrio p)
        let names := fun (n : Nat) => (vs.take n).map fun g => g.pk.launch
        let room := fun (n : Nat) => ((stay.without (names n)).placeAll (k / 64) p 0 (u.effPrio p)).isSome
        (∀ t, (d.setQueue k { q with fifo := q.fifo.drop 1 }).placeAll (k / 64) p q.owner (u.effPrio p) = some t →
          exec .dispatchDecision s = .next { t with disp := { t.disp with head := others } }) ∧
        ((d.setQueue k { q with fifo := q.fifo.drop 1 }).placeAll (k / 64) p q.owner (u.effPrio p) = none →
          ((∀ n, n ≤ vs.length → room n = false) → exec .dispatchDecision s = .next stay) ∧
          ∀ n, n ≤ vs.length → (∀ m, m < n → room m = false) → room n = true →
            let fits := stay.canSave (stay.disp.gangs.filter fun g => (names n).contains g.pk.launch && !g.ended) []
            (fits = false → exec .dispatchDecision s = .next stay) ∧
            (fits = true → NextIs (exec .dispatchDecision s) fun t => t.mem = stay.mem ∧ t.disp.queues = stay.disp.queues ∧
              t.disp.head = stay.disp.head ∧ t.disp.gangs = stay.disp.gangs.map fun g =>
                if g.pk.launch ∈ names n ∧ g.ended = false then { g with st := .stopping } else g))) ∧
      (∀ e, let vs := s.victims e
        (∀ g, g ∈ vs ↔ g ∈ s.disp.gangs ∧ s.leads g = true ∧ (∀ x ∈ s.runsOf g.pk.launch, x.st = .running) ∧ g.prio + 2 ≤ e) ∧
        vs.Pairwise fun a b => a.prio < b.prio ∨ (a.prio = b.prio ∧ b.serial ≤ a.serial)) ∧
      ∀ vf p owner prio run t, s.placeRun vf p owner prio run = some t → ∃ g, t.disp.gangs = s.disp.gangs ++ [g] ∧
        g.st = .chosen ∧ g.cores.length = p.size ∧ g.pk = p ∧ g.owner = owner ∧ g.since = s.cycle ∧
        (∀ c ∈ g.cores, ∀ h ∈ s.disp.gangs, h.holds = true ∨ h.pk.launch = p.launch → c ∉ h.cores) ∧
        (∀ h ∈ s.disp.gangs, h.holds = true → (∃ c ∈ g.cores, ∃ d ∈ h.cores, CoreId.valeIdx c = CoreId.valeIdx d) →
          overlaps g.win g.wlen h.win h.wlen = false) ∧
        let taken := (s.disp.gangs.filter fun g => g.pk.launch == p.launch).flatMap Gang.cores
        let names := fun (v : Nat) => v < 128 ∧ (p.plm = 0 ∨ p.plm.testBit (v / 32) = true)
        let free := fun (v : Nat) => s.freeCores vf taken v
        (∀ c ∈ g.cores, names (CoreId.valeIdx c) ∧ c ∈ free (CoreId.valeIdx c)) ∧
        (p.arr = false → ∀ c ∈ g.cores, ∀ v d, names v → d ∈ free v → coreNum d < coreNum c → d ∈ g.cores) ∧
        (p.arr = true → p.size < 8 → ∀ c ∈ g.cores, (∀ d ∈ g.cores, CoreId.valeIdx d = CoreId.valeIdx c) ∧
          (∀ d ∈ free (CoreId.valeIdx c), coreNum d < coreNum c → d ∈ g.cores) ∧
          ∀ v, names v → v < CoreId.valeIdx c → (free v).length < p.size) ∧
        (p.arr = true → 8 ≤ p.size → ∀ c ∈ g.cores, (free (CoreId.valeIdx c)).length = 8 ∧
          ∀ v, names v → v < CoreId.valeIdx c → (free v).length = 8 → ∃ d ∈ g.cores, CoreId.valeIdx d = v) ∧
        ∀ b, b < g.win → ∃ c ∈ g.cores, s.unitsFree (CoreId.valeIdx c) b g.wlen = false)) ∧
  (∀ (base : Nat) (text : List IWord) (r : Config.Reloc) (k lo n : Nat), (k, lo, n) ∈ [(4, 48, 16), (5, 24, 24), (6, 0, 24)] →
    r.typ = k →
    let v : Word := BitVec.ofNat 64 (2 ^ 63 + base + r.value)
    (∀ j, j ≠ r.place → (relocOne base text r)[j]? = text[j]?) ∧
    ∀ w, text[r.place]? = some w → ∃ x : IWord, (relocOne base text r)[r.place]? = some x ∧
      x.extractLsb' 24 8 = w.extractLsb' 24 8 ∧ x.extractLsb' 0 24 = (v.extractLsb' lo n).setWidth 24) ∧
  ∀ (l : Nat) (s : State) (g : Gang), (s.dispatches = false → exec (.gangIssue l) s = .next s) ∧
    (s.dispatches = true →
      (s.disp.gangs.filter fun g => g.pk.launch == l && g.st == .chosen && g.saved.isEmpty && !g.ended && decide (g.since < s.cycle)) = [g] →
      (s.pagesHeld g.vf g.pk.cmpl 64 = true ∨ s.nsBusy g.vf = true → exec (.gangIssue l) s = .next s) ∧
      (s.pagesHeld g.vf g.pk.cmpl 64 = false → s.nsBusy g.vf = false → (g.pk.captures = true → s.pagesHeld g.vf g.pk.capa 65536 = false) →
      let u := g.cores.foldl State.withCore s
      (∀ x, loadAll g u = .ok x → NextIs (exec (.gangIssue l) s) fun t =>
        (∃ d ∈ t.domains, d.gang = g.key ∧ d.members = g.cores ∧ d.ph = 0 ∧ d.depth = 0 ∧ d.level = levelOf g.cores) ∧
        ∀ k (h : k < g.cores.length), (∀ j (i : j < k), g.cores[j] ≠ g.cores[k]) → ∃ c ∈ t.cores, c.id = g.cores[k] ∧
          c.st = .running ∧ c.launch = g.key ∧ c.frozen = false ∧ c.cr.lvl = BitVec.ofNat 2 g.pk.lvl ∧ c.cr.shd = false ∧
          c.cr.pending = [] ∧ c.r.s = Regs.reset.s ∧ c.r.f = Regs.reset.f ∧ c.r.claim = none ∧
          (∀ e, (c.eng e).pc = x.im.entry ∧ (c.eng e).walked = 0 ∧ (c.eng e).halted = false ∧ (c.eng e).levels = []) ∧
          (∀ i : Fin 16, c.r.p[i] = BitVec.ofNat 64 (bytesVal (((x.args.take x.im.alen).drop (8 * i.val)).take 8))) ∧
          (∃ b ∈ x.st.cores, b.id = c.id ∧ c.text = if b.held = some (g.pk.img, g.pk.itag, g.base c.id) then b.text
            else x.im.relocs.foldl (relocOne (g.base c.id)) x.text) ∧
          c.cr.acctid = BitVec.ofNat 12 g.owner ∧ c.cr.spw = word (g.win + at' 16 g.wlen + at' 32 g.slot +
            at' 44 (posOf g c.id))) ∧
      ∀ i (n : ReadErr), loadAll g u = .error (i, n) →
        (g.run ≠ 2 → NextIs (exec (.gangIssue l) s) fun t => (∀ x ∈ t.disp.gangs, x.pk.launch ≠ g.pk.launch) ∧
          t.disp.dones.head? = (if g.pk.launch = 0 then s.disp.dones.head? else some (g.pk.launch, 2))) ∧
        (g.run = 2 → NextIs (exec (.gangIssue l) s) fun t => ∃ x ∈ t.disp.gangs, x.key = g.key ∧ x.ended = true ∧
          x.fault = some (i, n.code, 0))))

/-- 01 R45, R46; 16 R476; 13 R404; 04 R140: a run whose cores have all completed, or that has a fault, and that has no command left and no
write to be performed, ends: its cores are free, its objects, leases and names of its own are gone, its record has its status, and
carries what it has written and seen. 16 R476: a completion record: word 0 holds the valid bit, the status, RES, MIS, CTRN, RUNS and the
launch, and is written last; the dispatcher remembers the status of the launch.
Model’s choices in it: log 55, 56, 60, 75. -/
def Obligations.GangsComplete : Prop :=
  (∀ (l : Nat) (s : State) (g : Gang),
    (s.disp.gangs.filter fun g => g.pk.launch == l && !g.ended && (g.st == .running || g.st == .stopping)) = [g] →
    g.pk.dual = false →
    ((∃ c ∈ s.gangCores g, c.st ≠ .ended) → g.fault = none → (∀ c ∈ s.gangCores g, faultOf c = none) →
      exec (.gangCompletion l) s = .next s) ∧
    ((∀ c ∈ s.gangCores g, faultOf c = none) → s.gangCmds g = true ∨ s.gangWrites g = true ∨ s.pagesHeld g.vf g.pk.cmpl 64 = true →
      exec (.gangCompletion l) s = .next s) ∧
    ((g.fault ≠ none ∨ ∀ c ∈ s.gangCores g, c.st = .ended) → (∀ c ∈ s.gangCores g, faultOf c = none) → s.gangCmds g = false →
      s.gangWrites g = false → s.pagesHeld g.vf g.pk.cmpl 64 = false →
      NextIs (exec (.gangCompletion l) s) fun t => (∀ x ∈ t.disp.gangs, x.key ≠ g.key) ∧
        (∀ c ∈ t.cores, c.id ∈ g.cores → c.launch = g.key → c.st = .free ∧ c.r.lease.held = false ∧ c.r.claim = none) ∧
        (∀ x ∈ t.syncs, x.gang ≠ g.key) ∧ (∀ x ∈ t.binds, x.gang ≠ g.key) ∧ (∀ x ∈ t.domains, x.gang ≠ g.key) ∧
        (∀ x ∈ t.handles, x.gang ≠ g.key) ∧
        (∀ c ∈ s.cores, g.has c = true → ∀ x ∈ t.reads, x.core ≠ c.id) ∧
        (g.pk.launch ≠ 0 → (∃ v, t.disp.rels.head? = some (g.pk.launch, v) ∧ v ||| s.gangView g = v) ∧
          t.disp.dones.head? = some (g.pk.launch, if g.fault.isSome then 2 else
          if (s.gangCores g).any fun c => c.status.getLsbD 0 && !c.status.getLsbD 31 then 1 else 0)))) ∧
  ∀ (s : State) (vf owner : Nat) (p : Packed) (e : Ending) (view : View), e.status < 8 → e.runs < 16 → p.launch < 2 ^ 32 →
    ∃ w : Word, w.getLsbD 0 = true ∧ (w.extractLsb' 1 3).toNat = e.status ∧ w.getLsbD 4 = e.res ∧ w.getLsbD 5 = e.mis ∧
      w.getLsbD 6 = e.ctrn ∧ (w.extractLsb' 8 4).toNat = e.runs ∧ (w.extractLsb' 32 32).toNat = p.launch ∧
      let t := writeWordsAs owner vf (p.cmpl + 8) [word e.start, word s.timer, word e.dw3, 0, 0, 0, 0] s
      (s.complete vf p owner e view).mem = (writeAs owner vf p.cmpl (valBytes w.toNat 8) t).mem ∧
      (0 < p.launch → (s.complete vf p owner e view).disp.dones.head? = some (p.launch, e.status) ∧
        ∃ v, (s.complete vf p owner e view).disp.rels.head? = some (p.launch, v) ∧ v ||| view = v) ∧
      (s.complete vf p owner e view).core.r.s = s.core.r.s

/-- 13 R407, R422; 16 R474; 19 R506, R507: a gang that is to stop stops once its save area fits, its commands have ended and its writes
are performed, its cores and reads kept; chosen again, it goes on from there, in a later cycle.
Model’s choices in it: log 52, 57, 60, 61, 63, 75. -/
def Obligations.GangsStopAndResume : Prop :=
  ∀ (l : Nat) (s : State) (g : Gang), s.runsOf l = [g] →
    (g.st ≠ .stopping → exec (.preemptionStop l) s = .next s) ∧
    (g.st = .stopping → g.fault = none → (∀ c ∈ s.gangCores g, faultOf c = none) → (∃ c ∈ s.gangCores g, c.st ≠ .ended) →
      (g.area = none → s.canSave [g] [] = false → exec (.preemptionStop l) s = .next s) ∧
      (g.area = none → s.canSave [g] [] = true → NextIs (exec (.preemptionStop l) s) fun t => t.mem = s.mem ∧
        ∃ a, s.allocArea g.vf (s.areaSize g) [] = some a ∧ (∃ h ∈ t.disp.gangs, h.key = g.key ∧ h.area = some a) ∧
          (g.cores = [s.core.id] → s.core.st = .running → g.quit = [s.core.id] →
            t.core.st = .stopped ∧ t.core.frozen = true ∧ t.core.r.s = s.core.r.s)) ∧
      (g.area ≠ none → (∃ c ∈ s.gangCores g, c.st = .running) → NextIs (exec (.preemptionStop l) s) fun t => t.mem = s.mem ∧
        (∃ h ∈ t.disp.gangs, h.key = g.key ∧ h.area = g.area ∧ h.st = .stopping ∧ h.quit = []) ∧
        (g.cores = [s.core.id] → s.core.st = .running →
          (t.core.st = .stopped ∧ t.core.frozen = true ∨ g.quit = [] ∧ t.core.st = .running) ∧ t.core.r.s = s.core.r.s)) ∧
      (g.area ≠ none → (∀ c ∈ s.gangCores g, c.st ≠ .running) → s.gangCmds g = true ∨ s.gangWrites g = true →
        exec (.preemptionStop l) s = .next s) ∧
      (g.area ≠ none → (∀ c ∈ s.gangCores g, c.st ≠ .running) → s.gangCmds g = false → s.gangWrites g = false →
        NextIs (exec (.preemptionStop l) s) fun t =>
        (∀ r ∈ t.reads, r.core ∉ g.cores) ∧ ∃ h ∈ t.disp.gangs, h.key = g.key ∧ h.st = .stopped ∧
          h.saved.map Core.id = (s.gangCores g).map Core.id)) ∧
    (s.dispatches = false ∨ g.st ≠ .chosen ∨ g.saved = [] ∨ s.cycle ≤ g.since → exec (.gangResume l) s = .next s) ∧
    (s.dispatches = true → g.st = .chosen → g.saved ≠ [] → g.since < s.cycle → NextIs (exec (.gangResume l) s) fun t =>
      ∃ h ∈ t.disp.gangs, h.key = g.key ∧ h.st = .running ∧ h.saved = [] ∧ h.area = none ∧ h.lost = [])

/-- 16 R478 to R480; 22 R559, R560: two runs that agree end the launch with the first; on a disagreement, which posts an event, a third
is placed, and the two of three that agree decide; no two agreeing is STATUS 5. The writes of a log wait for the pre-images that the
capture wants. A page that a write waits for is copied into the capture area; the capture ends where the area is full or the page can
not be read.
Model’s choices in it: log 40, 55, 58, 75. -/
def Obligations.RunsAreComparedAndCaptured : Prop :=
  (∀ (l : Nat) (s : State) (a b c : Gang),
    let gs := s.disp.gangs.filter fun g => g.pk.launch == l && g.pk.dual
    let cmp := exec (.dualRunCompare l) s
    let event := fun (t : State) => t.alert 0x4FFF 5 [0, 0, 1]
    a.run = 0 → b.run = 1 → c.run = 2 →
    (gs = [a, b] → (a.ended = false ∨ b.ended = false ∨ s.canPerform b = false → cmp = .next s) ∧
      (a.ended = true → b.ended = true → s.canPerform b = true →
        (runsAgree s a b = true → cmp = .next (s.finishDual gs a a.status false 0)) ∧
        (runsAgree s a b = false → (s.placeRun a.vf a.pk a.owner a.prio 2 = none → cmp = .next s) ∧
          ∀ t, s.placeRun a.vf a.pk a.owner a.prio 2 = some t → cmp = .next (event t)))) ∧
    (gs = [a, b, c] → (a.ended = false ∨ b.ended = false ∨ c.ended = false ∨ s.canPerform b = false → cmp = .next s) ∧
      (a.ended = true → b.ended = true → c.ended = true → s.canPerform b = true →
        (runsAgree s c b = true →
          (s.logPages a b = [] → let t := performLog b s
            cmp = .next (t.finishDual gs b b.status true (2 ^ t.nextWrite - 2 ^ s.nextWrite))) ∧
          (s.logPages a b ≠ [] → NextIs cmp fun t => t.mem = s.mem ∧ t.disp.dones = s.disp.dones)) ∧
        (runsAgree s c b = false → runsAgree s c a = true → cmp = .next ((event s).finishDual gs a a.status true 0)) ∧
        (runsAgree s c b = false → runsAgree s c a = false → cmp = .next ((event (event s)).finishDual gs a 5 false 0))))) ∧
  ∀ (l page : Nat) (s : State) (g : Gang) (c : Capture),
    s.disp.gangs.find? (fun g => g.pk.launch == l && g.run == 0) = some g → g.capt = some c →
    let waits := s.pagesMove g.vf c.area 65536 = true ∨ s.pagesMove g.vf (c.area + 65536 * (c.pages.length + 1)) 65536 = true
    (page ∉ c.want ∨ c.trunc = true ∨ waits → exec (.capturePreimage l page) s = .next s) ∧
    (page ∈ c.want → c.trunc = false → ¬waits → NextIs (exec (.capturePreimage l page) s) fun t =>
      ∃ h ∈ t.disp.gangs, h.key = g.key ∧ ∃ d, h.capt = some d ∧ page ∉ d.want ∧
        (c.pages.length < min 8160 (c.len / 65536 - 1) →
          (∀ x, preimageOf g.vf g.owner page s = .ok x → d.pages = c.pages ++ [page] ∧ d.trunc = false) ∧
          ∀ x, preimageOf g.vf g.owner page s = .error x → d.pages = c.pages ∧ d.trunc = true) ∧
        (min 8160 (c.len / 65536 - 1) ≤ c.pages.length → d.pages = c.pages ∧ d.trunc = true))

/-! ## Pages, links, books, power and service (14 R442 to R454; 16 R464, R465; 17 R485 to R503; 20 R510 to R533; 21 R534 to R549; 22
R550 to R568) -/

/-- 14 R444, R446: the engine moves a page by its own choice only where MIGCTL lets it, and then holds writes to the page; a move
commits only when the page's leaf is as it was read: then the frame holds the page's bytes, the leaf names it, and the old frame returns
to the reserve. 14 R448, R449, R453, R454; 16 R465; 9 R356; 20 R525; 21 R547; 22 R552: an exchange answers 4 without a leaf or with a frame
that can not be copied, 3 with the leaf that it found where that differs, 5 where the reserve that it needs has no frame, and else does what
it is asked; a write of CUR changes the bitmap and sets FLP until the change settles; an export or import ends with its register 0, or −1; a
waiting OPENW ends at its limit; VALEVF waits for its vale, and is not written in the hollow state; HCCTL.CLR zeroes.
Model’s choices in it: log 21, 24, 48, 72, 75. -/
def Obligations.PagesMove : Prop :=
  ((∀ (vf : Nat) (va : Word) (near : Bool) (s : State),
    ((s.vfunOf vf).migctl.getLsbD 0 = false → exec (.migrationMove vf va near) s = .next s) ∧
    (near = false → s.listed vf va.toNat = true → exec (.migrationMove vf va near) s = .next s) ∧
    ((s.vfunOf vf).migctl.getLsbD 0 = true → (near = true ∨ s.listed vf va.toNat = false) → ∀ at_ leaf frame,
      s.planMove vf va.toNat (if near then 0 else 1) = .copy at_ leaf frame →
      NextIs (exec (.migrationMove vf va near) s) fun t => t.mem = s.mem ∧ ∃ m, t.moves = s.moves ++ [m] ∧ m.vf = vf ∧
        m.va = va.toNat / 65536 * 65536 ∧ m.leaf = leaf ∧ m.leafAt = at_ ∧ m.frame = frame)) ∧
  ∀ (k : Nat) (s : State), ((∀ m ∈ s.moves, m.id ≠ k) → exec (.migrationCommit k) s = .next s) ∧
    ∀ m, s.moves.find? (fun m => m.id == k) = some m →
      NextIs (exec (.migrationCommit k) s) fun t => t.moves = s.moves.filter (fun x => x.id != k) ∧
        (bytesVal (Memory.readN s.mem m.leafAt 8) ≠ m.leaf.toNat → t.mem = s.mem) ∧
        ∀ src dst, s.framePa m.vf (leafLoc m.leaf) (leafOa m.leaf) = some src → s.framePa m.vf m.toTier m.frame = some dst →
          bytesVal (Memory.readN s.mem m.leafAt 8) = m.leaf.toNat → s.badFrame src = false → s.lostFrame dst = false →
          Memory.wf s.mem = true →
          (∀ vf pa, s.dirtyCell vf pa = none) → (dst + 65536 ≤ m.leafAt ∨ m.leafAt + 8 ≤ dst) →
          (∀ i, i < 65536 → Memory.read t.mem (dst + i) = Memory.read s.mem (src + i)) ∧
          bytesVal (Memory.readN t.mem m.leafAt 8) = (moveLeaf m.leaf m.toTier m.frame).toNat ∧
          (∀ c ∈ t.cores, ∀ x ∈ c.ctlb, x.hits m.vf m.va = false) ∧
          (leafLoc m.leaf, leafOa m.leaf) ∉ (t.vfunOf m.vf).taken ∧
          ((leafLoc m.leaf, leafOa m.leaf) ≠ (m.toTier, m.frame) → (m.toTier, m.frame) ∈ (t.vfunOf m.vf).taken) ∧
          ∀ a, (a < dst ∨ dst + 65536 ≤ a) → (a < m.leafAt ∨ m.leafAt + 8 ≤ a) → Memory.read t.mem a = Memory.read s.mem a) ∧
  ∀ (s : State),
    (∀ (c : CoreId) (k : Core), s.cores.find? (fun x => x.id == c) = some k →
      let vf := (s.vale (CoreId.valeIdx c)).vf % 32
      let busy := ((s.leafOf vf k.cr.lxa.toNat).bind fun l => s.framePa vf (leafLoc l.2.2) (leafOa l.2.2)).any s.updatesIn
      (k.cr.lxgo ≠ 1 ∨ busy = true → exec (.leafExchange c) s = .next s) ∧
      (k.cr.lxgo = 1 → busy = false → NextIs (exec (.leafExchange c) s) fun t =>
        let ends := fun (code : Nat) (old : Word) => ∃ x ∈ t.cores, x.id = c ∧ x.cr.lxgo = code ∧ x.cr.lxold = old
        (s.leafOf vf k.cr.lxa.toNat = none → ends 4 k.cr.lxold ∧ t.mem = s.mem) ∧
        ∀ n pa e, s.leafOf vf k.cr.lxa.toNat = some (n, pa, e) →
          (n = 2 → leafMig k.cr.lxnew = true → ends 4 k.cr.lxold ∧ t.mem = s.mem) ∧
          ((n ≠ 2 ∨ leafMig k.cr.lxnew = false) → e ≠ k.cr.lxold → ends 3 e ∧ t.mem = s.mem) ∧
          (e = k.cr.lxold → leafMig k.cr.lxnew = false → leafV e = false → ends 2 k.cr.lxnew) ∧
          (e = k.cr.lxold → n ≠ 2 → leafV k.cr.lxnew = true → leafMig k.cr.lxnew = true →
            ((s.exchangeError vf n e).isSome = true ∨ s.lostFar e = true → ends 4 k.cr.lxold ∧ t.mem = s.mem) ∧
            (s.exchangeError vf n e = none → s.lostFar e = false →
              ∀ r, tierOf (leafLoc k.cr.lxnew) = some r → r.val ≠ 2 → (s.vfunOf vf).segMres r ≠ 0 →
                (s.freeFrames vf r = [] → ends 5 k.cr.lxold ∧ t.mem = s.mem) ∧
                ∀ a as, s.freeFrames vf r = a :: as →
                  let leaf := k.cr.lxnew &&& ~~~(0xFFFFFFFF0000#64) ||| BitVec.ofNat 64 a
                  ((s.fillError vf leaf).isSome = true → ends 4 k.cr.lxold ∧ t.mem = s.mem) ∧
                  (s.fillError vf leaf = none → ends 2 leaf))))) ∧
    (∀ (vf : Nat) (cur : Bool), vf < 32 →
      NextIs (exec (.dtctlCurChange vf cur) s) (fun t => t.mem = s.mem ∧ (t.vfunOf vf).dtctl.getLsbD 3 = cur ∧
        ((s.vfunOf vf).dtctl.getLsbD 3 ≠ cur → (t.vfunOf vf).dtctl.getLsbD 4 = true ∧
          (t.vfunOf vf).dtctl.extractLsb' 0 3 = (s.vfunOf vf).dtctl.extractLsb' 0 3)) ∧
      NextIs (exec (.dirtyFlipSettle vf) s) fun t => t.mem = s.mem ∧ (t.vfunOf vf).dtctl.getLsbD 4 = false ∧
        (t.vfunOf vf).dtctl.extractLsb' 0 4 = (s.vfunOf vf).dtctl.extractLsb' 0 4) ∧
    (∀ (vf : Nat) (a : Word), vf < 32 → a ≠ 0 →
      ((s.vfunOf vf).nsx = a → s.pagesHeld vf a.toNat (Config.namespaceBytes (s.namespaceOf vf)).length = true →
        exec (.namespaceExport vf a) s = .next s) ∧
      ((s.vfunOf vf).nsx = a → s.pagesHeld vf a.toNat (Config.namespaceBytes (s.namespaceOf vf)).length = false →
        NextIs (exec (.namespaceExport vf a) s) fun t => (t.vfunOf vf).nsx = 0 ∧ t.objs = s.objs ∧
        t.names = s.names ∧ t.handles = s.handles) ∧
      ((s.vfunOf vf).nsx = 0 → NextIs (exec (.namespaceExport vf a) s) fun t => (t.vfunOf vf).nsx = a ∧ t.mem = s.mem) ∧
      (a ≠ 0xFFFFFFFFFFFFFFFF → (s.vfunOf vf).nsi = a → NextIs (exec (.namespaceImport vf a) s) fun t => t.mem = s.mem ∧
        (∀ x, (s.imageAt vf a.toNat).1 = some x → (t.vfunOf vf).nsi = 0 ∧
          (t.names.filter fun n => n.vf == vf).map (fun n => (n.name, n.ident)) = x.names) ∧
        ((s.imageAt vf a.toNat).1 = none → (t.vfunOf vf).nsi = 0xFFFFFFFFFFFFFFFF ∧ t.names = s.names)) ∧
      (a ≠ 0xFFFFFFFFFFFFFFFF → (s.vfunOf vf).nsi = 0 →
        NextIs (exec (.namespaceImport vf a) s) fun t => (t.vfunOf vf).nsi = a ∧ t.mem = s.mem)) ∧
    (∀ (c : CoreId), ((∀ w ∈ s.openws, w.core ≠ c ∨ w.limit = none ∨ ∃ l, w.limit = some l ∧ s.timer < l) →
        exec (.openwTimeout c) s = .next s) ∧
      ∀ w l, s.openws = [w] → w.core = c → w.limit = some l → l ≤ s.timer → NextIs (exec (.openwTimeout c) s) fun t =>
        t.openws = [] ∧ t.mem = s.mem ∧ ∀ r ∈ t.reads, r.id = w.read → r.ready = true ∧ ∃ d, r.arr = .reg (.s d (-3))) ∧
    (∀ (v : Nat) (w : Word), (s.plat.hst ≠ 0 → exec (.valevfWrite v w) s = .next s) ∧
      (v < 128 → s.plat.hst = 0 → NextIs (exec (.valevfWrite v w) s) fun t => (t.vale v).vfDrain = true ∧
        (t.vale v).vf = (s.vale v).vf ∧ (t.vale v).vfNext = some (w.extractLsb' 0 6).toNat ∧ t.mem = s.mem)) ∧
    NextIs (exec .hcctlClear s) fun t => t.core.cr.hcnt = Vector.replicate 30 0 ∧ t.core.cr.fwcnt = Vector.replicate 16 0 ∧
      t.core.cr.twcnt = Vector.replicate 10 0 ∧ t.core.cr.hcctl.getLsbD 0 = s.core.cr.hcctl.getLsbD 0 ∧ t.core.r = s.core.r

/-- 17 R487 to R492, R494, R496 to R498: at a tick of the global timer stores are booked, the books are checked and every page is
published, and a pledge whose page neither moves nor waits for a capture is honoured; before it nothing happens. The first violation stands
in CONSST, with the tick that was checked. Errors corrected since the last tick are posted, one event for each unit with its count (22
R563). A unit books or holds one cycle in each. Work that is split books, in all, what it took: to each an equal share and to some one more.
Model’s choices in it: log 18, 20, 22, 40, 75. -/
def Obligations.AccountsBalance : Prop :=
  (∀ (s : State), (s.timer / 1000 ≤ s.books.tick → exec .accountTick s = .next s) ∧
    (s.books.tick < s.timer / 1000 → NextIs (exec .accountTick s) fun t => t.books.tick = s.books.tick + 1 ∧
      t.books.time = (s.books.tick + 1) * 1000 ∧ t.books.pages = s.bookStores.books.live ∧
      (∀ p, s.books.pledges = [p] →
        let waits := s.moving p.vf p.va.toNat = true ∨ s.claimed (some p.key) p.vf p.va.toNat = true
        (waits → t.books.pledges = [p] ∧ t.mem = s.mem) ∧
        (¬waits → t.books.pledges = [] ∧ ∀ r ∈ t.reads, r.id = p.read → r.ready = true)) ∧
      (s.books.pledges = [] → t.books.pledges = [] ∧ t.mem = s.mem ∧ t.fixed = [] ∧
        ∀ x ∈ s.fixed, ⟨0x4FFF, 1, [x.1 * 8 / 2 ^ 48, x.1 * 8 % 2 ^ 48, x.2], s.timer, none⟩ ∈ t.alerts) ∧
      (s.bookStores.books.broken s.plat.gone = [] → t.books.viol = s.books.viol ∧ t.books.consst = s.books.consst) ∧
      ∀ x xs, s.bookStores.books.broken s.plat.gone = x :: xs → t.books.viol = true ∧ (s.books.viol = false →
        t.books.consst = BitVec.ofNat 64 (1 + x.kind <<< 1 + x.who <<< 4 + x.cls <<< 16 + ((s.books.tick + 1) % 2 ^ 44) <<< 20)))) ∧
  (∀ (b : Books) (k i n p : Nat) (bs : List (Nat × Nat)), k < 13 → bs ≠ [] → b.live.Pairwise (fun x y => x.1 < y.1) →
    (b.split k i n p bs).1.total k = b.total k + n ∧
    (∀ u, b.own = [u] → u.cls = k → u.idx = i →
      (b.split k i n p bs).1.own = [{ u with booked := u.booked + n, held := u.held - n }]) ∧
    ∀ j, j < 13 → j ≠ k → (b.split k i n p bs).1.total j = b.total j) ∧
  (∀ (b : Books) (gone : List (Nat × Nat)), (∀ u ∈ b.own, gone.contains (if u.cls < 5 then (0, u.idx) else (u.cls, u.idx)) = false ∧
      u.booked + u.held = u.elapsed + (if (u.cls, u.idx) ∈ b.now then 1 else 0)) →
    ∀ u ∈ (b.closeCycle gone).own, u.booked + u.held = u.elapsed) ∧
  ∀ (b : Books) (acct k i : Nat), k < 13 → b.live.Pairwise (fun x y => x.1 < y.1) →
    (b.book k i acct).total k = b.total k + 1 ∧ (b.book k i acct).live.Pairwise (fun x y => x.1 < y.1) ∧ (k, i) ∈ (b.book k i acct).now ∧
    (b.hold k i).total k = b.total k ∧ (k, i) ∈ (b.hold k i).now

/-- A flit of a class has left a port: at once where there is a credit and none of its class waits, else it waits for one (20 R517). -/
def Sys2Proof.Machine.HasSent (s t : State) (port cls : Nat) (b : Sent) : Prop :=
  let now := 0 < (s.link port).cred.toList.getD cls 0 ∧ ∀ x ∈ (s.link port).queue, x.1 ≠ cls
  (now → ∃ x rest, (t.link port).buf = (s.link port).buf ++ x :: rest ∧ x.cls = cls ∧ x.body = b) ∧
    (¬now → ∃ rest, (t.link port).queue = (s.link port).queue ++ (cls, b) :: rest)

/-- 14 R433, R444, R450, R451, R456; 20 R515 to R521, R527, R528; 9 R351; 22 R560, R565: a bad flit is counted and asked for again; a good one
brings credits, with which what waits leaves, or an acknowledgement, which performs the write that waits for it, or the demand for a flit
that has left, which is counted, or the tick of a pod-scope phase; a remote access by a port that is not up, or that carries nothing in the
hollow state, does nothing, one that waits for its page stays, one of another epoch is ignored, and else it is performed, answered with the
code of its fault, or, of a function that has moved away, answered with the epoch fault, a write dropped and logged; an answer waits for
its credit; timing messages are link work, and give the offset from an upstream port; a port that leaves the up state trains again, its
credits whole, its writes dropped; training adopts the epoch after the later of the two, and both identities; a lane is repaired once, in
the same epoch. 20 R529 to R533; 21 R547: the mailbox: an operation runs only when it has been started; an image enters flash only when its
signature passes and its version is at least the fused one, which then rises; a reset, power-good and a loss of power leave what flash and
the fuses hold; each step of bring-up follows the one before and takes its measurements, and 5 s after power-good an unready package
recovers.
Model’s choices in it: log 7, 10, 17, 18, 27, 49, 64, 66, 67, 75, 78, 92. -/
def Obligations.LinksCarryAndRetrain : Prop :=
  (∀ (s : State) (f : Flit) (q : RemoteReq) (port lane : Nat),
    (s.linkUp f.port = false ∨ s.asleep = true → exec (.flitReceive f) s = .next s) ∧
    (s.linkUp f.port = true → s.asleep = false → ∀ h : f.port < 12, let l := s.plat.links[f.port]
      ((f.crcOk = false ∨ 6 ≤ f.cls ∨ f.zOk = false) → NextIs (exec (.flitReceive f) s) fun t => t.mem = s.mem ∧ t.outbox = s.outbox ∧
        (t.plat.links[f.port]).rtry = min (l.rtry + 1) 0x3FFF ∧ t.books.moving = s.books.moving ++ [⟨11, f.port, 1⟩] ∧
        HasSent s t f.port 5 (.retry f.port)) ∧
      (f.crcOk = true → f.cls < 6 → f.zOk = true → NextIs (exec (.flitReceive f) s) fun t => let r := t.plat.links[f.port]
        t.mem = s.mem ∧
        (f.cls = 1 → f.ack = true → f.epoch = l.epoch → ∀ w rest, s.outbox = .write w :: rest → w.port = f.port →
          Sent.write w ∉ t.outbox) ∧
        (f.cls ≠ 5 ∨ f.again = none → r.rtry = l.rtry) ∧
        (f.cls = 5 → ∀ n, f.again = some n → r.rtry = min (l.rtry + 1) 0x3FFF) ∧
        (l.queue = [] → ∀ k (i : k < 6), k < 5 ∨ f.cls = 0 ∨ f.cls = 4 →
          r.cred[k] = if k = f.ccls then min (l.cred[k] + f.cred) Link.reset.cred[k] else l.cred[k]) ∧
        (0 < f.cred → f.ccls < 5 → ∀ x, l.queue = [(f.ccls, x)] → ∃ y ∈ r.buf, y.cls = f.ccls ∧ y.body = x) ∧
        (f.cls = 5 → ∀ oid phase tick o, f.pod = some (.obj oid, phase, tick) → oidScope oid = 4 → s.syncObj oid = some o →
          t.ticks = s.ticks ++ [⟨.obj oid, phase, tick⟩]))) ∧
    (s.linkUp q.port = false ∨ s.asleep = true ∨ remoteWaits q s = true → exec (.remoteAccess q) s = .next s) ∧
    (s.linkUp q.port = true → s.asleep = false → q.epoch ≠ (s.link q.port).epoch → exec (.remoteAccess q) s = .next (s.owe q.port 0)) ∧
    (s.linkUp q.port = true → s.asleep = false → q.epoch = (s.link q.port).epoch → remoteWaits q s = false →
      let answer := fun (t : State) (code : Nat) => (t.sendFlit q.port 1 (.reply q.port [] code 0)).owe q.port 0
      (s.retired (q.rvf % 32) = true →
        (q.write = false → exec (.remoteAccess q) s = .next (answer s 0x18)) ∧
        (q.write = true → ∀ h : q.port < 12, NextIs (exec (.remoteAccess q) s) fun t => t.mem = s.mem ∧ t.outbox = s.outbox ∧
          (t.plat.links[q.port]).dropc = min ((s.plat.links[q.port]).dropc + 1) 0xFFFF ∧
          t.alerts = s.alerts ++ [⟨0x3000 + q.rvf % 32, 1, [0, 0, q.va.toNat, q.port], s.timer, none⟩])) ∧
      (s.retired (q.rvf % 32) = false → let x := remoteTarget q s
        (∀ n, x.1 = .error (.code n) → exec (.remoteAccess q) s = .next (answer x.2 n)) ∧
        (∀ pa, x.1 = .error (.data pa) → exec (.remoteAccess q) s = .next (answer (x.2.poison pa) 0x3E)) ∧
        ∀ pa leaf, x.1 = .ok (pa, leaf) → NextIs (exec (.remoteAccess q) s) fun t =>
          (leaf ≠ 0 → (∃ y ∈ (t.link q.port).buf, y.cls = 3 ∧ y.body = .reply q.port [] 0 leaf) ∨
            (3, Sent.reply q.port [] 0 leaf) ∈ (t.link q.port).queue) ∧
          (q.write = false → t.mem = s.mem ∧ ∃ bs, HasSent s t q.port 1 (.reply q.port bs 0 0) ∧
            (newerThan 0 pa q.size s.hist = [] → bs = Memory.readN s.mem pa q.size)) ∧
          (q.write = true → leaf = 0 ∧ HasSent s t q.port 1 (.reply q.port [] 0 0) ∧
            (s.dirtyCell (q.rvf % 32) pa = none → t.mem = Memory.writeN s.mem pa (valBytes q.data.toNat q.size))))) ∧
    (∀ h : port < 12, let l := s.plat.links[port]
      (l.st ≠ 2 → exec (.linkEpochChange port) s = .next s) ∧
      (l.st = 2 → NextIs (exec (.linkEpochChange port) s) fun t => let r := t.plat.links[port]
        r.st = (if l.dis then 3 else 1) ∧ r.cred = Link.reset.cred ∧ r.buf = [] ∧
        (∀ x ∈ r.queue, x.2.stays = true) ∧ ∀ x ∈ t.outbox, ∀ w, x = .write w → w.port ≠ port) ∧
      (∀ far nbr, (l.st ≠ 1 ∨ s.asleep = true → exec (.linkTrainingComplete port far nbr) s = .next s) ∧
        (l.st = 1 → s.asleep = false → NextIs (exec (.linkTrainingComplete port far nbr) s) fun t => let r := t.plat.links[port]
          t.mem = s.mem ∧ r.st = 2 ∧ r.nbr = nbr % 1024 ∧ r.own = s.plat.nodeid % 1024 ∧ r.epoch = (max l.epoch far + 1) % 65536)) ∧
      (lane < 8 → l.spu = false → NextIs (exec (.laneRepair port lane) s) fun t => let r := t.plat.links[port]
        r.spu = true ∧ r.badl = lane ∧ r.st = l.st ∧ r.epoch = l.epoch ∧ t.mem = s.mem ∧
        t.alerts = s.alerts ++ [⟨0x6000, 2, [port * 8 + lane, 5], s.timer, none⟩]) ∧
      (lane < 8 → l.spu = true → exec (.laneRepair port lane) s = .next (s.alert 0x6000 1 [port * 8 + lane, 5]))) ∧
    (∀ msg : PtpMsg,
      let follows := s.plat.tmctl.getLsbD 0 = false ∧ (s.plat.tmctl.extractLsb' 1 4).toNat = port
      let clear := fun (n : Nat) => n ≤ (s.link port).cred[4] ∧ ∀ x ∈ (s.link port).queue, x.1 ≠ 4
      (s.linkUp port = false ∨ s.asleep = true → exec (.ptpMessage port msg) s = .next s) ∧
      (s.linkUp port = true → s.asleep = false → NextIs (exec (.ptpMessage port msg) s) fun t => t.mem = s.mem ∧
        (msg ≠ .send → t.books.moving = s.books.moving ++ [⟨11, port, 1⟩]) ∧
        (msg = .send → clear 2 → t.books.moving = s.books.moving ++ [⟨11, port, 1⟩, ⟨11, port, 1⟩] ∧
          HasSent s t port 4 (.timing port 0 0) ∧ ∃ x ∈ (t.link port).buf, x.cls = 4 ∧ x.body = .timing port 1 s.timer) ∧
        (msg = .sync → follows → t.plat.ptp = ⟨none, some s.timer, none⟩) ∧
        (∀ t1 t2, msg = .followUp t1 → follows → s.plat.ptp.t2 = some t2 → clear 1 →
          t.plat.ptp = ⟨some t1, some t2, some s.timer⟩ ∧ HasSent s t port 4 (.timing port 2 0)) ∧
        (msg = .delayReq → HasSent s t port 4 (.timing port 3 s.timer)) ∧
        ∀ t1 t2 t3 t4, msg = .delayResp t4 → follows → s.plat.ptp = ⟨some t1, some t2, some t3⟩ →
          let ofs : Int := (((t2 : Int) - t1) - ((t4 : Int) - t3)) / 2
          t.plat.ofs = ofs ∧ t.plat.ptp = ⟨none, none, none⟩ ∧ -858993 ≤ t.plat.slew ∧ t.plat.slew ≤ 858993 ∧
          t.plat.good = (if -20 ≤ ofs ∧ ofs ≤ 20 then s.plat.good + 1 else 0) ∧
          (t.plat.lock = true ↔ (-20 ≤ ofs ∧ ofs ≤ 20) ∧ (s.plat.lock = true ∨ 16 ≤ s.plat.good + 1)))) ∧
    (∀ i : Fin 2, exec (.ucieModuleFail i) s = .next { s with plat := { s.plat with ucie := s.plat.ucie.set i false } }) ∧
    ∀ i : Fin 8, ((s.plat.cxl[i]).st ≠ 2 → exec (.cxlPortFail i) s = .next s) ∧
      ((s.plat.cxl[i]).st = 2 → NextIs (exec (.cxlPortFail i) s) fun t => t.plat.noSteppe = true ∧ (t.plat.cxl[i]).st = 3 ∧
        (t.plat.cxl[i]).set = (s.plat.cxl[i]).set ∧ t.mem = s.mem ∧
        t.alerts = s.alerts ++ [⟨0x6000, 1, [i.val, 8], s.timer, none⟩])) ∧
  ∀ (s : State),
    let p := s.plat
    (∀ x ∈ [(1, Instr.spdmRequest), (2, .imageChunk), (3, .imageCommit), (4, .mailboxReset)], p.mbxRuns x.1 = false →
      exec x.2 s = .next s) ∧
    (p.mbxRuns 1 = true → NextIs (exec .spdmRequest s) fun t => t.plat.mbx.go = false ∧ t.mem = s.mem ∧
      (61440 < p.mbx.len ∨ Config.spdmRequest p.mbx.bytes = none → t.plat.mbx.res = 1) ∧
      ∀ q, p.mbx.len ≤ 61440 → Config.spdmRequest p.mbx.bytes = some q → t.plat.mbx.res = 0 ∧
        Memory.readN t.plat.mbx.buf 0 t.plat.mbx.len = (s.spdmResponse q).take 61440) ∧
    (p.mbxRuns 2 = true → NextIs (exec .imageChunk s) fun t => t.plat.mbx.go = false ∧
      (61440 < p.mbx.len → t.plat.mbx.res = 1 ∧ t.plat.staging = p.staging) ∧
      (p.mbx.len ≤ 61440 → t.plat.mbx.res = 0 ∧ t.plat.slen = max p.slen (p.mbx.off + p.mbx.len) ∧
        t.plat.staging = Memory.writeN p.staging p.mbx.off (Memory.readN p.mbx.buf 0 p.mbx.len))) ∧
    (p.mbxRuns 3 = true → NextIs (exec .imageCommit s) fun t =>
      let img := Memory.readN p.staging 0 p.slen
      t.plat.mbx.go = false ∧ (Config.imageSigned img = false → t.plat.mbx.res = 2 ∧ t.plat.flash = p.flash ∧ t.plat.fused = p.fused) ∧
      (Config.imageSigned img = true → Config.imageVersion img < p.fused → t.plat.mbx.res = 3 ∧ t.plat.flash = p.flash ∧
        t.plat.fused = p.fused) ∧
      (Config.imageSigned img = true → p.fused ≤ Config.imageVersion img → t.plat.mbx.res = 0 ∧ t.plat.flash = img ∧
        t.plat.fused = max p.fused (Config.imageVersion img))) ∧
    (∀ x ∈ [(Instr.mailboxReset, p.mbxRuns 4), (.powerLoss, true), (.powerGood, p.power.isNone)], x.2 = true →
      NextIs (exec x.1 s) fun t => t.plat.flash = p.flash ∧ t.plat.fused = p.fused ∧ t.mem = State.reset.mem ∧ t.core = State.reset.core ∧
        t.done = [] ∧ t.todo = [] ∧ t.cmds = [] ∧ t.disp = State.reset.disp ∧ t.objs = [] ∧ t.books.live = State.reset.books.live ∧
        t.plat.ready = false ∧ t.plat.hst = 0 ∧ (t.plat.power = none ↔ x.1 = .powerLoss) ∧
        t.plat.map = if 4 < p.step then p.spareMap else p.map) ∧
    (p.power.isSome = true → (p.ready = true ∨ p.rcv = true ∨ p.flt ≠ 0) → exec .powerGood s = .next s) ∧
    (p.power.isSome = true → p.ready = false → p.rcv = false → p.flt = 0 →
      let version := Config.imageVersion p.flash
      (p.step ≠ 2 → p.step ≠ 5 → p.step ≠ 8 → NextIs (exec .powerGood s) fun t => t.plat.step = p.step + 1 ∧ t.mem = s.mem ∧
        (p.step = 1 → t.plat.meas = p.meas ++ [(1, sha3 Config.romImage)]) ∧
        (p.step = 4 → t.plat.spares = p.map.spares ∧ t.plat.vsp = p.map.vsp ∧ t.plat.gone = p.map.gone ∧
          t.plat.meas = p.meas ++ [(4, sha3 p.map.bytes)]) ∧
        (p.step = 7 → ∀ i : Fin 12, (t.plat.links[i]).st = if (p.links[i]).dis then 3 else 1)) ∧
      (p.step = 8 → NextIs (exec .powerGood s) fun t => t.plat.ready = true ∧ t.mem = s.mem) ∧
      (p.step = 5 → NextIs (exec .powerGood s) fun t => t.mem = s.mem ∧
        (t.plat.step = 6 ∧ t.plat.flt = 0 ∨ t.plat.step = 5 ∧ (t.plat.flt = 4 ∨ t.plat.flt = 5))) ∧
      (p.step = 2 → NextIs (exec .powerGood s) fun t =>
        let good := p.torn = false ∧ Config.imageSigned p.flash = true ∧ p.fused ≤ version
        (good → t.plat.step = 3 ∧ t.plat.rcv = false ∧ t.plat.sver = version % 65536 ∧
          t.plat.meas = p.meas ++ [(2, sha3 p.flash), (3, sha3 (valBytes version 8))]) ∧
        (¬good → t.plat.rcv = true ∧ t.plat.step = 2))) ∧
    (∀ w, p.power = some w → (p.ready = false → p.rcv = false → w + 5000000000 ≤ s.timer →
        NextIs (exec .bringupWatchdog s) fun t => t.plat.rcv = true ∧ t.plat.flt = if p.flt = 0 then 3 else p.flt) ∧
      (s.timer < w + 5000000000 → exec .bringupWatchdog s = .next s)) ∧
    (p.power = none → exec .bringupWatchdog s = .next s)

/-- 21 R534 to R536, R544 to R549; 17 R493: the hollow state. A waiting HOLLOW, or the warning where HOLCTL lets it, begins an entry, in which
the cores stop one by one, each in place; once all have, moves end and announcements leave, and the entry is complete; it wakes at once
after a HOLLOW alone, else when the warning has been gone for its delay; then cores go on. A written divider comes into force at the end of
the cycle of its boundary; one written in the entry or the hollow state, at the wake. 21 R537 to R539; 22 R562 to R567; 17 R486, R489: a
voltage outside 650 to 900 mV, or off a step of 5, is ignored; a strath that has stood at 900 mV for a window of 2^20 cycles with more
replays of a unit than one in 4,096 asks for repair; scrubbing corrects a correctable error and reports another; a spare takes its unit's
place when its moment has come, once, and waits for it before; HBM rows hold writes while they are copied; a drained vale is reported; a
retired unit leaves its class; a refresh books to OVERHEAD.
Model’s choices in it: log 18, 22, 27, 39, 40, 63, 68, 70, 75. -/
def Obligations.TheHollowStateIsEnteredAndLeft : Prop :=
  (∀ (s : State),
    let p := s.plat
    let may := p.hst = 0 ∧ p.ready = true ∧ p.mbxRuns 3 = false
    let asks := ∃ c ∈ s.cores, c.inHollow = true
    let change := p.divNext.isSome = true ∧ p.divHeld = false ∧ p.divGo = false ∧ p.hst ≠ 2
    (∀ w : Word, NextIs (exec (.clkdivWrite w) s) fun t => t.plat.divNext = some (max 1 (min 8 (w.extractLsb' 0 4).toNat)) ∧
      t.plat.div = p.div ∧ (t.plat.divHeld = true ↔ p.hst ≠ 0) ∧ t.mem = s.mem) ∧
    (¬change → exec .clkdivChange s = .next s) ∧
    (change → NextIs (exec .clkdivChange s) fun t => t.plat.div = p.div ∧ t.plat.divGo = true ∧ t.mem = s.mem) ∧
    (∀ d, p.divGo = true → p.divNext = some d → p.endDiv.div = d ∧ p.endDiv.divNext = none ∧ p.endDiv.divGo = false) ∧
    (may → asks → exec .hollowEntry s =
      .next { s with plat := { p with hst := 1, calm := false, asked := !(p.warn && p.auto) } }) ∧
    (may → ¬asks → NextIs (exec .hollowEntry s) fun t => t.plat.warn = true ∧ t.plat.hst = (if p.auto then 1 else 0) ∧
      (p.auto = true → t.plat.asked = false) ∧ t.cores = s.cores ∧ t.mem = s.mem) ∧
    (¬may → NextIs (exec .hollowEntry s) fun t => t.plat.hst = p.hst ∧ t.plat.warn = true ∧ t.plat.asked = p.asked ∧
      t.cores = s.cores ∧ t.mem = s.mem) ∧
    (s.core.st = .running → let t := haltCore s s.core.id
      t.core.frozen = true ∧ t.core.r.s = s.core.r.s ∧ t.mem = s.mem) ∧
    (p.hst = 1 → p.calm = false → (s.toStop ≠ [] → quiesce s = .next s) ∧
      (s.toStop = [] → NextIs (quiesce s) fun t => t.plat.calm = true ∧ t.plat.hst = 1 ∧ t.moves = [] ∧ (s.updates = [] → t.mem = s.mem))) ∧
    (p.hst ≠ 1 ∨ p.calm = false → exec .hollowEntryComplete s = .next s) ∧
    (p.hst = 1 → p.calm = true → NextIs (exec .hollowEntryComplete s) fun t => t.plat.hst = 2 ∧ t.plat.since = s.timer ∧
      t.plat.hcnt = min (p.hcnt + 1) 0xFFFF ∧ t.mem = s.mem) ∧
    (p.hst = 2 → (p.asked = true ∨ p.warn = false ∧ p.warnAt + p.wdly * 1000 ≤ s.timer) → NextIs (exec .wake s) fun t =>
      t.plat.hst = 3 ∧ t.plat.span = s.timer - p.since ∧ t.plat.hlast = (s.timer - p.since) / 1000 ∧ t.mem = s.mem) ∧
    (p.hst = 2 → p.asked = false → p.warn = true → 0 < p.wdly → NextIs (exec .wake s) fun t =>
      t.plat.hst = 2 ∧ t.plat.warn = false ∧ t.plat.warnAt = s.timer ∧ t.mem = s.mem) ∧
    (p.hst ≠ 2 → NextIs (exec .wake s) fun t => t.plat.hst = p.hst ∧ t.plat.warn = false) ∧
    (p.hst ≠ 3 → exec .wakeComplete s = .next s) ∧
    (p.hst = 3 → NextIs (exec .wakeComplete s) fun t => t.plat.hst = 0 ∧ t.plat.asked = false ∧
      t.plat.div = (if p.divHeld then p.divNext.getD p.div else p.div) ∧
      (s.timer / 1000 ≤ s.books.tick → (∀ i, s.linkUp i = false) → s.core.st = .running → t.core.frozen = false ∧
        t.core.r.s = s.core.r.s))) ∧
  ∀ (s : State),
    let event := fun (kind : Nat) (x : List Nat) => s.alerts ++ [⟨0x6000, kind, x, s.timer, none⟩]
    (∀ k mv (h : k < 16), let x := s.plat.straths[k]
      (650 ≤ mv → mv ≤ 900 → mv % 5 = 0 → NextIs (exec (.voltageTrim k mv) s) fun t => let y := t.plat.straths[k]
        y.volt = mv ∧ (y.maxv = true ↔ mv = 900) ∧ t.mem = s.mem ∧ (mv = 900 → x.volt ≠ 900 → y.since = s.cycle ∧ y.late = [])) ∧
      (mv < 650 ∨ 900 < mv ∨ mv % 5 ≠ 0 → exec (.voltageTrim k mv) s = .next s) ∧
      (x.volt ≠ 900 ∨ s.cycle < x.since + 2 ^ 20 → exec (.strathRepairNeeded k) s = .next s) ∧
      (x.volt = 900 → x.since + 2 ^ 20 ≤ s.cycle → (∃ r ∈ x.late, 256 < r.2) →
        NextIs (exec (.strathRepairNeeded k) s) fun t => t.alerts = event 1 [k, 7] ∧
          (t.plat.straths[k]).late = [] ∧ (t.plat.straths[k]).since = s.cycle)) ∧
    (∀ a, a < 2 ^ 48 → ∀ x ∈ [(0, a / 8), (3, 3 * 2 ^ 45 + a / 8)],
      (x.2 ∈ s.bad → NextIs (exec (.scrub x.1 a) s) fun t => t.bad = s.bad ∧ t.mem = s.mem ∧
        t.alerts = s.alerts ++ [⟨0x4FFF, 2, [x.1, a / 8 * 8, 1], s.timer, none⟩]) ∧
      (x.2 ∉ s.bad → x.2 ∈ s.soft → NextIs (exec (.scrub x.1 a) s) fun t => x.2 ∉ t.soft ∧ t.mem = s.mem ∧
        t.fixed = assocSet x.2 (assocGet 0 x.2 s.fixed + 1) s.fixed) ∧
      (x.2 ∉ s.bad → x.2 ∉ s.soft → NextIs (exec (.scrub x.1 a) s) fun t => t.alerts = s.alerts ∧ t.mem = s.mem)) ∧
    (∀ n, n < 1024 → let k := SpareKind.core n
      ((s.spare (n / 8)).csp = true → NextIs (exec (.spareIntoService k) s) fun t => t.mem = s.mem ∧ t.alerts = event 1 [n, 0] ∧
        k ∉ t.plat.coming) ∧
      ((s.spare (n / 8)).csp = false → let now := s.coreUsed n = false ∧ (s.vale (n / 8)).betweenLeases = true
        (¬now → NextIs (exec (.spareIntoService k) s) fun t => k ∈ t.plat.coming ∧ t.mem = s.mem ∧ t.alerts = s.alerts ∧
          t.plat.spares = s.plat.spares) ∧
        (now → NextIs (exec (.spareIntoService k) s) fun t => (t.spare (n / 8)).csp = true ∧ (0, n) ∉ t.plat.gone ∧
          k ∉ t.plat.coming ∧ t.alerts = event 2 [n, 0]))) ∧
    (∀ v, v < 128 → (s.vale v).betweenLeases = true →
      ((s.spare v).rows < 8 → NextIs (exec (.spareIntoService (.arrayRow v)) s) fun t => (t.spare v).rows = (s.spare v).rows + 1 ∧
        (t.vale v).plate = none) ∧
      ((s.spare v).cols < 8 → NextIs (exec (.spareIntoService (.arrayCol v)) s) fun t => (t.spare v).cols = (s.spare v).cols + 1 ∧
        (t.vale v).plate = none)) ∧
    (∀ v, v < 128 → NextIs (exec (.drainRequest v) s) (fun t => (t.spare v).drn = true ∧ t.mem = s.mem) ∧
      ((s.spare v).drn = true → s.valeUsed v = false → NextIs (exec (.drainComplete v) s) fun t => (t.spare v).drn = false ∧
        t.alerts = event 3 [v, 3]) ∧
      ((s.spare v).drn = false ∨ s.valeUsed v = true → exec (.drainComplete v) s = .next s)) ∧
    (∀ cls i, 5 ≤ cls → cls < 13 →
      (unitTotal cls ≤ i ∨ (cls, i) ∈ s.plat.gone → exec (.unitRetirement cls i) s = .next s) ∧
      (i < unitTotal cls → (cls, i) ∉ s.plat.gone → NextIs (exec (.unitRetirement cls i) s) fun t =>
        (cls, i) ∈ t.plat.gone ∧ t.books.units.toList.getD cls 0 = s.books.units.toList.getD cls 0 - 1 ∧ t.mem = s.mem)) ∧
    ∀ g, (g < 32 → NextIs (exec (.hbmRefresh g) s) (fun t => t.books.moving = s.books.moving ++ [⟨9, g, 1⟩] ∧ t.mem = s.mem) ∧
        ∀ row, let k := SpareKind.hbmRow g row
          ((g, row) ∉ s.plat.rows → NextIs (exec (.spareIntoService k) s) fun t => k ∈ t.plat.coming ∧ t.mem = s.mem ∧
            t.alerts = s.alerts ∧ ∀ pa, pa < 2 ^ 48 → pa / 256 % 32 = g → pa / 65536 = row → t.rowHeld (.cell pa) = true) ∧
          ((g, row) ∈ s.plat.rows → NextIs (exec (.spareIntoService k) s) fun t => k ∉ t.plat.coming ∧ (g, row) ∉ t.plat.rows ∧
            t.mem = s.mem ∧ t.alerts = event 2 [g, 6])) ∧
      (32 ≤ g → exec (.hbmRefresh g) s = .next s)

/-! ## Frames, invariants and reset -/

namespace Sys2Proof.Machine

/-- The instructions that store to memory (06 R211, R212; 07 R270 to R276; 09 R356): every other one stores nothing. -/
def storesToMemory : Instr → Bool
  | .st .. => true
  | .strl .. => true
  | .rclm .. => true
  | .stq .. => true
  | .stql .. => true
  | .saeq .. => true
  | .stz .. => true
  | _ => false

/-- An engine but for where it walks, what it waits for, what it has in flight, the signals that wait for its remote writes, and what
it has acquired. -/
def atRest (x : Eng) : Eng :=
  { x with pc := 0, walked := 0, levels := [], wait := .none, view := 0, pend := [], back := none
           mkq := x.mkq.filter fun m => m.toks.isEmpty }

/-- A core but for register d of C, the token FIFOs, and C's own walk. -/
def besideC (d : Fin 32) (c : Core) : Core :=
  if c.cr.shd then
    { c with
      r := { c.r with tok := Vector.replicate 10 ⟨[], 0, 0⟩ }
      cr := { c.cr with h := c.cr.h.set (d.val % 16) 0 (Nat.mod_lt _ (by decide)), sh := atRest c.cr.sh } }
  else { c with r := { c.r with s := c.r.s.set d 0, tok := Vector.replicate 10 ⟨[], 0, 0⟩, eC := atRest c.r.eC } }

/-- A core but for register d of V, the token FIFOs, and V's own walk. -/
def besideV (d : Fin 48) (c : Core) : Core :=
  { c with r := { c.r with v := c.r.v.set d 0, tok := Vector.replicate 10 ⟨[], 0, 0⟩, eV := atRest c.r.eV } }

/-- One package: only the core in focus differs, and the events that it has posted. -/
def sameBesideCore (s t : State) : Prop := { t with core := s.core, alerts := s.alerts } = s

end Sys2Proof.Machine

/-- 06 R204, R207; 01 R22 to R24, R39: an integer operation or an immediate of C that answers a next state changes its sD (h0 to
h15 in the shadow context), the token FIFOs that it waits on and signals and C's own walk, beside what C's earlier operations
land in its cycle; every other register, every flag, control register and trap register, every byte of memory and the rest of the
package stay as they were. Its next state is one of C that issued or was held, but for the trace event of a transfer. -/
def Obligations.IntegerOperationsKeepTheRest : Prop :=
  ∀ (i : Instr) (m : Marks) (d a : Fin 32) (b : CSrc) (k : Imm) (s t : State),
    ((∃ op : IntOp, i = op.instr m d a b) ∨ i = .li m d k ∨ i = .lih m d k) → (s.inShadow = true → m = .none) →
    exec i s = .next t →
    sameBesideCore s t ∧ (besideC d t.core = besideC d s.core ∨ besideC d t.core = besideC d (s.settle .c).core)

/-- 07 R244, R249 to R252, R254, R259, R266; 01 R39: a lane operation with a v register as its destination and v registers as
its sources changes that register alone, the token FIFOs that it waits on and signals and V's own walk, beside what V's earlier
operations land in its cycle: no mask, no queue, no other register, no counter of V and no byte of memory changes. -/
def Obligations.LaneOperationsKeepTheRest : Prop :=
  ∀ (i : Instr) (m : Marks) (d a b : Fin 48) (o : Option VPay) (s t : State),
    ((∃ p ∈ vTwos m (.v d) (.v a) (.v b) o, i = p.2.2.1) ∨ (∃ p ∈ vOnes m (.v d) (.v a) o, i = p.2.2.1) ∨
      i = .vfma m d (.v a) (.v b) o ∨ i = .vfms m d (.v a) (.v b) o) →
    exec i s = .next t →
    sameBesideCore s t ∧ (besideV d t.core = besideV d s.core ∨ besideV d t.core = besideV d (s.settle .v).core)

/-- 06 R211; 07 R270; 09 R356; 03 R92: an instruction of a core that stores nothing leaves every byte of memory as it was: those
that store are ST, STRL, RCLM, STQ, STQL, SAEQ and STZ. -/
def Obligations.OnlyStoresChangeMemory : Prop :=
  ∀ (i : Instr) (s t : State), (Instr.raw i).isSome = true → storesToMemory i = false → exec i s = .next t → t.mem = s.mem

/-- The model's memories keep their canonical form in every step, from every state that has it (log 2): physical storage, the
staging image and the mailbox.
Model’s choices in it: log 2, 75. -/
def Obligations.MemoryStaysCanonical : Prop :=
  ∀ s t : State, s.memOk = true → step s = .next t → t.memOk = true

/-- What reset leaves, where the spec gives the value: the format table and FMTSRC without .fmt, the slip window, LEASEB and the
arbiter's pointer, the barrier phases, PAGERLV, QCFG, BOOTST, the softmax parameters, and the rows of the accumulator buffer. No core
runs, nothing is queued, sealed or named; no memory is written (log 2), and every memory is in its canonical form.
Model’s choices in it: log 1. -/
def Obligations.ResetLeaves : Prop :=
  let s := State.reset
  s.memOk = true ∧ s.mem = [] ∧ s.core.levelsOk = true ∧ s.core.flagsOk = true ∧ s.core.st = .free ∧
    (∀ k : Fin 16, s.core.cr.fmte[k] = 0x80000) ∧ s.core.cr.fmtsrc = 0x0404 ∧ s.core.cr.slipw = 512 ∧
    s.core.r.smx = 0xFFFFFFFF3F800000 ∧
    (∀ i, s.core.r.row i = ⟨0, 0xFF800000, 0, 0, true, false, false⟩) ∧
    (∀ v, (s.vale v).leaseb = 64 ∧ (s.vale v).pointer = 7 ∧ (s.vale v).holder = none) ∧
    (∀ i : Fin 4, s.bugles[i] = ⟨0x710, 0x7654321076543210, 0x7654321076543210⟩) ∧
    (∀ vf : Fin 32, s.vfs[vf].pagerlv = 1) ∧ (∀ k, (s.queue k).cfg = 0x10008 ∧ (s.queue k).fifo = []) ∧
    s.plat.step = 0 ∧ s.plat.ready = false ∧ s.plat.rcv = false ∧ s.plat.flt = 0 ∧ s.plat.sver = 0 ∧
    s.disp.gangs = [] ∧ s.objs = [] ∧ s.names = [] ∧ s.cmds = [] ∧ s.syncs = [] ∧ s.updates = [] ∧ s.outbox = []

end Statements
end

