-- ==== Sys2Proof/Laws/State.lean ====
section
/-! SUPPORT. What each update of the state leaves alone, field by field. -/

namespace Sys2Proof.Machine

open Sys2Proof

/-! ## modCore -/

@[simp] theorem State.modCore_done (s : State) (f : Core → Core) : (s.modCore f).done = s.done := rfl
@[simp] theorem State.modCore_todo (s : State) (f : Core → Core) : (s.modCore f).todo = s.todo := rfl
@[simp] theorem State.modCore_turn (s : State) (f : Core → Core) : (s.modCore f).turn = s.turn := rfl
@[simp] theorem State.modCore_cycle (s : State) (f : Core → Core) : (s.modCore f).cycle = s.cycle := rfl
@[simp] theorem State.modCore_choice (s : State) (f : Core → Core) : (s.modCore f).choice = s.choice := rfl
@[simp] theorem State.modCore_nextId (s : State) (f : Core → Core) : (s.modCore f).nextId = s.nextId := rfl
@[simp] theorem State.modCore_mem (s : State) (f : Core → Core) : (s.modCore f).mem = s.mem := rfl
@[simp] theorem State.modCore_hist (s : State) (f : Core → Core) : (s.modCore f).hist = s.hist := rfl
@[simp] theorem State.modCore_base (s : State) (f : Core → Core) : (s.modCore f).base = s.base := rfl
@[simp] theorem State.modCore_binds (s : State) (f : Core → Core) : (s.modCore f).binds = s.binds := rfl
@[simp] theorem State.modCore_reads (s : State) (f : Core → Core) : (s.modCore f).reads = s.reads := rfl
@[simp] theorem State.modCore_walks (s : State) (f : Core → Core) : (s.modCore f).walks = s.walks := rfl
@[simp] theorem State.modCore_moves (s : State) (f : Core → Core) : (s.modCore f).moves = s.moves := rfl
@[simp] theorem State.modCore_vfs (s : State) (f : Core → Core) : (s.modCore f).vfs = s.vfs := rfl
@[simp] theorem State.modCore_vales (s : State) (f : Core → Core) : (s.modCore f).vales = s.vales := rfl
@[simp] theorem State.modCore_objs (s : State) (f : Core → Core) : (s.modCore f).objs = s.objs := rfl
@[simp] theorem State.modCore_outbox (s : State) (f : Core → Core) : (s.modCore f).outbox = s.outbox := rfl
@[simp] theorem State.modCore_updates (s : State) (f : Core → Core) : (s.modCore f).updates = s.updates := rfl
@[simp] theorem State.modCore_syncs (s : State) (f : Core → Core) : (s.modCore f).syncs = s.syncs := rfl
@[simp] theorem State.modCore_names (s : State) (f : Core → Core) : (s.modCore f).names = s.names := rfl
@[simp] theorem State.modCore_handles (s : State) (f : Core → Core) : (s.modCore f).handles = s.handles := rfl
@[simp] theorem State.modCore_staged (s : State) (f : Core → Core) : (s.modCore f).staged = s.staged := rfl
@[simp] theorem State.modCore_reclaims (s : State) (f : Core → Core) : (s.modCore f).reclaims = s.reclaims := rfl
@[simp] theorem State.modCore_exports (s : State) (f : Core → Core) : (s.modCore f).exports = s.exports := rfl
@[simp] theorem State.modCore_copies (s : State) (f : Core → Core) : (s.modCore f).copies = s.copies := rfl
@[simp] theorem State.modCore_alerts (s : State) (f : Core → Core) : (s.modCore f).alerts = s.alerts := rfl
@[simp] theorem State.modCore_seqs (s : State) (f : Core → Core) : (s.modCore f).seqs = s.seqs := rfl
@[simp] theorem State.modCore_flaws (s : State) (f : Core → Core) : (s.modCore f).flaws = s.flaws := rfl
@[simp] theorem State.modCore_bad (s : State) (f : Core → Core) : (s.modCore f).bad = s.bad := rfl
@[simp] theorem State.modCore_soft (s : State) (f : Core → Core) : (s.modCore f).soft = s.soft := rfl
@[simp] theorem State.modCore_fixed (s : State) (f : Core → Core) : (s.modCore f).fixed = s.fixed := rfl
@[simp] theorem State.modCore_timer (s : State) (f : Core → Core) : (s.modCore f).timer = s.timer := rfl
@[simp] theorem State.modCore_domains (s : State) (f : Core → Core) : (s.modCore f).domains = s.domains := rfl
@[simp] theorem State.modCore_ticks (s : State) (f : Core → Core) : (s.modCore f).ticks = s.ticks := rfl
@[simp] theorem State.modCore_bugles (s : State) (f : Core → Core) : (s.modCore f).bugles = s.bugles := rfl
@[simp] theorem State.modCore_cmds (s : State) (f : Core → Core) : (s.modCore f).cmds = s.cmds := rfl
@[simp] theorem State.modCore_colls (s : State) (f : Core → Core) : (s.modCore f).colls = s.colls := rfl
@[simp] theorem State.modCore_openws (s : State) (f : Core → Core) : (s.modCore f).openws = s.openws := rfl
@[simp] theorem State.modCore_voids (s : State) (f : Core → Core) : (s.modCore f).voids = s.voids := rfl
@[simp] theorem State.modCore_frees (s : State) (f : Core → Core) : (s.modCore f).frees = s.frees := rfl
@[simp] theorem State.modCore_hosts (s : State) (f : Core → Core) : (s.modCore f).hosts = s.hosts := rfl
@[simp] theorem State.modCore_ctl (s : State) (f : Core → Core) : (s.modCore f).ctl = s.ctl := rfl
@[simp] theorem State.modCore_disp (s : State) (f : Core → Core) : (s.modCore f).disp = s.disp := rfl
@[simp] theorem State.modCore_books (s : State) (f : Core → Core) : (s.modCore f).books = s.books := rfl
@[simp] theorem State.modCore_plat (s : State) (f : Core → Core) : (s.modCore f).plat = s.plat := rfl
@[simp] theorem State.modCore_inputs (s : State) (f : Core → Core) : (s.modCore f).inputs = s.inputs := rfl

@[simp] theorem State.modCore_core (s : State) (f : Core → Core) : (s.modCore f).core = f s.core := rfl

/-! ## modEng -/

@[simp] theorem State.modEng_done (s : State) (e : Engine) (f : Eng → Eng) : (s.modEng e f).done = s.done := rfl
@[simp] theorem State.modEng_todo (s : State) (e : Engine) (f : Eng → Eng) : (s.modEng e f).todo = s.todo := rfl
@[simp] theorem State.modEng_turn (s : State) (e : Engine) (f : Eng → Eng) : (s.modEng e f).turn = s.turn := rfl
@[simp] theorem State.modEng_cycle (s : State) (e : Engine) (f : Eng → Eng) : (s.modEng e f).cycle = s.cycle := rfl
@[simp] theorem State.modEng_choice (s : State) (e : Engine) (f : Eng → Eng) : (s.modEng e f).choice = s.choice := rfl
@[simp] theorem State.modEng_nextId (s : State) (e : Engine) (f : Eng → Eng) : (s.modEng e f).nextId = s.nextId := rfl
@[simp] theorem State.modEng_mem (s : State) (e : Engine) (f : Eng → Eng) : (s.modEng e f).mem = s.mem := rfl
@[simp] theorem State.modEng_hist (s : State) (e : Engine) (f : Eng → Eng) : (s.modEng e f).hist = s.hist := rfl
@[simp] theorem State.modEng_base (s : State) (e : Engine) (f : Eng → Eng) : (s.modEng e f).base = s.base := rfl
@[simp] theorem State.modEng_binds (s : State) (e : Engine) (f : Eng → Eng) : (s.modEng e f).binds = s.binds := rfl
@[simp] theorem State.modEng_reads (s : State) (e : Engine) (f : Eng → Eng) : (s.modEng e f).reads = s.reads := rfl
@[simp] theorem State.modEng_walks (s : State) (e : Engine) (f : Eng → Eng) : (s.modEng e f).walks = s.walks := rfl
@[simp] theorem State.modEng_moves (s : State) (e : Engine) (f : Eng → Eng) : (s.modEng e f).moves = s.moves := rfl
@[simp] theorem State.modEng_vfs (s : State) (e : Engine) (f : Eng → Eng) : (s.modEng e f).vfs = s.vfs := rfl
@[simp] theorem State.modEng_vales (s : State) (e : Engine) (f : Eng → Eng) : (s.modEng e f).vales = s.vales := rfl
@[simp] theorem State.modEng_objs (s : State) (e : Engine) (f : Eng → Eng) : (s.modEng e f).objs = s.objs := rfl
@[simp] theorem State.modEng_outbox (s : State) (e : Engine) (f : Eng → Eng) : (s.modEng e f).outbox = s.outbox := rfl
@[simp] theorem State.modEng_updates (s : State) (e : Engine) (f : Eng → Eng) : (s.modEng e f).updates = s.updates := rfl
@[simp] theorem State.modEng_syncs (s : State) (e : Engine) (f : Eng → Eng) : (s.modEng e f).syncs = s.syncs := rfl
@[simp] theorem State.modEng_names (s : State) (e : Engine) (f : Eng → Eng) : (s.modEng e f).names = s.names := rfl
@[simp] theorem State.modEng_handles (s : State) (e : Engine) (f : Eng → Eng) : (s.modEng e f).handles = s.handles := rfl
@[simp] theorem State.modEng_staged (s : State) (e : Engine) (f : Eng → Eng) : (s.modEng e f).staged = s.staged := rfl
@[simp] theorem State.modEng_reclaims (s : State) (e : Engine) (f : Eng → Eng) : (s.modEng e f).reclaims = s.reclaims := rfl
@[simp] theorem State.modEng_exports (s : State) (e : Engine) (f : Eng → Eng) : (s.modEng e f).exports = s.exports := rfl
@[simp] theorem State.modEng_copies (s : State) (e : Engine) (f : Eng → Eng) : (s.modEng e f).copies = s.copies := rfl
@[simp] theorem State.modEng_alerts (s : State) (e : Engine) (f : Eng → Eng) : (s.modEng e f).alerts = s.alerts := rfl
@[simp] theorem State.modEng_seqs (s : State) (e : Engine) (f : Eng → Eng) : (s.modEng e f).seqs = s.seqs := rfl
@[simp] theorem State.modEng_flaws (s : State) (e : Engine) (f : Eng → Eng) : (s.modEng e f).flaws = s.flaws := rfl
@[simp] theorem State.modEng_bad (s : State) (e : Engine) (f : Eng → Eng) : (s.modEng e f).bad = s.bad := rfl
@[simp] theorem State.modEng_soft (s : State) (e : Engine) (f : Eng → Eng) : (s.modEng e f).soft = s.soft := rfl
@[simp] theorem State.modEng_fixed (s : State) (e : Engine) (f : Eng → Eng) : (s.modEng e f).fixed = s.fixed := rfl
@[simp] theorem State.modEng_timer (s : State) (e : Engine) (f : Eng → Eng) : (s.modEng e f).timer = s.timer := rfl
@[simp] theorem State.modEng_domains (s : State) (e : Engine) (f : Eng → Eng) : (s.modEng e f).domains = s.domains := rfl
@[simp] theorem State.modEng_ticks (s : State) (e : Engine) (f : Eng → Eng) : (s.modEng e f).ticks = s.ticks := rfl
@[simp] theorem State.modEng_bugles (s : State) (e : Engine) (f : Eng → Eng) : (s.modEng e f).bugles = s.bugles := rfl
@[simp] theorem State.modEng_cmds (s : State) (e : Engine) (f : Eng → Eng) : (s.modEng e f).cmds = s.cmds := rfl
@[simp] theorem State.modEng_colls (s : State) (e : Engine) (f : Eng → Eng) : (s.modEng e f).colls = s.colls := rfl
@[simp] theorem State.modEng_openws (s : State) (e : Engine) (f : Eng → Eng) : (s.modEng e f).openws = s.openws := rfl
@[simp] theorem State.modEng_voids (s : State) (e : Engine) (f : Eng → Eng) : (s.modEng e f).voids = s.voids := rfl
@[simp] theorem State.modEng_frees (s : State) (e : Engine) (f : Eng → Eng) : (s.modEng e f).frees = s.frees := rfl
@[simp] theorem State.modEng_hosts (s : State) (e : Engine) (f : Eng → Eng) : (s.modEng e f).hosts = s.hosts := rfl
@[simp] theorem State.modEng_ctl (s : State) (e : Engine) (f : Eng → Eng) : (s.modEng e f).ctl = s.ctl := rfl
@[simp] theorem State.modEng_disp (s : State) (e : Engine) (f : Eng → Eng) : (s.modEng e f).disp = s.disp := rfl
@[simp] theorem State.modEng_books (s : State) (e : Engine) (f : Eng → Eng) : (s.modEng e f).books = s.books := rfl
@[simp] theorem State.modEng_plat (s : State) (e : Engine) (f : Eng → Eng) : (s.modEng e f).plat = s.plat := rfl
@[simp] theorem State.modEng_inputs (s : State) (e : Engine) (f : Eng → Eng) : (s.modEng e f).inputs = s.inputs := rfl

@[simp] theorem State.modEng_core (s : State) (e : Engine) (f : Eng → Eng) : (s.modEng e f).core = s.core.modEng e f := rfl

/-! ## modR -/

@[simp] theorem State.modR_done (s : State) (f : Regs → Regs) : (s.modR f).done = s.done := rfl
@[simp] theorem State.modR_todo (s : State) (f : Regs → Regs) : (s.modR f).todo = s.todo := rfl
@[simp] theorem State.modR_turn (s : State) (f : Regs → Regs) : (s.modR f).turn = s.turn := rfl
@[simp] theorem State.modR_cycle (s : State) (f : Regs → Regs) : (s.modR f).cycle = s.cycle := rfl
@[simp] theorem State.modR_choice (s : State) (f : Regs → Regs) : (s.modR f).choice = s.choice := rfl
@[simp] theorem State.modR_nextId (s : State) (f : Regs → Regs) : (s.modR f).nextId = s.nextId := rfl
@[simp] theorem State.modR_mem (s : State) (f : Regs → Regs) : (s.modR f).mem = s.mem := rfl
@[simp] theorem State.modR_hist (s : State) (f : Regs → Regs) : (s.modR f).hist = s.hist := rfl
@[simp] theorem State.modR_base (s : State) (f : Regs → Regs) : (s.modR f).base = s.base := rfl
@[simp] theorem State.modR_binds (s : State) (f : Regs → Regs) : (s.modR f).binds = s.binds := rfl
@[simp] theorem State.modR_reads (s : State) (f : Regs → Regs) : (s.modR f).reads = s.reads := rfl
@[simp] theorem State.modR_walks (s : State) (f : Regs → Regs) : (s.modR f).walks = s.walks := rfl
@[simp] theorem State.modR_moves (s : State) (f : Regs → Regs) : (s.modR f).moves = s.moves := rfl
@[simp] theorem State.modR_vfs (s : State) (f : Regs → Regs) : (s.modR f).vfs = s.vfs := rfl
@[simp] theorem State.modR_vales (s : State) (f : Regs → Regs) : (s.modR f).vales = s.vales := rfl
@[simp] theorem State.modR_objs (s : State) (f : Regs → Regs) : (s.modR f).objs = s.objs := rfl
@[simp] theorem State.modR_outbox (s : State) (f : Regs → Regs) : (s.modR f).outbox = s.outbox := rfl
@[simp] theorem State.modR_updates (s : State) (f : Regs → Regs) : (s.modR f).updates = s.updates := rfl
@[simp] theorem State.modR_syncs (s : State) (f : Regs → Regs) : (s.modR f).syncs = s.syncs := rfl
@[simp] theorem State.modR_names (s : State) (f : Regs → Regs) : (s.modR f).names = s.names := rfl
@[simp] theorem State.modR_handles (s : State) (f : Regs → Regs) : (s.modR f).handles = s.handles := rfl
@[simp] theorem State.modR_staged (s : State) (f : Regs → Regs) : (s.modR f).staged = s.staged := rfl
@[simp] theorem State.modR_reclaims (s : State) (f : Regs → Regs) : (s.modR f).reclaims = s.reclaims := rfl
@[simp] theorem State.modR_exports (s : State) (f : Regs → Regs) : (s.modR f).exports = s.exports := rfl
@[simp] theorem State.modR_copies (s : State) (f : Regs → Regs) : (s.modR f).copies = s.copies := rfl
@[simp] theorem State.modR_alerts (s : State) (f : Regs → Regs) : (s.modR f).alerts = s.alerts := rfl
@[simp] theorem State.modR_seqs (s : State) (f : Regs → Regs) : (s.modR f).seqs = s.seqs := rfl
@[simp] theorem State.modR_flaws (s : State) (f : Regs → Regs) : (s.modR f).flaws = s.flaws := rfl
@[simp] theorem State.modR_bad (s : State) (f : Regs → Regs) : (s.modR f).bad = s.bad := rfl
@[simp] theorem State.modR_soft (s : State) (f : Regs → Regs) : (s.modR f).soft = s.soft := rfl
@[simp] theorem State.modR_fixed (s : State) (f : Regs → Regs) : (s.modR f).fixed = s.fixed := rfl
@[simp] theorem State.modR_timer (s : State) (f : Regs → Regs) : (s.modR f).timer = s.timer := rfl
@[simp] theorem State.modR_domains (s : State) (f : Regs → Regs) : (s.modR f).domains = s.domains := rfl
@[simp] theorem State.modR_ticks (s : State) (f : Regs → Regs) : (s.modR f).ticks = s.ticks := rfl
@[simp] theorem State.modR_bugles (s : State) (f : Regs → Regs) : (s.modR f).bugles = s.bugles := rfl
@[simp] theorem State.modR_cmds (s : State) (f : Regs → Regs) : (s.modR f).cmds = s.cmds := rfl
@[simp] theorem State.modR_colls (s : State) (f : Regs → Regs) : (s.modR f).colls = s.colls := rfl
@[simp] theorem State.modR_openws (s : State) (f : Regs → Regs) : (s.modR f).openws = s.openws := rfl
@[simp] theorem State.modR_voids (s : State) (f : Regs → Regs) : (s.modR f).voids = s.voids := rfl
@[simp] theorem State.modR_frees (s : State) (f : Regs → Regs) : (s.modR f).frees = s.frees := rfl
@[simp] theorem State.modR_hosts (s : State) (f : Regs → Regs) : (s.modR f).hosts = s.hosts := rfl
@[simp] theorem State.modR_ctl (s : State) (f : Regs → Regs) : (s.modR f).ctl = s.ctl := rfl
@[simp] theorem State.modR_disp (s : State) (f : Regs → Regs) : (s.modR f).disp = s.disp := rfl
@[simp] theorem State.modR_books (s : State) (f : Regs → Regs) : (s.modR f).books = s.books := rfl
@[simp] theorem State.modR_plat (s : State) (f : Regs → Regs) : (s.modR f).plat = s.plat := rfl
@[simp] theorem State.modR_inputs (s : State) (f : Regs → Regs) : (s.modR f).inputs = s.inputs := rfl

@[simp] theorem State.modR_r (s : State) (f : Regs → Regs) : (s.modR f).core.r = f s.core.r := rfl
@[simp] theorem State.modR_core_id (s : State) (f : Regs → Regs) : (s.modR f).core.id = s.core.id := rfl
@[simp] theorem State.modR_core_st (s : State) (f : Regs → Regs) : (s.modR f).core.st = s.core.st := rfl
@[simp] theorem State.modR_core_launch (s : State) (f : Regs → Regs) : (s.modR f).core.launch = s.core.launch := rfl
@[simp] theorem State.modR_core_pod (s : State) (f : Regs → Regs) : (s.modR f).core.pod = s.core.pod := rfl
@[simp] theorem State.modR_core_dom (s : State) (f : Regs → Regs) : (s.modR f).core.dom = s.core.dom := rfl
@[simp] theorem State.modR_core_domUp (s : State) (f : Regs → Regs) : (s.modR f).core.domUp = s.core.domUp := rfl
@[simp] theorem State.modR_core_frozen (s : State) (f : Regs → Regs) : (s.modR f).core.frozen = s.core.frozen := rfl
@[simp] theorem State.modR_core_still (s : State) (f : Regs → Regs) : (s.modR f).core.still = s.core.still := rfl
@[simp] theorem State.modR_core_cr (s : State) (f : Regs → Regs) : (s.modR f).core.cr = s.core.cr := rfl
@[simp] theorem State.modR_core_xp (s : State) (f : Regs → Regs) : (s.modR f).core.xp = s.core.xp := rfl
@[simp] theorem State.modR_core_text (s : State) (f : Regs → Regs) : (s.modR f).core.text = s.core.text := rfl
@[simp] theorem State.modR_core_held (s : State) (f : Regs → Regs) : (s.modR f).core.held = s.core.held := rfl
@[simp] theorem State.modR_core_pgheld (s : State) (f : Regs → Regs) : (s.modR f).core.pgheld = s.core.pgheld := rfl
@[simp] theorem State.modR_core_pager (s : State) (f : Regs → Regs) : (s.modR f).core.pager = s.core.pager := rfl
@[simp] theorem State.modR_core_swt (s : State) (f : Regs → Regs) : (s.modR f).core.swt = s.core.swt := rfl
@[simp] theorem State.modR_core_ctlb (s : State) (f : Regs → Regs) : (s.modR f).core.ctlb = s.core.ctlb := rfl
@[simp] theorem State.modR_core_stlb (s : State) (f : Regs → Regs) : (s.modR f).core.stlb = s.core.stlb := rfl
@[simp] theorem State.modR_core_lastVa (s : State) (f : Regs → Regs) : (s.modR f).core.lastVa = s.core.lastVa := rfl
@[simp] theorem State.modR_core_agc (s : State) (f : Regs → Regs) : (s.modR f).core.agc = s.core.agc := rfl
@[simp] theorem State.modR_core_cwait (s : State) (f : Regs → Regs) : (s.modR f).core.cwait = s.core.cwait := rfl
@[simp] theorem State.modR_core_slip (s : State) (f : Regs → Regs) : (s.modR f).core.slip = s.core.slip := rfl
@[simp] theorem State.modR_core_overlay (s : State) (f : Regs → Regs) : (s.modR f).core.overlay = s.core.overlay := rfl
@[simp] theorem State.modR_core_status (s : State) (f : Regs → Regs) : (s.modR f).core.status = s.core.status := rfl

/-! ## modCr -/

@[simp] theorem State.modCr_done (s : State) (f : CReg → CReg) : (s.modCr f).done = s.done := rfl
@[simp] theorem State.modCr_todo (s : State) (f : CReg → CReg) : (s.modCr f).todo = s.todo := rfl
@[simp] theorem State.modCr_turn (s : State) (f : CReg → CReg) : (s.modCr f).turn = s.turn := rfl
@[simp] theorem State.modCr_cycle (s : State) (f : CReg → CReg) : (s.modCr f).cycle = s.cycle := rfl
@[simp] theorem State.modCr_choice (s : State) (f : CReg → CReg) : (s.modCr f).choice = s.choice := rfl
@[simp] theorem State.modCr_nextId (s : State) (f : CReg → CReg) : (s.modCr f).nextId = s.nextId := rfl
@[simp] theorem State.modCr_mem (s : State) (f : CReg → CReg) : (s.modCr f).mem = s.mem := rfl
@[simp] theorem State.modCr_hist (s : State) (f : CReg → CReg) : (s.modCr f).hist = s.hist := rfl
@[simp] theorem State.modCr_base (s : State) (f : CReg → CReg) : (s.modCr f).base = s.base := rfl
@[simp] theorem State.modCr_binds (s : State) (f : CReg → CReg) : (s.modCr f).binds = s.binds := rfl
@[simp] theorem State.modCr_reads (s : State) (f : CReg → CReg) : (s.modCr f).reads = s.reads := rfl
@[simp] theorem State.modCr_walks (s : State) (f : CReg → CReg) : (s.modCr f).walks = s.walks := rfl
@[simp] theorem State.modCr_moves (s : State) (f : CReg → CReg) : (s.modCr f).moves = s.moves := rfl
@[simp] theorem State.modCr_vfs (s : State) (f : CReg → CReg) : (s.modCr f).vfs = s.vfs := rfl
@[simp] theorem State.modCr_vales (s : State) (f : CReg → CReg) : (s.modCr f).vales = s.vales := rfl
@[simp] theorem State.modCr_objs (s : State) (f : CReg → CReg) : (s.modCr f).objs = s.objs := rfl
@[simp] theorem State.modCr_outbox (s : State) (f : CReg → CReg) : (s.modCr f).outbox = s.outbox := rfl
@[simp] theorem State.modCr_updates (s : State) (f : CReg → CReg) : (s.modCr f).updates = s.updates := rfl
@[simp] theorem State.modCr_syncs (s : State) (f : CReg → CReg) : (s.modCr f).syncs = s.syncs := rfl
@[simp] theorem State.modCr_names (s : State) (f : CReg → CReg) : (s.modCr f).names = s.names := rfl
@[simp] theorem State.modCr_handles (s : State) (f : CReg → CReg) : (s.modCr f).handles = s.handles := rfl
@[simp] theorem State.modCr_staged (s : State) (f : CReg → CReg) : (s.modCr f).staged = s.staged := rfl
@[simp] theorem State.modCr_reclaims (s : State) (f : CReg → CReg) : (s.modCr f).reclaims = s.reclaims := rfl
@[simp] theorem State.modCr_exports (s : State) (f : CReg → CReg) : (s.modCr f).exports = s.exports := rfl
@[simp] theorem State.modCr_copies (s : State) (f : CReg → CReg) : (s.modCr f).copies = s.copies := rfl
@[simp] theorem State.modCr_alerts (s : State) (f : CReg → CReg) : (s.modCr f).alerts = s.alerts := rfl
@[simp] theorem State.modCr_seqs (s : State) (f : CReg → CReg) : (s.modCr f).seqs = s.seqs := rfl
@[simp] theorem State.modCr_flaws (s : State) (f : CReg → CReg) : (s.modCr f).flaws = s.flaws := rfl
@[simp] theorem State.modCr_bad (s : State) (f : CReg → CReg) : (s.modCr f).bad = s.bad := rfl
@[simp] theorem State.modCr_soft (s : State) (f : CReg → CReg) : (s.modCr f).soft = s.soft := rfl
@[simp] theorem State.modCr_fixed (s : State) (f : CReg → CReg) : (s.modCr f).fixed = s.fixed := rfl
@[simp] theorem State.modCr_timer (s : State) (f : CReg → CReg) : (s.modCr f).timer = s.timer := rfl
@[simp] theorem State.modCr_domains (s : State) (f : CReg → CReg) : (s.modCr f).domains = s.domains := rfl
@[simp] theorem State.modCr_ticks (s : State) (f : CReg → CReg) : (s.modCr f).ticks = s.ticks := rfl
@[simp] theorem State.modCr_bugles (s : State) (f : CReg → CReg) : (s.modCr f).bugles = s.bugles := rfl
@[simp] theorem State.modCr_cmds (s : State) (f : CReg → CReg) : (s.modCr f).cmds = s.cmds := rfl
@[simp] theorem State.modCr_colls (s : State) (f : CReg → CReg) : (s.modCr f).colls = s.colls := rfl
@[simp] theorem State.modCr_openws (s : State) (f : CReg → CReg) : (s.modCr f).openws = s.openws := rfl
@[simp] theorem State.modCr_voids (s : State) (f : CReg → CReg) : (s.modCr f).voids = s.voids := rfl
@[simp] theorem State.modCr_frees (s : State) (f : CReg → CReg) : (s.modCr f).frees = s.frees := rfl
@[simp] theorem State.modCr_hosts (s : State) (f : CReg → CReg) : (s.modCr f).hosts = s.hosts := rfl
@[simp] theorem State.modCr_ctl (s : State) (f : CReg → CReg) : (s.modCr f).ctl = s.ctl := rfl
@[simp] theorem State.modCr_disp (s : State) (f : CReg → CReg) : (s.modCr f).disp = s.disp := rfl
@[simp] theorem State.modCr_books (s : State) (f : CReg → CReg) : (s.modCr f).books = s.books := rfl
@[simp] theorem State.modCr_plat (s : State) (f : CReg → CReg) : (s.modCr f).plat = s.plat := rfl
@[simp] theorem State.modCr_inputs (s : State) (f : CReg → CReg) : (s.modCr f).inputs = s.inputs := rfl

@[simp] theorem State.modCr_cr (s : State) (f : CReg → CReg) : (s.modCr f).core.cr = f s.core.cr := rfl
@[simp] theorem State.modCr_core_id (s : State) (f : CReg → CReg) : (s.modCr f).core.id = s.core.id := rfl
@[simp] theorem State.modCr_core_st (s : State) (f : CReg → CReg) : (s.modCr f).core.st = s.core.st := rfl
@[simp] theorem State.modCr_core_launch (s : State) (f : CReg → CReg) : (s.modCr f).core.launch = s.core.launch := rfl
@[simp] theorem State.modCr_core_pod (s : State) (f : CReg → CReg) : (s.modCr f).core.pod = s.core.pod := rfl
@[simp] theorem State.modCr_core_dom (s : State) (f : CReg → CReg) : (s.modCr f).core.dom = s.core.dom := rfl
@[simp] theorem State.modCr_core_domUp (s : State) (f : CReg → CReg) : (s.modCr f).core.domUp = s.core.domUp := rfl
@[simp] theorem State.modCr_core_frozen (s : State) (f : CReg → CReg) : (s.modCr f).core.frozen = s.core.frozen := rfl
@[simp] theorem State.modCr_core_still (s : State) (f : CReg → CReg) : (s.modCr f).core.still = s.core.still := rfl
@[simp] theorem State.modCr_core_r (s : State) (f : CReg → CReg) : (s.modCr f).core.r = s.core.r := rfl
@[simp] theorem State.modCr_core_xp (s : State) (f : CReg → CReg) : (s.modCr f).core.xp = s.core.xp := rfl
@[simp] theorem State.modCr_core_text (s : State) (f : CReg → CReg) : (s.modCr f).core.text = s.core.text := rfl
@[simp] theorem State.modCr_core_held (s : State) (f : CReg → CReg) : (s.modCr f).core.held = s.core.held := rfl
@[simp] theorem State.modCr_core_pgheld (s : State) (f : CReg → CReg) : (s.modCr f).core.pgheld = s.core.pgheld := rfl
@[simp] theorem State.modCr_core_pager (s : State) (f : CReg → CReg) : (s.modCr f).core.pager = s.core.pager := rfl
@[simp] theorem State.modCr_core_swt (s : State) (f : CReg → CReg) : (s.modCr f).core.swt = s.core.swt := rfl
@[simp] theorem State.modCr_core_ctlb (s : State) (f : CReg → CReg) : (s.modCr f).core.ctlb = s.core.ctlb := rfl
@[simp] theorem State.modCr_core_stlb (s : State) (f : CReg → CReg) : (s.modCr f).core.stlb = s.core.stlb := rfl
@[simp] theorem State.modCr_core_lastVa (s : State) (f : CReg → CReg) : (s.modCr f).core.lastVa = s.core.lastVa := rfl
@[simp] theorem State.modCr_core_agc (s : State) (f : CReg → CReg) : (s.modCr f).core.agc = s.core.agc := rfl
@[simp] theorem State.modCr_core_cwait (s : State) (f : CReg → CReg) : (s.modCr f).core.cwait = s.core.cwait := rfl
@[simp] theorem State.modCr_core_slip (s : State) (f : CReg → CReg) : (s.modCr f).core.slip = s.core.slip := rfl
@[simp] theorem State.modCr_core_overlay (s : State) (f : CReg → CReg) : (s.modCr f).core.overlay = s.core.overlay := rfl
@[simp] theorem State.modCr_core_status (s : State) (f : CReg → CReg) : (s.modCr f).core.status = s.core.status := rfl

/-! ## setVale -/

@[simp] theorem State.setVale_core (s : State) (v : Nat) (x : Vale) : (s.setVale v x).core = s.core := rfl
@[simp] theorem State.setVale_done (s : State) (v : Nat) (x : Vale) : (s.setVale v x).done = s.done := rfl
@[simp] theorem State.setVale_todo (s : State) (v : Nat) (x : Vale) : (s.setVale v x).todo = s.todo := rfl
@[simp] theorem State.setVale_turn (s : State) (v : Nat) (x : Vale) : (s.setVale v x).turn = s.turn := rfl
@[simp] theorem State.setVale_cycle (s : State) (v : Nat) (x : Vale) : (s.setVale v x).cycle = s.cycle := rfl
@[simp] theorem State.setVale_choice (s : State) (v : Nat) (x : Vale) : (s.setVale v x).choice = s.choice := rfl
@[simp] theorem State.setVale_nextId (s : State) (v : Nat) (x : Vale) : (s.setVale v x).nextId = s.nextId := rfl
@[simp] theorem State.setVale_mem (s : State) (v : Nat) (x : Vale) : (s.setVale v x).mem = s.mem := rfl
@[simp] theorem State.setVale_hist (s : State) (v : Nat) (x : Vale) : (s.setVale v x).hist = s.hist := rfl
@[simp] theorem State.setVale_base (s : State) (v : Nat) (x : Vale) : (s.setVale v x).base = s.base := rfl
@[simp] theorem State.setVale_binds (s : State) (v : Nat) (x : Vale) : (s.setVale v x).binds = s.binds := rfl
@[simp] theorem State.setVale_reads (s : State) (v : Nat) (x : Vale) : (s.setVale v x).reads = s.reads := rfl
@[simp] theorem State.setVale_walks (s : State) (v : Nat) (x : Vale) : (s.setVale v x).walks = s.walks := rfl
@[simp] theorem State.setVale_moves (s : State) (v : Nat) (x : Vale) : (s.setVale v x).moves = s.moves := rfl
@[simp] theorem State.setVale_vfs (s : State) (v : Nat) (x : Vale) : (s.setVale v x).vfs = s.vfs := rfl
@[simp] theorem State.setVale_objs (s : State) (v : Nat) (x : Vale) : (s.setVale v x).objs = s.objs := rfl
@[simp] theorem State.setVale_outbox (s : State) (v : Nat) (x : Vale) : (s.setVale v x).outbox = s.outbox := rfl
@[simp] theorem State.setVale_updates (s : State) (v : Nat) (x : Vale) : (s.setVale v x).updates = s.updates := rfl
@[simp] theorem State.setVale_syncs (s : State) (v : Nat) (x : Vale) : (s.setVale v x).syncs = s.syncs := rfl
@[simp] theorem State.setVale_names (s : State) (v : Nat) (x : Vale) : (s.setVale v x).names = s.names := rfl
@[simp] theorem State.setVale_handles (s : State) (v : Nat) (x : Vale) : (s.setVale v x).handles = s.handles := rfl
@[simp] theorem State.setVale_staged (s : State) (v : Nat) (x : Vale) : (s.setVale v x).staged = s.staged := rfl
@[simp] theorem State.setVale_reclaims (s : State) (v : Nat) (x : Vale) : (s.setVale v x).reclaims = s.reclaims := rfl
@[simp] theorem State.setVale_exports (s : State) (v : Nat) (x : Vale) : (s.setVale v x).exports = s.exports := rfl
@[simp] theorem State.setVale_copies (s : State) (v : Nat) (x : Vale) : (s.setVale v x).copies = s.copies := rfl
@[simp] theorem State.setVale_alerts (s : State) (v : Nat) (x : Vale) : (s.setVale v x).alerts = s.alerts := rfl
@[simp] theorem State.setVale_seqs (s : State) (v : Nat) (x : Vale) : (s.setVale v x).seqs = s.seqs := rfl
@[simp] theorem State.setVale_flaws (s : State) (v : Nat) (x : Vale) : (s.setVale v x).flaws = s.flaws := rfl
@[simp] theorem State.setVale_bad (s : State) (v : Nat) (x : Vale) : (s.setVale v x).bad = s.bad := rfl
@[simp] theorem State.setVale_soft (s : State) (v : Nat) (x : Vale) : (s.setVale v x).soft = s.soft := rfl
@[simp] theorem State.setVale_fixed (s : State) (v : Nat) (x : Vale) : (s.setVale v x).fixed = s.fixed := rfl
@[simp] theorem State.setVale_timer (s : State) (v : Nat) (x : Vale) : (s.setVale v x).timer = s.timer := rfl
@[simp] theorem State.setVale_domains (s : State) (v : Nat) (x : Vale) : (s.setVale v x).domains = s.domains := rfl
@[simp] theorem State.setVale_ticks (s : State) (v : Nat) (x : Vale) : (s.setVale v x).ticks = s.ticks := rfl
@[simp] theorem State.setVale_bugles (s : State) (v : Nat) (x : Vale) : (s.setVale v x).bugles = s.bugles := rfl
@[simp] theorem State.setVale_cmds (s : State) (v : Nat) (x : Vale) : (s.setVale v x).cmds = s.cmds := rfl
@[simp] theorem State.setVale_colls (s : State) (v : Nat) (x : Vale) : (s.setVale v x).colls = s.colls := rfl
@[simp] theorem State.setVale_openws (s : State) (v : Nat) (x : Vale) : (s.setVale v x).openws = s.openws := rfl
@[simp] theorem State.setVale_voids (s : State) (v : Nat) (x : Vale) : (s.setVale v x).voids = s.voids := rfl
@[simp] theorem State.setVale_frees (s : State) (v : Nat) (x : Vale) : (s.setVale v x).frees = s.frees := rfl
@[simp] theorem State.setVale_hosts (s : State) (v : Nat) (x : Vale) : (s.setVale v x).hosts = s.hosts := rfl
@[simp] theorem State.setVale_ctl (s : State) (v : Nat) (x : Vale) : (s.setVale v x).ctl = s.ctl := rfl
@[simp] theorem State.setVale_disp (s : State) (v : Nat) (x : Vale) : (s.setVale v x).disp = s.disp := rfl
@[simp] theorem State.setVale_books (s : State) (v : Nat) (x : Vale) : (s.setVale v x).books = s.books := rfl
@[simp] theorem State.setVale_plat (s : State) (v : Nat) (x : Vale) : (s.setVale v x).plat = s.plat := rfl
@[simp] theorem State.setVale_inputs (s : State) (v : Nat) (x : Vale) : (s.setVale v x).inputs = s.inputs := rfl

/-! ## modVale -/

@[simp] theorem State.modVale_core (s : State) (v : Nat) (f : Vale → Vale) : (s.modVale v f).core = s.core := rfl
@[simp] theorem State.modVale_done (s : State) (v : Nat) (f : Vale → Vale) : (s.modVale v f).done = s.done := rfl
@[simp] theorem State.modVale_todo (s : State) (v : Nat) (f : Vale → Vale) : (s.modVale v f).todo = s.todo := rfl
@[simp] theorem State.modVale_turn (s : State) (v : Nat) (f : Vale → Vale) : (s.modVale v f).turn = s.turn := rfl
@[simp] theorem State.modVale_cycle (s : State) (v : Nat) (f : Vale → Vale) : (s.modVale v f).cycle = s.cycle := rfl
@[simp] theorem State.modVale_choice (s : State) (v : Nat) (f : Vale → Vale) : (s.modVale v f).choice = s.choice := rfl
@[simp] theorem State.modVale_nextId (s : State) (v : Nat) (f : Vale → Vale) : (s.modVale v f).nextId = s.nextId := rfl
@[simp] theorem State.modVale_mem (s : State) (v : Nat) (f : Vale → Vale) : (s.modVale v f).mem = s.mem := rfl
@[simp] theorem State.modVale_hist (s : State) (v : Nat) (f : Vale → Vale) : (s.modVale v f).hist = s.hist := rfl
@[simp] theorem State.modVale_base (s : State) (v : Nat) (f : Vale → Vale) : (s.modVale v f).base = s.base := rfl
@[simp] theorem State.modVale_binds (s : State) (v : Nat) (f : Vale → Vale) : (s.modVale v f).binds = s.binds := rfl
@[simp] theorem State.modVale_reads (s : State) (v : Nat) (f : Vale → Vale) : (s.modVale v f).reads = s.reads := rfl
@[simp] theorem State.modVale_walks (s : State) (v : Nat) (f : Vale → Vale) : (s.modVale v f).walks = s.walks := rfl
@[simp] theorem State.modVale_moves (s : State) (v : Nat) (f : Vale → Vale) : (s.modVale v f).moves = s.moves := rfl
@[simp] theorem State.modVale_vfs (s : State) (v : Nat) (f : Vale → Vale) : (s.modVale v f).vfs = s.vfs := rfl
@[simp] theorem State.modVale_objs (s : State) (v : Nat) (f : Vale → Vale) : (s.modVale v f).objs = s.objs := rfl
@[simp] theorem State.modVale_outbox (s : State) (v : Nat) (f : Vale → Vale) : (s.modVale v f).outbox = s.outbox := rfl
@[simp] theorem State.modVale_updates (s : State) (v : Nat) (f : Vale → Vale) : (s.modVale v f).updates = s.updates := rfl
@[simp] theorem State.modVale_syncs (s : State) (v : Nat) (f : Vale → Vale) : (s.modVale v f).syncs = s.syncs := rfl
@[simp] theorem State.modVale_names (s : State) (v : Nat) (f : Vale → Vale) : (s.modVale v f).names = s.names := rfl
@[simp] theorem State.modVale_handles (s : State) (v : Nat) (f : Vale → Vale) : (s.modVale v f).handles = s.handles := rfl
@[simp] theorem State.modVale_staged (s : State) (v : Nat) (f : Vale → Vale) : (s.modVale v f).staged = s.staged := rfl
@[simp] theorem State.modVale_reclaims (s : State) (v : Nat) (f : Vale → Vale) : (s.modVale v f).reclaims = s.reclaims := rfl
@[simp] theorem State.modVale_exports (s : State) (v : Nat) (f : Vale → Vale) : (s.modVale v f).exports = s.exports := rfl
@[simp] theorem State.modVale_copies (s : State) (v : Nat) (f : Vale → Vale) : (s.modVale v f).copies = s.copies := rfl
@[simp] theorem State.modVale_alerts (s : State) (v : Nat) (f : Vale → Vale) : (s.modVale v f).alerts = s.alerts := rfl
@[simp] theorem State.modVale_seqs (s : State) (v : Nat) (f : Vale → Vale) : (s.modVale v f).seqs = s.seqs := rfl
@[simp] theorem State.modVale_flaws (s : State) (v : Nat) (f : Vale → Vale) : (s.modVale v f).flaws = s.flaws := rfl
@[simp] theorem State.modVale_bad (s : State) (v : Nat) (f : Vale → Vale) : (s.modVale v f).bad = s.bad := rfl
@[simp] theorem State.modVale_soft (s : State) (v : Nat) (f : Vale → Vale) : (s.modVale v f).soft = s.soft := rfl
@[simp] theorem State.modVale_fixed (s : State) (v : Nat) (f : Vale → Vale) : (s.modVale v f).fixed = s.fixed := rfl
@[simp] theorem State.modVale_timer (s : State) (v : Nat) (f : Vale → Vale) : (s.modVale v f).timer = s.timer := rfl
@[simp] theorem State.modVale_domains (s : State) (v : Nat) (f : Vale → Vale) : (s.modVale v f).domains = s.domains := rfl
@[simp] theorem State.modVale_ticks (s : State) (v : Nat) (f : Vale → Vale) : (s.modVale v f).ticks = s.ticks := rfl
@[simp] theorem State.modVale_bugles (s : State) (v : Nat) (f : Vale → Vale) : (s.modVale v f).bugles = s.bugles := rfl
@[simp] theorem State.modVale_cmds (s : State) (v : Nat) (f : Vale → Vale) : (s.modVale v f).cmds = s.cmds := rfl
@[simp] theorem State.modVale_colls (s : State) (v : Nat) (f : Vale → Vale) : (s.modVale v f).colls = s.colls := rfl
@[simp] theorem State.modVale_openws (s : State) (v : Nat) (f : Vale → Vale) : (s.modVale v f).openws = s.openws := rfl
@[simp] theorem State.modVale_voids (s : State) (v : Nat) (f : Vale → Vale) : (s.modVale v f).voids = s.voids := rfl
@[simp] theorem State.modVale_frees (s : State) (v : Nat) (f : Vale → Vale) : (s.modVale v f).frees = s.frees := rfl
@[simp] theorem State.modVale_hosts (s : State) (v : Nat) (f : Vale → Vale) : (s.modVale v f).hosts = s.hosts := rfl
@[simp] theorem State.modVale_ctl (s : State) (v : Nat) (f : Vale → Vale) : (s.modVale v f).ctl = s.ctl := rfl
@[simp] theorem State.modVale_disp (s : State) (v : Nat) (f : Vale → Vale) : (s.modVale v f).disp = s.disp := rfl
@[simp] theorem State.modVale_books (s : State) (v : Nat) (f : Vale → Vale) : (s.modVale v f).books = s.books := rfl
@[simp] theorem State.modVale_plat (s : State) (v : Nat) (f : Vale → Vale) : (s.modVale v f).plat = s.plat := rfl
@[simp] theorem State.modVale_inputs (s : State) (v : Nat) (f : Vale → Vale) : (s.modVale v f).inputs = s.inputs := rfl

/-! ## tick -/

@[simp] theorem State.tick_core (s : State)  : (s.tick).core = s.core := rfl
@[simp] theorem State.tick_done (s : State)  : (s.tick).done = s.done := rfl
@[simp] theorem State.tick_todo (s : State)  : (s.tick).todo = s.todo := rfl
@[simp] theorem State.tick_turn (s : State)  : (s.tick).turn = s.turn := rfl
@[simp] theorem State.tick_cycle (s : State)  : (s.tick).cycle = s.cycle := rfl
@[simp] theorem State.tick_nextId (s : State)  : (s.tick).nextId = s.nextId := rfl
@[simp] theorem State.tick_mem (s : State)  : (s.tick).mem = s.mem := rfl
@[simp] theorem State.tick_hist (s : State)  : (s.tick).hist = s.hist := rfl
@[simp] theorem State.tick_base (s : State)  : (s.tick).base = s.base := rfl
@[simp] theorem State.tick_binds (s : State)  : (s.tick).binds = s.binds := rfl
@[simp] theorem State.tick_reads (s : State)  : (s.tick).reads = s.reads := rfl
@[simp] theorem State.tick_walks (s : State)  : (s.tick).walks = s.walks := rfl
@[simp] theorem State.tick_moves (s : State)  : (s.tick).moves = s.moves := rfl
@[simp] theorem State.tick_vfs (s : State)  : (s.tick).vfs = s.vfs := rfl
@[simp] theorem State.tick_vales (s : State)  : (s.tick).vales = s.vales := rfl
@[simp] theorem State.tick_objs (s : State)  : (s.tick).objs = s.objs := rfl
@[simp] theorem State.tick_outbox (s : State)  : (s.tick).outbox = s.outbox := rfl
@[simp] theorem State.tick_updates (s : State)  : (s.tick).updates = s.updates := rfl
@[simp] theorem State.tick_syncs (s : State)  : (s.tick).syncs = s.syncs := rfl
@[simp] theorem State.tick_names (s : State)  : (s.tick).names = s.names := rfl
@[simp] theorem State.tick_handles (s : State)  : (s.tick).handles = s.handles := rfl
@[simp] theorem State.tick_staged (s : State)  : (s.tick).staged = s.staged := rfl
@[simp] theorem State.tick_reclaims (s : State)  : (s.tick).reclaims = s.reclaims := rfl
@[simp] theorem State.tick_exports (s : State)  : (s.tick).exports = s.exports := rfl
@[simp] theorem State.tick_copies (s : State)  : (s.tick).copies = s.copies := rfl
@[simp] theorem State.tick_alerts (s : State)  : (s.tick).alerts = s.alerts := rfl
@[simp] theorem State.tick_seqs (s : State)  : (s.tick).seqs = s.seqs := rfl
@[simp] theorem State.tick_flaws (s : State)  : (s.tick).flaws = s.flaws := rfl
@[simp] theorem State.tick_bad (s : State)  : (s.tick).bad = s.bad := rfl
@[simp] theorem State.tick_soft (s : State)  : (s.tick).soft = s.soft := rfl
@[simp] theorem State.tick_fixed (s : State)  : (s.tick).fixed = s.fixed := rfl
@[simp] theorem State.tick_timer (s : State)  : (s.tick).timer = s.timer := rfl
@[simp] theorem State.tick_domains (s : State)  : (s.tick).domains = s.domains := rfl
@[simp] theorem State.tick_ticks (s : State)  : (s.tick).ticks = s.ticks := rfl
@[simp] theorem State.tick_bugles (s : State)  : (s.tick).bugles = s.bugles := rfl
@[simp] theorem State.tick_cmds (s : State)  : (s.tick).cmds = s.cmds := rfl
@[simp] theorem State.tick_colls (s : State)  : (s.tick).colls = s.colls := rfl
@[simp] theorem State.tick_openws (s : State)  : (s.tick).openws = s.openws := rfl
@[simp] theorem State.tick_voids (s : State)  : (s.tick).voids = s.voids := rfl
@[simp] theorem State.tick_frees (s : State)  : (s.tick).frees = s.frees := rfl
@[simp] theorem State.tick_hosts (s : State)  : (s.tick).hosts = s.hosts := rfl
@[simp] theorem State.tick_ctl (s : State)  : (s.tick).ctl = s.ctl := rfl
@[simp] theorem State.tick_disp (s : State)  : (s.tick).disp = s.disp := rfl
@[simp] theorem State.tick_books (s : State)  : (s.tick).books = s.books := rfl
@[simp] theorem State.tick_plat (s : State)  : (s.tick).plat = s.plat := rfl
@[simp] theorem State.tick_inputs (s : State)  : (s.tick).inputs = s.inputs := rfl

/-! ## alert -/

@[simp] theorem State.alert_core (s : State) (src kind : Nat) (ps : List Nat) : (s.alert src kind ps).core = s.core := rfl
@[simp] theorem State.alert_done (s : State) (src kind : Nat) (ps : List Nat) : (s.alert src kind ps).done = s.done := rfl
@[simp] theorem State.alert_todo (s : State) (src kind : Nat) (ps : List Nat) : (s.alert src kind ps).todo = s.todo := rfl
@[simp] theorem State.alert_turn (s : State) (src kind : Nat) (ps : List Nat) : (s.alert src kind ps).turn = s.turn := rfl
@[simp] theorem State.alert_cycle (s : State) (src kind : Nat) (ps : List Nat) : (s.alert src kind ps).cycle = s.cycle := rfl
@[simp] theorem State.alert_choice (s : State) (src kind : Nat) (ps : List Nat) : (s.alert src kind ps).choice = s.choice := rfl
@[simp] theorem State.alert_nextId (s : State) (src kind : Nat) (ps : List Nat) : (s.alert src kind ps).nextId = s.nextId := rfl
@[simp] theorem State.alert_mem (s : State) (src kind : Nat) (ps : List Nat) : (s.alert src kind ps).mem = s.mem := rfl
@[simp] theorem State.alert_hist (s : State) (src kind : Nat) (ps : List Nat) : (s.alert src kind ps).hist = s.hist := rfl
@[simp] theorem State.alert_base (s : State) (src kind : Nat) (ps : List Nat) : (s.alert src kind ps).base = s.base := rfl
@[simp] theorem State.alert_binds (s : State) (src kind : Nat) (ps : List Nat) : (s.alert src kind ps).binds = s.binds := rfl
@[simp] theorem State.alert_reads (s : State) (src kind : Nat) (ps : List Nat) : (s.alert src kind ps).reads = s.reads := rfl
@[simp] theorem State.alert_walks (s : State) (src kind : Nat) (ps : List Nat) : (s.alert src kind ps).walks = s.walks := rfl
@[simp] theorem State.alert_moves (s : State) (src kind : Nat) (ps : List Nat) : (s.alert src kind ps).moves = s.moves := rfl
@[simp] theorem State.alert_vfs (s : State) (src kind : Nat) (ps : List Nat) : (s.alert src kind ps).vfs = s.vfs := rfl
@[simp] theorem State.alert_vales (s : State) (src kind : Nat) (ps : List Nat) : (s.alert src kind ps).vales = s.vales := rfl
@[simp] theorem State.alert_objs (s : State) (src kind : Nat) (ps : List Nat) : (s.alert src kind ps).objs = s.objs := rfl
@[simp] theorem State.alert_outbox (s : State) (src kind : Nat) (ps : List Nat) : (s.alert src kind ps).outbox = s.outbox := rfl
@[simp] theorem State.alert_updates (s : State) (src kind : Nat) (ps : List Nat) : (s.alert src kind ps).updates = s.updates := rfl
@[simp] theorem State.alert_syncs (s : State) (src kind : Nat) (ps : List Nat) : (s.alert src kind ps).syncs = s.syncs := rfl
@[simp] theorem State.alert_names (s : State) (src kind : Nat) (ps : List Nat) : (s.alert src kind ps).names = s.names := rfl
@[simp] theorem State.alert_handles (s : State) (src kind : Nat) (ps : List Nat) : (s.alert src kind ps).handles = s.handles := rfl
@[simp] theorem State.alert_staged (s : State) (src kind : Nat) (ps : List Nat) : (s.alert src kind ps).staged = s.staged := rfl
@[simp] theorem State.alert_reclaims (s : State) (src kind : Nat) (ps : List Nat) : (s.alert src kind ps).reclaims = s.reclaims := rfl
@[simp] theorem State.alert_exports (s : State) (src kind : Nat) (ps : List Nat) : (s.alert src kind ps).exports = s.exports := rfl
@[simp] theorem State.alert_copies (s : State) (src kind : Nat) (ps : List Nat) : (s.alert src kind ps).copies = s.copies := rfl
@[simp] theorem State.alert_seqs (s : State) (src kind : Nat) (ps : List Nat) : (s.alert src kind ps).seqs = s.seqs := rfl
@[simp] theorem State.alert_flaws (s : State) (src kind : Nat) (ps : List Nat) : (s.alert src kind ps).flaws = s.flaws := rfl
@[simp] theorem State.alert_bad (s : State) (src kind : Nat) (ps : List Nat) : (s.alert src kind ps).bad = s.bad := rfl
@[simp] theorem State.alert_soft (s : State) (src kind : Nat) (ps : List Nat) : (s.alert src kind ps).soft = s.soft := rfl
@[simp] theorem State.alert_fixed (s : State) (src kind : Nat) (ps : List Nat) : (s.alert src kind ps).fixed = s.fixed := rfl
@[simp] theorem State.alert_timer (s : State) (src kind : Nat) (ps : List Nat) : (s.alert src kind ps).timer = s.timer := rfl
@[simp] theorem State.alert_domains (s : State) (src kind : Nat) (ps : List Nat) : (s.alert src kind ps).domains = s.domains := rfl
@[simp] theorem State.alert_ticks (s : State) (src kind : Nat) (ps : List Nat) : (s.alert src kind ps).ticks = s.ticks := rfl
@[simp] theorem State.alert_bugles (s : State) (src kind : Nat) (ps : List Nat) : (s.alert src kind ps).bugles = s.bugles := rfl
@[simp] theorem State.alert_cmds (s : State) (src kind : Nat) (ps : List Nat) : (s.alert src kind ps).cmds = s.cmds := rfl
@[simp] theorem State.alert_colls (s : State) (src kind : Nat) (ps : List Nat) : (s.alert src kind ps).colls = s.colls := rfl
@[simp] theorem State.alert_openws (s : State) (src kind : Nat) (ps : List Nat) : (s.alert src kind ps).openws = s.openws := rfl
@[simp] theorem State.alert_voids (s : State) (src kind : Nat) (ps : List Nat) : (s.alert src kind ps).voids = s.voids := rfl
@[simp] theorem State.alert_frees (s : State) (src kind : Nat) (ps : List Nat) : (s.alert src kind ps).frees = s.frees := rfl
@[simp] theorem State.alert_hosts (s : State) (src kind : Nat) (ps : List Nat) : (s.alert src kind ps).hosts = s.hosts := rfl
@[simp] theorem State.alert_ctl (s : State) (src kind : Nat) (ps : List Nat) : (s.alert src kind ps).ctl = s.ctl := rfl
@[simp] theorem State.alert_disp (s : State) (src kind : Nat) (ps : List Nat) : (s.alert src kind ps).disp = s.disp := rfl
@[simp] theorem State.alert_books (s : State) (src kind : Nat) (ps : List Nat) : (s.alert src kind ps).books = s.books := rfl
@[simp] theorem State.alert_plat (s : State) (src kind : Nat) (ps : List Nat) : (s.alert src kind ps).plat = s.plat := rfl
@[simp] theorem State.alert_inputs (s : State) (src kind : Nat) (ps : List Nat) : (s.alert src kind ps).inputs = s.inputs := rfl

/-! ## mapCores -/

@[simp] theorem State.mapCores_turn (s : State) (f : Core → Core) : (s.mapCores f).turn = s.turn := rfl
@[simp] theorem State.mapCores_cycle (s : State) (f : Core → Core) : (s.mapCores f).cycle = s.cycle := rfl
@[simp] theorem State.mapCores_choice (s : State) (f : Core → Core) : (s.mapCores f).choice = s.choice := rfl
@[simp] theorem State.mapCores_nextId (s : State) (f : Core → Core) : (s.mapCores f).nextId = s.nextId := rfl
@[simp] theorem State.mapCores_mem (s : State) (f : Core → Core) : (s.mapCores f).mem = s.mem := rfl
@[simp] theorem State.mapCores_hist (s : State) (f : Core → Core) : (s.mapCores f).hist = s.hist := rfl
@[simp] theorem State.mapCores_base (s : State) (f : Core → Core) : (s.mapCores f).base = s.base := rfl
@[simp] theorem State.mapCores_binds (s : State) (f : Core → Core) : (s.mapCores f).binds = s.binds := rfl
@[simp] theorem State.mapCores_reads (s : State) (f : Core → Core) : (s.mapCores f).reads = s.reads := rfl
@[simp] theorem State.mapCores_walks (s : State) (f : Core → Core) : (s.mapCores f).walks = s.walks := rfl
@[simp] theorem State.mapCores_moves (s : State) (f : Core → Core) : (s.mapCores f).moves = s.moves := rfl
@[simp] theorem State.mapCores_vfs (s : State) (f : Core → Core) : (s.mapCores f).vfs = s.vfs := rfl
@[simp] theorem State.mapCores_vales (s : State) (f : Core → Core) : (s.mapCores f).vales = s.vales := rfl
@[simp] theorem State.mapCores_objs (s : State) (f : Core → Core) : (s.mapCores f).objs = s.objs := rfl
@[simp] theorem State.mapCores_outbox (s : State) (f : Core → Core) : (s.mapCores f).outbox = s.outbox := rfl
@[simp] theorem State.mapCores_updates (s : State) (f : Core → Core) : (s.mapCores f).updates = s.updates := rfl
@[simp] theorem State.mapCores_syncs (s : State) (f : Core → Core) : (s.mapCores f).syncs = s.syncs := rfl
@[simp] theorem State.mapCores_names (s : State) (f : Core → Core) : (s.mapCores f).names = s.names := rfl
@[simp] theorem State.mapCores_handles (s : State) (f : Core → Core) : (s.mapCores f).handles = s.handles := rfl
@[simp] theorem State.mapCores_staged (s : State) (f : Core → Core) : (s.mapCores f).staged = s.staged := rfl
@[simp] theorem State.mapCores_reclaims (s : State) (f : Core → Core) : (s.mapCores f).reclaims = s.reclaims := rfl
@[simp] theorem State.mapCores_exports (s : State) (f : Core → Core) : (s.mapCores f).exports = s.exports := rfl
@[simp] theorem State.mapCores_copies (s : State) (f : Core → Core) : (s.mapCores f).copies = s.copies := rfl
@[simp] theorem State.mapCores_alerts (s : State) (f : Core → Core) : (s.mapCores f).alerts = s.alerts := rfl
@[simp] theorem State.mapCores_seqs (s : State) (f : Core → Core) : (s.mapCores f).seqs = s.seqs := rfl
@[simp] theorem State.mapCores_flaws (s : State) (f : Core → Core) : (s.mapCores f).flaws = s.flaws := rfl
@[simp] theorem State.mapCores_bad (s : State) (f : Core → Core) : (s.mapCores f).bad = s.bad := rfl
@[simp] theorem State.mapCores_soft (s : State) (f : Core → Core) : (s.mapCores f).soft = s.soft := rfl
@[simp] theorem State.mapCores_fixed (s : State) (f : Core → Core) : (s.mapCores f).fixed = s.fixed := rfl
@[simp] theorem State.mapCores_timer (s : State) (f : Core → Core) : (s.mapCores f).timer = s.timer := rfl
@[simp] theorem State.mapCores_domains (s : State) (f : Core → Core) : (s.mapCores f).domains = s.domains := rfl
@[simp] theorem State.mapCores_ticks (s : State) (f : Core → Core) : (s.mapCores f).ticks = s.ticks := rfl
@[simp] theorem State.mapCores_bugles (s : State) (f : Core → Core) : (s.mapCores f).bugles = s.bugles := rfl
@[simp] theorem State.mapCores_cmds (s : State) (f : Core → Core) : (s.mapCores f).cmds = s.cmds := rfl
@[simp] theorem State.mapCores_colls (s : State) (f : Core → Core) : (s.mapCores f).colls = s.colls := rfl
@[simp] theorem State.mapCores_openws (s : State) (f : Core → Core) : (s.mapCores f).openws = s.openws := rfl
@[simp] theorem State.mapCores_voids (s : State) (f : Core → Core) : (s.mapCores f).voids = s.voids := rfl
@[simp] theorem State.mapCores_frees (s : State) (f : Core → Core) : (s.mapCores f).frees = s.frees := rfl
@[simp] theorem State.mapCores_hosts (s : State) (f : Core → Core) : (s.mapCores f).hosts = s.hosts := rfl
@[simp] theorem State.mapCores_ctl (s : State) (f : Core → Core) : (s.mapCores f).ctl = s.ctl := rfl
@[simp] theorem State.mapCores_disp (s : State) (f : Core → Core) : (s.mapCores f).disp = s.disp := rfl
@[simp] theorem State.mapCores_books (s : State) (f : Core → Core) : (s.mapCores f).books = s.books := rfl
@[simp] theorem State.mapCores_plat (s : State) (f : Core → Core) : (s.mapCores f).plat = s.plat := rfl
@[simp] theorem State.mapCores_inputs (s : State) (f : Core → Core) : (s.mapCores f).inputs = s.inputs := rfl

/-! ## acquire -/

@[simp] theorem State.acquire_done (s : State) (e : Engine) (v : View) : (s.acquire e v).done = s.done := rfl
@[simp] theorem State.acquire_todo (s : State) (e : Engine) (v : View) : (s.acquire e v).todo = s.todo := rfl
@[simp] theorem State.acquire_turn (s : State) (e : Engine) (v : View) : (s.acquire e v).turn = s.turn := rfl
@[simp] theorem State.acquire_cycle (s : State) (e : Engine) (v : View) : (s.acquire e v).cycle = s.cycle := rfl
@[simp] theorem State.acquire_choice (s : State) (e : Engine) (v : View) : (s.acquire e v).choice = s.choice := rfl
@[simp] theorem State.acquire_nextId (s : State) (e : Engine) (v : View) : (s.acquire e v).nextId = s.nextId := rfl
@[simp] theorem State.acquire_mem (s : State) (e : Engine) (v : View) : (s.acquire e v).mem = s.mem := rfl
@[simp] theorem State.acquire_hist (s : State) (e : Engine) (v : View) : (s.acquire e v).hist = s.hist := rfl
@[simp] theorem State.acquire_base (s : State) (e : Engine) (v : View) : (s.acquire e v).base = s.base := rfl
@[simp] theorem State.acquire_binds (s : State) (e : Engine) (v : View) : (s.acquire e v).binds = s.binds := rfl
@[simp] theorem State.acquire_reads (s : State) (e : Engine) (v : View) : (s.acquire e v).reads = s.reads := rfl
@[simp] theorem State.acquire_walks (s : State) (e : Engine) (v : View) : (s.acquire e v).walks = s.walks := rfl
@[simp] theorem State.acquire_moves (s : State) (e : Engine) (v : View) : (s.acquire e v).moves = s.moves := rfl
@[simp] theorem State.acquire_vfs (s : State) (e : Engine) (v : View) : (s.acquire e v).vfs = s.vfs := rfl
@[simp] theorem State.acquire_vales (s : State) (e : Engine) (v : View) : (s.acquire e v).vales = s.vales := rfl
@[simp] theorem State.acquire_objs (s : State) (e : Engine) (v : View) : (s.acquire e v).objs = s.objs := rfl
@[simp] theorem State.acquire_outbox (s : State) (e : Engine) (v : View) : (s.acquire e v).outbox = s.outbox := rfl
@[simp] theorem State.acquire_updates (s : State) (e : Engine) (v : View) : (s.acquire e v).updates = s.updates := rfl
@[simp] theorem State.acquire_syncs (s : State) (e : Engine) (v : View) : (s.acquire e v).syncs = s.syncs := rfl
@[simp] theorem State.acquire_names (s : State) (e : Engine) (v : View) : (s.acquire e v).names = s.names := rfl
@[simp] theorem State.acquire_handles (s : State) (e : Engine) (v : View) : (s.acquire e v).handles = s.handles := rfl
@[simp] theorem State.acquire_staged (s : State) (e : Engine) (v : View) : (s.acquire e v).staged = s.staged := rfl
@[simp] theorem State.acquire_reclaims (s : State) (e : Engine) (v : View) : (s.acquire e v).reclaims = s.reclaims := rfl
@[simp] theorem State.acquire_exports (s : State) (e : Engine) (v : View) : (s.acquire e v).exports = s.exports := rfl
@[simp] theorem State.acquire_copies (s : State) (e : Engine) (v : View) : (s.acquire e v).copies = s.copies := rfl
@[simp] theorem State.acquire_alerts (s : State) (e : Engine) (v : View) : (s.acquire e v).alerts = s.alerts := rfl
@[simp] theorem State.acquire_seqs (s : State) (e : Engine) (v : View) : (s.acquire e v).seqs = s.seqs := rfl
@[simp] theorem State.acquire_flaws (s : State) (e : Engine) (v : View) : (s.acquire e v).flaws = s.flaws := rfl
@[simp] theorem State.acquire_bad (s : State) (e : Engine) (v : View) : (s.acquire e v).bad = s.bad := rfl
@[simp] theorem State.acquire_soft (s : State) (e : Engine) (v : View) : (s.acquire e v).soft = s.soft := rfl
@[simp] theorem State.acquire_fixed (s : State) (e : Engine) (v : View) : (s.acquire e v).fixed = s.fixed := rfl
@[simp] theorem State.acquire_timer (s : State) (e : Engine) (v : View) : (s.acquire e v).timer = s.timer := rfl
@[simp] theorem State.acquire_domains (s : State) (e : Engine) (v : View) : (s.acquire e v).domains = s.domains := rfl
@[simp] theorem State.acquire_ticks (s : State) (e : Engine) (v : View) : (s.acquire e v).ticks = s.ticks := rfl
@[simp] theorem State.acquire_bugles (s : State) (e : Engine) (v : View) : (s.acquire e v).bugles = s.bugles := rfl
@[simp] theorem State.acquire_cmds (s : State) (e : Engine) (v : View) : (s.acquire e v).cmds = s.cmds := rfl
@[simp] theorem State.acquire_colls (s : State) (e : Engine) (v : View) : (s.acquire e v).colls = s.colls := rfl
@[simp] theorem State.acquire_openws (s : State) (e : Engine) (v : View) : (s.acquire e v).openws = s.openws := rfl
@[simp] theorem State.acquire_voids (s : State) (e : Engine) (v : View) : (s.acquire e v).voids = s.voids := rfl
@[simp] theorem State.acquire_frees (s : State) (e : Engine) (v : View) : (s.acquire e v).frees = s.frees := rfl
@[simp] theorem State.acquire_hosts (s : State) (e : Engine) (v : View) : (s.acquire e v).hosts = s.hosts := rfl
@[simp] theorem State.acquire_ctl (s : State) (e : Engine) (v : View) : (s.acquire e v).ctl = s.ctl := rfl
@[simp] theorem State.acquire_disp (s : State) (e : Engine) (v : View) : (s.acquire e v).disp = s.disp := rfl
@[simp] theorem State.acquire_books (s : State) (e : Engine) (v : View) : (s.acquire e v).books = s.books := rfl
@[simp] theorem State.acquire_plat (s : State) (e : Engine) (v : View) : (s.acquire e v).plat = s.plat := rfl
@[simp] theorem State.acquire_inputs (s : State) (e : Engine) (v : View) : (s.acquire e v).inputs = s.inputs := rfl

/-! ## setParty -/

@[simp] theorem State.setParty_done (s : State) (e : Engine) (p : Party) : (s.setParty e p).done = s.done := rfl
@[simp] theorem State.setParty_todo (s : State) (e : Engine) (p : Party) : (s.setParty e p).todo = s.todo := rfl
@[simp] theorem State.setParty_turn (s : State) (e : Engine) (p : Party) : (s.setParty e p).turn = s.turn := rfl
@[simp] theorem State.setParty_cycle (s : State) (e : Engine) (p : Party) : (s.setParty e p).cycle = s.cycle := rfl
@[simp] theorem State.setParty_choice (s : State) (e : Engine) (p : Party) : (s.setParty e p).choice = s.choice := rfl
@[simp] theorem State.setParty_nextId (s : State) (e : Engine) (p : Party) : (s.setParty e p).nextId = s.nextId := rfl
@[simp] theorem State.setParty_mem (s : State) (e : Engine) (p : Party) : (s.setParty e p).mem = s.mem := rfl
@[simp] theorem State.setParty_hist (s : State) (e : Engine) (p : Party) : (s.setParty e p).hist = s.hist := rfl
@[simp] theorem State.setParty_base (s : State) (e : Engine) (p : Party) : (s.setParty e p).base = s.base := rfl
@[simp] theorem State.setParty_binds (s : State) (e : Engine) (p : Party) : (s.setParty e p).binds = s.binds := rfl
@[simp] theorem State.setParty_reads (s : State) (e : Engine) (p : Party) : (s.setParty e p).reads = s.reads := rfl
@[simp] theorem State.setParty_walks (s : State) (e : Engine) (p : Party) : (s.setParty e p).walks = s.walks := rfl
@[simp] theorem State.setParty_moves (s : State) (e : Engine) (p : Party) : (s.setParty e p).moves = s.moves := rfl
@[simp] theorem State.setParty_vfs (s : State) (e : Engine) (p : Party) : (s.setParty e p).vfs = s.vfs := rfl
@[simp] theorem State.setParty_vales (s : State) (e : Engine) (p : Party) : (s.setParty e p).vales = s.vales := rfl
@[simp] theorem State.setParty_objs (s : State) (e : Engine) (p : Party) : (s.setParty e p).objs = s.objs := rfl
@[simp] theorem State.setParty_outbox (s : State) (e : Engine) (p : Party) : (s.setParty e p).outbox = s.outbox := rfl
@[simp] theorem State.setParty_updates (s : State) (e : Engine) (p : Party) : (s.setParty e p).updates = s.updates := rfl
@[simp] theorem State.setParty_syncs (s : State) (e : Engine) (p : Party) : (s.setParty e p).syncs = s.syncs := rfl
@[simp] theorem State.setParty_names (s : State) (e : Engine) (p : Party) : (s.setParty e p).names = s.names := rfl
@[simp] theorem State.setParty_handles (s : State) (e : Engine) (p : Party) : (s.setParty e p).handles = s.handles := rfl
@[simp] theorem State.setParty_staged (s : State) (e : Engine) (p : Party) : (s.setParty e p).staged = s.staged := rfl
@[simp] theorem State.setParty_reclaims (s : State) (e : Engine) (p : Party) : (s.setParty e p).reclaims = s.reclaims := rfl
@[simp] theorem State.setParty_exports (s : State) (e : Engine) (p : Party) : (s.setParty e p).exports = s.exports := rfl
@[simp] theorem State.setParty_copies (s : State) (e : Engine) (p : Party) : (s.setParty e p).copies = s.copies := rfl
@[simp] theorem State.setParty_alerts (s : State) (e : Engine) (p : Party) : (s.setParty e p).alerts = s.alerts := rfl
@[simp] theorem State.setParty_seqs (s : State) (e : Engine) (p : Party) : (s.setParty e p).seqs = s.seqs := rfl
@[simp] theorem State.setParty_flaws (s : State) (e : Engine) (p : Party) : (s.setParty e p).flaws = s.flaws := rfl
@[simp] theorem State.setParty_bad (s : State) (e : Engine) (p : Party) : (s.setParty e p).bad = s.bad := rfl
@[simp] theorem State.setParty_soft (s : State) (e : Engine) (p : Party) : (s.setParty e p).soft = s.soft := rfl
@[simp] theorem State.setParty_fixed (s : State) (e : Engine) (p : Party) : (s.setParty e p).fixed = s.fixed := rfl
@[simp] theorem State.setParty_timer (s : State) (e : Engine) (p : Party) : (s.setParty e p).timer = s.timer := rfl
@[simp] theorem State.setParty_domains (s : State) (e : Engine) (p : Party) : (s.setParty e p).domains = s.domains := rfl
@[simp] theorem State.setParty_ticks (s : State) (e : Engine) (p : Party) : (s.setParty e p).ticks = s.ticks := rfl
@[simp] theorem State.setParty_bugles (s : State) (e : Engine) (p : Party) : (s.setParty e p).bugles = s.bugles := rfl
@[simp] theorem State.setParty_cmds (s : State) (e : Engine) (p : Party) : (s.setParty e p).cmds = s.cmds := rfl
@[simp] theorem State.setParty_colls (s : State) (e : Engine) (p : Party) : (s.setParty e p).colls = s.colls := rfl
@[simp] theorem State.setParty_openws (s : State) (e : Engine) (p : Party) : (s.setParty e p).openws = s.openws := rfl
@[simp] theorem State.setParty_voids (s : State) (e : Engine) (p : Party) : (s.setParty e p).voids = s.voids := rfl
@[simp] theorem State.setParty_frees (s : State) (e : Engine) (p : Party) : (s.setParty e p).frees = s.frees := rfl
@[simp] theorem State.setParty_hosts (s : State) (e : Engine) (p : Party) : (s.setParty e p).hosts = s.hosts := rfl
@[simp] theorem State.setParty_ctl (s : State) (e : Engine) (p : Party) : (s.setParty e p).ctl = s.ctl := rfl
@[simp] theorem State.setParty_disp (s : State) (e : Engine) (p : Party) : (s.setParty e p).disp = s.disp := rfl
@[simp] theorem State.setParty_books (s : State) (e : Engine) (p : Party) : (s.setParty e p).books = s.books := rfl
@[simp] theorem State.setParty_plat (s : State) (e : Engine) (p : Party) : (s.setParty e p).plat = s.plat := rfl
@[simp] theorem State.setParty_inputs (s : State) (e : Engine) (p : Party) : (s.setParty e p).inputs = s.inputs := rfl

/-! ## settle -/

@[simp] theorem State.settle_done (s : State) (e : Engine) : (s.settle e).done = s.done := rfl
@[simp] theorem State.settle_todo (s : State) (e : Engine) : (s.settle e).todo = s.todo := rfl
@[simp] theorem State.settle_turn (s : State) (e : Engine) : (s.settle e).turn = s.turn := rfl
@[simp] theorem State.settle_cycle (s : State) (e : Engine) : (s.settle e).cycle = s.cycle := rfl
@[simp] theorem State.settle_choice (s : State) (e : Engine) : (s.settle e).choice = s.choice := rfl
@[simp] theorem State.settle_nextId (s : State) (e : Engine) : (s.settle e).nextId = s.nextId := rfl
@[simp] theorem State.settle_mem (s : State) (e : Engine) : (s.settle e).mem = s.mem := rfl
@[simp] theorem State.settle_hist (s : State) (e : Engine) : (s.settle e).hist = s.hist := rfl
@[simp] theorem State.settle_base (s : State) (e : Engine) : (s.settle e).base = s.base := rfl
@[simp] theorem State.settle_binds (s : State) (e : Engine) : (s.settle e).binds = s.binds := rfl
@[simp] theorem State.settle_reads (s : State) (e : Engine) : (s.settle e).reads = s.reads := rfl
@[simp] theorem State.settle_walks (s : State) (e : Engine) : (s.settle e).walks = s.walks := rfl
@[simp] theorem State.settle_moves (s : State) (e : Engine) : (s.settle e).moves = s.moves := rfl
@[simp] theorem State.settle_vfs (s : State) (e : Engine) : (s.settle e).vfs = s.vfs := rfl
@[simp] theorem State.settle_vales (s : State) (e : Engine) : (s.settle e).vales = s.vales := rfl
@[simp] theorem State.settle_objs (s : State) (e : Engine) : (s.settle e).objs = s.objs := rfl
@[simp] theorem State.settle_outbox (s : State) (e : Engine) : (s.settle e).outbox = s.outbox := rfl
@[simp] theorem State.settle_updates (s : State) (e : Engine) : (s.settle e).updates = s.updates := rfl
@[simp] theorem State.settle_syncs (s : State) (e : Engine) : (s.settle e).syncs = s.syncs := rfl
@[simp] theorem State.settle_names (s : State) (e : Engine) : (s.settle e).names = s.names := rfl
@[simp] theorem State.settle_handles (s : State) (e : Engine) : (s.settle e).handles = s.handles := rfl
@[simp] theorem State.settle_staged (s : State) (e : Engine) : (s.settle e).staged = s.staged := rfl
@[simp] theorem State.settle_reclaims (s : State) (e : Engine) : (s.settle e).reclaims = s.reclaims := rfl
@[simp] theorem State.settle_exports (s : State) (e : Engine) : (s.settle e).exports = s.exports := rfl
@[simp] theorem State.settle_copies (s : State) (e : Engine) : (s.settle e).copies = s.copies := rfl
@[simp] theorem State.settle_alerts (s : State) (e : Engine) : (s.settle e).alerts = s.alerts := rfl
@[simp] theorem State.settle_seqs (s : State) (e : Engine) : (s.settle e).seqs = s.seqs := rfl
@[simp] theorem State.settle_flaws (s : State) (e : Engine) : (s.settle e).flaws = s.flaws := rfl
@[simp] theorem State.settle_bad (s : State) (e : Engine) : (s.settle e).bad = s.bad := rfl
@[simp] theorem State.settle_soft (s : State) (e : Engine) : (s.settle e).soft = s.soft := rfl
@[simp] theorem State.settle_fixed (s : State) (e : Engine) : (s.settle e).fixed = s.fixed := rfl
@[simp] theorem State.settle_timer (s : State) (e : Engine) : (s.settle e).timer = s.timer := rfl
@[simp] theorem State.settle_domains (s : State) (e : Engine) : (s.settle e).domains = s.domains := rfl
@[simp] theorem State.settle_ticks (s : State) (e : Engine) : (s.settle e).ticks = s.ticks := rfl
@[simp] theorem State.settle_bugles (s : State) (e : Engine) : (s.settle e).bugles = s.bugles := rfl
@[simp] theorem State.settle_cmds (s : State) (e : Engine) : (s.settle e).cmds = s.cmds := rfl
@[simp] theorem State.settle_colls (s : State) (e : Engine) : (s.settle e).colls = s.colls := rfl
@[simp] theorem State.settle_openws (s : State) (e : Engine) : (s.settle e).openws = s.openws := rfl
@[simp] theorem State.settle_voids (s : State) (e : Engine) : (s.settle e).voids = s.voids := rfl
@[simp] theorem State.settle_frees (s : State) (e : Engine) : (s.settle e).frees = s.frees := rfl
@[simp] theorem State.settle_hosts (s : State) (e : Engine) : (s.settle e).hosts = s.hosts := rfl
@[simp] theorem State.settle_ctl (s : State) (e : Engine) : (s.settle e).ctl = s.ctl := rfl
@[simp] theorem State.settle_disp (s : State) (e : Engine) : (s.settle e).disp = s.disp := rfl
@[simp] theorem State.settle_books (s : State) (e : Engine) : (s.settle e).books = s.books := rfl
@[simp] theorem State.settle_plat (s : State) (e : Engine) : (s.settle e).plat = s.plat := rfl
@[simp] theorem State.settle_inputs (s : State) (e : Engine) : (s.settle e).inputs = s.inputs := rfl

/-! ## The engines of a core -/

@[simp] theorem Core.modEng_id (c : Core) (e : Engine) (f : Eng → Eng) : (c.modEng e f).id = c.id := by
  unfold Core.modEng Core.setEng; cases e <;> first | rfl | (dsimp only; split <;> rfl)
@[simp] theorem Core.modEng_st (c : Core) (e : Engine) (f : Eng → Eng) : (c.modEng e f).st = c.st := by
  unfold Core.modEng Core.setEng; cases e <;> first | rfl | (dsimp only; split <;> rfl)
@[simp] theorem Core.modEng_launch (c : Core) (e : Engine) (f : Eng → Eng) : (c.modEng e f).launch = c.launch := by
  unfold Core.modEng Core.setEng; cases e <;> first | rfl | (dsimp only; split <;> rfl)
@[simp] theorem Core.modEng_pod (c : Core) (e : Engine) (f : Eng → Eng) : (c.modEng e f).pod = c.pod := by
  unfold Core.modEng Core.setEng; cases e <;> first | rfl | (dsimp only; split <;> rfl)
@[simp] theorem Core.modEng_dom (c : Core) (e : Engine) (f : Eng → Eng) : (c.modEng e f).dom = c.dom := by
  unfold Core.modEng Core.setEng; cases e <;> first | rfl | (dsimp only; split <;> rfl)
@[simp] theorem Core.modEng_domUp (c : Core) (e : Engine) (f : Eng → Eng) : (c.modEng e f).domUp = c.domUp := by
  unfold Core.modEng Core.setEng; cases e <;> first | rfl | (dsimp only; split <;> rfl)
@[simp] theorem Core.modEng_frozen (c : Core) (e : Engine) (f : Eng → Eng) : (c.modEng e f).frozen = c.frozen := by
  unfold Core.modEng Core.setEng; cases e <;> first | rfl | (dsimp only; split <;> rfl)
@[simp] theorem Core.modEng_still (c : Core) (e : Engine) (f : Eng → Eng) : (c.modEng e f).still = c.still := by
  unfold Core.modEng Core.setEng; cases e <;> first | rfl | (dsimp only; split <;> rfl)
@[simp] theorem Core.modEng_xp (c : Core) (e : Engine) (f : Eng → Eng) : (c.modEng e f).xp = c.xp := by
  unfold Core.modEng Core.setEng; cases e <;> first | rfl | (dsimp only; split <;> rfl)
@[simp] theorem Core.modEng_text (c : Core) (e : Engine) (f : Eng → Eng) : (c.modEng e f).text = c.text := by
  unfold Core.modEng Core.setEng; cases e <;> first | rfl | (dsimp only; split <;> rfl)
@[simp] theorem Core.modEng_held (c : Core) (e : Engine) (f : Eng → Eng) : (c.modEng e f).held = c.held := by
  unfold Core.modEng Core.setEng; cases e <;> first | rfl | (dsimp only; split <;> rfl)
@[simp] theorem Core.modEng_pgheld (c : Core) (e : Engine) (f : Eng → Eng) : (c.modEng e f).pgheld = c.pgheld := by
  unfold Core.modEng Core.setEng; cases e <;> first | rfl | (dsimp only; split <;> rfl)
@[simp] theorem Core.modEng_pager (c : Core) (e : Engine) (f : Eng → Eng) : (c.modEng e f).pager = c.pager := by
  unfold Core.modEng Core.setEng; cases e <;> first | rfl | (dsimp only; split <;> rfl)
@[simp] theorem Core.modEng_swt (c : Core) (e : Engine) (f : Eng → Eng) : (c.modEng e f).swt = c.swt := by
  unfold Core.modEng Core.setEng; cases e <;> first | rfl | (dsimp only; split <;> rfl)
@[simp] theorem Core.modEng_ctlb (c : Core) (e : Engine) (f : Eng → Eng) : (c.modEng e f).ctlb = c.ctlb := by
  unfold Core.modEng Core.setEng; cases e <;> first | rfl | (dsimp only; split <;> rfl)
@[simp] theorem Core.modEng_stlb (c : Core) (e : Engine) (f : Eng → Eng) : (c.modEng e f).stlb = c.stlb := by
  unfold Core.modEng Core.setEng; cases e <;> first | rfl | (dsimp only; split <;> rfl)
@[simp] theorem Core.modEng_lastVa (c : Core) (e : Engine) (f : Eng → Eng) : (c.modEng e f).lastVa = c.lastVa := by
  unfold Core.modEng Core.setEng; cases e <;> first | rfl | (dsimp only; split <;> rfl)
@[simp] theorem Core.modEng_agc (c : Core) (e : Engine) (f : Eng → Eng) : (c.modEng e f).agc = c.agc := by
  unfold Core.modEng Core.setEng; cases e <;> first | rfl | (dsimp only; split <;> rfl)
@[simp] theorem Core.modEng_cwait (c : Core) (e : Engine) (f : Eng → Eng) : (c.modEng e f).cwait = c.cwait := by
  unfold Core.modEng Core.setEng; cases e <;> first | rfl | (dsimp only; split <;> rfl)
@[simp] theorem Core.modEng_slip (c : Core) (e : Engine) (f : Eng → Eng) : (c.modEng e f).slip = c.slip := by
  unfold Core.modEng Core.setEng; cases e <;> first | rfl | (dsimp only; split <;> rfl)
@[simp] theorem Core.modEng_overlay (c : Core) (e : Engine) (f : Eng → Eng) : (c.modEng e f).overlay = c.overlay := by
  unfold Core.modEng Core.setEng; cases e <;> first | rfl | (dsimp only; split <;> rfl)
@[simp] theorem Core.modEng_status (c : Core) (e : Engine) (f : Eng → Eng) : (c.modEng e f).status = c.status := by
  unfold Core.modEng Core.setEng; cases e <;> first | rfl | (dsimp only; split <;> rfl)
@[simp] theorem Core.modEng_r_s (c : Core) (e : Engine) (f : Eng → Eng) : (c.modEng e f).r.s = c.r.s := by
  unfold Core.modEng Core.setEng; cases e <;> first | rfl | (dsimp only; split <;> rfl)
@[simp] theorem Core.modEng_r_a (c : Core) (e : Engine) (f : Eng → Eng) : (c.modEng e f).r.a = c.r.a := by
  unfold Core.modEng Core.setEng; cases e <;> first | rfl | (dsimp only; split <;> rfl)
@[simp] theorem Core.modEng_r_p (c : Core) (e : Engine) (f : Eng → Eng) : (c.modEng e f).r.p = c.r.p := by
  unfold Core.modEng Core.setEng; cases e <;> first | rfl | (dsimp only; split <;> rfl)
@[simp] theorem Core.modEng_r_d (c : Core) (e : Engine) (f : Eng → Eng) : (c.modEng e f).r.d = c.r.d := by
  unfold Core.modEng Core.setEng; cases e <;> first | rfl | (dsimp only; split <;> rfl)
@[simp] theorem Core.modEng_r_v (c : Core) (e : Engine) (f : Eng → Eng) : (c.modEng e f).r.v = c.r.v := by
  unfold Core.modEng Core.setEng; cases e <;> first | rfl | (dsimp only; split <;> rfl)
@[simp] theorem Core.modEng_r_k (c : Core) (e : Engine) (f : Eng → Eng) : (c.modEng e f).r.k = c.r.k := by
  unfold Core.modEng Core.setEng; cases e <;> first | rfl | (dsimp only; split <;> rfl)
@[simp] theorem Core.modEng_r_g (c : Core) (e : Engine) (f : Eng → Eng) : (c.modEng e f).r.g = c.r.g := by
  unfold Core.modEng Core.setEng; cases e <;> first | rfl | (dsimp only; split <;> rfl)
@[simp] theorem Core.modEng_r_f (c : Core) (e : Engine) (f : Eng → Eng) : (c.modEng e f).r.f = c.r.f := by
  unfold Core.modEng Core.setEng; cases e <;> first | rfl | (dsimp only; split <;> rfl)
@[simp] theorem Core.modEng_r_tok (c : Core) (e : Engine) (f : Eng → Eng) : (c.modEng e f).r.tok = c.r.tok := by
  unfold Core.modEng Core.setEng; cases e <;> first | rfl | (dsimp only; split <;> rfl)
@[simp] theorem Core.modEng_r_lq (c : Core) (e : Engine) (f : Eng → Eng) : (c.modEng e f).r.lq = c.r.lq := by
  unfold Core.modEng Core.setEng; cases e <;> first | rfl | (dsimp only; split <;> rfl)
@[simp] theorem Core.modEng_r_mq (c : Core) (e : Engine) (f : Eng → Eng) : (c.modEng e f).r.mq = c.r.mq := by
  unfold Core.modEng Core.setEng; cases e <;> first | rfl | (dsimp only; split <;> rfl)
@[simp] theorem Core.modEng_r_sq (c : Core) (e : Engine) (f : Eng → Eng) : (c.modEng e f).r.sq = c.r.sq := by
  unfold Core.modEng Core.setEng; cases e <;> first | rfl | (dsimp only; split <;> rfl)
@[simp] theorem Core.modEng_r_saq (c : Core) (e : Engine) (f : Eng → Eng) : (c.modEng e f).r.saq = c.r.saq := by
  unfold Core.modEng Core.setEng; cases e <;> first | rfl | (dsimp only; split <;> rfl)
@[simp] theorem Core.modEng_r_iq (c : Core) (e : Engine) (f : Eng → Eng) : (c.modEng e f).r.iq = c.r.iq := by
  unfold Core.modEng Core.setEng; cases e <;> first | rfl | (dsimp only; split <;> rfl)
@[simp] theorem Core.modEng_r_cond (c : Core) (e : Engine) (f : Eng → Eng) : (c.modEng e f).r.cond = c.r.cond := by
  unfold Core.modEng Core.setEng; cases e <;> first | rfl | (dsimp only; split <;> rfl)
@[simp] theorem Core.modEng_r_nextSid (c : Core) (e : Engine) (f : Eng → Eng) : (c.modEng e f).r.nextSid = c.r.nextSid := by
  unfold Core.modEng Core.setEng; cases e <;> first | rfl | (dsimp only; split <;> rfl)
@[simp] theorem Core.modEng_r_stz (c : Core) (e : Engine) (f : Eng → Eng) : (c.modEng e f).r.stz = c.r.stz := by
  unfold Core.modEng Core.setEng; cases e <;> first | rfl | (dsimp only; split <;> rfl)
@[simp] theorem Core.modEng_r_rows (c : Core) (e : Engine) (f : Eng → Eng) : (c.modEng e f).r.rows = c.r.rows := by
  unfold Core.modEng Core.setEng; cases e <;> first | rfl | (dsimp only; split <;> rfl)
@[simp] theorem Core.modEng_r_pbuf (c : Core) (e : Engine) (f : Eng → Eng) : (c.modEng e f).r.pbuf = c.r.pbuf := by
  unfold Core.modEng Core.setEng; cases e <;> first | rfl | (dsimp only; split <;> rfl)
@[simp] theorem Core.modEng_r_smx (c : Core) (e : Engine) (f : Eng → Eng) : (c.modEng e f).r.smx = c.r.smx := by
  unfold Core.modEng Core.setEng; cases e <;> first | rfl | (dsimp only; split <;> rfl)
@[simp] theorem Core.modEng_r_claim (c : Core) (e : Engine) (f : Eng → Eng) : (c.modEng e f).r.claim = c.r.claim := by
  unfold Core.modEng Core.setEng; cases e <;> first | rfl | (dsimp only; split <;> rfl)
@[simp] theorem Core.modEng_r_claimOwn (c : Core) (e : Engine) (f : Eng → Eng) : (c.modEng e f).r.claimOwn = c.r.claimOwn := by
  unfold Core.modEng Core.setEng; cases e <;> first | rfl | (dsimp only; split <;> rfl)
@[simp] theorem Core.modEng_r_lease (c : Core) (e : Engine) (f : Eng → Eng) : (c.modEng e f).r.lease = c.r.lease := by
  unfold Core.modEng Core.setEng; cases e <;> first | rfl | (dsimp only; split <;> rfl)
@[simp] theorem Core.modEng_r_mstat (c : Core) (e : Engine) (f : Eng → Eng) : (c.modEng e f).r.mstat = c.r.mstat := by
  unfold Core.modEng Core.setEng; cases e <;> first | rfl | (dsimp only; split <;> rfl)
@[simp] theorem Core.modEng_r_occ (c : Core) (e : Engine) (f : Eng → Eng) : (c.modEng e f).r.occ = c.r.occ := by
  unfold Core.modEng Core.setEng; cases e <;> first | rfl | (dsimp only; split <;> rfl)
@[simp] theorem Core.modEng_cr_lvl (c : Core) (e : Engine) (f : Eng → Eng) : (c.modEng e f).cr.lvl = c.cr.lvl := by
  unfold Core.modEng Core.setEng; cases e <;> first | rfl | (dsimp only; split <;> rfl)
@[simp] theorem Core.modEng_cr_shd (c : Core) (e : Engine) (f : Eng → Eng) : (c.modEng e f).cr.shd = c.cr.shd := by
  unfold Core.modEng Core.setEng; cases e <;> first | rfl | (dsimp only; split <;> rfl)
@[simp] theorem Core.modEng_cr_gang (c : Core) (e : Engine) (f : Eng → Eng) : (c.modEng e f).cr.gang = c.cr.gang := by
  unfold Core.modEng Core.setEng; cases e <;> first | rfl | (dsimp only; split <;> rfl)
@[simp] theorem Core.modEng_cr_domm (c : Core) (e : Engine) (f : Eng → Eng) : (c.modEng e f).cr.domm = c.cr.domm := by
  unfold Core.modEng Core.setEng; cases e <;> first | rfl | (dsimp only; split <;> rfl)
@[simp] theorem Core.modEng_cr_spw (c : Core) (e : Engine) (f : Eng → Eng) : (c.modEng e f).cr.spw = c.cr.spw := by
  unfold Core.modEng Core.setEng; cases e <;> first | rfl | (dsimp only; split <;> rfl)
@[simp] theorem Core.modEng_cr_slipw (c : Core) (e : Engine) (f : Eng → Eng) : (c.modEng e f).cr.slipw = c.cr.slipw := by
  unfold Core.modEng Core.setEng; cases e <;> first | rfl | (dsimp only; split <;> rfl)
@[simp] theorem Core.modEng_cr_vovf (c : Core) (e : Engine) (f : Eng → Eng) : (c.modEng e f).cr.vovf = c.cr.vovf := by
  unfold Core.modEng Core.setEng; cases e <;> first | rfl | (dsimp only; split <;> rfl)
@[simp] theorem Core.modEng_cr_fmtsrc (c : Core) (e : Engine) (f : Eng → Eng) : (c.modEng e f).cr.fmtsrc = c.cr.fmtsrc := by
  unfold Core.modEng Core.setEng; cases e <;> first | rfl | (dsimp only; split <;> rfl)
@[simp] theorem Core.modEng_cr_fmte (c : Core) (e : Engine) (f : Eng → Eng) : (c.modEng e f).cr.fmte = c.cr.fmte := by
  unfold Core.modEng Core.setEng; cases e <;> first | rfl | (dsimp only; split <;> rfl)
@[simp] theorem Core.modEng_cr_cause (c : Core) (e : Engine) (f : Eng → Eng) : (c.modEng e f).cr.cause = c.cr.cause := by
  unfold Core.modEng Core.setEng; cases e <;> first | rfl | (dsimp only; split <;> rfl)
@[simp] theorem Core.modEng_cr_trapPc (c : Core) (e : Engine) (f : Eng → Eng) : (c.modEng e f).cr.trapPc = c.cr.trapPc := by
  unfold Core.modEng Core.setEng; cases e <;> first | rfl | (dsimp only; split <;> rfl)
@[simp] theorem Core.modEng_cr_trapWord (c : Core) (e : Engine) (f : Eng → Eng) : (c.modEng e f).cr.trapWord = c.cr.trapWord := by
  unfold Core.modEng Core.setEng; cases e <;> first | rfl | (dsimp only; split <;> rfl)
@[simp] theorem Core.modEng_cr_trapAddr (c : Core) (e : Engine) (f : Eng → Eng) : (c.modEng e f).cr.trapAddr = c.cr.trapAddr := by
  unfold Core.modEng Core.setEng; cases e <;> first | rfl | (dsimp only; split <;> rfl)
@[simp] theorem Core.modEng_cr_trapPos (c : Core) (e : Engine) (f : Eng → Eng) : (c.modEng e f).cr.trapPos = c.cr.trapPos := by
  unfold Core.modEng Core.setEng; cases e <;> first | rfl | (dsimp only; split <;> rfl)
@[simp] theorem Core.modEng_cr_eretPc (c : Core) (e : Engine) (f : Eng → Eng) : (c.modEng e f).cr.eretPc = c.cr.eretPc := by
  unfold Core.modEng Core.setEng; cases e <;> first | rfl | (dsimp only; split <;> rfl)
@[simp] theorem Core.modEng_cr_trapWalk (c : Core) (e : Engine) (f : Eng → Eng) : (c.modEng e f).cr.trapWalk = c.cr.trapWalk := by
  unfold Core.modEng Core.setEng; cases e <;> first | rfl | (dsimp only; split <;> rfl)
@[simp] theorem Core.modEng_cr_pending (c : Core) (e : Engine) (f : Eng → Eng) : (c.modEng e f).cr.pending = c.cr.pending := by
  unfold Core.modEng Core.setEng; cases e <;> first | rfl | (dsimp only; split <;> rfl)
@[simp] theorem Core.modEng_cr_acctid (c : Core) (e : Engine) (f : Eng → Eng) : (c.modEng e f).cr.acctid = c.cr.acctid := by
  unfold Core.modEng Core.setEng; cases e <;> first | rfl | (dsimp only; split <;> rfl)
@[simp] theorem Core.modEng_cr_keyslot (c : Core) (e : Engine) (f : Eng → Eng) : (c.modEng e f).cr.keyslot = c.cr.keyslot := by
  unfold Core.modEng Core.setEng; cases e <;> first | rfl | (dsimp only; split <;> rfl)
@[simp] theorem Core.modEng_cr_vfsel (c : Core) (e : Engine) (f : Eng → Eng) : (c.modEng e f).cr.vfsel = c.cr.vfsel := by
  unfold Core.modEng Core.setEng; cases e <;> first | rfl | (dsimp only; split <;> rfl)
@[simp] theorem Core.modEng_cr_wp (c : Core) (e : Engine) (f : Eng → Eng) : (c.modEng e f).cr.wp = c.cr.wp := by
  unfold Core.modEng Core.setEng; cases e <;> first | rfl | (dsimp only; split <;> rfl)
@[simp] theorem Core.modEng_cr_wpm (c : Core) (e : Engine) (f : Eng → Eng) : (c.modEng e f).cr.wpm = c.cr.wpm := by
  unfold Core.modEng Core.setEng; cases e <;> first | rfl | (dsimp only; split <;> rfl)
@[simp] theorem Core.modEng_cr_h (c : Core) (e : Engine) (f : Eng → Eng) : (c.modEng e f).cr.h = c.cr.h := by
  unfold Core.modEng Core.setEng; cases e <;> first | rfl | (dsimp only; split <;> rfl)
@[simp] theorem Core.modEng_cr_cyc0 (c : Core) (e : Engine) (f : Eng → Eng) : (c.modEng e f).cr.cyc0 = c.cr.cyc0 := by
  unfold Core.modEng Core.setEng; cases e <;> first | rfl | (dsimp only; split <;> rfl)
@[simp] theorem Core.modEng_cr_hcnt (c : Core) (e : Engine) (f : Eng → Eng) : (c.modEng e f).cr.hcnt = c.cr.hcnt := by
  unfold Core.modEng Core.setEng; cases e <;> first | rfl | (dsimp only; split <;> rfl)
@[simp] theorem Core.modEng_cr_fwcnt (c : Core) (e : Engine) (f : Eng → Eng) : (c.modEng e f).cr.fwcnt = c.cr.fwcnt := by
  unfold Core.modEng Core.setEng; cases e <;> first | rfl | (dsimp only; split <;> rfl)
@[simp] theorem Core.modEng_cr_twcnt (c : Core) (e : Engine) (f : Eng → Eng) : (c.modEng e f).cr.twcnt = c.cr.twcnt := by
  unfold Core.modEng Core.setEng; cases e <;> first | rfl | (dsimp only; split <;> rfl)
@[simp] theorem Core.modEng_cr_hcctl (c : Core) (e : Engine) (f : Eng → Eng) : (c.modEng e f).cr.hcctl = c.cr.hcctl := by
  unfold Core.modEng Core.setEng; cases e <;> first | rfl | (dsimp only; split <;> rfl)
@[simp] theorem Core.modEng_cr_trctl (c : Core) (e : Engine) (f : Eng → Eng) : (c.modEng e f).cr.trctl = c.cr.trctl := by
  unfold Core.modEng Core.setEng; cases e <;> first | rfl | (dsimp only; split <;> rfl)
@[simp] theorem Core.modEng_cr_dead (c : Core) (e : Engine) (f : Eng → Eng) : (c.modEng e f).cr.dead = c.cr.dead := by
  unfold Core.modEng Core.setEng; cases e <;> first | rfl | (dsimp only; split <;> rfl)
@[simp] theorem Core.modEng_cr_lxa (c : Core) (e : Engine) (f : Eng → Eng) : (c.modEng e f).cr.lxa = c.cr.lxa := by
  unfold Core.modEng Core.setEng; cases e <;> first | rfl | (dsimp only; split <;> rfl)
@[simp] theorem Core.modEng_cr_lxold (c : Core) (e : Engine) (f : Eng → Eng) : (c.modEng e f).cr.lxold = c.cr.lxold := by
  unfold Core.modEng Core.setEng; cases e <;> first | rfl | (dsimp only; split <;> rfl)
@[simp] theorem Core.modEng_cr_lxnew (c : Core) (e : Engine) (f : Eng → Eng) : (c.modEng e f).cr.lxnew = c.cr.lxnew := by
  unfold Core.modEng Core.setEng; cases e <;> first | rfl | (dsimp only; split <;> rfl)
@[simp] theorem Core.modEng_cr_lxgo (c : Core) (e : Engine) (f : Eng → Eng) : (c.modEng e f).cr.lxgo = c.cr.lxgo := by
  unfold Core.modEng Core.setEng; cases e <;> first | rfl | (dsimp only; split <;> rfl)

/-- An engine after its own update. -/
@[simp] theorem Core.modEng_self (c : Core) (e : Engine) (f : Eng → Eng) : (c.modEng e f).eng e = f (c.eng e) := by
  cases e <;> simp [Core.modEng, Core.setEng, Core.eng]
  split <;> simp_all

/-- An engine after the update of another. -/
theorem Core.modEng_other (c : Core) (e e' : Engine) (f : Eng → Eng) (h : e ≠ e') : (c.modEng e f).eng e' = c.eng e' := by
  cases e <;> cases e' <;> simp_all [Core.modEng, Core.setEng, Core.eng]
  all_goals split <;> simp_all

@[simp] theorem State.modEng_self (s : State) (e : Engine) (f : Eng → Eng) : (s.modEng e f).eng e = f (s.eng e) :=
  Core.modEng_self s.core e f

theorem State.modEng_other (s : State) (e e' : Engine) (f : Eng → Eng) (h : e ≠ e') : (s.modEng e f).eng e' = s.eng e' :=
  Core.modEng_other s.core e e' f h

end Sys2Proof.Machine
end

