-- ==== Sys2Proof/Laws/Ops.lean ====
section
/-! SUPPORT. What each shared operation can do: landings, tokens, the issue of an instruction, trap entry. -/

namespace Sys2Proof.Machine

open Sys2Proof

/-! ## Landings -/

/-- A core without what an operation of an engine may land in: its registers, h0 to h15, VOVF and the shadow engine. -/
def Core.fixedPart (c : Core) : Core :=
  { c with r := Regs.reset, cr := { c.cr with h := CReg.reset.h, vovf := 0, sh := Eng.reset } }

/-- An engine without its operations in flight, its marks and its e registers. -/
def Eng.fixedPart (x : Eng) : Eng := { x with pend := [], mkq := [], marks := 0, e := Eng.reset.e }

theorem Core.fixedPart_land (c : Core) (e : Engine) (l : Land) : (c.land e l).fixedPart = c.fixedPart := by
  cases l <;> rfl

theorem Core.fixedPart_modEng (c : Core) (e : Engine) (f : Eng → Eng) : (c.modEng e f).fixedPart = c.fixedPart := by
  unfold Core.modEng Core.setEng
  cases e <;> first | rfl | (dsimp only; split <;> rfl)

theorem Core.fixedPart_r (c : Core) (r : Regs) : ({ c with r := r } : Core).fixedPart = c.fixedPart := rfl

/-- A property that each step of a fold keeps is kept by the fold. -/
theorem foldl_keeps {α β γ : Type} (g : β → γ) (f : β → α → β) (h : ∀ b a, g (f b a) = g b) :
    ∀ (l : List α) (b : β), g (l.foldl f b) = g b
  | [], _ => rfl
  | a :: l, b => by rw [List.foldl_cons, foldl_keeps g f h l, h]

theorem Core.fixedPart_retireMark (c : Core) (e : Engine) (m : MarkWait) : (c.retireMark e m).fixedPart = c.fixedPart := by
  unfold Core.retireMark
  rw [foldl_keeps Core.fixedPart _ fun b a => Core.fixedPart_r b _, foldl_keeps Core.fixedPart _ fun b a => Core.fixedPart_r b _,
    Core.fixedPart_modEng]

theorem Core.fixedPart_retireMarks (c : Core) (e : Engine) : (c.retireMarks e).fixedPart = c.fixedPart := by
  unfold Core.retireMarks
  rw [foldl_keeps Core.fixedPart _ fun b a => Core.fixedPart_retireMark b e a, Core.fixedPart_modEng]

/-- What is no register, mark or queue of a core does not change when operations land. -/
theorem Core.fixedPart_settle (c : Core) (e : Engine) : (c.settle e).fixedPart = c.fixedPart := by
  unfold Core.settle
  rw [Core.fixedPart_retireMarks, foldl_keeps Core.fixedPart _ fun b (a : Pend) => Core.fixedPart_land b e a.land,
    Core.fixedPart_modEng]

/-- A core's parts that its fixed part shows. -/
theorem Core.fixedPart_field {α : Type} {c k : Core} (g : Core → α) (h : k.fixedPart = c.fixedPart)
    (hg : ∀ x, g x = g x.fixedPart) : g k = g c := by rw [hg k, hg c, h]

theorem Core.settle_shd (c : Core) (e : Engine) : (c.settle e).cr.shd = c.cr.shd :=
  Core.fixedPart_field (fun k => k.cr.shd) (Core.fixedPart_settle c e) fun _ => rfl
theorem Core.settle_lvl (c : Core) (e : Engine) : (c.settle e).cr.lvl = c.cr.lvl :=
  Core.fixedPart_field (fun k => k.cr.lvl) (Core.fixedPart_settle c e) fun _ => rfl
theorem Core.settle_pending (c : Core) (e : Engine) : (c.settle e).cr.pending = c.cr.pending :=
  Core.fixedPart_field (fun k => k.cr.pending) (Core.fixedPart_settle c e) fun _ => rfl
theorem Core.settle_trctl (c : Core) (e : Engine) : (c.settle e).cr.trctl = c.cr.trctl :=
  Core.fixedPart_field (fun k => k.cr.trctl) (Core.fixedPart_settle c e) fun _ => rfl
theorem Core.settle_id (c : Core) (e : Engine) : (c.settle e).id = c.id :=
  Core.fixedPart_field (fun k => k.id) (Core.fixedPart_settle c e) fun _ => rfl
theorem Core.settle_st (c : Core) (e : Engine) : (c.settle e).st = c.st :=
  Core.fixedPart_field (fun k => k.st) (Core.fixedPart_settle c e) fun _ => rfl
theorem Core.settle_text (c : Core) (e : Engine) : (c.settle e).text = c.text :=
  Core.fixedPart_field (fun k => k.text) (Core.fixedPart_settle c e) fun _ => rfl
theorem Core.settle_slip (c : Core) (e : Engine) : (c.settle e).slip = c.slip :=
  Core.fixedPart_field (fun k => k.slip) (Core.fixedPart_settle c e) fun _ => rfl

@[simp] theorem State.settle_inShadow (s : State) (e : Engine) : (s.settle e).inShadow = s.inShadow :=
  Core.settle_shd s.core e

/-! ## The engines when operations land -/

theorem Core.land_eng (c : Core) (e e' : Engine) (l : Land) : ((c.land e l).eng e').fixedPart = (c.eng e').fixedPart := by
  cases l with
  | e i x => cases e <;> cases e' <;> rfl
  | h i x => cases e' <;> rfl
  | vovf n => cases e' <;> rfl
  | slot q sid x =>
    have h : ∀ r : Regs, r.eC = c.r.eC ∧ r.eA = c.r.eA ∧ r.eM = c.r.eM ∧ r.eV = c.r.eV ∧ r.eS = c.r.eS →
        (({ c with r := r } : Core).eng e').fixedPart = (c.eng e').fixedPart := by
      rintro r ⟨h1, h2, h3, h4, h5⟩
      cases e' <;> simp [Core.eng, h1, h2, h3, h4, h5]
    refine h (c.r.qFill q sid x true) ?_
    cases q <;> exact ⟨rfl, rfl, rfl, rfl, rfl⟩
  | rowsZero w a n i =>
    have h := foldl_keeps (fun r : Regs => (r.eC, r.eA, r.eM, r.eV, r.eS))
      (fun r k => r.setRow (a + k) { Row.launch with int := i }) (fun _ _ => rfl) (List.range n) c.r
    simp only [Prod.mk.injEq] at h
    obtain ⟨h1, h2, h3, h4, h5⟩ := h
    cases e' <;> simp [Core.eng, Core.land, Regs.land, h1, h2, h3, h4, h5]
  | _ => cases e' <;> rfl

theorem Core.modEng_eng_fixed (c : Core) (e e' : Engine) (f : Eng → Eng) (h : ∀ x, (f x).fixedPart = x.fixedPart) :
    ((c.modEng e f).eng e').fixedPart = (c.eng e').fixedPart := by
  by_cases he : e = e'
  · subst he; rw [Core.modEng_self, h]
  · rw [Core.modEng_other c e e' f he]

theorem Core.deliver_eng (c : Core) (e' : Engine) (r : Regs) (hr : r.eC = c.r.eC ∧ r.eA = c.r.eA ∧ r.eM = c.r.eM ∧
    r.eV = c.r.eV ∧ r.eS = c.r.eS) : ({ c with r := r } : Core).eng e' = c.eng e' := by
  obtain ⟨h1, h2, h3, h4, h5⟩ := hr
  cases e' <;> simp [Core.eng, h1, h2, h3, h4, h5]

theorem Core.retireMarks_eng (c : Core) (e e' : Engine) :
    ((c.retireMarks e).eng e').fixedPart = (c.eng e').fixedPart := by
  unfold Core.retireMarks
  rw [foldl_keeps (fun k : Core => (k.eng e').fixedPart) _ (by
    intro b a
    unfold Core.retireMark
    have hr : ∀ (b : Core) (r : Regs), r.eC = b.r.eC ∧ r.eA = b.r.eA ∧ r.eM = b.r.eM ∧ r.eV = b.r.eV ∧ r.eS = b.r.eS →
        (({ b with r := r } : Core).eng e').fixedPart = (b.eng e').fixedPart :=
      fun b r h => congrArg Eng.fixedPart (Core.deliver_eng b e' r h)
    dsimp only
    rw [foldl_keeps (fun k : Core => (k.eng e').fixedPart) _ (by intro b a; exact hr b _ ⟨rfl, rfl, rfl, rfl, rfl⟩),
      foldl_keeps (fun k : Core => (k.eng e').fixedPart) _ (by intro b a; exact hr b _ ⟨rfl, rfl, rfl, rfl, rfl⟩)]
    exact Core.modEng_eng_fixed b e e' _ fun _ => rfl)]
  exact Core.modEng_eng_fixed c e e' _ fun _ => rfl

/-- An engine's parts that its fixed part shows. -/
theorem Eng.fixedPart_field {α : Type} {x y : Eng} (g : Eng → α) (h : y.fixedPart = x.fixedPart)
    (hg : ∀ z, g z = g z.fixedPart) : g y = g x := by rw [hg y, hg x, h]

/-- Where an engine stands, its loops and its visible set do not change when operations land. -/
theorem Core.settle_eng (c : Core) (e e' : Engine) : ((c.settle e).eng e').fixedPart = (c.eng e').fixedPart := by
  unfold Core.settle
  rw [Core.retireMarks_eng, foldl_keeps (fun k : Core => (k.eng e').fixedPart) _ fun b (a : Pend) => Core.land_eng b e e' a.land]
  exact Core.modEng_eng_fixed c e e' _ fun _ => rfl

theorem State.settle_pcOf (s : State) (e e' : Engine) : (s.settle e).pcOf e' = s.pcOf e' :=
  Eng.fixedPart_field (fun x => x.pc) (Core.settle_eng s.core e e') fun _ => rfl
theorem State.settle_walked (s : State) (e e' : Engine) : ((s.settle e).eng e').walked = (s.eng e').walked :=
  Eng.fixedPart_field (fun x => x.walked) (Core.settle_eng s.core e e') fun _ => rfl
theorem State.settle_levels (s : State) (e e' : Engine) : ((s.settle e).eng e').levels = (s.eng e').levels :=
  Eng.fixedPart_field (fun x => x.levels) (Core.settle_eng s.core e e') fun _ => rfl
theorem State.settle_view (s : State) (e e' : Engine) : ((s.settle e).eng e').view = (s.eng e').view :=
  Eng.fixedPart_field (fun x => x.view) (Core.settle_eng s.core e e') fun _ => rfl

/-! ## The registers that no landing writes -/

/-- The registers that no operation in flight of an engine writes, and that nothing which waits for one changes. -/
def Regs.fixedPart (r : Regs) : Regs :=
  { Regs.reset with
    p := r.p, g := r.g, iq := r.iq, cond := r.cond, nextSid := r.nextSid, stz := r.stz
    claim := r.claim, claimOwn := r.claimOwn, lease := r.lease, occ := r.occ }

theorem Core.land_regs (c : Core) (e : Engine) (l : Land) : (c.land e l).r.fixedPart = c.r.fixedPart := by
  cases l with
  | e i x => cases e <;> rfl
  | slot q sid x =>
    simp only [Core.land, Regs.land, Regs.qFill]
    cases q <;> rfl
  | rowsZero w a n i =>
    exact foldl_keeps Regs.fixedPart (fun r k => r.setRow (a + k) { Row.launch with int := i }) (fun _ _ => rfl) (List.range n) c.r
  | _ => rfl

theorem Core.modEng_regs (c : Core) (e : Engine) (f : Eng → Eng) : (c.modEng e f).r.fixedPart = c.r.fixedPart := by
  unfold Core.modEng Core.setEng
  cases e <;> first | rfl | (dsimp only; split <;> rfl)

theorem Core.retireMarks_regs (c : Core) (e : Engine) : (c.retireMarks e).r.fixedPart = c.r.fixedPart := by
  unfold Core.retireMarks
  rw [foldl_keeps (fun k : Core => k.r.fixedPart) _ (by
    intro b a
    unfold Core.retireMark
    dsimp only
    rw [foldl_keeps (fun k : Core => k.r.fixedPart) _ (by intro b a; rfl),
      foldl_keeps (fun k : Core => k.r.fixedPart) _ (by intro b a; rfl)]
    exact Core.modEng_regs b e _)]
  exact Core.modEng_regs c e _

/-- Pointers, generators, the lease and the queues that hold no results do not change when operations land. -/
theorem Core.settle_regs (c : Core) (e : Engine) : (c.settle e).r.fixedPart = c.r.fixedPart := by
  unfold Core.settle
  rw [Core.retireMarks_regs, foldl_keeps (fun k : Core => k.r.fixedPart) _ fun b (a : Pend) => Core.land_regs b e a.land]
  exact Core.modEng_regs c e _

/-- Registers that the fixed part of the registers shows. -/
theorem Regs.fixedPart_field {α : Type} {x y : Regs} (g : Regs → α) (h : y.fixedPart = x.fixedPart)
    (hg : ∀ z, g z = g z.fixedPart) : g y = g x := by rw [hg y, hg x, h]

theorem State.settle_lease (s : State) (e : Engine) : (s.settle e).core.r.lease = s.core.r.lease :=
  Regs.fixedPart_field (fun x => x.lease) (Core.settle_regs s.core e) fun _ => rfl
theorem State.settle_occ (s : State) (e : Engine) : (s.settle e).core.r.occ = s.core.r.occ :=
  Regs.fixedPart_field (fun x => x.occ) (Core.settle_regs s.core e) fun _ => rfl

/-! ## Results -/

/-- A result of latency 1 lands in the cycle of its issue. -/
theorem State.post_now (s : State) (e : Engine) (l : Land) : s.post e 1 l = s.modCore (·.land e l) := rfl

/-- A result of a longer latency waits among the operations in flight. -/
theorem State.post_later (s : State) (e : Engine) (lat : Nat) (l : Land) (h : 1 < lat) :
    s.post e lat l = s.modEng e fun x => { x with pend := x.pend ++ [⟨lat - 1, l, s.cycle⟩] } := by
  rw [State.post, if_neg (by omega)]

/-- Whatever the latency, a result changes no store and no party outside its core. -/
theorem State.post_mem (s : State) (e : Engine) (lat : Nat) (l : Land) : (s.post e lat l).mem = s.mem := by
  unfold State.post; split <;> rfl
theorem State.post_hist (s : State) (e : Engine) (lat : Nat) (l : Land) : (s.post e lat l).hist = s.hist := by
  unfold State.post; split <;> rfl
theorem State.post_reads (s : State) (e : Engine) (lat : Nat) (l : Land) : (s.post e lat l).reads = s.reads := by
  unfold State.post; split <;> rfl
theorem State.post_fixedPart (s : State) (e : Engine) (lat : Nat) (l : Land) :
    (s.post e lat l).core.fixedPart = s.core.fixedPart := by
  unfold State.post; split
  · exact Core.fixedPart_land s.core e l
  · exact Core.fixedPart_modEng s.core e _

/-! ## Waits and signals -/

theorem Regs.tokPop_ok {r r' : Regs} {f : Fin 10} {v : View} (h : r.tokPop f = .ok (v, r')) :
    ∃ t ts, r.tok[f].toks = t :: ts ∧ t.fresh = false ∧ v = t.view ∧
      r' = { r with tok := r.tok.set f { r.tok[f] with toks := ts, freed := r.tok[f].freed + 1 } } := by
  unfold Regs.tokPop at h
  split at h
  · rename_i t ts heq
    split at h
    · cases h
    · rename_i hf
      injection h with h
      injection h with h1 h2
      exact ⟨t, ts, heq, by simpa using hf, h1.symm, h2.symm⟩
  · cases h

/-- Pops of waits change the token FIFOs and the engine's visible set alone. -/
theorem popWaits_fixedPart (e : Engine) : ∀ (fs : List (Fin 10)) {s t : State}, popWaits e fs s = .ok t →
    t.core.fixedPart = s.core.fixedPart ∧ t.core.r.fixedPart = s.core.r.fixedPart ∧ t.mem = s.mem ∧ t.hist = s.hist ∧
      t.reads = s.reads
  | [], s, t, h => by cases h; exact ⟨rfl, rfl, rfl, rfl, rfl⟩
  | f :: fs, s, t, h => by
    unfold popWaits at h
    split at h
    · cases h
    · rename_i v r hp
      obtain ⟨_, _, _, _, _, hr⟩ := Regs.tokPop_ok hp
      obtain ⟨h1, h2, h3, h4, h5⟩ := popWaits_fixedPart e fs h
      subst hr
      refine ⟨h1.trans ?_, h2.trans ?_, h3, h4, h5⟩
      · exact Core.fixedPart_modEng _ e _
      · exact Core.modEng_regs _ e _

theorem reserveSignals_fixedPart : ∀ (fs : List (Fin 10)) {s t : State}, reserveSignals fs s = .ok t →
    t.core.fixedPart = s.core.fixedPart ∧ t.core.r.fixedPart = s.core.r.fixedPart ∧ t.mem = s.mem ∧ t.hist = s.hist ∧
      t.reads = s.reads
  | [], s, t, h => by cases h; exact ⟨rfl, rfl, rfl, rfl, rfl⟩
  | f :: fs, s, t, h => by
    unfold reserveSignals at h
    split at h
    · cases h
    · rename_i r hp
      obtain ⟨h1, h2, h3, h4, h5⟩ := reserveSignals_fixedPart fs h
      unfold Regs.tokReserve at hp
      split at hp
      · cases hp; exact ⟨h1, h2, h3, h4, h5⟩
      · cases hp

/-! ## Issue -/

/-- The issue of an instruction that nothing holds back. -/
theorem issue_ok {e : Engine} {n : Nat} {m : Marks} {body : State → Except Stop Done} {s t : State}
    (hb : shadowBars e m s = false) (h : issueRun e n m body s = .ok t) : issue e n m body s = .next t := by
  simp [issue, hb, h]

/-- The issue of an instruction that something holds back. -/
theorem issue_stop {e : Engine} {n : Nat} {m : Marks} {body : State → Except Stop Done} {s : State} {st : Stop}
    (hb : shadowBars e m s = false) (h : issueRun e n m body s = .error st) : issue e n m body s = stopped e st s := by
  simp [issue, hb, h]

/-- All that an issue can do. -/
theorem issue_cases (e : Engine) (n : Nat) (m : Marks) (body : State → Except Stop Done) (s : State) :
    (shadowBars e m s = true ∧ issue e n m body s = .next (doubleTrap 0x01 s)) ∨
      (∃ t, issueRun e n m body s = .ok t ∧ issue e n m body s = .next t) ∨
      ∃ st, issueRun e n m body s = .error st ∧ issue e n m body s = stopped e st s := by
  cases hb : shadowBars e m s
  · cases h : issueRun e n m body s with
    | ok t => exact .inr (.inl ⟨t, rfl, issue_ok hb h⟩)
    | error st => exact .inr (.inr ⟨st, rfl, issue_stop hb h⟩)
  · exact .inl ⟨rfl, by simp [issue, hb]⟩

/-- The parts of an issue that succeeds. -/
theorem issueRun_ok {e : Engine} {n : Nat} {m : Marks} {body : State → Except Stop Done} {s u v : State} {d : Done}
    (hg : gate e n s = .ok ()) (hp : popWaits e (waitList e m) (s.settle e) = .ok u)
    (hr : reserveSignals (signalList e m) u = .ok v) (hd : body v = .ok d) :
    issueRun e n m body s = .ok (retire e n d.skip d.jump (deliverSignals e (signalList e m) d)) := by
  simp [issueRun, bind, Except.bind, hg, hp, hr, hd]

/-- An engine that does not issue keeps everything but its WAIT code and the words that it had passed. -/
theorem stalled_fixedPart (e : Engine) (w : Wait) (s : State) :
    (stalled e w s).core.fixedPart = s.core.fixedPart ∧ (stalled e w s).core.r.fixedPart = s.core.r.fixedPart ∧
      (stalled e w s).mem = s.mem ∧ (stalled e w s).hist = s.hist ∧ (stalled e w s).reads = s.reads :=
  ⟨Core.fixedPart_modEng _ e _, Core.modEng_regs _ e _, rfl, rfl, rfl⟩

/-! ## Trap entry -/

/-- With nothing pending, no trap is taken. -/
theorem takeTrap_none (p : Nat) (s : State) (h : firstCause s.core.cr.pending = none) : takeTrap p s = s := by
  simp [takeTrap, h]

/-- A trap taken: its cause in the trap registers, the level of the pager, C in the shadow context at word 0. -/
theorem takeTrap_some (p : Nat) (s : State) (c : CauseRec) (h : firstCause s.core.cr.pending = some c) :
    let t := takeTrap p s
    t.core.cr.shd = true ∧ t.core.cr.trapPc = BitVec.ofNat 64 c.pc ∧ t.core.cr.trapWord = c.word ∧
      t.core.cr.trapAddr = c.addr ∧ t.core.cr.trapPos = c.pos ∧ t.core.cr.trapWalk = c.walk ∧
      t.core.cr.eretPc = BitVec.ofNat 64 (p % 2 ^ 15) ∧ t.core.cr.pending = dropCause c s.core.cr.pending ∧
      t.core.cr.sh.pc = 0 ∧ t.core.cr.sh.levels = [] ∧ t.core.r = s.core.r ∧ t.mem = s.mem := by
  simp only [takeTrap, h]
  split <;> exact ⟨rfl, rfl, rfl, rfl, rfl, rfl, rfl, rfl, rfl, rfl, rfl, rfl⟩

end Sys2Proof.Machine
end

