-- ==== Sys2Proof/Laws/Issue.lean ====
section
/-! SUPPORT. What it takes for an instruction to issue, and what it then gives: the lemmas over Admits and finish. -/

namespace Sys2Proof.Machine

open Sys2Proof

/-! ## What waits and signals leave alone -/

/-- An engine without its visible set. -/
def Eng.viewless (x : Eng) : Eng := { x with view := 0 }

/-- A core without its token FIFOs and its visible sets. -/
def Core.besideTok (c : Core) : Core :=
  { c with
    r := { c.r with
      tok := Regs.reset.tok, eC := c.r.eC.viewless, eA := c.r.eA.viewless, eM := c.r.eM.viewless, eV := c.r.eV.viewless
      eS := c.r.eS.viewless }
    cr := { c.cr with sh := c.cr.sh.viewless } }

theorem Core.besideTok_view (c : Core) (e : Engine) (v : View) :
    (c.modEng e fun x => { x with view := v }).besideTok = c.besideTok := by
  unfold Core.modEng Core.setEng Core.eng
  cases e <;> first | rfl | (cases hx : c.cr.shd <;> simp [hx, Core.besideTok, Eng.viewless])

theorem Core.besideTok_tok (c : Core) (x : Vector TokFifo 10) :
    ({ c with r := { c.r with tok := x } } : Core).besideTok = c.besideTok := rfl

/-- Parts of a core that the pops of waits and the reserves of signals keep. -/
theorem Core.besideTok_field {α : Type} {c k : Core} (g : Core → α) (h : k.besideTok = c.besideTok)
    (hg : ∀ x, g x = g x.besideTok) : g k = g c := by rw [hg k, hg c, h]

theorem popWaits_besideTok (e : Engine) : ∀ (fs : List (Fin 10)) {s t : State}, popWaits e fs s = .ok t →
    t.core.besideTok = s.core.besideTok ∧ ∃ c, t = { s with core := c }
  | [], s, t, h => by cases h; exact ⟨rfl, s.core, rfl⟩
  | f :: fs, s, t, h => by
    unfold popWaits at h
    split at h
    · cases h
    · rename_i v r hp
      obtain ⟨_, _, _, _, _, hr⟩ := Regs.tokPop_ok hp
      obtain ⟨h1, c, h2⟩ := popWaits_besideTok e fs h
      subst hr
      exact ⟨h1.trans (Core.besideTok_view _ e _), c, h2⟩

theorem reserveSignals_besideTok : ∀ (fs : List (Fin 10)) {s t : State}, reserveSignals fs s = .ok t →
    t.core.besideTok = s.core.besideTok ∧ ∃ c, t = { s with core := c }
  | [], s, t, h => by cases h; exact ⟨rfl, s.core, rfl⟩
  | f :: fs, s, t, h => by
    unfold reserveSignals at h
    split at h
    · cases h
    · rename_i r hp
      obtain ⟨h1, c, h2⟩ := reserveSignals_besideTok fs h
      unfold Regs.tokReserve at hp
      split at hp
      · cases hp; exact ⟨h1, c, h2⟩
      · cases hp

namespace Admits

variable {e : Engine} {n : Nat} {m : Marks} {s u : State}

/-- In the state in which an instruction acts, all but token FIFOs and visible sets is as after the landings. -/
theorem besideTok (h : Admits e n m s u) :
    u.core.besideTok = (s.settle e).core.besideTok ∧ ∃ c, u = { s with core := c } := by
  have he := h.enters
  cases hp : popWaits e (waitList e m) (s.settle e) with
  | error x => rw [hp] at he; cases he
  | ok v =>
    rw [hp] at he
    obtain ⟨h1, c1, hc1⟩ := popWaits_besideTok e _ hp
    obtain ⟨h2, c2, hc2⟩ := reserveSignals_besideTok _ he
    exact ⟨h2.trans h1, c2, by rw [hc2, hc1]; rfl⟩

theorem mem (h : Admits e n m s u) : u.mem = s.mem := by
  obtain ⟨_, c, rfl⟩ := h.besideTok; rfl
theorem hist (h : Admits e n m s u) : u.hist = s.hist := by
  obtain ⟨_, c, rfl⟩ := h.besideTok; rfl

/-- A part of the core that waits and signals keep. -/
theorem field {α : Type} (g : Core → α) (h : Admits e n m s u) (hg : ∀ x, g x = g x.besideTok) :
    g u.core = g (s.settle e).core := Core.besideTok_field g h.besideTok.1 hg

theorem inShadow (h : Admits e n m s u) : u.inShadow = s.inShadow :=
  (h.field (fun c => c.cr.shd) fun _ => rfl).trans (s.settle_inShadow e)

theorem sReg (h : Admits e n m s u) (r : Fin 32) : u.sReg r = (s.settle e).sReg r := by
  have h1 : u.core.cr.shd = (s.settle e).core.cr.shd := h.field (fun c => c.cr.shd) fun _ => rfl
  have h2 : u.core.cr.h = (s.settle e).core.cr.h := h.field (fun c => c.cr.h) fun _ => rfl
  have h3 : u.core.r.s = (s.settle e).core.r.s := h.field (fun c => c.r.s) fun _ => rfl
  simp only [State.sReg, State.inShadow, h1, h2, h3]
  rfl

theorem pcOf (h : Admits e n m s u) (e' : Engine) : u.pcOf e' = s.pcOf e' := by
  rw [← s.settle_pcOf e e']
  refine h.field (fun c => (c.eng e').pc) fun x => ?_
  unfold Core.eng
  cases e' <;> first | rfl | (cases hx : x.cr.shd <;> simp [hx, Core.besideTok, Eng.viewless])

theorem cwait (h : Admits e n m s u) : u.core.cwait = s.core.cwait :=
  (h.field (fun c => c.cwait) fun _ => rfl).trans
    (Core.fixedPart_field (fun k => k.cwait) (Core.fixedPart_settle s.core e) fun _ => rfl)

theorem lvl (h : Admits e n m s u) : u.core.cr.lvl = s.core.cr.lvl :=
  (h.field (fun c => c.cr.lvl) fun _ => rfl).trans (Core.settle_lvl s.core e)

end Admits

/-! ## Issue -/

theorem issueRun_admits {e : Engine} {n : Nat} {m : Marks} {body : State → Except Stop Done} {s u : State} {d : Done}
    (h : Admits e n m s u) (hd : body u = .ok d) :
    issueRun e n m body s = .ok (retire e n d.skip d.jump (deliverSignals e (signalList e m) d)) := by
  have he := h.enters
  cases hp : popWaits e (waitList e m) (s.settle e) with
  | error x => rw [hp] at he; cases he
  | ok v =>
    rw [hp] at he
    exact issueRun_ok h.gate hp he hd

/-- An instruction that nothing holds back and that acts issues. -/
theorem issue_admits {e : Engine} {n : Nat} {m : Marks} {body : State → Except Stop Done} {s u : State} {d : Done}
    (h : Admits e n m s u) (hd : body u = .ok d) :
    issue e n m body s = .next (retire e n d.skip d.jump (deliverSignals e (signalList e m) d)) :=
  issue_ok h.bars (issueRun_admits h hd)

theorem issueRun_admits_err {e : Engine} {n : Nat} {m : Marks} {body : State → Except Stop Done} {s u : State} {st : Stop}
    (h : Admits e n m s u) (hd : body u = .error st) : issueRun e n m body s = .error st := by
  have he := h.enters
  cases hp : popWaits e (waitList e m) (s.settle e) with
  | error x => rw [hp] at he; cases he
  | ok v =>
    rw [hp] at he
    replace he : reserveSignals (signalList e m) v = .ok u := he
    simp [issueRun, bind, Except.bind, h.gate, hp, he, hd]

/-- An instruction that nothing holds back and that stops itself stops so. -/
theorem issue_admits_err {e : Engine} {n : Nat} {m : Marks} {body : State → Except Stop Done} {s u : State} {st : Stop}
    (h : Admits e n m s u) (hd : body u = .error st) : issue e n m body s = stopped e st s :=
  issue_stop h.bars (issueRun_admits_err h hd)

theorem issueKernel_eq {e : Engine} {n : Nat} {m : Marks} {body : State → Except Stop Done} {s : State}
    (h : (e == .c && s.inShadow) = false) : issueKernel e n m body s = issue e n m body s := by
  simp [issueKernel, h]

/-! ## The checks of an access -/

theorem checkGen_high {s : State} {e : Engine} {va : Word} {n : Nat} (h : 2 ^ 55 ≤ va.toNat) :
    checkGen s e va n = .error (.trap (xCause s e va ⟨0x10, 0, false, false, 0⟩)) := by
  rw [checkGen, if_pos (by simp only [bne_iff_ne]; omega)]
theorem checkGen_odd {s : State} {e : Engine} {va : Word} {n : Nat} (h : va.toNat < 2 ^ 55) (h1 : va.toNat % n ≠ 0) :
    checkGen s e va n = .error (.trap { causeAt s e 0x13 0 with addr := va }) := by
  rw [checkGen, if_neg (by simp only [bne_iff_ne]; omega), if_pos (by simpa using h1)]
theorem checkGen_ok {s : State} {e : Engine} {va : Word} {n : Nat} (h : va.toNat < 2 ^ 55) (h1 : va.toNat % n = 0) :
    checkGen s e va n = .ok () := by
  rw [checkGen, if_neg (by simp only [bne_iff_ne]; omega), if_neg (by simpa using h1)]

/-- A store of C that all its checks let pass. -/
theorem storeC_ok {s t u : State} {va : Word} {n : Nat} {loc : PLoc} (h : va.toNat < 2 ^ 55) (h1 : va.toNat % n = 0)
    (ht : s.translate .c .c true va = .ok (loc, t)) (hs : s.sealedRange s.vf va.toNat loc n = false)
    (hw : t.okWrite .c (loc.pieces n) = .ok u) : storeC s va n = .ok (loc, u) := by
  simp [storeC, bind, Except.bind, checkGen_ok h h1, ht, hs, hw]

/-- A store of C to sealed bytes. -/
theorem storeC_sealed {s t : State} {va : Word} {n : Nat} {loc : PLoc} (h : va.toNat < 2 ^ 55) (h1 : va.toNat % n = 0)
    (ht : s.translate .c .c true va = .ok (loc, t)) (hs : s.sealedRange s.vf va.toNat loc n = true) :
    storeC s va n = .error (.trap { causeAt s .c 0x15 0 with addr := va }) := by
  simp [storeC, bind, Except.bind, checkGen_ok h h1, ht, hs]

/-! ## Branches -/

theorem Core.fixedPart_cancel (c : Core) (e : Engine) : (c.cancel e).fixedPart = c.fixedPart := by
  unfold Core.cancel
  refine (foldl_keeps Core.fixedPart _ (fun b p => ?_) _ _).trans (Core.fixedPart_modEng c e _)
  cases p.land.slotOf <;> rfl

theorem State.sendToks_fixedPart (s : State) (e : Engine) (fs : List (Fin 10)) :
    (s.sendToks e fs).core.fixedPart = s.core.fixedPart := by
  unfold State.sendToks
  dsimp only
  split
  · rfl
  · split
    · exact foldl_keeps (fun s : State => s.core.fixedPart) (fun s f => s.modR fun x => x.tokDeliver f (s.eng e).view)
        (fun _ _ => rfl) fs s
    · exact Core.fixedPart_modEng s.core e _

theorem State.dropIds_fixedPart (s : State) (e : Engine) (ids : List Nat) :
    (s.dropIds e ids).core.fixedPart = s.core.fixedPart :=
  (Core.fixedPart_retireMarks _ e).trans (Core.fixedPart_modEng s.core e _)

/-- A taken branch that cancels changes no more of a core than registers, marks and queues. -/
theorem State.cancel_fixedPart (s : State) (e : Engine) : (s.cancel e).core.fixedPart = s.core.fixedPart := by
  unfold State.cancel
  refine (State.dropIds_fixedPart _ e _).trans ((foldl_keeps (fun s : State => s.core.fixedPart) _ (fun b r => ?_) _ _).trans
    (Core.fixedPart_cancel s.core e))
  refine (State.sendToks_fixedPart _ e r.toks).trans ?_
  cases r.arr <;> rfl

/-- A branch that does not cancel what is in flight, or is not taken. -/
theorem branch_plain {e : Engine} {n : Nat} {m : Marks} {kill : Bool} {cond : State → Except Stop (Option Nat)}
    {eff : Bool → State → Except Stop State} {s u t : State} {c : Option Nat} (h : Admits e n m s u) (h1 : cond u = .ok c)
    (hf : fallsThrough e n c u = .ok ()) (h2 : eff c.isSome u = .ok t) (hk : kill = false ∨ (c = none ∧ ∀ x, cond (s.settle e) ≠ .ok (some x))) :
    issueBranch e n m kill cond eff s = .next (finish e n m 1 t 0 c) := by
  have hr := issueRun_admits (d := { st := t, jump := c })
    (body := fun t : State => (do let c ← cond t; fallsThrough e n c t; let t ← eff c.isSome t; .ok { st := t, jump := c } : Except Stop Done)) h
    (by simp [bind, Except.bind, h1, hf, h2])
  unfold issueBranch
  simp only [h.bars, hr]
  rcases hk with rfl | ⟨rfl, hk⟩
  · rfl
  · cases kill
    · rfl
    · cases hx : cond (s.settle e) with
      | error _ => rfl
      | ok y => cases y with
        | none => rfl
        | some y => exact absurd hx (hk y)

/-- A taken branch that cancels what is in flight. -/
theorem branch_kill {e : Engine} {n : Nat} {m : Marks} {cond : State → Except Stop (Option Nat)}
    {eff : Bool → State → Except Stop State} {s u v t t' : State} {x target : Nat} (h : Admits e n m s u)
    (h1 : cond u = .ok (some x)) (h2 : eff true u = .ok t) (hc : cond (s.settle e) = .ok (some target))
    (hv : Admits e n m (s.cancel e) v) (h3 : eff true v = .ok t') :
    issueBranch e n m true cond eff s = .next (finish e n m 1 t' 0 (some target)) := by
  have hr := issueRun_admits (d := { st := t, jump := some x })
    (body := fun t : State => (do let c ← cond t; fallsThrough e n c t; let t ← eff c.isSome t; .ok { st := t, jump := c } : Except Stop Done)) h
    (by simp [bind, Except.bind, h1, h2, fallsThrough])
  have hw := issueRun_admits hv (body := fun u => do let u ← eff true u; .ok { st := u, jump := some target })
    (d := { st := t', jump := some target }) (by simp [bind, Except.bind, h3])
  unfold issueBranch
  simp only [h.bars, hr, hc, hw]
  rfl

end Sys2Proof.Machine
end

