-- ==== Sys2Proof/Laws/Memory.lean ====
section
/-! SUPPORT. Memory: reads after writes, and the canonical form, which every operation keeps. -/

namespace Sys2Proof.Machine

open Sys2Proof

/-! ## The form, as a bound on the first address -/

/-- A list of cells in the form whose addresses are all at least k. -/
def Memory.wfFrom (k : Nat) : List Host.Cell → Bool
  | [] => true
  | (a, b) :: t => k ≤ a && b != unlisted && Memory.wfFrom (a + 1) t

theorem Memory.wfFrom_mono {j k : Nat} (h : j ≤ k) : ∀ {m : List Host.Cell}, wfFrom k m = true → wfFrom j m = true
  | [], _ => rfl
  | (a, b) :: t, hw => by
    simp only [wfFrom, Bool.and_eq_true, decide_eq_true_eq] at hw ⊢
    exact ⟨⟨by omega, hw.1.2⟩, hw.2⟩

theorem Memory.wf_eq_wfFrom : ∀ m : List Host.Cell, wf m = wfFrom 0 m
  | [] => rfl
  | [(a, b)] => by simp [wf, wfFrom]
  | (a, b) :: (a', b') :: t => by
    have ih := Memory.wf_eq_wfFrom ((a', b') :: t)
    simp only [wf, ih, wfFrom, Nat.zero_le, decide_true, Bool.true_and]
    by_cases h : a < a'
    · simp [h, Nat.succ_le_of_lt h]
    · simp [h, show ¬ a + 1 ≤ a' by omega]

theorem Memory.read_below {k : Nat} : ∀ {m : List Host.Cell} {j : Nat}, wfFrom j m = true → k < j → read m k = unlisted
  | [], _, _, _ => rfl
  | (a, b) :: t, j, hw, hk => by
    simp only [wfFrom, Bool.and_eq_true, decide_eq_true_eq] at hw
    have h1 : ¬ a = k := by omega
    have h2 : k < a := by omega
    simp [read, h1, h2]

/-! ## Writes -/

theorem Memory.write_wfFrom (k : Nat) (x : Byte) :
    ∀ {m : List Host.Cell} {j : Nat}, j ≤ k → wfFrom j m = true → wfFrom j (write m k x) = true
  | [], j, hj, _ => by
    by_cases hx : x = unlisted <;> simp [write, wfFrom, hx, hj]
  | (a, b) :: t, j, hj, hw => by
    simp only [wfFrom, Bool.and_eq_true, decide_eq_true_eq] at hw
    obtain ⟨⟨ha, hb⟩, ht⟩ := hw
    by_cases h1 : a = k
    · subst h1
      by_cases hx : x = unlisted
      · simpa [write, hx] using wfFrom_mono (by omega) ht
      · simp [write, hx, wfFrom, ha, ht]
    · by_cases h2 : k < a
      · by_cases hx : x = unlisted
        · simp [write, h1, h2, hx, wfFrom, ha, ht]; simpa using hb
        · simp [write, h1, h2, hx, wfFrom, hj, ht, Nat.succ_le_of_lt h2]; simpa using hb
      · have := write_wfFrom k x (j := a + 1) (by omega) ht
        simp [write, h1, h2, wfFrom, ha, this]; simpa using hb

/-- A write keeps the form. -/
theorem Memory.write_wf {m : List Host.Cell} (k : Nat) (x : Byte) (h : wf m = true) : wf (write m k x) = true := by
  rw [wf_eq_wfFrom] at h ⊢
  exact write_wfFrom k x (Nat.zero_le k) h

/-- A run of writes keeps the form. -/
theorem Memory.writeN_wf : ∀ (bs : List Byte) {m : List Host.Cell} (a : Nat), wf m = true → wf (writeN m a bs) = true
  | [], _, _, h => h
  | b :: bs, _, a, h => writeN_wf bs (a + 1) (write_wf a b h)

theorem Memory.read_write_from (k : Nat) (x : Byte) (i : Nat) :
    ∀ {m : List Host.Cell} {j : Nat}, wfFrom j m = true → read (write m k x) i = if i = k then x else read m i
  | [], _, _ => by
    by_cases hx : x = unlisted <;> by_cases hi : i = k
    · simp [write, hx, hi, read]
    · simp [write, hx, hi, read]
    · simp [write, hx, hi, read]
    · simp [write, hx, hi, read, Ne.symm hi]
  | (a, b) :: t, j, hw => by
    simp only [wfFrom, Bool.and_eq_true, decide_eq_true_eq] at hw
    obtain ⟨⟨ha, hb⟩, ht⟩ := hw
    by_cases h1 : a = k
    · subst h1
      by_cases hx : x = unlisted
      · by_cases hi : i = a
        · subst hi
          simp [write, hx, read_below ht (Nat.lt_succ_self i)]
        · simp only [write, hx, beq_self_eq_true, if_true, read, if_neg hi]
          rw [if_neg (by simpa using Ne.symm hi)]
          by_cases h2 : i < a
          · rw [if_pos h2, read_below ht (by omega)]
          · rw [if_neg h2]
      · by_cases hi : i = a
        · subst hi; simp [write, hx, read]
        · simp [write, hx, read, hi, Ne.symm hi]
    · by_cases h2 : k < a
      · by_cases hx : x = unlisted
        · simp only [write, h2, hx, beq_self_eq_true, if_true]
          rw [if_neg (by simpa using h1)]
          by_cases hi : i = k
          · subst hi; simp [read, h1, h2]
          · simp [hi]
        · simp only [write, h2, if_true]
          rw [if_neg (by simpa using h1), if_neg (by simpa using hx)]
          by_cases hi : i = k
          · subst hi; simp [read]
          · by_cases h3 : i < k
            · have h5 : ¬ k = i := by omega
              have h6 : ¬ a = i := by omega
              have h7 : i < a := by omega
              simp [read, hi, h3, h5, h6, h7]
            · have h5 : ¬ k = i := by omega
              simp [read, hi, h3, h5]
      · have ih := read_write_from k x i (m := t) ht
        simp only [write]
        rw [if_neg (by simpa using h1), if_neg h2]
        by_cases h3 : a = i
        · subst h3; simp [read, h1]
        · by_cases h4 : i < a
          · have h5 : ¬ i = k := by omega
            simp [read, h3, h4, h5]
          · simp [read, h3, h4, ih]

/-- A read after a write: the value written there, and elsewhere what was there. -/
theorem Memory.read_write {m : List Host.Cell} (k : Nat) (x : Byte) (i : Nat) (h : wf m = true) :
    read (write m k x) i = if i = k then x else read m i :=
  read_write_from k x i (j := 0) (by rwa [wf_eq_wfFrom] at h)

/-- A read after a run of writes. -/
theorem Memory.read_writeN : ∀ (bs : List Byte) {m : List Host.Cell} (a i : Nat), wf m = true →
    read (writeN m a bs) i = if a ≤ i ∧ i < a + bs.length then bs.getD (i - a) 0 else read m i
  | [], _, a, i, _ => by simp [writeN]
  | b :: bs, m, a, i, h => by
    rw [writeN, read_writeN bs (a + 1) i (write_wf a b h), read_write a b i h]
    by_cases h1 : i = a
    · subst h1
      simp
    · by_cases h2 : a + 1 ≤ i ∧ i < a + 1 + bs.length
      · rw [if_pos h2, if_pos (by simp; omega)]
        have : i - a = (i - (a + 1)) + 1 := by omega
        rw [this]; simp
      · rw [if_neg h2, if_neg h1, if_neg (by simp; omega)]

theorem Memory.readN_length (m : List Host.Cell) : ∀ (n a : Nat), (readN m a n).length = n
  | 0, _ => rfl
  | n + 1, a => by simp [readN, readN_length m n (a + 1)]

/-! ## Values and bytes -/

theorem valBytes_length : ∀ (n x : Nat), (valBytes x n).length = n
  | 0, _ => rfl
  | n + 1, x => by simp [valBytes, valBytes_length n (x / 256)]

/-- The bytes of a value give back its low bytes. -/
theorem bytesVal_valBytes : ∀ (n x : Nat), bytesVal (valBytes x n) = x % 256 ^ n
  | 0, x => by simp [valBytes, bytesVal, Nat.mod_one]
  | n + 1, x => by
    rw [valBytes, bytesVal, bytesVal_valBytes n, Nat.pow_succ, Nat.mul_comm (256 ^ n) 256, Nat.mod_mul]
    simp

/-! ## Pieces and writes of an engine -/

theorem writePiece_mem (s : State) (pa : Nat) (bs : List Byte) (loc : Loc) (rel : Option View) :
    (writePiece s pa bs loc rel).mem = Memory.writeN s.mem pa bs := rfl

theorem State.writeBy_mem (s : State) (e : Engine) (pa : Nat) (bs : List Byte) (loc : Loc) (rel : Option View) :
    (s.writeBy e pa bs loc rel).mem = Memory.writeN s.mem pa bs := rfl

/-- A write by an engine keeps the form of memory. -/
theorem State.writeBy_wf (s : State) (e : Engine) (pa : Nat) (bs : List Byte) (loc : Loc) (rel : Option View)
    (h : Memory.wf s.mem = true) : Memory.wf (s.writeBy e pa bs loc rel).mem = true := by
  rw [State.writeBy_mem]; exact Memory.writeN_wf bs pa h

end Sys2Proof.Machine
end

