-- ==== Sys2Proof/Laws/Platform.lean ====
section
/-! SUPPORT. What an update of the platform, of a port and of a ring, and a flit that leaves, leave alone, field by field. -/

namespace Sys2Proof.Machine

open Sys2Proof

/-! ## modPlat -/

@[simp] theorem State.modPlat_core (s : State) (f : Plat → Plat) : (s.modPlat f).core = s.core := rfl
@[simp] theorem State.modPlat_done (s : State) (f : Plat → Plat) : (s.modPlat f).done = s.done := rfl
@[simp] theorem State.modPlat_todo (s : State) (f : Plat → Plat) : (s.modPlat f).todo = s.todo := rfl
@[simp] theorem State.modPlat_turn (s : State) (f : Plat → Plat) : (s.modPlat f).turn = s.turn := rfl
@[simp] theorem State.modPlat_cycle (s : State) (f : Plat → Plat) : (s.modPlat f).cycle = s.cycle := rfl
@[simp] theorem State.modPlat_choice (s : State) (f : Plat → Plat) : (s.modPlat f).choice = s.choice := rfl
@[simp] theorem State.modPlat_nextId (s : State) (f : Plat → Plat) : (s.modPlat f).nextId = s.nextId := rfl
@[simp] theorem State.modPlat_mem (s : State) (f : Plat → Plat) : (s.modPlat f).mem = s.mem := rfl
@[simp] theorem State.modPlat_hist (s : State) (f : Plat → Plat) : (s.modPlat f).hist = s.hist := rfl
@[simp] theorem State.modPlat_base (s : State) (f : Plat → Plat) : (s.modPlat f).base = s.base := rfl
@[simp] theorem State.modPlat_binds (s : State) (f : Plat → Plat) : (s.modPlat f).binds = s.binds := rfl
@[simp] theorem State.modPlat_reads (s : State) (f : Plat → Plat) : (s.modPlat f).reads = s.reads := rfl
@[simp] theorem State.modPlat_walks (s : State) (f : Plat → Plat) : (s.modPlat f).walks = s.walks := rfl
@[simp] theorem State.modPlat_moves (s : State) (f : Plat → Plat) : (s.modPlat f).moves = s.moves := rfl
@[simp] theorem State.modPlat_vfs (s : State) (f : Plat → Plat) : (s.modPlat f).vfs = s.vfs := rfl
@[simp] theorem State.modPlat_vales (s : State) (f : Plat → Plat) : (s.modPlat f).vales = s.vales := rfl
@[simp] theorem State.modPlat_objs (s : State) (f : Plat → Plat) : (s.modPlat f).objs = s.objs := rfl
@[simp] theorem State.modPlat_outbox (s : State) (f : Plat → Plat) : (s.modPlat f).outbox = s.outbox := rfl
@[simp] theorem State.modPlat_updates (s : State) (f : Plat → Plat) : (s.modPlat f).updates = s.updates := rfl
@[simp] theorem State.modPlat_syncs (s : State) (f : Plat → Plat) : (s.modPlat f).syncs = s.syncs := rfl
@[simp] theorem State.modPlat_names (s : State) (f : Plat → Plat) : (s.modPlat f).names = s.names := rfl
@[simp] theorem State.modPlat_handles (s : State) (f : Plat → Plat) : (s.modPlat f).handles = s.handles := rfl
@[simp] theorem State.modPlat_staged (s : State) (f : Plat → Plat) : (s.modPlat f).staged = s.staged := rfl
@[simp] theorem State.modPlat_reclaims (s : State) (f : Plat → Plat) : (s.modPlat f).reclaims = s.reclaims := rfl
@[simp] theorem State.modPlat_exports (s : State) (f : Plat → Plat) : (s.modPlat f).exports = s.exports := rfl
@[simp] theorem State.modPlat_copies (s : State) (f : Plat → Plat) : (s.modPlat f).copies = s.copies := rfl
@[simp] theorem State.modPlat_alerts (s : State) (f : Plat → Plat) : (s.modPlat f).alerts = s.alerts := rfl
@[simp] theorem State.modPlat_seqs (s : State) (f : Plat → Plat) : (s.modPlat f).seqs = s.seqs := rfl
@[simp] theorem State.modPlat_flaws (s : State) (f : Plat → Plat) : (s.modPlat f).flaws = s.flaws := rfl
@[simp] theorem State.modPlat_bad (s : State) (f : Plat → Plat) : (s.modPlat f).bad = s.bad := rfl
@[simp] theorem State.modPlat_soft (s : State) (f : Plat → Plat) : (s.modPlat f).soft = s.soft := rfl
@[simp] theorem State.modPlat_fixed (s : State) (f : Plat → Plat) : (s.modPlat f).fixed = s.fixed := rfl
@[simp] theorem State.modPlat_timer (s : State) (f : Plat → Plat) : (s.modPlat f).timer = s.timer := rfl
@[simp] theorem State.modPlat_domains (s : State) (f : Plat → Plat) : (s.modPlat f).domains = s.domains := rfl
@[simp] theorem State.modPlat_ticks (s : State) (f : Plat → Plat) : (s.modPlat f).ticks = s.ticks := rfl
@[simp] theorem State.modPlat_bugles (s : State) (f : Plat → Plat) : (s.modPlat f).bugles = s.bugles := rfl
@[simp] theorem State.modPlat_cmds (s : State) (f : Plat → Plat) : (s.modPlat f).cmds = s.cmds := rfl
@[simp] theorem State.modPlat_colls (s : State) (f : Plat → Plat) : (s.modPlat f).colls = s.colls := rfl
@[simp] theorem State.modPlat_openws (s : State) (f : Plat → Plat) : (s.modPlat f).openws = s.openws := rfl
@[simp] theorem State.modPlat_voids (s : State) (f : Plat → Plat) : (s.modPlat f).voids = s.voids := rfl
@[simp] theorem State.modPlat_frees (s : State) (f : Plat → Plat) : (s.modPlat f).frees = s.frees := rfl
@[simp] theorem State.modPlat_hosts (s : State) (f : Plat → Plat) : (s.modPlat f).hosts = s.hosts := rfl
@[simp] theorem State.modPlat_ctl (s : State) (f : Plat → Plat) : (s.modPlat f).ctl = s.ctl := rfl
@[simp] theorem State.modPlat_disp (s : State) (f : Plat → Plat) : (s.modPlat f).disp = s.disp := rfl
@[simp] theorem State.modPlat_books (s : State) (f : Plat → Plat) : (s.modPlat f).books = s.books := rfl
@[simp] theorem State.modPlat_inputs (s : State) (f : Plat → Plat) : (s.modPlat f).inputs = s.inputs := rfl
@[simp] theorem State.modPlat_plat (s : State) (f : Plat → Plat) : (s.modPlat f).plat = f s.plat := rfl

/-! ## modLink -/

@[simp] theorem State.modLink_core (s : State) (port : Nat) (f : Link → Link) : (s.modLink port f).core = s.core := rfl
@[simp] theorem State.modLink_done (s : State) (port : Nat) (f : Link → Link) : (s.modLink port f).done = s.done := rfl
@[simp] theorem State.modLink_todo (s : State) (port : Nat) (f : Link → Link) : (s.modLink port f).todo = s.todo := rfl
@[simp] theorem State.modLink_turn (s : State) (port : Nat) (f : Link → Link) : (s.modLink port f).turn = s.turn := rfl
@[simp] theorem State.modLink_cycle (s : State) (port : Nat) (f : Link → Link) : (s.modLink port f).cycle = s.cycle := rfl
@[simp] theorem State.modLink_choice (s : State) (port : Nat) (f : Link → Link) : (s.modLink port f).choice = s.choice := rfl
@[simp] theorem State.modLink_nextId (s : State) (port : Nat) (f : Link → Link) : (s.modLink port f).nextId = s.nextId := rfl
@[simp] theorem State.modLink_mem (s : State) (port : Nat) (f : Link → Link) : (s.modLink port f).mem = s.mem := rfl
@[simp] theorem State.modLink_hist (s : State) (port : Nat) (f : Link → Link) : (s.modLink port f).hist = s.hist := rfl
@[simp] theorem State.modLink_base (s : State) (port : Nat) (f : Link → Link) : (s.modLink port f).base = s.base := rfl
@[simp] theorem State.modLink_binds (s : State) (port : Nat) (f : Link → Link) : (s.modLink port f).binds = s.binds := rfl
@[simp] theorem State.modLink_reads (s : State) (port : Nat) (f : Link → Link) : (s.modLink port f).reads = s.reads := rfl
@[simp] theorem State.modLink_walks (s : State) (port : Nat) (f : Link → Link) : (s.modLink port f).walks = s.walks := rfl
@[simp] theorem State.modLink_moves (s : State) (port : Nat) (f : Link → Link) : (s.modLink port f).moves = s.moves := rfl
@[simp] theorem State.modLink_vfs (s : State) (port : Nat) (f : Link → Link) : (s.modLink port f).vfs = s.vfs := rfl
@[simp] theorem State.modLink_vales (s : State) (port : Nat) (f : Link → Link) : (s.modLink port f).vales = s.vales := rfl
@[simp] theorem State.modLink_objs (s : State) (port : Nat) (f : Link → Link) : (s.modLink port f).objs = s.objs := rfl
@[simp] theorem State.modLink_outbox (s : State) (port : Nat) (f : Link → Link) : (s.modLink port f).outbox = s.outbox := rfl
@[simp] theorem State.modLink_updates (s : State) (port : Nat) (f : Link → Link) : (s.modLink port f).updates = s.updates := rfl
@[simp] theorem State.modLink_syncs (s : State) (port : Nat) (f : Link → Link) : (s.modLink port f).syncs = s.syncs := rfl
@[simp] theorem State.modLink_names (s : State) (port : Nat) (f : Link → Link) : (s.modLink port f).names = s.names := rfl
@[simp] theorem State.modLink_handles (s : State) (port : Nat) (f : Link → Link) : (s.modLink port f).handles = s.handles := rfl
@[simp] theorem State.modLink_staged (s : State) (port : Nat) (f : Link → Link) : (s.modLink port f).staged = s.staged := rfl
@[simp] theorem State.modLink_reclaims (s : State) (port : Nat) (f : Link → Link) : (s.modLink port f).reclaims = s.reclaims := rfl
@[simp] theorem State.modLink_exports (s : State) (port : Nat) (f : Link → Link) : (s.modLink port f).exports = s.exports := rfl
@[simp] theorem State.modLink_copies (s : State) (port : Nat) (f : Link → Link) : (s.modLink port f).copies = s.copies := rfl
@[simp] theorem State.modLink_alerts (s : State) (port : Nat) (f : Link → Link) : (s.modLink port f).alerts = s.alerts := rfl
@[simp] theorem State.modLink_seqs (s : State) (port : Nat) (f : Link → Link) : (s.modLink port f).seqs = s.seqs := rfl
@[simp] theorem State.modLink_flaws (s : State) (port : Nat) (f : Link → Link) : (s.modLink port f).flaws = s.flaws := rfl
@[simp] theorem State.modLink_bad (s : State) (port : Nat) (f : Link → Link) : (s.modLink port f).bad = s.bad := rfl
@[simp] theorem State.modLink_soft (s : State) (port : Nat) (f : Link → Link) : (s.modLink port f).soft = s.soft := rfl
@[simp] theorem State.modLink_fixed (s : State) (port : Nat) (f : Link → Link) : (s.modLink port f).fixed = s.fixed := rfl
@[simp] theorem State.modLink_timer (s : State) (port : Nat) (f : Link → Link) : (s.modLink port f).timer = s.timer := rfl
@[simp] theorem State.modLink_domains (s : State) (port : Nat) (f : Link → Link) : (s.modLink port f).domains = s.domains := rfl
@[simp] theorem State.modLink_ticks (s : State) (port : Nat) (f : Link → Link) : (s.modLink port f).ticks = s.ticks := rfl
@[simp] theorem State.modLink_bugles (s : State) (port : Nat) (f : Link → Link) : (s.modLink port f).bugles = s.bugles := rfl
@[simp] theorem State.modLink_cmds (s : State) (port : Nat) (f : Link → Link) : (s.modLink port f).cmds = s.cmds := rfl
@[simp] theorem State.modLink_colls (s : State) (port : Nat) (f : Link → Link) : (s.modLink port f).colls = s.colls := rfl
@[simp] theorem State.modLink_openws (s : State) (port : Nat) (f : Link → Link) : (s.modLink port f).openws = s.openws := rfl
@[simp] theorem State.modLink_voids (s : State) (port : Nat) (f : Link → Link) : (s.modLink port f).voids = s.voids := rfl
@[simp] theorem State.modLink_frees (s : State) (port : Nat) (f : Link → Link) : (s.modLink port f).frees = s.frees := rfl
@[simp] theorem State.modLink_hosts (s : State) (port : Nat) (f : Link → Link) : (s.modLink port f).hosts = s.hosts := rfl
@[simp] theorem State.modLink_ctl (s : State) (port : Nat) (f : Link → Link) : (s.modLink port f).ctl = s.ctl := rfl
@[simp] theorem State.modLink_disp (s : State) (port : Nat) (f : Link → Link) : (s.modLink port f).disp = s.disp := rfl
@[simp] theorem State.modLink_books (s : State) (port : Nat) (f : Link → Link) : (s.modLink port f).books = s.books := rfl
@[simp] theorem State.modLink_inputs (s : State) (port : Nat) (f : Link → Link) : (s.modLink port f).inputs = s.inputs := rfl
@[simp] theorem State.modLink_links (s : State) (port : Nat) (f : Link → Link) :
    (s.modLink port f).plat.links = vmod s.plat.links .reset port f := rfl

/-! ## sendFlit -/

@[simp] theorem State.sendFlit_core (s : State) (port cls : Nat) (body : Sent) : (s.sendFlit port cls body).core = s.core := rfl
@[simp] theorem State.sendFlit_done (s : State) (port cls : Nat) (body : Sent) : (s.sendFlit port cls body).done = s.done := rfl
@[simp] theorem State.sendFlit_todo (s : State) (port cls : Nat) (body : Sent) : (s.sendFlit port cls body).todo = s.todo := rfl
@[simp] theorem State.sendFlit_turn (s : State) (port cls : Nat) (body : Sent) : (s.sendFlit port cls body).turn = s.turn := rfl
@[simp] theorem State.sendFlit_cycle (s : State) (port cls : Nat) (body : Sent) : (s.sendFlit port cls body).cycle = s.cycle := rfl
@[simp] theorem State.sendFlit_choice (s : State) (port cls : Nat) (body : Sent) : (s.sendFlit port cls body).choice = s.choice := rfl
@[simp] theorem State.sendFlit_nextId (s : State) (port cls : Nat) (body : Sent) : (s.sendFlit port cls body).nextId = s.nextId := rfl
@[simp] theorem State.sendFlit_mem (s : State) (port cls : Nat) (body : Sent) : (s.sendFlit port cls body).mem = s.mem := rfl
@[simp] theorem State.sendFlit_hist (s : State) (port cls : Nat) (body : Sent) : (s.sendFlit port cls body).hist = s.hist := rfl
@[simp] theorem State.sendFlit_base (s : State) (port cls : Nat) (body : Sent) : (s.sendFlit port cls body).base = s.base := rfl
@[simp] theorem State.sendFlit_binds (s : State) (port cls : Nat) (body : Sent) : (s.sendFlit port cls body).binds = s.binds := rfl
@[simp] theorem State.sendFlit_reads (s : State) (port cls : Nat) (body : Sent) : (s.sendFlit port cls body).reads = s.reads := rfl
@[simp] theorem State.sendFlit_walks (s : State) (port cls : Nat) (body : Sent) : (s.sendFlit port cls body).walks = s.walks := rfl
@[simp] theorem State.sendFlit_moves (s : State) (port cls : Nat) (body : Sent) : (s.sendFlit port cls body).moves = s.moves := rfl
@[simp] theorem State.sendFlit_vfs (s : State) (port cls : Nat) (body : Sent) : (s.sendFlit port cls body).vfs = s.vfs := rfl
@[simp] theorem State.sendFlit_vales (s : State) (port cls : Nat) (body : Sent) : (s.sendFlit port cls body).vales = s.vales := rfl
@[simp] theorem State.sendFlit_objs (s : State) (port cls : Nat) (body : Sent) : (s.sendFlit port cls body).objs = s.objs := rfl
@[simp] theorem State.sendFlit_outbox (s : State) (port cls : Nat) (body : Sent) : (s.sendFlit port cls body).outbox = s.outbox := rfl
@[simp] theorem State.sendFlit_updates (s : State) (port cls : Nat) (body : Sent) : (s.sendFlit port cls body).updates = s.updates := rfl
@[simp] theorem State.sendFlit_syncs (s : State) (port cls : Nat) (body : Sent) : (s.sendFlit port cls body).syncs = s.syncs := rfl
@[simp] theorem State.sendFlit_names (s : State) (port cls : Nat) (body : Sent) : (s.sendFlit port cls body).names = s.names := rfl
@[simp] theorem State.sendFlit_handles (s : State) (port cls : Nat) (body : Sent) : (s.sendFlit port cls body).handles = s.handles := rfl
@[simp] theorem State.sendFlit_staged (s : State) (port cls : Nat) (body : Sent) : (s.sendFlit port cls body).staged = s.staged := rfl
@[simp] theorem State.sendFlit_reclaims (s : State) (port cls : Nat) (body : Sent) : (s.sendFlit port cls body).reclaims = s.reclaims := rfl
@[simp] theorem State.sendFlit_exports (s : State) (port cls : Nat) (body : Sent) : (s.sendFlit port cls body).exports = s.exports := rfl
@[simp] theorem State.sendFlit_copies (s : State) (port cls : Nat) (body : Sent) : (s.sendFlit port cls body).copies = s.copies := rfl
@[simp] theorem State.sendFlit_alerts (s : State) (port cls : Nat) (body : Sent) : (s.sendFlit port cls body).alerts = s.alerts := rfl
@[simp] theorem State.sendFlit_seqs (s : State) (port cls : Nat) (body : Sent) : (s.sendFlit port cls body).seqs = s.seqs := rfl
@[simp] theorem State.sendFlit_flaws (s : State) (port cls : Nat) (body : Sent) : (s.sendFlit port cls body).flaws = s.flaws := rfl
@[simp] theorem State.sendFlit_bad (s : State) (port cls : Nat) (body : Sent) : (s.sendFlit port cls body).bad = s.bad := rfl
@[simp] theorem State.sendFlit_soft (s : State) (port cls : Nat) (body : Sent) : (s.sendFlit port cls body).soft = s.soft := rfl
@[simp] theorem State.sendFlit_fixed (s : State) (port cls : Nat) (body : Sent) : (s.sendFlit port cls body).fixed = s.fixed := rfl
@[simp] theorem State.sendFlit_timer (s : State) (port cls : Nat) (body : Sent) : (s.sendFlit port cls body).timer = s.timer := rfl
@[simp] theorem State.sendFlit_domains (s : State) (port cls : Nat) (body : Sent) : (s.sendFlit port cls body).domains = s.domains := rfl
@[simp] theorem State.sendFlit_ticks (s : State) (port cls : Nat) (body : Sent) : (s.sendFlit port cls body).ticks = s.ticks := rfl
@[simp] theorem State.sendFlit_bugles (s : State) (port cls : Nat) (body : Sent) : (s.sendFlit port cls body).bugles = s.bugles := rfl
@[simp] theorem State.sendFlit_cmds (s : State) (port cls : Nat) (body : Sent) : (s.sendFlit port cls body).cmds = s.cmds := rfl
@[simp] theorem State.sendFlit_colls (s : State) (port cls : Nat) (body : Sent) : (s.sendFlit port cls body).colls = s.colls := rfl
@[simp] theorem State.sendFlit_openws (s : State) (port cls : Nat) (body : Sent) : (s.sendFlit port cls body).openws = s.openws := rfl
@[simp] theorem State.sendFlit_voids (s : State) (port cls : Nat) (body : Sent) : (s.sendFlit port cls body).voids = s.voids := rfl
@[simp] theorem State.sendFlit_frees (s : State) (port cls : Nat) (body : Sent) : (s.sendFlit port cls body).frees = s.frees := rfl
@[simp] theorem State.sendFlit_hosts (s : State) (port cls : Nat) (body : Sent) : (s.sendFlit port cls body).hosts = s.hosts := rfl
@[simp] theorem State.sendFlit_ctl (s : State) (port cls : Nat) (body : Sent) : (s.sendFlit port cls body).ctl = s.ctl := rfl
@[simp] theorem State.sendFlit_disp (s : State) (port cls : Nat) (body : Sent) : (s.sendFlit port cls body).disp = s.disp := rfl
@[simp] theorem State.sendFlit_books (s : State) (port cls : Nat) (body : Sent) : (s.sendFlit port cls body).books = s.books := rfl
@[simp] theorem State.sendFlit_inputs (s : State) (port cls : Nat) (body : Sent) : (s.sendFlit port cls body).inputs = s.inputs := rfl

end Sys2Proof.Machine
end

