-- ==== Sys2Proof/Tests/Slice0.lean ====
section
/-! SUPPORT. Tests: ill-formed terms, words written out from the encoding tables, single steps, and for each statement a state
and operands that meet its hypotheses. -/

namespace Sys2Proof.Tests

open Sys2Proof Sys2Proof.Machine

set_option maxRecDepth 100000
set_option exponentiation.threshold 20000

/-! ## Ill-formed terms: each check of `Instr.wf` and of a payload refuses one -/

def pay (ty : Fmt) (ops : BitVec 13) : VPay := ⟨ops, false, false, 0, ty⟩

/-- 05 R168: a loop body of no word; a BCQ of C. -/
theorem test_wf_common : (Instr.loop .none (.c 1) 0).wf = false ∧ (Instr.loopi .none .a (.short 3) 0).wf = false ∧
    (Instr.bcq .none .c false false 4).wf = false := by decide

/-- 06 R215, R217, R222, R224; 13 R397, R413, R416, R417, R420: the limits of C's operands. -/
theorem test_wf_c : (Instr.cbc .none 0 1).wf = false ∧ (Instr.sendv .none 0 1).wf = false ∧
    (Instr.xpush .none 0 4 0).wf = false ∧ (Instr.xpush .none 0 4 17).wf = false ∧ (Instr.xpush .none 0 20 13).wf = false ∧
    (Instr.launch .none 1 25).wf = false ∧ (Instr.cyc .none false 1 6).wf = false ∧ (Instr.crr .none 1 0x007).wf = false ∧
    (Instr.crw .none 1 0x0DA).wf = false ∧ (Instr.tlbi .none 1 (some 3)).wf = false ∧
    (Instr.snapwr .none false 1 31).wf = false ∧ (Instr.wpset .none false 0 31).wf = false := by decide

/-- 07 R249, R250, R252, R261 to R263, R254: types and OPS bits that an entry of V does not accept. -/
theorem test_wf_v_types : (Instr.vadd .none (.v 0) (.v 1) (.v 2) (some (pay .i32 0))).wf = false ∧
    (Instr.vmax .none (.v 0) (.v 1) (.v 2) (some (pay (.b8 false false 3) 0))).wf = false ∧
    (Instr.viadd .none (.v 0) (.v 1) (.v 2) (some (pay .i32 2))).wf = false ∧
    (Instr.vimul .none (.v 0) (.v 1) (.v 2) (some (pay .f32 0))).wf = false ∧
    (Instr.vexp .none (.v 0) (.v 1) (some (pay .bf16 0))).wf = false ∧
    (Instr.vdot4 .none 0 (.v 1) (.v 2) (some (pay .i32 0))).wf = false ∧
    (Instr.vround .none (.v 0) (.v 1) (some (pay .f32 4))).wf = false ∧
    (Instr.vsel .none (.v 0) (.v 1) (.v 2) (some (pay .f32 8))).wf = false ∧
    (Instr.vcmp .none 1 (.v 1) (.v 2) (some (pay .f32 8))).wf = false ∧
    (Instr.vcmp .none 1 (.v 1) (.v 2) (some (pay .i32 16))).wf = false := by decide

/-- 07 R253, R255, R256, R258, R264, R266 to R268; 05 R166: the limits of conversions, lanes, constants and masks. -/
theorem test_wf_v_limits : (Instr.vcvt .none (.v 0) (.v 1) (some (pay .f32 0x43))).wf = true ∧
    (Instr.vcvt .none (.v 0) (.v 1) (some (pay .f32 5))).wf = false ∧
    (Instr.vcvt .none (.v 0) (.v 1) (some (pay .f32 0x40))).wf = false ∧
    (Instr.vcvt .none (.v 0) (.v 1) (some (pay .f32 0x200))).wf = false ∧
    (Instr.vqnt .none .discard 1 (some (pay .i8 5))).wf = false ∧ (Instr.vqnt .none (.v 5) 1 (some (pay .i8 5))).wf = false ∧
    (Instr.vqnt .none (.v 4) 1 (some (pay .i8 48))).wf = false ∧ (Instr.vdqn .none 1 (.v 1) (some (pay .f32 5))).wf = false ∧
    (Instr.vbc .none (.v 0) (.v 1) (some (pay .f32 64))).wf = false ∧
    (Instr.vslide .none (.v 0) (.v 1) (.v 2) (some (pay .f32 65))).wf = false ∧
    (Instr.vxtr .none 0 (.v 1) (some ⟨0, false, false, 1, .f32⟩)).wf = false ∧
    (Instr.vlid .none (.v 0) (pay .i8 0x100)).wf = false ∧ (Instr.ksetImm .none 1 257).wf = false ∧
    (Instr.vadd .none (.v 0) (.v 1) (.v 2) (some ⟨0, true, false, 0, .f32⟩)).wf = false ∧
    (Instr.vadd .none (.v 0) (.v 1) (.v 2) (some ⟨0, false, true, 0, .f32⟩)).wf = false := by decide

/-- 05 R148, R162; 08 R290, R305, R310, R316: the row ranges and sources of M. -/
theorem test_wf_m : (Instr.mma .none true 3 (.num 509) .pbuf .zero).wf = false ∧
    (Instr.mma .none false 0 (.num 0) .pbuf .zero).wf = false ∧ (Instr.mma .none true 3 (.num 5) .pbuf (.e 1)).wf = false ∧
    (Instr.mmas .none true 3 (.num 5) .pbuf (.pair 0)).wf = false ∧ (Instr.mzero .none true (.num 6) (.num 5) false).wf = false ∧
    (Instr.msmx .none true 3 (.num 0) (.num 510)).wf = false ∧ (Instr.msmn .none true 3 (.num 511)).wf = false ∧
    (Instr.msmg .none false 1 (.e 0) (.e 1)).wf = false ∧ (Instr.mepi .none true 1 (.num 511) true false).wf = false ∧
    (Instr.mmov .none true 1 (.fromV (.num 4) 0)).wf = false ∧ (Instr.mmova .none false (.read 0 (.num 4)) 0).wf = false ∧
    (Instr.mfmt .none false 0 17).wf = false := by decide

/-- 07 R273: operations 6 and 7, and an FT beside max and min. -/
theorem test_wf_s : (Instr.saeq .none 0 0 (some ⟨6, false⟩)).wf = false ∧
    (Instr.saeq .none 0 0 (some ⟨1, true⟩)).wf = false ∧ (Instr.saeq .none 0 0 (some ⟨2, true⟩)).wf = true := by decide

/-! ## Words written out field by field (05 R142, R145, R157 to R182) -/

/-- A word of R142: its marks, ENG, X, opcode, D, A and B. -/
def w1 (marks : BitVec 4) (eng : BitVec 3) (x : BitVec 1) (op d a b : BitVec 6) : IWord := marks ++ eng ++ x ++ op ++ d ++ a ++ b
/-- An extension word of R145: SP and SN, ENG, E. -/
def w2 (sig : BitVec 2) (eng : BitVec 3) (e : BitVec 24) : IWord := 0#2 ++ sig ++ eng ++ 0#1 ++ e

/-- 05 R168, R170: the common block, an engine each. -/
theorem test_decode_common :
    decode (w1 0b1001 0b010 0 0x00 0 0 0) 0 = .ok (.nop ⟨true, false, false, true⟩ .v) ∧
    decode (w1 0 0b001 0 0x01 0b000011 16 0b000101) 0 = .ok (.loop .none (.a (.p 0)) 0b000011000101) ∧
    decode (w1 0 0b100 1 0x02 0 0 9) (w2 0 0b100 0x12345) = .ok (.loopi .none .s (.long 0x12345) 9) ∧
    decode (w1 0 0b011 0 0x03 0b101111 0b111111 0b111110) 0 = .ok (.br .none .m true (-2)) ∧
    decode (w1 0 0b001 0 0x04 0b010000 0b000001 0b000011) 0 = .ok (.bcq .none .a false true 67) ∧
    decode (w1 0 0b000 0 0x05 0b001111 0b000011 0b111111) 0 = .ok (.fset .none .c 15 255) ∧
    decode (w1 0 0b010 0 0x06 0b000001 0 1) 0 = .ok (.fwait .none .v 1 1) ∧
    decode (w1 0 0b000 0 0x08 0 0 0) 0 = .ok (.halt .none .c) ∧
    decode (w1 0 0b011 0 0x09 0 0 31) 0 = .ok (.breath .none .m 31) ∧
    decode (w1 0 0b100 0 0x0A 0 9 0) 0 = .ok (.qclr .none (.sSq 1)) ∧
    decode (w1 0 0b011 0 0x0B 26 0 0) 0 = .ok (.recv .none (.m 2)) ∧
    decode (w1 0 0b010 0 0x0C 47 3 0) 0 = .ok (.lcrd .none (.v 47) 3) := by decide

/-- 05 R172 to R176: C. -/
theorem test_decode_c :
    decode (w1 0 0 0 0x1E 31 30 29) 0 = .ok (.sra .none 31 30 (.reg 29)) ∧
    decode (w1 0 0 1 0x27 1 2 0) (w2 0b01 0 0x800000) = .ok (.addq ⟨false, false, false, true⟩ 1 2 (.imm 0x800000)) ∧
    decode (w1 0 0 0 0x28 3 0b111111 0b000001) 0 = .ok (.li .none 3 (.short 0xFC1)) ∧
    decode (w1 0 0 1 0x30 1 0 0) (w2 0 0 0x020007) = .ok (.jal .none 1 true 7) ∧
    decode (w1 0 0 0 0x31 1 2 1) 0 = .ok (.jalr .none 1 2 true) ∧
    decode (w1 0 0 1 0x32 4 5 0) (w2 0 0 0xA00010) = .ok (.ld .none 4 5 (some ⟨0x10, true, 2⟩)) ∧
    decode (w1 0 0 0 0x33 0 6 7) 0 = .ok (.st .none 6 7 none) ∧
    decode (w1 0 0 0 0x36 0b001010 9 0) 0 = .ok (.cbc .none 0b1010 9) ∧
    decode (w1 0 0 0 0x38 2 8 16) 0 = .ok (.xpush .none 2 8 16) ∧
    decode (w1 0 0 0 0x3D 1 24 0) 0 = .ok (.launch .none 1 24) := by decide

/-- 05 R175; 06 R223 to R226; 09 R346, R356; 13 R413: the groups. -/
theorem test_decode_groups :
    decode (w1 0 0 0 0x3B 1 2 4) 0 = .ok (.seal .none false 1 2) ∧ decode (w1 0 0 0 0x3C 0 2 1) 0 = .ok (.srel .none false 2) ∧
    decode (w1 0 0 0 0x3E 1 5 1) 0 = .ok (.cyc .none false 1 5) ∧ decode (w1 0 0 0 0x3F 0b000001 0b000010 0) 0 = .ok (.trap .none false 66) ∧
    decode (w1 0 0 0 0x3F 1 0 1) 0 = .ok (.eret .none false true) ∧ decode (w1 0 0 0 0x3F 1 2 9) 0 = .ok (.preempt .none false 1 2) ∧
    decode (w1 0 0 0 0x3B 0 0 9) 0 = .error 3 ∧ decode (w1 0 0 0 0x3C 0 0 10) 0 = .error 3 ∧
    decode (w1 0 0 0 0x3E 0 0 4) 0 = .error 3 ∧ decode (w1 0 0 0 0x3F 0 0 12) 0 = .error 3 := by decide

/-- 05 R158, R177: A. -/
theorem test_decode_a :
    decode (w1 0 0b001 1 0x10 15 31 0) (w2 0 0b001 0xFFFFFF) = .ok (.aadd .none 15 (.p 15) (.imm 0xFFFFFF)) ∧
    decode (w1 0 0b001 0 0x1A 51 3 0) 0 = .ok (.ldq .none 3 (.a 3) none) ∧
    decode (w1 0 0b001 1 0x23 0 1 17) (w2 0 0b001 0x01FFFC) = .ok (.abne .none (.a 1) (.p 1) false true 0xFFFC) ∧
    decode (w1 0 0b001 0 0x1A 47 3 0) 0 = .error 4 ∧ decode (w1 0 0b001 0 0x25 0 0 0) 0 = .error 3 := by decide

/-- 05 R159, R164, R178, R179: V. -/
theorem test_decode_v :
    decode (w1 0 0b010 0 0x15 49 53 54) 0 = .ok (.vmax .none (.mq 0) .lane .iq none) ∧
    decode (w1 0 0b010 1 0x27 0 1 2) (w2 0 0b010 0b000011_101_1_0_0000000000001) =
      .ok (.viadd .none (.v 0) (.v 1) (.v 2) (some ⟨1, false, true, 5, .i8⟩)) ∧
    decode (w1 0 0b010 0 0x37 3 2 0b001001) 0 = .ok (.kor .none false 3 2 1) ∧
    decode (w1 0 0b010 0 0x10 51 0 0) 0 = .error 4 ∧ decode (w1 0 0b010 0 0x3C 0 0 0) 0 = .error 3 := by decide

/-- 05 R148, R162, R180: M. -/
theorem test_decode_m :
    decode (w1 0 0b011 1 0x14 36 28 0) (w2 0 0b011 0b000011_000000000_000000111) =
      .ok (.mma .none true 3 (.num 7) .pbuf .zero) ∧
    decode (w1 0 0b011 0 0x11 0 0 0) 0 = .ok (.mrel .none) ∧ decode (w1 0 0b011 0 0x1F 24 0 0) 0 = .ok (.mstat .none 0) ∧
    decode (w1 0 0b011 0 0x20 0 0 0) 0 = .error 3 := by decide

/-- 05 R163, R181: S. -/
theorem test_decode_s :
    decode (w1 0 0b100 0 0x11 0 9 10) 0 = .ok (.stql .none 1) ∧ decode (w1 0 0b100 0 0x13 0 0 0) 0 = .ok (.sfence .none) ∧
    decode (w1 0 0b100 0 0x12 8 9 10) 0 = .ok (.saeq .none 0 1 none) ∧ decode (w1 0 0b100 0 0x15 0 0 0) 0 = .error 3 := by decide

/-! ## Single steps: expected results from the rules -/

/-- A step answers a next state with a property. -/
def next (o : Host.Outcome State Fault Refusal) (p : State → Bool) : Bool :=
  match o with
  | .next t => p t
  | _ => false

/-- A core whose engine e stands at word 0 of a text of NOPs. -/
def at0 (e : Engine) : State := State.reset.loadText e []

def withS (xs : List (Fin 32 × Word)) (s : State) : State :=
  s.modR fun r => { r with s := xs.foldl (fun (v : Vector Word 32) x => v.set x.1 x.2) r.s }
def withA (xs : List (Fin 16 × Word)) (s : State) : State :=
  s.modR fun r => { r with a := xs.foldl (fun (v : Vector Word 16) x => v.set x.1 x.2) r.a }
def withV (xs : List (Fin 48 × Block)) (s : State) : State :=
  s.modR fun r => { r with v := xs.foldl (fun (v : Vector Block 48) x => v.set x.1 x.2) r.v }

/-- C with s1 = a and s2 = b. -/
def c2 (a b : Word) : State := withS [(1, a), (2, b)] (at0 .c)
/-- sD after one operation on s1 and s2, with s3 = 7 before it: at once, and the operation's cycles left. -/
def s3 (o : Host.Outcome State Fault Refusal) (x : Word) : Bool := next o fun t => t.core.r.s[3] == x
def in3 (o : Host.Outcome State Fault Refusal) (rem : Nat) (x : Word) : Bool :=
  next o fun t => t.core.r.s[3] == 0 && t.core.r.eC.pend == [⟨rem, .s 3 x, 0⟩] && t.core.r.eC.pc == 1

/-- 06 R204: additions wrap or saturate, subtraction borrows. -/
theorem test_add_sub : s3 (exec (.add .none 3 1 (.reg 2)) (c2 (-1) 2)) 1 = true ∧
    s3 (exec (.sub .none 3 1 (.reg 2)) (c2 1 2)) (-1) = true ∧
    s3 (exec (.addq .none 3 1 (.reg 2)) (c2 0x7FFFFFFFFFFFFFFF 1)) 0x7FFFFFFFFFFFFFFF = true ∧
    s3 (exec (.addq .none 3 1 (.imm 0xFFFFFF)) (c2 0x8000000000000000 0)) 0x8000000000000000 = true := by decide

/-- 06 R204: products, which land three cycles on. -/
theorem test_mul : in3 (exec (.mul .none 3 1 (.reg 2)) (c2 (-1) (-1))) 2 1 = true ∧
    in3 (exec (.mulh .none 3 1 (.reg 2)) (c2 (-1) 1)) 2 (-1) = true ∧
    in3 (exec (.mulhu .none 3 1 (.reg 2)) (c2 (-1) (-1))) 2 0xFFFFFFFFFFFFFFFE = true := by decide

/-- 06 R204, R205: quotients truncate toward zero; division by zero and the one that overflows. -/
theorem test_div : in3 (exec (.div .none 3 1 (.reg 2)) (c2 (-7) 2)) 11 (-3) = true ∧
    in3 (exec (.div .none 3 1 (.reg 2)) (c2 5 0)) 11 (-1) = true ∧
    in3 (exec (.div .none 3 1 (.reg 2)) (c2 0x8000000000000000 (-1))) 11 0x8000000000000000 = true ∧
    in3 (exec (.divu .none 3 1 (.reg 2)) (c2 (-1) 2)) 11 0x7FFFFFFFFFFFFFFF = true := by decide
theorem test_rem : in3 (exec (.rem .none 3 1 (.reg 2)) (c2 (-7) 2)) 11 (-1) = true ∧
    in3 (exec (.rem .none 3 1 (.reg 2)) (c2 5 0)) 11 5 = true ∧
    in3 (exec (.rem .none 3 1 (.reg 2)) (c2 0x8000000000000000 (-1))) 11 0 = true ∧
    in3 (exec (.remu .none 3 1 (.reg 2)) (c2 (-1) 10)) 11 5 = true := by decide

/-- 06 R204: bits and shifts; a shift takes bits 5:0 of its count. -/
theorem test_bits : s3 (exec (.and .none 3 1 (.reg 2)) (c2 0xF0 0x3C)) 0x30 = true ∧
    s3 (exec (.or .none 3 1 (.reg 2)) (c2 0xF0 0x3C)) 0xFC = true ∧
    s3 (exec (.xor .none 3 1 (.reg 2)) (c2 0xF0 0x3C)) 0xCC = true ∧
    s3 (exec (.sll .none 3 1 (.reg 2)) (c2 3 0x7F)) 0x8000000000000000 = true ∧
    s3 (exec (.srl .none 3 1 (.reg 2)) (c2 (-1) 60)) 15 = true ∧
    s3 (exec (.sra .none 3 1 (.reg 2)) (c2 (-16) 66)) (-4) = true := by decide

/-- 06 R204: signed and unsigned order, equality, selection by the old sD. -/
theorem test_order : s3 (exec (.min .none 3 1 (.reg 2)) (c2 (-1) 2)) (-1) = true ∧
    s3 (exec (.max .none 3 1 (.reg 2)) (c2 (-1) 2)) 2 = true ∧ s3 (exec (.minu .none 3 1 (.reg 2)) (c2 (-1) 2)) 2 = true ∧
    s3 (exec (.maxu .none 3 1 (.reg 2)) (c2 (-1) 2)) (-1) = true ∧ s3 (exec (.slt .none 3 1 (.reg 2)) (c2 (-1) 2)) 1 = true ∧
    s3 (exec (.sltu .none 3 1 (.reg 2)) (c2 (-1) 2)) 0 = true ∧ s3 (exec (.seq .none 3 1 (.reg 2)) (c2 9 9)) 1 = true ∧
    s3 (exec (.sel .none 3 1 (.reg 2)) (c2 8 9)) 9 = true ∧
    s3 (exec (.sel .none 3 1 (.reg 2)) (withS [(3, 1)] (c2 8 9))) 8 = true := by decide

/-- 06 R207: the worked example: LI then LIH give 0x1234_569A_BCDE. -/
theorem test_li_lih : s3 (exec (.li .none 3 (.long 0x123456)) (at0 .c)) 0x123456 = true ∧
    s3 (exec (.li .none 3 (.short 0x800)) (at0 .c)) (-2048) = true ∧
    s3 (exec (.lih .none 3 (.long 0x9ABCDE)) (withS [(3, 0x123456)] (at0 .c))) 0x1234569ABCDE = true := by decide

/-- 06 R193, R194: NOP only moves on; LOOP opens a level, or passes over its body. -/
theorem test_nop_loop : next (exec (.nop .none .v) (at0 .v)) (fun t => t.core.r.eV.pc == 1 && t.core.r.eV.walked == 1) = true ∧
    next (exec (.loop .none (.c 1) 3) (c2 0x500000002 0)) (fun t => t.core.r.eC.pc == 1 && t.core.r.eC.levels == [⟨1, 4, 2, 0⟩]) = true ∧
    next (exec (.loop .none (.c 1) 3) (c2 0x100000000 0)) (fun t => t.core.r.eC.pc == 4 && t.core.r.eC.levels == [] &&
      t.core.r.eC.walked == 1) = true ∧
    next (exec (.loopi .none .m (.long 70) 2) (at0 .m)) (fun t => t.core.r.eM.pc == 2 && t.core.r.eM.levels == [⟨2, 4, 70, 0⟩]) = true := by
  decide

/-- 06 R208, R209, R197: branches and links. -/
theorem test_branches :
    next (exec (.blt .none 1 2 false false 9) (c2 (-1) 0)) (fun t => t.core.r.eC.pc == 9) = true ∧
    next (exec (.bltu .none 1 2 false false 9) (c2 (-1) 0)) (fun t => t.core.r.eC.pc == 2) = true ∧
    next (exec (.beq .none 1 2 false true 9) (c2 4 4)) (fun t => t.core.r.iq[0].slots.map (·.cut) == [true] &&
      t.core.r.iq[3].slots.map (·.cut) == [true]) = true ∧
    next (exec (.bne .none 1 2 false true 9) (c2 4 4)) (fun t => t.core.r.eC.pc == 2 && t.core.r.iq[0].slots == []) = true ∧
    next (exec (.bge .none 1 2 false false 9) (c2 4 4)) (fun t => t.core.r.eC.pc == 9) = true ∧
    next (exec (.bgeu .none 1 2 false false 9) (c2 4 5)) (fun t => t.core.r.eC.pc == 2) = true ∧
    next (exec (.jal .none 3 false 20) (at0 .c)) (fun t => t.core.r.eC.pc == 20 && t.core.r.s[3] == 2) = true ∧
    next (exec (.jalr .none 3 1 false) (c2 32767 0)) (fun t => t.core.r.eC.pc == 32767 && t.core.r.s[3] == 1) = true := by decide
theorem test_jalr_outside : next (exec (.jalr .none 3 1 false) (c2 32768 0)) (fun t => t.core.cr.shd && t.core.r.s[3] == 0 &&
    t.core.cr.cause == 0x70001) = true := by decide
theorem test_br_bcq : next (exec (.br .none .s false 5) (at0 .s)) (fun t => t.core.r.eS.pc == 5) = true ∧
    next (exec (.bcq .none .a false false 5) (at0 .a)) (fun t => t.core.r.eA.pc == 0 && t.core.r.eA.wait == .cond) = true ∧
    next (exec (.bcq .none .a false false 5) ((at0 .a).modR fun r => (r.pushCond .a true)))
      (fun t => t.core.r.eA.pc == 0) = true := by decide

/-- 01 R27, 06 R198: a flag's addition waits for the next cycle. -/
theorem test_flags : next (exec (.fset .none .c 2 200) (at0 .c)) (fun t => t.core.r.f[2].val == 0 && t.core.r.f[2].inc == 200) = true ∧
    next (exec (.fset .none .c 2 56) ((at0 .c).modR fun r => { r with f := r.f.set 2 { r.f[2] with val := 200 } }))
      (fun t => t.core.r.f[2].inc == 0 && t.core.r.eC.pc == 0) = true ∧
    next (exec (.fwait .none .c 2 200) ((at0 .c).modR fun r => { r with f := r.f.set 2 { r.f[2] with val := 200 } }))
      (fun t => t.core.r.f[2].val == 0 && t.core.r.eC.pc == 1) = true := by decide

/-- 06 R199, R200; 01 R43, R44. -/
theorem test_mark_halt : next (exec (.mark .none .v 7 true) (at0 .v)) (fun t => t.core.r.eV.halted && t.core.r.eV.notified &&
      t.core.r.eV.marks == 0x80) = true ∧
    next (exec (.halt .none .v) (at0 .v)) (fun t => t.core.r.eV.halted && !t.core.r.eV.notified) = true ∧
    next (exec (.breath .none .v 3) (at0 .v)) (fun t => t.core.r.eV.wait == .breath && t.core.r.eV.pc == 0) = true := by decide

/-- 06 R201 to R203, R215, R216. -/
theorem test_queues : next (exec (.cbc .none 0b0101 1) (c2 9 0)) (fun t => t.core.r.cond[0].slots.map (·.data) == [some true] &&
      t.core.r.cond[1].slots == [] && t.core.r.cond[2].slots.map (·.data) == [some true]) = true ∧
    next (exec (.sendv .none 0b1000 1) (c2 9 0)) (fun t => t.core.r.iq[3].slots.map (·.data) == [some 9] &&
      t.core.r.iq[0].slots == []) = true ∧
    next (exec (.recv .none (.s 1)) ((at0 .s).modR fun r => { r with iq := r.iq.set 3 ⟨[⟨0, some 77, false, false⟩], 0⟩ }))
      (fun t => t.core.r.eS.e[1] == 77 && t.core.r.iq[3].slots == []) = true ∧
    next (exec (.qclr .none (.vLq 1)) ((at0 .v).modR fun r => { r with lq := r.lq.set 1 ⟨[⟨0, some 1, false, false⟩, ⟨0, none, true, false⟩,
      ⟨0, some 2, false, false⟩], 0⟩ })) (fun t => t.core.r.lq[1].slots.map (·.data) == [some 2]) = true ∧
    next (exec (.lcrd .none (.c 3) 1) ((at0 .c).modEng .c fun x => { x with levels := [⟨0, 9, 5, 4⟩, ⟨0, 9, 5, 3⟩] }))
      (fun t => t.core.r.s[3] == 3) = true := by decide

/-- e at word 0, user level, near segment at 0; page 0x30000 is frame 0x20000, in C's TLB and in A's and S's stream TLBs. -/
def mapped (e : Engine) : State :=
  let s := at0 e
  let f := s.vfs[0]
  let t : TlbEntry := ⟨0, 0x30000, false, 0x2000F, 0, none⟩
  { s with
    vfs := s.vfs.set 0 { f with segl := f.segl.set 0 0x10000_0001 }
    core := { s.core with ctlb := [t], stlb := (s.core.stlb.set 2 [t]).set 3 [t], cr := { s.core.cr with spw := 0x0004_0000 } } }

/-- 06 R211, R212: LD reads little-endian bytes, extends them, and waits for its response, which brings them. -/
theorem test_ld : next (exec (.ld .none 3 1 (some ⟨0, true, 1⟩)) { withS [(1, 0x30010)] (mapped .c) with mem := [(0x20010, 0x34), (0x20011, 0x92)] })
      (fun t => t.reads.map (·.arr) == [.reg (.s 3 0xFFFFFFFFFFFF9234)] && t.core.r.eC.stall == some 1 && t.core.r.eC.pc == 2 &&
        next (exec (.loadResponse 1) t) fun u => u.core.r.eC.pend.map (·.land) == [.s 3 0xFFFFFFFFFFFF9234] &&
          (u.settle .c).core.r.s[3] == 0xFFFFFFFFFFFF9234 && u.core.r.eC.stall == none && u.reads == []) = true ∧
    next (exec (.ld .none 3 1 none) (withS [(1, 0x30011)] (mapped .c))) (fun t => t.core.cr.cause == 0x13 && t.core.cr.trapAddr == 0x30011) = true ∧
    next (exec (.ldaq .none 3 1) { withS [(1, 0x30010)] (mapped .c) with mem := [(0x20010, 0x34)] })
      (fun t => t.reads.map (·.arr) == [.reg (.s 3 0x34)]) = true := by decide

/-- 06 R211; 03 R112; 14 R432: ST puts the low bytes; a page that may not be written is the permission fault. -/
theorem test_st : next (exec (.st .none 1 2 (some ⟨4, 1⟩)) (withS [(1, 0x30010), (2, 0xABCDEF)] (mapped .c)))
      (fun t => t.mem == [(0x20014, 0xEF), (0x20015, 0xCD)] && t.core.r.eC.pc == 2) = true ∧
    next (exec (.st .none 1 2 none) ((withS [(1, 0x30010)] (mapped .c)).modCore fun c =>
      { c with ctlb := [⟨0, 0x30000, false, 0x2000B, 8, none⟩] })) (fun t => t.mem == [] && t.core.cr.cause == 0x11 &&
        t.core.cr.trapWalk == 0x803) = true ∧
    next (exec (.strl .none 1 2) (withS [(1, 0x30010)] (mapped .c))) (fun t => t.core.cr.cause == 0x28) = true := by decide

/-- 14 R430 to R433: a walk of three levels from S1TB reaches the frame. -/
theorem test_walk : next (exec (.ld .none 3 1 (some ⟨0, false, 0⟩))
    (let s := (withS [(1, 0x4000_0003_0005)] (mapped .c)).modCore fun c => { c with ctlb := [] }
     { s with
       vfs := s.vfs.set 0 { s.vfs[0] with s1tb := 0x10001 }
       mem := [(0x10000 + 16 * 8, 0x01), (0x10000 + 16 * 8 + 2, 0x02), (0x20000, 0x01), (0x20002, 0x03),
         (0x30018, 0x0F), (0x3001A, 0x07), (0x70005, 0x99)] }))
    (fun t => t.reads.map (·.arr) == [.reg (.s 3 0x99)] && t.core.ctlb.map (·.page) == [0x4000_0003_0000]) = true := by decide

/-- 06 R217 to R220, R222. -/
theorem test_ports : next (exec (.xpush .none 2 1 2) (c2 7 8)) (fun t => t.cmds.map (·.words) == [[7, 8]] && t.core.xp[2].outs == 1) = true ∧
    next (exec (.xpop .none 3 1) ((at0 .c).modCore fun c => { c with xp := c.xp.set 1 ⟨0, [⟨5, false, false, 0⟩], 0, []⟩ }))
      (fun t => t.core.r.s[3] == 5 && t.core.xp[1].res == []) = true ∧
    next (exec (.xstat .none 3 1) ((at0 .c).modCore fun c => { c with xp := c.xp.set 1 ⟨3, [⟨5, true, false, 0⟩], 0, []⟩ }))
      (fun t => t.core.r.s[3] == 0x113) = true ∧
    next (exec (.launch .none 3 1) (at0 .c)) (fun t => t.reads.map (·.arr) == [.reg (.s 3 0)] && t.disp.queues == []) = true := by decide

/-- 06 R229, R230: A's arithmetic as C's, with sources of both files. -/
theorem test_a : next (exec (.asub .none 3 (.p 2) (.src (.a 1))) ((withA [(1, 5)] (at0 .a)).modR fun r => { r with p := r.p.set 2 3 }))
      (fun t => t.core.r.a[3] == -2) = true ∧
    next (exec (.aadd .none 3 (.a 1) (.imm 0xFFFFFF)) (withA [(1, 5)] (at0 .a))) (fun t => t.core.r.a[3] == 4 && t.core.r.eA.pc == 2) = true ∧
    next (exec (.aaddq .none 3 (.a 1) (.src (.a 1))) (withA [(1, 0x4000000000000000)] (at0 .a)))
      (fun t => t.core.r.a[3] == 0x7FFFFFFFFFFFFFFF) = true ∧
    next (exec (.amul .none 3 (.a 1) (.src (.a 1))) (withA [(1, 5)] (at0 .a))) (fun t => t.core.r.eA.pend == [⟨1, .a 3 25, 0⟩]) = true ∧
    next (exec (.asll .none 3 (.a 1) (.imm 65)) (withA [(1, 5)] (at0 .a))) (fun t => t.core.r.a[3] == 10) = true ∧
    next (exec (.asrl .none 3 (.a 1) (.imm 60)) (withA [(1, -1)] (at0 .a))) (fun t => t.core.r.a[3] == 15) = true ∧
    next (exec (.ali .none 3 (.short 0xFFF)) (at0 .a)) (fun t => t.core.r.a[3] == -1) = true ∧
    next (exec (.ahi .none 3 (.short 0xFFF)) (withA [(3, 1)] (at0 .a))) (fun t => t.core.r.a[3] == 0x1FFF) = true ∧
    next (exec (.amov .none 3 (.a 1)) (withA [(1, 5)] (at0 .a))) (fun t => t.core.r.a[3] == 5) = true := by decide
theorem test_a_branches :
    next (exec (.abne .none (.a 1) (.a 2) false true 8) (withA [(1, 5)] (at0 .a))) (fun t => t.core.r.eA.pc == 8 &&
      t.core.r.lq[0].slots.map (·.cut) == [true] && t.core.r.saq.slots.map (·.cut) == [true]) = true ∧
    next (exec (.ablt .none (.a 1) (.a 2) false false 8) (withA [(1, -5)] (at0 .a))) (fun t => t.core.r.eA.pc == 8) = true ∧
    next (exec (.ablt .none (.a 2) (.a 1) false false 8) (withA [(1, -5)] (at0 .a))) (fun t => t.core.r.eA.pc == 2) = true := by decide

/-- 06 R231 to R233, R240, R241; 03 R101: A's accesses; scratch offsets have bit 63 set. -/
theorem test_a_memory :
    next (exec (.ald .none 3 (.a 1) none) { withA [(1, 0x8000000000000010)] (mapped .a) with mem := [(3 * 2 ^ 48 + 0x11, 7)] })
      (fun t => t.reads.map (·.arr) == [.reg (.a 3 0x700)]) = true ∧
    next (exec (.ald .none 3 (.a 1) none) (withA [(1, 0x8000000000004000)] (mapped .a)))
      (fun t => t.core.cr.pending.map (·.code) == [0x14] && t.core.r.eA.wait == .fault) = true ∧
    next (exec (.saq .none (.a 1) (some 0xFFFFFC)) (withA [(1, 0x30010)] (mapped .a)))
      (fun t => t.core.r.saq.slots.map (fun x => x.data.map (·.addr)) == [some 0x3000C]) = true ∧
    next (exec (.dset .none 2 (.a 1) true) ((withA [(1, 0x10)] (at0 .a)).modR fun r => { r with d := r.d.set 2 1 }))
      (fun t => t.core.r.d[2] == 0x11) = true := by decide

/-- A block whose 32-bit lanes are x, y, x, y … -/
def lanes (x y : Nat) : Block := BitVec.ofNat 2048 (packLanes 32 (fun j => if j % 2 == 0 then x else y) 64)
def v2 (a b : Block) : State := withV [(1, a), (2, b)] (at0 .v)
/-- V has one operation in flight to v3, with its cycles left and its first two 32-bit lanes. -/
def lands (o : Host.Outcome State Fault Refusal) (rem x y : Nat) : Bool :=
  next o fun t => match t.core.r.eV.pend with
    | [⟨r, .v 3 z, _⟩] => r == rem && lane 32 z 0 == x && lane 32 z 1 == y && t.core.r.v[3] == 0
    | _ => false
/-- v3 holds it at once. -/
def holds3 (o : Host.Outcome State Fault Refusal) (x y : Nat) : Bool :=
  next o fun t => lane 32 t.core.r.v[3] 0 == x && lane 32 t.core.r.v[3] 1 == y
def p32 (ty : Fmt) (ops : BitVec 13) : Option VPay := some ⟨ops, false, false, 0, ty⟩

/-- 07 R249, R250; 02 R87: 1.5 + 2.25, 1.5 − 2.25, 1.5 × 2.25 and −0; fused and clamped. -/
theorem test_v_float : lands (exec (.vadd .none (.v 3) (.v 1) (.v 2) none) (v2 (lanes 0x3FC00000 0x7F800000) (lanes 0x40100000 0xFF800000)))
      3 0x40700000 0x7FC00000 = true ∧
    lands (exec (.vsub .none (.v 3) (.v 1) (.v 2) none) (v2 (lanes 0x3FC00000 0) (lanes 0x40100000 0))) 3 0xBF400000 0 = true ∧
    lands (exec (.vmul .none (.v 3) (.v 1) (.v 2) none) (v2 (lanes 0x3FC00000 0x80000000) (lanes 0x40100000 0x3F800000)))
      3 0x40580000 0x80000000 = true ∧
    lands (exec (.vclamp .none (.v 3) (.v 1) (.v 2) none) (v2 (lanes 0xC0400000 0x3F800000) (lanes 0xC0000000 0x40000000)))
      1 0xC0000000 0x3F800000 = true ∧
    lands (exec (.vmax .none (.v 3) (.v 1) (.v 2) none) (v2 (lanes 0x3F800000 0xBF800000) (lanes 0 0))) 1 0x3F800000 0 = true ∧
    lands (exec (.vmin .none (.v 3) (.v 1) (.v 2) none) (v2 (lanes 0x3F800000 0xBF800000) (lanes 0 0))) 1 0 0xBF800000 = true := by decide
theorem test_v_fused : next (exec (.vfma .none 3 (.v 1) (.v 2) none) (withV [(3, lanes 0x3F800000 0)] (v2 (lanes 0x40000000 0) (lanes 0x40400000 0))))
      (fun t => match t.core.r.eV.pend with
        | [⟨3, .v 3 z, _⟩] => lane 32 z 0 == 0x40E00000
        | _ => false) = true ∧
    next (exec (.vfms .none 3 (.v 1) (.v 2) none) (withV [(3, lanes 0x3F800000 0)] (v2 (lanes 0x40000000 0) (lanes 0x40400000 0))))
      (fun t => match t.core.r.eV.pend with
        | [⟨3, .v 3 z, _⟩] => lane 32 z 0 == 0xC0A00000
        | _ => false) = true := by decide
/-- 07 R249, R250: integers wrap or saturate. -/
theorem test_v_int : lands (exec (.viadd .none (.v 3) (.v 1) (.v 2) (p32 .i32 1)) (v2 (lanes 0x7FFFFFFF 5) (lanes 1 6))) 1 0x7FFFFFFF 11 = true ∧
    lands (exec (.visub .none (.v 3) (.v 1) (.v 2) none) (v2 (lanes 0x80000000 5) (lanes 1 6))) 1 0x7FFFFFFF 0xFFFFFFFF = true ∧
    lands (exec (.vimul .none (.v 3) (.v 1) (.v 2) none) (v2 (lanes 0x10000 5) (lanes 0x10000 6))) 2 0 30 = true ∧
    lands (exec (.vabs .none (.v 3) (.v 1) none) (v2 (lanes 0xC0000000 0xFFFFFFFF) 0)) 1 0x40000000 0x7FC00000 = true ∧
    lands (exec (.vneg .none (.v 3) (.v 1) none) (v2 (lanes 0xC0000000 0) 0)) 1 0x40000000 0x80000000 = true := by decide
/-- 07 R251, R252, R254; 02 R89: exact points of the functions. -/
theorem test_v_functions : lands (exec (.vrcp .none (.v 3) (.v 1) none) (v2 (lanes 0x40000000 0) 0)) 7 0x3F000000 0x7F800000 = true ∧
    lands (exec (.vrsq .none (.v 3) (.v 1) none) (v2 (lanes 0x40800000 0x3F800000) 0)) 7 0x3F000000 0x3F800000 = true ∧
    lands (exec (.vround .none (.v 3) (.v 1) none) (v2 (lanes 0x40200000 0x40600000) 0)) 3 0x40000000 0x40800000 = true := by decide
/-- 07 R259, R260, R266: logic, shifts, counts and moves. -/
theorem test_v_bits : lands (exec (.vand .none (.v 3) (.v 1) (.v 2) none) (v2 (lanes 0xF0 5) (lanes 0x3C 4))) 1 0x30 4 = true ∧
    lands (exec (.vor .none (.v 3) (.v 1) (.v 2) none) (v2 (lanes 0xF0 5) (lanes 0x3C 2))) 1 0xFC 7 = true ∧
    lands (exec (.vxor .none (.v 3) (.v 1) (.v 2) none) (v2 (lanes 0xF0 5) (lanes 0x3C 1))) 1 0xCC 4 = true ∧
    lands (exec (.vnot .none (.v 3) (.v 1) none) (v2 (lanes 0xF0 0) 0)) 1 0xFFFFFF0F 0xFFFFFFFF = true ∧
    lands (exec (.vshl .none (.v 3) (.v 1) (.v 2) none) (v2 (lanes 3 3) (lanes 31 32))) 1 0x80000000 0 = true ∧
    lands (exec (.vshr .none (.v 3) (.v 1) (.v 2) none) (v2 (lanes 0x80000000 3) (lanes 31 32))) 1 1 0 = true ∧
    lands (exec (.vsra .none (.v 3) (.v 1) (.v 2) none) (v2 (lanes 0x80000000 0x80000000) (lanes 31 32))) 1 0xFFFFFFFF 0xFFFFFFFF = true ∧
    lands (exec (.vpopc .none (.v 3) (.v 1) none) (v2 (lanes 0xFF 7) 0)) 1 8 3 = true ∧
    holds3 (exec (.vmov .none (.v 3) (.v 1) none) (v2 (lanes 8 9) 0)) 8 9 = true ∧
    lands (exec (.vsign .none (.v 3) (.v 1) none) (v2 (lanes 0x80000000 0) 0)) 1 0x55555555 0x55555555 = true := by decide
/-- 07 R261 to R263, R265 to R268. -/
theorem test_v_whole : lands (exec (.vdot4 .none 3 (.v 1) (.v 2) none) (v2 (lanes 0x01020304 0xFF) (lanes 0x01010101 2))) 2 10 0xFFFFFFFE = true ∧
    lands (exec (.vsel .none (.v 3) (.v 1) (.v 2) (p32 .f32 1)) ((v2 (lanes 8 8) (lanes 9 9)).modR fun r => { r with k := r.k.set 1 1 }))
      1 8 9 = true ∧
    lands (exec (.vrsum .none (.v 3) (.v 1) (p32 .i32 0)) (v2 (lanes 1 2) 0)) 7 96 96 = true ∧
    lands (exec (.vrmax .none (.v 3) (.v 1) (p32 .i32 0)) (v2 (lanes 0xFFFFFFFF 2) 0)) 7 2 2 = true ∧
    lands (exec (.vbc .none (.v 3) (.v 1) (p32 .f32 1)) (v2 (lanes 8 9) 0)) 1 9 9 = true ∧
    lands (exec (.vperm .none (.v 3) (.v 1) (.v 2) none) (v2 (lanes 8 9) (lanes 65 64))) 1 9 8 = true ∧
    lands (exec (.vslide .none (.v 3) (.v 1) (.v 2) (p32 .f32 63)) (v2 (lanes 8 9) (lanes 6 7))) 1 9 6 = true := by decide
theorem test_v_masks : next (exec (.vcmp .none 1 (.v 1) (.v 2) (p32 .i32 2)) (v2 (lanes 0xFFFFFFFF 9) (lanes 0 9)))
      (fun t => t.core.r.eV.pend == [⟨1, .k 1 0x5555555555555555, 0⟩]) = true ∧
    next (exec (.kandn .none false 1 2 3) ((at0 .v).modR fun r => { r with k := (r.k.set 2 0xFF).set 3 0x0F })) (fun t => t.core.r.k[1] == 0xF0) = true ∧
    next (exec (.knot .none false 1 2) (at0 .v)) (fun t => t.core.r.k[1] == BitVec.allOnes 256) = true ∧
    next (exec (.ksetImm .none 1 256) (at0 .v)) (fun t => t.core.r.k[1] == BitVec.allOnes 256) = true ∧
    next (exec (.kset .none 1 0) ((at0 .v).modEng .v fun x => { x with e := x.e.set 0 3 })) (fun t => t.core.r.k[1] == 7) = true ∧
    next (exec (.kcnt .none false 1 2) ((at0 .v).modR fun r => { r with k := r.k.set 2 0xFF })) (fun t => t.core.r.eV.e[1] == 8) = true := by decide
theorem test_v_lanes : next (exec (.vxtr .none 1 (.v 1) (p32 .i32 1)) (v2 (lanes 8 0xFFFFFFFF) 0))
      (fun t => t.core.r.eV.pend == [⟨1, .e 1 (-1), 0⟩]) = true ∧
    lands (exec (.vins .none 3 1 (p32 .i32 1)) ((at0 .v).modEng .v fun x => { x with e := x.e.set 1 0x100000005 })) 1 0 5 = true := by decide
/-- 07 R244, R245: masked lanes keep the destination, or are zero in a queue; a full queue waits. -/
theorem test_v_mask_queue :
    lands (exec (.vand .none (.v 3) (.v 1) (.v 1) (some ⟨0, true, false, 1, .f32⟩)) ((v2 (lanes 8 9) 0).modR fun r => { r with k := r.k.set 1 2 })) 1 0 9 = true ∧
    next (exec (.vmov .none .sq0 (.lq 1) none) ((at0 .v).modR fun r => { r with lq := r.lq.set 1 ⟨[⟨0, some 77, false, false⟩], 0⟩ }))
      (fun t => t.core.r.lq[1].slots == [] && t.core.r.sq[0].slots.map (·.data) == [some 77]) = true ∧
    next (exec (.vmov .none .sq0 (.v 1) none) ((at0 .v).modR fun r => { r with sq := r.sq.set 0 ⟨List.replicate 16 ⟨0, some 1, false, false⟩, 0⟩ }))
      (fun t => t.core.r.eV.pc == 0 && t.core.r.eV.wait == .resv) = true := by decide
/-- 07 R253, R257: 2.5 as INT32 and back; the lowest scale that reaches amax. -/
theorem test_v_convert : lands (exec (.vcvt .none (.v 3) (.v 1) (p32 .i32 0)) (v2 (lanes 0x40200000 0xC0600000) 0)) 3 2 0xFFFFFFFC = true ∧
    lands (exec (.vcvt .none (.v 3) (.v 1) (p32 .f32 4)) (v2 (lanes 3 0xFFFFFFFF) 0)) 3 0x40400000 0xBF800000 = true := by decide

/-- S with a block and an address in its queues. -/
def sq (x : Block) (addr : Word) (mask : BitVec 256) (s : State) : State :=
  s.modR fun r => { r with
    sq := r.sq.set 0 ⟨[⟨0, some x, false, false⟩], 0⟩
    saq := ⟨[⟨0, some ⟨addr, mask, 5, false, 0, 0, 0, 0⟩, false, false⟩], 0⟩ }

/-- 07 R271 to R273, R276, R277. -/
theorem test_s_stores : next (exec (.stq .none 0) (sq 0x0403020100 0x30010 0b10110 (mapped .s)))
      (fun t => t.mem == [(0x20011, 1), (0x20012, 2), (0x20014, 4)] && t.core.r.saq.slots == [] && t.core.r.sq[0].slots == []) = true ∧
    next (exec (.stql .none 0) (sq 1 0x30010 1 (mapped .s))) (fun t => t.core.cr.pending.map (fun c => (c.code, c.addr.toNat)) == [(0x28, 0x30010)] &&
      t.mem == []) = true ∧
    next (exec (.sfence .none) (at0 .s)) (fun t => t.core.r.eS.pc == 1) = true ∧
    next (exec (.stz .none (some 0)) (sq 0 0x30010 0x3 { mapped .s with mem := [(0x20010, 9), (0x20011, 9), (0x20012, 9)] }))
      (fun t => t.mem == [(0x20012, 9)] && t.core.r.saq.slots == []) = true := by decide
theorem test_saeq : next (exec (.saeq .none 1 0 (some ⟨2, false⟩)) ((sq (BitVec.allOnes 2048 <<< 64 ||| 0x3_0000_0001) 0x30010 0 { mapped .s with
      mem := [(0x20014, 5), (0x2001C, 0xFF), (0x2001D, 0xFF), (0x2001E, 0xFF), (0x2001F, 0xFF)] }).modR fun r =>
        { r with sq := r.sq.set 1 ⟨[⟨0, some 0x9_0000_0004, false, false⟩], 0⟩ }))
      (fun t => t.updates.length == 1 && next (performUpdate ((t.updates.map SaWork.wid).headD 0) t)
        fun u => u.mem == [(0x20014, 5), (0x2001C, 9)] && u.updates == []) = true := by decide

/-- 08 R297, R298, R305, R306, R310, R313, R315 to R317, R319. -/
theorem test_m_lease : next (exec (.mlease .none) (at0 .m)) (fun t => t.core.r.eM.pc == 0 && t.core.r.eM.wait == .lease && t.core.r.lease.req) = true ∧
    next (exec (.mlease .none) ((at0 .m).modR fun r => { r with lease := { r.lease with held := true } }))
      (fun t => t.core.r.eM.pc == 1) = true ∧
    next (exec (.mma .none true 0 (.num 0) .pbuf .zero) (((at0 .m).modR fun r => { r with lease := { r.lease with held := true } }).modCr
      fun r => { r with fmte := r.fmte.set 0 0xC3 })) (fun t => t.core.cr.pending.map (·.code) == [0x21]) = true ∧
    next (exec (.mrel .none) ((at0 .m).modR fun r => { r with lease := { r.lease with held := true, cnt := 3 } }))
      (fun t => !t.core.r.lease.held && t.core.r.eM.pc == 1) = true := by decide
theorem test_m_rows :
    next (exec (.mzero .none true (.num 3) (.num 4) true) (at0 .m)) (fun t => t.core.r.eM.pend == [⟨1, .rowsZero 0 3 2 true, 0⟩]) = true ∧
    next (exec (.mmova .none true (.read 1 (.num 3)) 0) (at0 .m)) (fun t => t.core.r.eM.e[1] == 0xFF800000) = true ∧
    next (exec (.mmova .none true (.write (.num 3) 1) 2) ((at0 .m).modEng .m fun x => { x with e := x.e.set 1 0x1_0000_0007 }))
      (fun t => (t.core.r.row 3).ovf == 7) = true ∧
    next (exec (.mmov .none false 0 (.rows (.e 0) (.e 1))) ((at0 .m).modEng .m fun x => { x with e := x.e.set 1 512 }))
      (fun t => t.core.r.eM.pend == [⟨1, .row 0 Row.launch, 0⟩]) = true ∧
    next (exec (.mmov .none false 1 (.rows (.e 0) (.e 1))) ((at0 .m).modEng .m fun x => { x with e := x.e.set 1 511 }))
      (fun t => t.core.cr.pending.map (·.code) == [0x22]) = true := by decide
theorem test_m_control : next (exec (.mfmt .none false 1 15) ((at0 .m).modEng .m fun x => { x with e := x.e.set 1 0xFFF00041 }))
      (fun t => t.core.cr.fmte[15] == 0x00041) = true ∧
    next (exec (.mfmt .none false 1 16) ((at0 .m).modEng .m fun x => { x with e := x.e.set 1 0x0715 }))
      (fun t => t.core.cr.fmtsrc == 0x0414) = true ∧
    next (exec (.mstat .none 1) ((at0 .m).modR fun r => { r with mstat := ⟨true, true, 2, 3⟩, lease := { r.lease with held := true, cnt := 1 } }))
      (fun t => t.core.r.eM.e[1] == 0x3_0002_00E1 && t.core.r.mstat == ⟨false, false, 2, 3⟩) = true ∧
    next (exec (.mscl .none 0 1 none) ((at0 .m).modEng .m fun x => { x with e := (x.e.set 0 0x1_0000_0002).set 1 0x3_0000_0004 }))
      (fun t => t.core.r.smx == 0x3_0000_0004_0000_0001_0000_0002) = true := by decide

/-- 09 R346, R355, R356: an OPEN with a length of 0, a CLOSE of no handle, RCLM and RBABT with nothing. -/
theorem test_dir : next (exec (.open .none false 3 1) (withS [(1, 0x30040)] (mapped .c)))
      (fun t => t.reads.map (·.arr) == [.reg (.s 3 (-6))]) = true ∧
    next (exec (.close .none false 3 1) (withS [(1, 5)] (mapped .c))) (fun t => t.reads.map (·.arr) == [.reg (.s 3 (-4))]) = true ∧
    next (exec (.rclm .none false 3 1) (mapped .c)) (fun t => t.reads.map (·.arr) == [.reg (.s 3 0)] && t.mem == []) = true ∧
    next (exec (.rbabt .none false 3) (mapped .c)) (fun t => t.reads.map (·.arr) == [.reg (.s 3 0)]) = true := by decide

/-- A flag object of this gang at core scope, with a value. -/
def flagObj (n : Nat) : SyncObj := ⟨0x20000001, 0, ⟨0, 0, 0⟩, none, 0, 0, 0, none, [], [], n, 0, [], []⟩
/-- 09 R344, R346: SREL adds, and does not pass 0xFFFF_FFFF; an OID of no object is the sync-object fault. -/
theorem test_syn : next (exec (.srel .none false 1) { withS [(1, 0x320000001)] (at0 .c) with syncs := [flagObj 4] })
      (fun t => t.syncs.map (·.value) == [7]) = true ∧
    next (exec (.srel .none false 1) { withS [(1, 0x320000001)] (at0 .c) with syncs := [flagObj 0xFFFFFFFD] })
      (fun t => t.syncs.map (·.value) == [0xFFFFFFFD] && t.core.cr.cause == 0x2A) = true ∧
    next (exec (.sacq .none false 1) (withS [(1, 0x320000001)] (at0 .c))) (fun t => t.core.cr.cause == 0x2A) = true ∧
    next (exec (.waitmk .none false 3 1) (withS [(1, 0x407)] ((at0 .c).modEng .m fun x => { x with marks := 0x80 })))
      (fun t => t.core.r.eC.pc == 1) = true := by decide

/-- 06 R223, R224; 13 R394 to R397, R415, R418. -/
theorem test_control : next (exec (.time .none false 3) { at0 .c with timer := 77 }) (fun t => t.core.r.s[3] == 77) = true ∧
    next (exec (.cyc .none false 3 4) ((at0 .c).modEng .v fun x => { x with walked := 9 })) (fun t => t.core.r.s[3] == 9) = true ∧
    next (exec (.crr .none 3 0x004) (at0 .c)) (fun t => t.core.r.s[3] == 512) = true ∧
    next (exec (.crr .none 3 0x020) (at0 .c)) (fun t => t.core.cr.cause == 0x02) = true ∧
    next (exec (.crw .none 1 0x004) (withS [(1, 5)] (at0 .c))) (fun t => t.core.cr.slipw == 512 && t.ctl.map (·.val) == [5] &&
      (t.ctl.foldl State.ctlWrite t).core.cr.slipw == 16) = true ∧
    next (exec (.acsw .none false 3 1) (withS [(1, 15)] ((at0 .c).modCr fun r => { r with lvl := 2 }))) (fun t => t.core.r.s[3] == -1) = true := by
  decide

/-- 13 R400 to R404, R406, R414: TRAP 5 at word 7, and its return; a double trap. -/
theorem test_trap : next (exec (.trap .none false 5) ((at0 .c).modEng .c fun x => { x with pc := 7 })) (fun t => t.core.cr.cause == 0x50003 &&
      t.core.cr.eretPc == 8 && t.core.cr.trapPc == 7 && t.core.cr.shd && t.core.cr.lvl == 1 &&
      next (exec (.eret .none false false) t) (fun u => !u.core.cr.shd && u.core.cr.lvl == 0 && u.core.r.eC.pc == 8) &&
      next (exec (.trap .none false 6) t) (fun u => u.core.st == .stopped && u.core.status == 0x80000303)) = true ∧
    next (exec (.eret .none false false) (at0 .c)) (fun t => t.core.cr.cause == 0x02 && t.core.cr.eretPc == 0) = true := by decide

/-- 20 R524, R529; 21 R537; 17 R487; 16 R468: steps of the package. -/
theorem test_package : next (exec .powerGood State.reset) (fun t => t.plat.step == 1 && !t.plat.ready) = true ∧
    next (exec (.clkdivWrite 3) State.reset) (fun t => t.plat.div == 1 && t.plat.divNext == some 3) = true ∧
    next (exec .accountTick { State.reset with timer := 999 }) (fun t => t.books.tick == 0) = true ∧
    next (exec .accountTick { State.reset with timer := 1000 }) (fun t => t.books.tick == 1 && t.books.time == 1000) = true ∧
    next (exec (.hostPush ⟨0, 1, ⟨[], [], []⟩⟩ 0 0 []) State.reset) (fun t => t.disp.queues == []) = true ∧
    next (exec (.ucieModuleFail 1) State.reset) (fun t => !t.plat.ucie[1] && t.plat.ucie[0]) = true := by decide

/-- The first step after reset is the package's, and step runs what the decoder reads (log 26). -/
theorem test_step : next (step (State.reset.withFetchWord 64 0x00123456_01A07000)) (fun t => t.core.r.s[7] == 0x123456 && t.core.r.eC.pc == 2) = true ∧
    next (step (State.reset.withFetchWord 32 0x02400000)) (fun t => t.core.r.eA.pc == 1) = true ∧
    next (step (State.reset.withFetchWord 32 0x0A000000)) (fun t => t.core.cr.cause == 0x10001 && t.core.cr.trapWord == 0x0A000000) = true ∧
    next (step State.reset) (fun t => t.mem == []) = true := by decide

/-! ## Witnesses: for each statement with hypotheses, states and operands that meet them -/

/-- An instruction without marks is admitted where no gate holds its engine. -/
theorem admits_plain {e : Engine} {n : Nat} {s : State} (h : gate e n s = .ok ()) : Admits e n .none s (s.settle e) where
  bars := by simp [shadowBars, Marks.none]
  gate := h
  enters := by cases e <;> rfl

theorem admits_at0 (e : Engine) (n : Nat) (h : n = 1 ∨ n = 2) : Admits e n .none (at0 e) ((at0 e).settle e) := by
  rcases h with rfl | rfl <;> cases e <;> exact admits_plain rfl

/-- The shadow context of C, at maker level. -/
def shadow : State := (at0 .c).modCr fun r => { r with shd := true, lvl := 3, sh := { r.sh with live := true } }
theorem admits_shadow (n : Nat) (h : n = 1 ∨ n = 2) : Admits .c n .none shadow (shadow.settle .c) := by
  rcases h with rfl | rfl <;> exact admits_plain rfl
/-- C at a level. -/
def lvl (k : BitVec 2) : State := (at0 .c).modCr fun r => { r with lvl := k }
theorem admits_lvl (k : BitVec 2) (n : Nat) (h : n = 1 ∨ n = 2) : Admits .c n .none (lvl k) ((lvl k).settle .c) := by
  rcases h with rfl | rfl <;> exact admits_plain rfl
theorem admits_mapped (e : Engine) (n : Nat) (h : n = 1 ∨ n = 2) : Admits e n .none (mapped e) ((mapped e).settle e) := by
  rcases h with rfl | rfl <;> cases e <;> exact admits_plain rfl

theorem witness_DecodeInvertsEncode : (Instr.loop .none (.c 1) 4095).wf = true ∧ encode (.loop .none (.c 1) 4095) ≠ [] ∧
    (Instr.ksetImm .none 7 256).wf = true ∧ encode (.ksetImm .none 7 256) ≠ [] ∧
    (Instr.mma .none true 63 (.num 448) (.pair 3) (.e 3)).wf = true ∧ encode (.mma .none true 63 (.num 448) (.pair 3) (.e 3)) ≠ [] := by
  decide
theorem witness_DecodedWordsAreCanonical : decode 0x00000000 0 = .ok (.nop .none .c) ∧
    (5 ≤ ((0x0A000000 : IWord).extractLsb' 25 3).toNat ∧ 5 ≤ ((0x0E000000 : IWord).extractLsb' 25 3).toNat) ∧
    (((0x21000000 : IWord).extractLsb' 25 3).toNat < 5 ∧ (0x21000000 : IWord).getLsbD 24 = true ∧ (0x21000000 : IWord).getLsbD 29 = true) ∧
    (((0x09000000 : IWord).extractLsb' 25 3).toNat < 5 ∧ (0 : IWord).extractLsb' 25 3 ≠ (0x09000000 : IWord).extractLsb' 25 3) ∧
    (((0x083C0000 : IWord).extractLsb' 25 3).toNat < 5 ∧ (0x083C0000 : IWord).getLsbD 24 = false ∧
      0x0C < ((0x083C0000 : IWord).extractLsb' 18 6).toNat ∧ ((0x083C0000 : IWord).extractLsb' 18 6).toNat < 0x10) := by decide

theorem witness_StepRunsTheDecodedInstruction :
    ∃ (s : State), s.turn = .eng .c ∧ (Engine.c == .c && s.trapDue) = false ∧ StandsAt .c (.li .none 7 (.long 0x123456)) s := by
  refine ⟨State.reset.withFetchWord 64 0x00123456_01A07000, rfl, by decide, ⟨by decide, by decide, by decide, by decide, by decide, by decide, by decide, by decide, ?_⟩⟩
  decide

/-- C waits for a token, and there is none; V is halted. -/
theorem witness_IssueConditions : (∃ u, Admits .c 1 .none (at0 .c) u) ∧
    (shadowBars .v ⟨true, false, false, false⟩ (at0 .v) = false ∧ gate .v 1 (at0 .v) = .ok () ∧
      (popWaits .v (waitList .v ⟨true, false, false, false⟩) ((at0 .v).settle .v)).bind
        (reserveSignals (signalList .v ⟨true, false, false, false⟩)) = .error (.stall .token)) ∧
    gate .v 1 ((at0 .v).modEng .v fun x => { x with halted := true }) = .error (.stall .none) :=
  ⟨⟨_, admits_at0 .c 1 (.inl rfl)⟩, ⟨rfl, rfl, rfl⟩, rfl⟩

/-- C in the last and in an earlier iteration of one level, in an inner one, before an end, and with no level. -/
def inLoop (ls : List Level) : State := (at0 .c).modEng .c fun x => { x with levels := ls }
theorem witness_IssueMovesTheEngine : ((at0 .c).core.cr.trctl.getLsbD 0 = false ∧ Marks.none.sp = false ∧ Marks.none.sn = false) ∧
    ((at0 .c).eng .c).levels = [] ∧
    ((inLoop [⟨0, 5, 3, 0⟩]).eng .c).levels = [] ++ [⟨0, 5, 3, 0⟩] ∧ (5 ≠ ((inLoop [⟨0, 5, 3, 0⟩]).eng .c).pc + 1) ∧
    ((inLoop [⟨0, 1, 3, 1⟩]).eng .c).levels = [⟨0, 1, 3, 1⟩] ∧ (1 = ((inLoop [⟨0, 1, 3, 1⟩]).eng .c).pc + 1 ∧ 1 + 1 < 3 ∧ 3 ≤ 2 + 1) ∧
    ((at0 .c).inShadow = false ∧ ((at0 .c).eng .c).pend = [] ∧ ((at0 .c).eng .c).mkq = []) := by
  refine ⟨⟨rfl, rfl, rfl⟩, rfl, rfl, by decide, rfl, by decide, rfl, rfl, rfl⟩

theorem witness_IntegerOperationsAssignTheirResult : (∃ u, Admits .c (csrcWords (.reg 2)) .none (at0 .c) u) ∧
    (∃ u, Admits .c (csrcWords (.imm 2)) .none (at0 .c) u) ∧ ∃ u, Admits .c 1 .none shadow u :=
  ⟨⟨_, admits_at0 .c 1 (.inl rfl)⟩, ⟨_, admits_at0 .c 2 (.inr rfl)⟩, ⟨_, admits_shadow 1 (.inl rfl)⟩⟩

/-- LOOP with a count of 0, with one of 1, and with four levels active; LOOPI with both its counts. -/
theorem witness_NopOnlyIssues : (∃ u, Admits .v 1 .none (at0 .v) u) ∧
    (Admits (LoopReg.c 1).engine 1 .none (at0 .c) ((at0 .c).settle .c) ∧ ((((at0 .c).settle .c).loopReg (.c 1)).extractLsb' 0 32).toNat = 0) ∧
    (Admits (LoopReg.c 1).engine 1 .none (c2 1 0) ((c2 1 0).settle .c) ∧ ((((c2 1 0).settle .c).loopReg (.c 1)).extractLsb' 0 32).toNat ≠ 0 ∧
      (((c2 1 0).settle .c).eng .c).levels.length < 4) ∧
    (let s := inLoop (List.replicate 4 ⟨0, 9, 9, 0⟩)
     Admits .c (loopiWords (.long 64)) .none s (s.settle .c) ∧ loopiCount (.long 64) ≠ 0 ∧ 4 ≤ ((s.settle .c).eng .c).levels.length) ∧
    (Admits .a (loopiWords (.short 0)) .none (at0 .a) ((at0 .a).settle .a) ∧ loopiCount (.short 0) = 0) :=
  ⟨⟨_, admits_at0 .v 1 (.inl rfl)⟩, ⟨admits_at0 .c 1 (.inl rfl), by decide⟩, ⟨admits_plain rfl, by decide, by decide⟩,
    ⟨admits_plain rfl, by decide, by decide⟩, admits_at0 .a 1 (.inl rfl), by decide⟩

/-- A flag that an addition fills to 255, and values on both sides of what FWAIT needs. -/
theorem witness_FlagsCount : Admits .v 1 .none (at0 .v) ((at0 .v).settle .v) ∧ (Engine.v == .c && (at0 .v).inShadow) = false ∧
    (let x := ((at0 .v).settle .v).core.r.f[(3 : Fin 16)]
     x.val + x.sub + x.inc + (255#8).toNat ≤ 255 ∧ (0#8).toNat ≤ x.val ∧ x.val < (1#8).toNat) :=
  ⟨admits_at0 .v 1 (.inl rfl), rfl, by decide⟩

/-- Nothing in flight, and something. -/
theorem witness_MarksAndHalts : (Admits .v 1 .none (at0 .v) ((at0 .v).settle .v) ∧ ((at0 .v).settle .v).drained .v = true ∧
      ((at0 .v).eng .v).wait ≠ .breath) ∧
    (let s := (at0 .v).modEng .v fun x => { x with pend := [⟨5, .nothing, 0⟩] }
     Admits .v 1 .none s (s.settle .v) ∧ (s.settle .v).drained .v = false) ∧
    (let s := (at0 .v).modEng .v fun x => { x with wait := .breath }
     Admits .v 1 .none s (s.settle .v) ∧ (s.eng .v).wait = .breath) :=
  ⟨⟨admits_at0 .v 1 (.inl rfl), by decide, by decide⟩, ⟨admits_plain rfl, by decide⟩, admits_plain rfl, rfl⟩

theorem witness_PopsPassCutMarkers : (∃ (x : Slot Block), x.cut = false ∧ x.fresh = false ∧ x.data = some 7) ∧
    (∃ (x : Slot Block), x.cut = true ∧ x.fresh = false) ∧
    (let s := (at0 .v).modR fun r => { r with lq := r.lq.set 1 ⟨[⟨0, none, true, false⟩], 0⟩ }
     Admits .v 1 .none s (s.settle .v) ∧ ∃ t, (s.settle .v).clearQueue (qclrId (.vLq 1)) = .ok t) ∧
    (let s := (at0 .s).modR fun r => { r with iq := r.iq.set 3 ⟨[⟨0, some 77, false, false⟩], 0⟩ }
     Admits .s 1 .none s (s.settle .s) ∧ ∃ r, (s.settle .s).core.r.iqPop .s = .ok (77, r)) ∧
    (Admits .c 1 .none (at0 .c) ((at0 .c).settle .c) ∧ (at0 .c).inShadow = false ∧
      (∀ e ∈ [Engine.a, .m, .v, .s], ((at0 .c).settle .c).core.r.qRoom (.cond e) 1 = true ∧ ((at0 .c).settle .c).core.r.qRoom (.iq e) 1 = true)) ∧
    (let s := (at0 .c).modR fun r => { r with
       iq := r.iq.set 3 ⟨List.replicate 16 ⟨0, some 1, false, false⟩, 0⟩, cond := r.cond.set 3 ⟨List.replicate 16 ⟨0, some true, false, false⟩, 0⟩ }
     Admits .c 1 .none s (s.settle .c) ∧ (s.settle .c).core.r.qRoom (.iq .s) 1 = false ∧ (s.settle .c).core.r.qRoom (.cond .s) 1 = false) :=
  ⟨⟨⟨0, some 7, false, false⟩, rfl, rfl, rfl⟩, ⟨⟨0, none, true, false⟩, rfl, rfl⟩, ⟨admits_plain rfl, _, rfl⟩, ⟨admits_plain rfl, _, rfl⟩,
    ⟨admits_at0 .c 1 (.inl rfl), rfl, by decide⟩, admits_plain rfl, by decide⟩

/-- Taken and not, with and without kill and cut; a JALR to the last word, and to the one after it. -/
theorem witness_ConditionalBranchesOfC :
    (Admits .c 2 .none (c2 4 5) ((c2 4 5).settle .c) ∧ CondOp.holds (((c2 4 5).settle .c).sReg 1) (((c2 4 5).settle .c).sReg 2) .beq = false ∧
      CondOp.holds (((c2 4 5).settle .c).sReg 1) (((c2 4 5).settle .c).sReg 2) .bne = true ∧ CutRoom .c true ((c2 4 5).settle .c) ∧
      (∃ v, Admits .c 2 .none ((c2 4 5).cancel .c) v ∧ CutRoom .c true v)) ∧
    (let s := (at0 .a).modR fun r => { r with cond := r.cond.set 0 ⟨[⟨0, some true, false, false⟩], 0⟩ }
     Admits .a 1 .none s (s.settle .a) ∧ (∃ r, (s.settle .a).core.r.condPop .a = .ok (true, r) ∧ CutRoom .a true ((s.settle .a).modR fun _ => r)) ∧
       ∃ v, Admits .a 1 .none (s.cancel .a) v ∧ ∃ r, v.core.r.condPop .a = .ok (true, r)) ∧
    (let s := (at0 .a).modR fun r => { r with cond := r.cond.set 0 ⟨[⟨0, some false, false, false⟩], 0⟩ }
     Admits .a 1 .none s (s.settle .a) ∧ ∃ r, (s.settle .a).core.r.condPop .a = .ok (false, r)) ∧
    (Admits .c 1 .none (c2 32767 0) ((c2 32767 0).settle .c) ∧ (((c2 32767 0).settle .c).sReg 1).toNat ≤ (c2 32767 0).lastWord .c) ∧
    (Admits .c 1 .none (c2 32768 0) ((c2 32768 0).settle .c) ∧ (c2 32768 0).lastWord .c < (((c2 32768 0).settle .c).sReg 1).toNat) := by
  refine ⟨⟨admits_plain rfl, by decide, by decide, ?_, _, admits_plain rfl, ?_⟩, ⟨admits_plain rfl, ⟨_, rfl, ?_⟩, _, admits_plain rfl, _, rfl⟩,
    ⟨admits_plain rfl, _, rfl⟩, ⟨admits_plain rfl, by decide⟩, admits_plain rfl, by decide⟩
  all_goals intro _; decide

/-- A computation that answers, and one that stops. -/
def isOk {ε α : Type} : Except ε α → Bool
  | .ok _ => true
  | .error _ => false
theorem oks {ε α : Type} {x : Except ε α} (h : isOk x = true) : ∃ r, x = .ok r := by
  cases x with
  | ok r => exact ⟨r, rfl⟩
  | error _ => exact absurd h (by simp [isOk])
def okWith {ε α : Type} (x : Except ε α) (p : α → Bool) : Bool :=
  match x with
  | .ok r => p r
  | .error _ => false
theorem oksWith {ε α : Type} {x : Except ε α} {p : α → Bool} (h : okWith x p = true) : ∃ r, x = .ok r ∧ p r = true := by
  cases x with
  | ok r => exact ⟨r, rfl, h⟩
  | error _ => exact absurd h (by simp [okWith])
def fstOf {ε α β : Type} : Except ε (α × β) → Option α
  | .ok p => some p.1
  | .error _ => none
theorem fsts {ε α β : Type} {x : Except ε (α × β)} {a : α} (h : fstOf x = some a) : ∃ r, x = .ok (a, r) := by
  cases x with
  | error _ => simp [fstOf] at h
  | ok p => simp only [fstOf, Option.some.injEq] at h; exact ⟨p.2, by rw [← h]⟩
theorem errs {ε α : Type} {x : Except ε α} (h : isOk x = false) : ∃ r, x = .error r := by
  cases x with
  | error r => exact ⟨r, rfl⟩
  | ok _ => exact absurd h (by simp [isOk])

/-- An address of 2^55, a misaligned one, one in the mapped page, one that has no leaf; a run of SX in each size. -/
theorem witness_LoadsOfC :
    (Admits .c 1 .none (c2 0x80000000000000 0) ((c2 0x80000000000000 0).settle .c) ∧
      2 ^ 55 ≤ (((c2 0x80000000000000 0).settle .c).sReg 1 + ldOff none).toNat) ∧
    (let s := withS [(1, 0x3FFFF)] (mapped .c)
     let va := (s.settle .c).sReg 1
     Admits .c 1 .none s (s.settle .c) ∧ va.toNat < 2 ^ 55 ∧ va.toNat % ldSize none ≠ 0) ∧
    (let s := withS [(1, 0x3FFF8)] (mapped .c)
     let u := s.settle .c
     Admits .c 1 .none s u ∧ (u.sReg 1).toNat < 2 ^ 55 ∧ (u.sReg 1).toNat % ldSize none = 0 ∧
       ∃ r, u.loadGen .c .c (u.sReg 1) 8 = .ok r) ∧
    (let s := withS [(1, 0x40000)] (mapped .c)
     let u := s.settle .c
     Admits .c 1 .none s u ∧ ∃ st, u.loadGen .c .c (u.sReg 1) 8 = .error st) ∧
    ([0x80, 1, 2, 0xFF] : List Byte).length = szBytes 2 :=
  ⟨⟨admits_plain rfl, by decide⟩, ⟨admits_plain rfl, by decide, by decide⟩, ⟨admits_plain rfl, by decide, by decide, oks (by decide)⟩,
    ⟨admits_plain rfl, errs (by decide)⟩, by decide⟩

/-- The mapped page's channel object, over a range of it. -/
def chan (scope : BitVec 32) (s : State) : State :=
  { s with
    syncs := [{ flagObj 0 with oid := 0x30000000 ||| (scope <<< 25) }]
    binds := [⟨.gen 0 0x30000, 256, 0x30000000 ||| (scope <<< 25), 0⟩] }
theorem witness_LoadsOfC_acquiring :
    (let s := chan 0 (withS [(1, 0x30010)] (mapped .c))
     let u := s.settle .c
     Admits .c 1 .none s u ∧ (u.sReg 1).toNat < 2 ^ 55 ∧ (u.sReg 1).toNat % 8 = 0 ∧ (∃ r, u.loadGen .c .c (u.sReg 1) 8 = .ok r) ∧
       ∃ x, u.channelOf (.gen u.vf (u.sReg 1).toNat) = some x ∧ u.inScope x = true) ∧
    (let s := chan 7 (withS [(1, 0x30010)] (mapped .c))
     ∃ x, (s.settle .c).channelOf (.gen (s.settle .c).vf ((s.settle .c).sReg 1).toNat) = some x ∧ (s.settle .c).inScope x = false) ∧
    (mapped .c).channelOf (.gen 0 0x30010) = none ∧
    (let s := mapped .c
     (∃ r, s.translate .c .c false 0x30010 = .ok (.cell 0x20010, r)) ∧ s.bad = [] ∧ s.soft = [] ∧ s.plat.noSteppe = false ∧ s.hist = []) :=
  ⟨⟨admits_plain rfl, by decide, by decide, oks (by decide), _, rfl, by decide⟩, ⟨_, rfl, by decide⟩, by decide, fsts (by decide), rfl, rfl, rfl, rfl⟩

/-- The whole mapped page lies in a sealed object. -/
def sealed (s : State) : State :=
  { s with objs := [⟨5, 0, 0x30000, 0x100, Vector.replicate 4 0, 0, 0, 16, 0, true⟩] }
theorem witness_StoresOfC :
    (let s := withS [(1, 0x30010)] (mapped .c)
     let u := s.settle .c
     Admits .c 1 .none s u ∧ isOk (u.translate .c .c true (u.sReg 1)) = true ∧
       (∀ i, i < 8 → u.isSealed u.vf ((u.sReg 1).toNat + i) (.cell (0x20010 + i)) = false) ∧ (∃ r, storeC u (u.sReg 1) 8 = .ok r) ∧ Memory.wf u.mem = true ∧
       u.keeps u.core.launch = false ∧ u.dirtyCell u.vf 0x20010 = none) ∧
    (let s := sealed (withS [(1, 0x30010)] (mapped .c))
     let u := s.settle .c
     Admits .c 1 .none s u ∧ (∃ r, u.translate .c .c true (u.sReg 1) = .ok r) ∧ ∃ i, i < 8 ∧ u.isSealed u.vf ((u.sReg 1).toNat + i) (.cell (0x20010 + i)) = true) :=
  ⟨⟨admits_plain rfl, by decide, by decide, oks (by decide), by decide, by decide, by decide⟩, admits_plain rfl, oks (by decide), 0, by decide, by decide⟩

theorem witness_CommandPortsOfC :
    (let u := (at0 .c).settle .c
     Admits .c 1 .none (at0 .c) u ∧ u.core.xp[(0 : Fin 3)].outstanding u.inShadow < xCap u.inShadow ∧ u.core.xp[(0 : Fin 3)].res = []) ∧
    (let s := (at0 .c).modCore fun c => { c with xp := c.xp.set 0 ⟨8, [⟨5, true, false, 0⟩], 0, []⟩ }
     let u := s.settle .c
     Admits .c 1 .none s u ∧ xCap u.inShadow ≤ u.core.xp[(0 : Fin 3)].outstanding u.inShadow ∧ u.core.xp[(0 : Fin 3)].outstanding u.inShadow ≤ 8 ∧
       ∃ r, u.core.xp[(0 : Fin 3)].res = [r] ∧ r.fresh = false) ∧
    (let s := withS [(1, 0)] (at0 .c)
     let u := s.settle .c
     Admits .c 1 .none s u ∧ s.inShadow = false ∧ ((u.gang u.core.launch).map Gang.dual).getD false = false ∧
       (let p := packetOf ((List.range 8).map fun i => u.sReg (nextReg 1 i))
        let q := u.queue (queueKey u.vf p.queue)
        q.fifo.length < 32 ∧ (p.bad q || !q.dev || decide (u.core.cr.lvl.toNat < p.lvl)) = true)) :=
  ⟨⟨admits_plain rfl, by decide, rfl⟩, ⟨admits_plain rfl, by decide, by decide, _, rfl, rfl⟩, admits_plain rfl, rfl, by decide, by decide, by decide⟩
/-- A queue that devices may push to, empty and full, and the packet of queue 0 with no objects and a record at 0. -/
theorem witness_CommandPortsOfC_launch :
    (let s := (at0 .c).setQueue 0 { Queue.reset with cfg := 0x10809 }
     let u := s.settle .c
     let p := packetOf ((List.range 8).map fun i => u.sReg (nextReg 1 i))
     let q := u.queue (queueKey u.vf p.queue)
     Admits .c 1 .none s u ∧ q.fifo.length < 32 ∧ (p.bad q || !q.dev || decide (u.core.cr.lvl.toNat < p.lvl)) = false) ∧
    (let s := (at0 .c).setQueue 0 { Queue.reset with fifo := List.replicate 32 ⟨1, Vector.replicate 8 0, [], 0, 0⟩ }
     let u := s.settle .c
     Admits .c 1 .none s u ∧ 32 ≤ (u.queue (queueKey u.vf (packetOf ((List.range 8).map fun i => u.sReg (nextReg 1 i))).queue)).fifo.length) :=
  ⟨⟨admits_plain rfl, by decide, by decide⟩, admits_plain rfl, by decide⟩

/-- A name record of "a" at 0x30040, and of length 0 at 0x30048 + 8; page 0x30000 is frame 0x20000. -/
def named1 (xs : List Name) (os : List Obj) (hs : List Handle) : State :=
  { withS [(1, 0x30040)] (mapped .c) with mem := [(0x20040, 1), (0x20048, 97)], names := xs, objs := os, handles := hs }
def obj5 : Obj := ⟨5, 0, 0x30000, 0x100, Vector.replicate 4 0, 0, 0, 16, 0, true⟩
def readsName (s : State) (p : State → Bool) : Bool :=
  okWith (readName ((s.settle .c).sReg 1) (s.settle .c)) fun r => r.1 == some [97] && p r.2
/-- A malformed name; an unbound, a bound one; an open handle and none; an event of RCLM and none. -/
theorem witness_NamesAreOpenedAndClosed :
    (let s := withS [(1, 0x30040)] (mapped .c)
     Admits .c 1 .none s (s.settle .c) ∧ s.inShadow = false ∧ (s.settle .c).dirBusy = false ∧
       (∃ t, readName ((s.settle .c).sReg 1) (s.settle .c) = .ok (none, t)) ∧ ((s.settle .c).sReg 3).extractLsb' 0 32 = 0 ∧
       (s.settle .c).handles.any (fun h => h.gang == (s.settle .c).core.launch && h.idx == ((s.settle .c).sReg 1).toNat) = false ∧
       (((s.settle .c).gang (s.settle .c).core.launch).map Gang.dual).getD false = false ∧ (∀ r ∈ (s.settle .c).reclaims, r.vf ≠ (s.settle .c).vf)) ∧
    readsName (named1 [] [] []) (fun t => !isOk (t.openName t.core.launch t.vf [97])) = true ∧
    readsName (named1 [⟨0, [97], 5, 0⟩] [obj5] []) (fun t => isOk (t.openName t.core.launch t.vf [97])) = true ∧
    (let s := named1 [] [] [⟨0, 0x30040, 5⟩]
     (s.settle .c).handles.any (fun h => h.gang == (s.settle .c).core.launch && h.idx == ((s.settle .c).sReg 1).toNat) = true) ∧
    (let s := { named1 [] [] [] with reclaims := [⟨0, 5, 0x30000, 0x100, 16⟩] }
     (∃ r, (s.settle .c).reclaims.find? (fun r => r.vf == (s.settle .c).vf) = some r) ∧
       isOk (storeWords ((s.settle .c).sReg 1) [5, 0x30000, 0x100, 16] (s.settle .c)) = true) :=
  ⟨⟨admits_plain rfl, rfl, by decide, fsts (by decide), by decide, by decide, by decide, by decide⟩, by decide, by decide, by decide,
    ⟨_, rfl⟩, by decide⟩

/-- A seal record at 0x30040 of the range 0x30000 to 0x300FF, in a page that the tables map; a stage record of handle 0. -/
def sealRec : State :=
  let s := withS [(1, 0x30040)] (mapped .c)
  { s with
    vfs := s.vfs.set 0 { s.vfs[0] with s1tb := 0x10001 }
    mem := [(0x10000, 0x01), (0x10002, 0x03), (0x20041, 0x00 ||| 0x00), (0x20042, 3), (0x20049, 1), (0x30000, 0x01), (0x30002, 0x04),
      (0x40018, 0x0F), (0x4001A, 0x02)].filter fun c => c.2 != 0 }
theorem witness_NamesAreOpenedAndClosed_seal :
    (Admits .c 1 .none sealRec (sealRec.settle .c) ∧ sealRec.inShadow = false ∧ (sealRec.settle .c).dirBusy = false ∧
      okWith (readWords ((sealRec.settle .c).sReg 1) 8 (sealRec.settle .c)) (fun r => sealOk r.1 &&
        (pagesOf (r.1.getD 0 0).toNat (r.1.getD 1 0).toNat).all (fun p => r.2.pageTier r.2.vf p == some 0) &&
        r.2.freeHandle r.2.core.launch == some 0) = true) ∧
    (let s := withS [(1, 0x30040)] (mapped .c)
     okWith (readWords ((s.settle .c).sReg 1) 8 (s.settle .c)) (fun r => !sealOk r.1) = true ∧ ((s.settle .c).sReg 1).extractLsb' 16 48 ≠ 0) ∧
    (let s := { withS [(1, 0x7000)] (mapped .c) with handles := [⟨0, 0, 5⟩], objs := [obj5] }
     let u := s.settle .c
     (u.sReg 1).extractLsb' 16 48 = 0 ∧ ((u.sReg 1).extractLsb' 12 4).toNat < 8 ∧ (∃ o, u.handleObj u.core.launch ((u.sReg 1).extractLsb' 0 12).toNat = some o)) ∧
    (at0 .c).handleObj 0 0 = none ∧
    (let s := { withS [(1, 0x30040)] (mapped .c) with mem := [(0x20048, 1), (0x20050, 97)], handles := [⟨0, 0, 5⟩], objs := [obj5] }
     let u := s.settle .c
     okWith (readWords (u.sReg 1) 1 u) (fun r => (r.1.getD 0 0).extractLsb' 12 51 == 0 && !(r.1.getD 0 0).getLsbD 63 &&
       (r.2.handleObj r.2.core.launch 0).isSome && okWith (readName (u.sReg 1 + 8) r.2) fun q => q.1.isSome) = true) := by
  refine ⟨⟨admits_plain rfl, rfl, by decide, by decide⟩, ⟨by decide, by decide⟩, ⟨by decide, by decide, _, rfl⟩, by decide, by decide⟩

/-- A flag object in scope, below and at its limit; a mark that has fired and one that has not; a binding and none. -/
theorem witness_FlagsMarksAndBindings :
    (let s := { withS [(1, 0x320000001)] (at0 .c) with syncs := [flagObj 0xFFFFFFFC] }
     Admits .c 1 .none s (s.settle .c) ∧ s.inShadow = false ∧ okWith ((s.settle .c).named (opOid ((s.settle .c).sReg 1)) 2)
       (fun o => decide (o.value + opVal ((s.settle .c).sReg 1) < 2 ^ 32)) = true) ∧
    (let s := { withS [(1, 0x320000001)] (at0 .c) with syncs := [flagObj 0xFFFFFFFD] }
     okWith ((s.settle .c).named (opOid ((s.settle .c).sReg 1)) 2) (fun o => decide (2 ^ 32 ≤ o.value + opVal ((s.settle .c).sReg 1))) = true) ∧
    (let s := withS [(1, 0x107)] ((at0 .c).modEng .c fun x => { x with marks := 0x80 })
     ((s.settle .c).eng .c).marks.getLsbD 7 = true) ∧ ((at0 .c).eng .a).marks.getLsbD 7 = false ∧
    (let s := { withS [(1, 0x30000)] (at0 .c) with binds := [⟨.gen 0 0x30000, 256, 0x30000000, 0⟩] }
     (s.settle .c).binds.any (fun b => b.base == (s.settle .c).baseLoc ((s.settle .c).sReg 1) && b.gang == (s.settle .c).core.launch) = true) ∧
    (at0 .c).syncObj 5 = none ∧
    (let s := { at0 .c with syncs := [flagObj 0, { flagObj 0 with oid := 0x2E000001 }] }
     s.inScope 0x20000001 = true ∧ s.inScope 0x2E000001 = false ∧ ((0x20000001 : BitVec 32).extractLsb' 28 4).toNat = 2) :=
  ⟨⟨admits_plain rfl, rfl, by decide⟩, by decide, by decide, by decide, by decide, by decide, by decide⟩
/-- A bind record that creates a flag object, one that binds to it, one to no object, and one whose Z bits are not 0. -/
def bindAt (w2 : List Host.Cell) (os : List SyncObj) : State := { withS [(1, 0x30040)] (mapped .c) with mem := w2, syncs := os }
def bindOf (s : State) (p : BindRec → List Word → State → Bool) : Bool :=
  okWith (readWords ((s.settle .c).sReg 1) 4 (s.settle .c)) fun r => p (bindRec r.1) r.1 r.2
theorem witness_FlagsMarksAndBindings_binding :
    Admits .c 1 .none (bindAt [(0x20054, 2)] []) ((bindAt [(0x20054, 2)] []).settle .c) ∧
    bindOf (bindAt [(0x20054, 2)] []) (fun r ws t => r.ok (ws.getD 2 0) t.core.pod.isSome && r.len == 0 && r.oid == 0 && (t.create r).isSome) = true ∧
    bindOf (bindAt [(0x20042, 3), (0x20049, 1), (0x20050, 1), (0x20053, 0x20)] [flagObj 0]) (fun r ws t =>
      r.ok (ws.getD 2 0) t.core.pod.isSome && t.bindable r.base r.len && r.oid == 0x20000001 && (t.syncObj r.oid).isSome && t.inScope r.oid) = true ∧
    bindOf (bindAt [(0x20050, 1)] []) (fun r ws t => r.ok (ws.getD 2 0) t.core.pod.isSome && r.oid != 0 && (t.syncObj r.oid).isNone) = true ∧
    bindOf (bindAt [(0x20057, 1)] []) (fun r ws t => !r.ok (ws.getD 2 0) t.core.pod.isSome) = true :=
  ⟨admits_plain rfl, by decide, by decide, by decide, by decide⟩

/-- A barrier of two arrivals at phase 4: phases 3, 4, 7 and 8; an arrival past NA; the domain barrier before and after arrival. -/
def bar2 (arr : Nat) : SyncObj := ⟨0x10000001, 0, ⟨0, 0, 0⟩, none, 2, 0, 4, none, [⟨4, arr, 0, 0, []⟩], [], 0, 0, [], []⟩
theorem witness_BaraArrives :
    ((bar2 0).ph + 3 < 2 ^ 31 ∧ (3 < (bar2 0).ph) ∧ ((bar2 0).ph + 3 < 8) ∧ ((bar2 0).ph ≤ 4 ∧ 7 ≤ (bar2 0).ph + 3) ∧
      (bar2 2).na < ((bar2 2).phase 4).arr + 1 ∧ ((bar2 1).phase 4).arr + 1 ≤ (bar2 1).na ∧ ((bar2 1).phase 4).bytes + 0 ≤ (bar2 1).nb) ∧
    (Admits .c 1 .none (at0 .c) ((at0 .c).settle .c) ∧ (at0 .c).inShadow = false ∧ opOid (((at0 .c).settle .c).sReg 1) = 0 ∧
      ((at0 .c).settle .c).core.cr.domm.getLsbD 40 = false) ∧
    ((at0 .c).modCr fun r => { r with domm := 1 <<< 40 }).core.cr.domm.getLsbD 40 = true ∧
    (let s := { withS [(1, 0x4_1000_0001)] (at0 .c) with syncs := [bar2 0] }
     opOid ((s.settle .c).sReg 1) ≠ 0 ∧ okWith ((s.settle .c).named (opOid ((s.settle .c).sReg 1)) 1) (fun o => o == bar2 0) = true) ∧
    (let s := { withS [(1, 0x8_1000_0001)] (at0 .c) with syncs := [bar2 0] }
     opVal ((s.settle .c).sReg 1) = 8) ∧
    isOk ((at0 .c).named 0x10000001 1) = false := by
  refine ⟨by decide, ⟨admits_plain rfl, rfl, by decide, by decide⟩, by decide, by decide, by decide, by decide⟩

/-- A domain of this core, at depth 2. -/
def dom1 (s : State) : State :=
  { s.modCr (fun r => { r with domm := 0x10 }) with domains := [⟨0, 0, 0, 2, [⟨0, 0, 0⟩], none, 3, [], 0, [], [], [], [], []⟩] }
theorem witness_WaitsBegin :
    (let s := { withS [(1, 0x320000001)] (at0 .c) with syncs := [flagObj 1] }
     Admits .c 1 .none s (s.settle .c) ∧ s.inShadow = false ∧ s.core.cwait = .none ∧ isOk ((s.settle .c).named (opOid ((s.settle .c).sReg 1)) 2) = true) ∧
    (let s := { withS [(1, 0x4_1000_0001)] (at0 .c) with syncs := [bar2 0] }
     opOid ((s.settle .c).sReg 1) ≠ 0 ∧ isOk ((s.settle .c).named (opOid ((s.settle .c).sReg 1)) 1) = true ∧ ∃ y, (bar2 0).arrive 4 1 0 0 [] = .ok y) ∧
    (let s := dom1 (at0 .c)
     opOid ((s.settle .c).sReg 1) = 0 ∧ (s.settle .c).core.cr.domm.getLsbD 40 = false ∧ (∃ dm, (s.settle .c).domain (s.settle .c).core.dom = some dm) ∧
       dommDepth (s.settle .c).core.cr.domm ≠ 3 ∧ dommDepth (s.settle .c).core.cr.domm ≠ 0) ∧
    dommDepth ((at0 .c).modCr fun r => { r with domm := 0x18 }).core.cr.domm = 3 ∧ dommDepth (at0 .c).core.cr.domm = 0 ∧
    (let s := (at0 .c).modCore fun c => { c with cwait := .answered 7 0 }
     Admits .c 1 .none s (s.settle .c) ∧ s.core.cwait = .answered 7 0) ∧
    (let s := (at0 .c).modCore fun c => { c with cwait := .departed (.dom 0) 3 0 }
     Admits .c 1 .none s (s.settle .c) ∧ s.core.cwait = .departed (.dom 0) 3 0) ∧
    (let s := (at0 .c).modCore fun c => { c with cwait := .barrier (.dom 0) 3 }
     Admits .c 1 .none s (s.settle .c) ∧ s.core.cwait = .barrier (.dom 0) 3) := by
  refine ⟨⟨admits_plain rfl, rfl, rfl, by decide⟩, ⟨by decide, by decide, _, rfl⟩, ⟨by decide, by decide, ⟨_, rfl⟩, by decide, by decide⟩,
    by decide, by decide, ⟨admits_plain rfl, rfl⟩, ⟨admits_plain rfl, rfl⟩, admits_plain rfl, rfl⟩

theorem witness_BarriersRelease :
    (let o := { bar2 2 with named := some 4 }
     let s := { at0 .c with syncs := [o] }
     s.syncObj 0x10000001 = some o ∧ o.due = true ∧ oidScope 0x10000001 ≠ 4) ∧
    ({ at0 .c with syncs := [bar2 1] }.syncObj 0x10000001 = some (bar2 1) ∧ (bar2 1).due = false) ∧
    oidScope 0x18000001 = 4 ∧
    (let s := dom1 (at0 .c)
     (∃ dm, s.domain 0 = some dm ∧ s.domDue dm = false) ∧ ∃ dm, { s with domains := s.domains.map fun (d : Domain) => { d with arrived := d.members } }.domain 0 = some dm ∧
       { s with domains := s.domains.map fun (d : Domain) => { d with arrived := d.members } }.domDue dm = true) ∧
    (let s := { at0 .c with syncs := [bar2 2], ticks := [⟨.obj 0x10000001, 4, 100⟩], timer := 100 }
     ∃ k, s.ticks.find? (fun t => t.obj == .obj 0x10000001 && t.tick ≤ s.timer) = some k) ∧
    (let o := { bar2 2 with past := [⟨3, 0, some 50, Vector.replicate 4 .reset⟩] }
     let s := { at0 .c with syncs := [o] }
     let c := { s.core with cwait := .barrier (.obj 0x10000001) 3 }
     c.cwait = .barrier (.obj 0x10000001) 3 ∧ s.syncObj 0x10000001 = some o ∧ o.past.find? (·.k == 3) = some ⟨3, 0, some 50, Vector.replicate 4 .reset⟩) := by
  refine ⟨⟨rfl, by decide, by decide⟩, ⟨rfl, by decide⟩, by decide, ⟨⟨_, rfl, by decide⟩, _, rfl, by decide⟩, ⟨_, rfl⟩, rfl, rfl, by decide⟩

/-- A gang whose launch this core belongs to; w0 is its packet's first word. -/
def gang0 (w0 : Word) : Gang :=
  ⟨0, 0, ⟨1, (Vector.replicate 8 0).set 0 w0, [], 0, 0⟩, 0, 0, [⟨0, 0, 0⟩], 0, 0, 0, 0, 0, 0, 0, .running, 0, false, none, none, [], [], [], [], [],
    none, false, false, 0, 0, [], none, [], false⟩
def withGang (w0 : Word) (s : State) : State := { s with disp := { s.disp with gangs := [gang0 w0] } }
def isDual (s : State) : Bool := ((s.gang s.core.launch).map Gang.dual).getD false

/-- A run of a dual launch, outside the shadow context. -/
theorem witness_CommandPortsOfC_dual :
    let s := withGang 0x4000 (at0 .c)
    Admits .c 1 .none s (s.settle .c) ∧ s.inShadow = false ∧ isDual (s.settle .c) = true :=
  ⟨admits_plain rfl, rfl, by decide⟩

/-- A dual launch; a buffer at 2^55, a misaligned one, one in the mapped page. -/
theorem witness_CountersAreRead :
    (∃ u, Admits .c (xWords false) .none (at0 .c) u) ∧ (∃ u, Admits .c (xWords true) .none (at0 .c) u) ∧
    (let s := withGang 0x4000 (at0 .c)
     Admits .c 1 .none s (s.settle .c) ∧ isDual (s.settle .c) = true) ∧
    (isDual ((c2 0x80000000000000 0).settle .c) = false ∧ 2 ^ 55 ≤ (((c2 0x80000000000000 0).settle .c).sReg 1).toNat) ∧
    (let u := (c2 0x30008 0).settle .c
     isDual u = false ∧ (u.sReg 1).toNat < 2 ^ 55 ∧ (u.sReg 1).toNat % 4096 ≠ 0) ∧
    (let s := withS [(1, 0x30000)] (mapped .c)
     let u := s.settle .c
     Admits .c 1 .none s u ∧ isDual u = false ∧ (u.sReg 1).toNat < 2 ^ 55 ∧ (u.sReg 1).toNat % 4096 = 0 ∧
       okWith (readWords (u.sReg 1) 4 u) (fun r => okWith (r.2.translate .c .c true (u.sReg 1)) fun l =>
         l.2.objs.length == 0) = true) :=
  ⟨⟨_, admits_at0 .c 1 (.inl rfl)⟩, ⟨_, admits_at0 .c 2 (.inr rfl)⟩, ⟨admits_plain rfl, by decide⟩, by decide, by decide,
    admits_plain rfl, by decide, by decide, by decide, by decide⟩

/-- Numbers that no map names, and TIMER's; each level below, at and above a least level. -/
theorem witness_ControlRegistersAreReadAndWritten :
    (∀ k : BitVec 2, Admits .c 2 .none (lvl k) ((lvl k).settle .c) ∧ ((lvl k).settle .c).core.cr.lvl.toNat = k.toNat) ∧
    ctlLevels 0x007 = none ∧ ctlLevels 0x020 = some (1, none) ∧ ctlLevels 0x026 = some (1, some 2) ∧ ctlLevels 0x005 = some (0, some 0) ∧
    State.reset.core.id.plain < 4 := by
  refine ⟨fun k => ⟨admits_lvl k 2 (.inr rfl), ?_⟩, by decide⟩
  revert k; decide

/-- Two pending causes. -/
def causes2 : State := (at0 .c).modCr fun r => { r with pending := [causeAt (at0 .c) .v 0x10 0, causeAt (at0 .c) .c 0x3E 2] }
theorem witness_TrapEntryRecordsTheCause : ∃ c, firstCause causes2.core.cr.pending = some c := ⟨_, rfl⟩

theorem witness_TrapAndReturn : (Admits .c (xWords false) .none (at0 .c) ((at0 .c).settle .c) ∧ (at0 .c).inShadow = false) ∧
    (Admits .c (xWords true) .none shadow (shadow.settle .c) ∧ shadow.inShadow = true ∧ (shadow.settle .c).core.overlay = []) ∧
    (causeAt shadow .c 0x10 0).code ≠ 0x3E ∧ (causeAt shadow .c 0x10 0).code ≠ 0x01 ∧ (⟨false, false, false, true⟩ : Marks) ≠ .none :=
  ⟨⟨admits_at0 .c 1 (.inl rfl), rfl⟩, ⟨admits_shadow 2 (.inr rfl), rfl, rfl⟩, by decide, by decide, by decide⟩

/-- A core at maker level whose s1 is a. -/
def maker (a : Word) : State := withS [(1, a)] (lvl 3)
/-- For each level the instructions at and below it; ACSW of 16 and of 15; KEYSEL with and without its Z bits and N; PREEMPT of its
own gang, of another, of none, with a Z bit, with F, and with H and F; HOLLOW. -/
theorem witness_SystemInstructionsAct :
    (∀ k : BitVec 2, Admits .c (optWords (some 2)) .none (lvl k) ((lvl k).settle .c) ∧ Admits .c (optWords (none : Option (BitVec 24))) .none (lvl k) ((lvl k).settle .c) ∧
      ((lvl k).settle .c).core.cr.lvl.toNat = k.toNat ∧ ((lvl k).settle .c).inShadow = false) ∧
    (Admits .c (xWords false) .none shadow (shadow.settle .c) ∧ (shadow.settle .c).inShadow = true ∧ 1 ≤ (shadow.settle .c).core.cr.lvl.toNat) ∧
    (∀ a : Word, Admits .c (xWords false) .none (maker a) ((maker a).settle .c)) ∧
    (((maker 16).settle .c).sReg 1).toNat = 16 ∧ (((maker 15).settle .c).sReg 1).toNat = 15 ∧
    ((maker 0x40).settle .c).sReg 1 = 0x40 ∧ ((maker 0x105).settle .c).sReg 1 = 0x105 ∧ isDual ((maker 0).settle .c) = false ∧
    ((maker 0x400000000).settle .c).sReg 1 = 0x400000000 ∧ ((maker 0x300000000).settle .c).sReg 1 = 0x300000000 ∧
    ((maker 9).settle .c).preemptBad 9 false = some (-1) ∧
    (let s := withGang 0 (maker 1)
     Admits .c (xWords false) .none s (s.settle .c) ∧ (s.settle .c).preemptBad 1 false = none ∧
       ∃ g ∈ (s.settle .c).runsOf 1, g.key = (s.settle .c).core.launch) ∧
    (let s := { maker 1 with disp := { (maker 1).disp with gangs := [{ gang0 0 with key := 5 }] } }
     Admits .c (xWords false) .none s (s.settle .c) ∧ (s.settle .c).preemptBad 1 false = none ∧
       ∀ g ∈ (s.settle .c).runsOf 1, g.key ≠ (s.settle .c).core.launch) ∧
    (let s := { maker 0x200000001 with disp := { (maker 1).disp with gangs := [{ gang0 0 with key := 5, st := .stopped, hold := true }] } }
     Admits .c (xWords false) .none s (s.settle .c) ∧ (s.settle .c).preemptBad 1 true = none ∧
       ∀ g ∈ (s.settle .c).runsOf 1, (s.settle .c).copyxOf g = []) := by
  refine ⟨fun k => ⟨admits_lvl k 2 (.inr rfl), admits_lvl k 1 (.inl rfl), ?_, rfl⟩, ⟨admits_shadow 1 (.inl rfl), rfl, by decide⟩,
    fun a => admits_plain rfl, by decide, by decide, by decide, by decide, by decide, by decide, by decide, by decide,
    ⟨admits_plain rfl, by decide, by decide⟩, ⟨admits_plain rfl, by decide, by decide⟩, admits_plain rfl, by decide, by decide⟩
  revert k; decide

/-- A's accesses: a load that is answered and one outside the window; a full queue; blocks by rows, by stride and by indices in
scratch; a block of a sealed object held open; each check of an address. -/
def aLoads (a b : Word) : State := withA [(1, a), (2, b)] (mapped .a)
def lqFull : State := (aLoads 0 0).modR fun r => { r with lq := r.lq.set 1 ⟨List.replicate 16 ⟨0, some 1, false, false⟩, 0⟩ }
def lqOne (s : State) : State := let u := s.settle .a; u.modR fun _ => (u.core.r.qReserve (.lq 1)).1
def blockAt (addr : Nat → Option Word) (v : State) : Except Stop ARead :=
  readElems .a (.strm 2) 4 4 [0, 0, 0, 0] addr (fun _ c => c) 64 0 v
theorem witness_LoadsOfA :
    (∀ a b : Word, Admits .a (optWords (none : Option (BitVec 24))) .none (aLoads a b) ((aLoads a b).settle .a) ∧
      ((aLoads a b).settle .a).core.r.qRoom (.lq 1) 1 = true ∧ ((aLoads a b).settle .a).aSrc (.a 1) = a ∧ ((aLoads a b).settle .a).aSrc (.a 2) = b) ∧
    isOk (((aLoads 0x30010 0).settle .a).readA .a (.strm 2) 0x30010 8 8) = true ∧
    isOk (((aLoads 0x30011 0).settle .a).readA .a (.strm 2) 0x30011 8 8) = false ∧
    (Admits .a (optWords (none : Option (BitVec 24))) .none lqFull (lqFull.settle .a) ∧ (lqFull.settle .a).core.r.qRoom (.lq 1) 1 = false) ∧
    isOk (blockAt (fun j => some (0x30000 + BitVec.ofNat 64 (4 * j))) (lqOne (aLoads 0x30000 8))) = true ∧
    isOk (blockAt (fun j => some (0x30000 + BitVec.ofNat 64 j * 8)) (lqOne (aLoads 0x30000 8))) = true ∧
    isOk (blockAt (fun j => some (0x8000000000003FFC + BitVec.ofNat 64 (4 * j))) (lqOne (aLoads 0 0))) = false ∧
    okWith (blockAt (fun j => some (0x8000000000000000 + BitVec.ofNat 64 (4 * j))) (lqOne (aLoads 0x30000 0x8000000000000000)))
      (fun x => isOk (blockAt (fun j =>
        let i := bytesVal ((x.bytes.drop (4 * j)).take 4)
        if i = 0xFFFFFFFF then none else some (0x30000 + BitVec.ofNat 64 (4 * i))) x.st)) = true ∧
    (let s := { aLoads 0x30000 0 with objs := [obj5], handles := [⟨0, 0, 5⟩] }
     (s.settle .a).heldOpen 0x30000 = true ∧ (s.settle .a).heldOpen 0x300FF = true ∧ (s.settle .a).heldOpen 0x30100 = false) := by
  refine ⟨fun a b => ⟨admits_plain rfl, by rfl, by rfl, by rfl⟩, by decide, by decide, ⟨admits_plain rfl, by decide⟩, ?_⟩
  decide
theorem witness_LoadsOfA_checks :
    (let va : Word := 0x8000000000800000
     va.getLsbD 63 = true ∧ va.extractLsb' 23 40 ≠ 0) ∧
    (let va : Word := 0x80000000000000
     va.getLsbD 63 = false ∧ va.extractLsb' 55 8 ≠ 0) ∧
    ((0x30001 : Word).getLsbD 63 = false ∧ (0x30001 : Word).extractLsb' 55 8 = 0 ∧ (0x30001 : Word).toNat % 4 ≠ 0) ∧
    (let va : Word := 0x8000000000003FFC
     va.extractLsb' 23 40 = 0 ∧ va.toNat % 4 = 0 ∧ ((mapped .a).core.cr.spw.extractLsb' 0 11).toNat * 4096 = 0 ∧
       ((mapped .a).core.cr.spw.extractLsb' 16 12).toNat * 4096 = 0x4000 ∧ (va.extractLsb' 0 63).toNat + 4 - 1 < 0x4000 ∧
       0x4000 ≤ (va.extractLsb' 0 63).toNat + 8 - 1) := by decide

/-- A generator record in scratch at A's address 1 (offset 0x100): a tile of one step of 4-byte elements at 0x30000, or what bytes say. -/
def gBytes : List Host.Cell := [(2, 3), (8, 64), (12, 1), (16, 1), (20, 1), (0x34, 1), (0x36, 1), (0x38, 1), (0x3A, 1), (0x3C, 2)]
def recAt (cs : List Host.Cell) : State := { aLoads 0x8000000000000100 0 with mem := cs.map fun c => (3 * 2 ^ 48 + 0x100 + c.1, c.2) }
def recOk (cs : List Host.Cell) (p : Gen → Bool) : Bool :=
  okWith (readElems .a (.strm 2) 4 4 [] (fun j => some (0x8000000000000100 + BitVec.ofNat 64 (4 * j))) (fun _ c => c) 32 0 ((recAt cs).settle .a))
    fun r => p { Gen.reset with recd := recordOf r.bytes, loaded := true }
/-- A generic address, a record that breaks each check in turn, a good one, a good one with an indirect dimension. -/
theorem witness_GeneratorsAreLoaded :
    (∀ cs, Admits .a 2 .none (recAt cs) ((recAt cs).settle .a)) ∧
    (let va : Word := 0x30000
     va.getLsbD 63 = false) ∧ (0x8000000000000104 : Word).toNat % 64 ≠ 0 ∧
    ((0x8000000000000100 : Word).getLsbD 63 = true ∧ (0x8000000000000100 : Word).toNat % 64 = 0) ∧
    recOk (gBytes ++ [(88, 1)]) (fun x => x.check == some 1) = true ∧ recOk [] (fun x => x.check == some 6) = true ∧
    recOk (gBytes ++ [(76, 1)]) (fun x => x.check == some 8) = true ∧
    recOk (gBytes ++ [(7, 0x80), (0x14 + 0x14, 4)]) (fun x => x.check == none) = true ∧
    recOk gBytes (fun x => x.check == none && x.ind == 0) = true ∧
    recOk (gBytes ++ [(0x3D, 1), (76, 1)]) (fun x => x.check == none && x.ind == 1 && x.tabOk (x.tabIdx 0)) = true :=
  ⟨fun _ => admits_plain rfl, by decide, by decide, by decide, by decide, by decide, by decide, by decide, by decide, by decide⟩

/-- A generator with the record of a good tile, and one whose dimension 1 is indirect through a table of tlen entries at a scratch offset. -/
def gen1 (ind tlen : Word) (tbase : Word := 0) : Gen :=
  let w : Vector Word 16 := (Vector.replicate 16 0).set 0 0x30000
  ⟨((((((w.set 1 0x1_0000_0040).set 2 0x1_0000_0001).set 6 0x0001_0001_0000_0000).set 7 (0x2_0001_0001 ||| ind <<< 40)).set 9 (tbase ||| tlen <<< 32))), 0,
    true, .none, .none, 0⟩
def withGen (x : Gen) : State := ((aLoads 0 0).modCore fun c => { c with stlb := c.stlb.set 0 c.stlb[2] }).setGen 0 x
/-- No generator, a table index past the end, an entry held outside the window, one being read, no indirect dimension. -/
theorem witness_GeneratorsProduceBlocks :
    (∀ x, Admits .a 1 .none (withGen x) ((withGen x).settle .a)) ∧
    (let t := ((withGen Gen.reset).settle .a).endReads 0 5
     (t.gen 0).steps = 0) ∧
    (let t := ((withGen (gen1 1 0)).settle .a).endReads 0 5
     (t.gen 0).steps ≠ 0 ∧ (t.gen 0).ind ≠ 0 ∧ (t.gen 0).inside (t.gen 0).step ≠ 0 ∧ (t.gen 0).tlen ≤ (t.gen 0).tabIdx (t.gen 0).step) ∧
    (let t := ((withGen { gen1 1 1 0x4000 with cur := ⟨0, true, false, 0, 7, 0⟩ }).settle .a).endReads 0 5
     let x := t.gen 0
     x.steps ≠ 0 ∧ x.ind ≠ 0 ∧ x.inside x.step ≠ 0 ∧ x.tabIdx x.step < x.tlen ∧ x.entry (x.tabIdx x.step) = some ⟨0, true, false, 0, 7, 0⟩ ∧
       (t.core.cr.spw.extractLsb' 0 11).toNat * 4096 + (t.core.cr.spw.extractLsb' 16 12).toNat * 4096 < x.tbase + 4 * x.tabIdx x.step + 4) ∧
    (let t := ((withGen (gen1 1 1)).settle .a).endReads 0 5
     (t.gen 0).steps ≠ 0 ∧ (match (t.gen 0).need t.core.cr.spw with | .wait _ => true | _ => false) = true ∧
       ((withGen (gen1 1 1)).eng .a).wait ≠ .breath) ∧
    (let t := ((withGen (gen1 0 0)).settle .a).endReads 0 5
     (t.gen 0).steps ≠ 0 ∧ t.bad = [] ∧ t.soft = [] ∧ t.plat.noSteppe = false ∧ (t.gen 0).need t.core.cr.spw = .entry 0 ∧
       t.core.r.qRoom (.lq 1) 1 = true ∧ t.core.r.qRoom .saq 1 = true ∧
       isOk (genRead (t.modR fun _ => (t.core.r.qReserve (.lq 1)).1) 0 (t.gen 0) 0) = true) ∧
    (let s := withGen { gen1 0 0 with cur := ⟨0, false, true, 6, 0, 0⟩, ahead := ⟨1, false, true, 2, 0, 0⟩ }
     (s.gen 0).cur.rdg = true ∧ 6 ≤ (s.gen 0).cur.rcy ∧ (s.gen 0).ahead.rcy < 6) := by
  refine ⟨fun _ => admits_plain rfl, by decide, by decide, by decide, ⟨by decide, by decide, by decide⟩, ⟨by decide, by decide, by decide, by decide, rfl,
    by decide, by decide, by decide⟩, by decide⟩

/-- saq full and not; a branch taken, not taken, and taken with kill and cut. -/
theorem witness_StoreAddressesAndDescriptors :
    (let s := (aLoads 5 7).modR fun r => { r with saq := ⟨List.replicate 32 ⟨0, some ⟨0, 0, 0, false, 0, 0, 0, 0⟩, false, false⟩, 0⟩ }
     Admits .a 1 .none s (s.settle .a) ∧ (s.settle .a).core.r.qRoom .saq 1 = false) ∧
    (let s := aLoads 5 7
     let u := s.settle .a
     Admits .a 1 .none s u ∧ Admits .a 2 .none s u ∧ u.core.r.qRoom .saq 1 = true ∧ u.aSrc (.a 1) ≠ u.aSrc (.a 2) ∧
       u.aSrc (.a 1) = u.aSrc (.p 0) + 5 ∧ (u.aSrc (.a 1)).toInt < (u.aSrc (.a 2)).toInt ∧ ¬ (u.aSrc (.a 2)).toInt < (u.aSrc (.a 1)).toInt ∧
       CutRoom .a true u ∧ ∃ v, Admits .a 2 .none (s.cancel .a) v ∧ CutRoom .a true v) := by
  refine ⟨⟨admits_plain rfl, by decide⟩, admits_plain rfl, admits_plain rfl, by decide, by decide, by decide, by decide, by decide, ?_,
    _, admits_plain rfl, ?_⟩
  all_goals intro _; decide

/-- V with its queues: sq0 full or not, lq1 empty or holding a block. -/
def vq (full some' : Bool) : State := (v2 (lanes 8 9) (lanes 6 7)).modR fun r => { r with
  sq := r.sq.set 0 ⟨if full then List.replicate 16 ⟨0, some 1, false, false⟩ else [], 0⟩
  lq := r.lq.set 1 ⟨if some' then [⟨0, some 77, false, false⟩] else [], 0⟩ }
theorem admits_vq (f g : Bool) (n : Nat) (h : n = 1 ∨ n = 2) : Admits .v n .none (vq f g) ((vq f g).settle .v) := by
  rcases h with rfl | rfl <;> exact admits_plain rfl
theorem witness_LaneOperations :
    (Admits .v (optWords (none : Option VPay)) .none (vq false true) ((vq false true).settle .v) ∧
      ∃ slot t, ((vq false true).settle .v).vReserve .sq0 = .ok (slot, t) ∧ ∃ x y v, t.vRead2 .f32 (.lq 1) (.v 2) = .ok (x, y, v)) ∧
    (∃ slot t x v, ((vq false true).settle .v).vReserve (.v 3) = .ok (slot, t) ∧ t.vRead .f32 (.v 1) = .ok (x, v)) ∧
    (Admits .v (optWords (none : Option VPay)) .none (vq true true) ((vq true true).settle .v) ∧
      ∃ st, ((vq true true).settle .v).vReserve .sq0 = .error st) ∧
    (Admits .v (optWords (none : Option VPay)) .none (vq false false) ((vq false false).settle .v) ∧
      ∃ slot t st, ((vq false false).settle .v).vReserve .sq0 = .ok (slot, t) ∧ t.vRead2 .f32 (.lq 1) (.v 2) = .error st ∧
        t.vRead .f32 (.lq 1) = .error st) :=
  ⟨⟨admits_vq _ _ 1 (.inl rfl), _, _, rfl, _, _, _, rfl⟩, ⟨_, _, _, _, rfl, rfl⟩, ⟨admits_vq _ _ 1 (.inl rfl), _, rfl⟩,
    admits_vq _ _ 1 (.inl rfl), _, _, _, rfl, rfl, rfl⟩

theorem witness_WholeBlockOperations :
    (let u := (vq false true).settle .v
     Admits .v (optWords (none : Option VPay)) .none (vq false true) u ∧ Admits .v (optWords (some (pay .i8 0))) .none (vq false true) u ∧
      (∃ slot t x v, u.vReserve .sq0 = .ok (slot, t) ∧ t.vRead2 .i8 (.lq 1) (.lq 1) = .ok (x, x, v)) ∧
      (∃ slot t x y v, u.vReserve (.v 3) = .ok (slot, t) ∧ t.vRead2 .f32 (.v 1) (.v 2) = .ok (x, y, v)) ∧
      (∃ x y v, u.vRead2 .i8 (.v 1) (.lq 1) = .ok (x, y, v)) ∧ ∃ x v, u.vRead .f32 (.lq 1) = .ok (x, v)) ∧
    (∃ u, Admits .v (xWords false) .none (at0 .v) u) ∧ (∃ u, Admits .v 2 .none (at0 .v) u) ∧
    ∃ slot t, ((vq false true).settle .v).vReserve (.mq 1) = .ok (slot, t) :=
  ⟨⟨admits_vq _ _ 1 (.inl rfl), admits_vq _ _ 2 (.inr rfl), ⟨_, _, _, _, rfl, rfl⟩, ⟨_, _, _, _, _, rfl, rfl⟩, ⟨_, _, _, rfl⟩, _, _, rfl⟩,
    ⟨_, admits_at0 .v 1 (.inl rfl)⟩, ⟨_, admits_at0 .v 2 (.inr rfl)⟩, _, _, rfl⟩

/-- Each width of VCVT; VQNT and VDQN by the word and by the active entry; blocks with amax 0, with a NaN, with a lowest code. -/
theorem witness_Conversions :
    (let u := (vq false true).settle .v
     Admits .v (optWords (some (pay .f32 0))) .none (vq false true) u ∧
      (∀ c ∈ [(.f32, .i32), (.bf16, .f32), (.f32, .bf16)], ∃ src, Fmt.ofCode (c : Fmt × Fmt).1.code = some src) ∧
      (∃ slot t x v, u.vReserve (.v 3) = .ok (slot, t) ∧ t.vRead .f32 (.lq 1) = .ok (x, v)) ∧
      (∃ q, qntSet u (pay .i8 0x100) = .ok q ∧ ∃ slot t, q.st.vReserve (.v 3) = .ok (slot, t)) ∧ (pay .i8 0x100).ty.width = 8 ∧
      ∃ q, qntSet u (pay .i8 0) = .ok q ∧ ∃ x v, q.st.vRead q.fmt (.v 1) = .ok (x, v)) ∧
    (let s := (vq false true).modCr fun r => { r with fmte := r.fmte.set 0 0x00023 }
     isOk (qntSet (s.settle .v) (pay .i8 0x40)) = true) ∧
    (let amax := fun (xs : List Machine.Num) => xs.foldl (fun m x => if x.isFin && m.lt x.abs then x.abs else m) (.fin false 0 1)
     (amax []).isZero = true ∧ (amax [.ofInt 5]).isZero = false ∧ (∃ x ∈ [decodeFmt .f32 0x7FC00000], x.isNan = true) ∧
       (amax [.ofInt 5]).le ((maxFinite .i8).mul (scaleValue 0x0FF)) = true ∧
       (amax [.ofInt 300]).le ((maxFinite .i8).mul (scaleValue 0)) = false) := by
  refine ⟨⟨admits_vq _ _ 2 (.inr rfl), ?_, ⟨_, _, _, _, rfl, rfl⟩, ⟨_, rfl, _, _, rfl⟩, rfl, _, rfl, _, _, rfl⟩, by decide, by decide⟩
  intro c hc
  simp only [List.mem_cons, List.not_mem_nil, or_false] at hc
  rcases hc with rfl | rfl | rfl <;> exact ⟨_, rfl⟩

/-- Bytes in and out of a mask; pieces that S has checked; a piece at 0x20011. -/
def sAddr : SaqEntry := ⟨0x30010, 0b10110, 5, false, 0, 0, 0, 0⟩
theorem witness_MaskedBytesAreWritten :
    maskPieces 0b10110 = [(1, 2), (4, 1)] ∧ isOk (checkPieces sAddr 0 7 none (maskPieces sAddr.mask) (mapped .s)) = true ∧
    Memory.wf (mapped .s).mem = true ∧
    (let p : SPiece := ⟨0x30011, .cell 0x20011, [7], false⟩
     (∀ pa, p.loc = .cell pa → (0x20010 < pa ∨ pa + p.bytes.length ≤ 0x20010) ∧
       (isScratch p.va = false → ((mapped .s).dirtyCell (mapped .s).vf pa).map Prod.fst ≠ some 0x20010)) ∧
     (mapped .s).keeps (mapped .s).core.launch = false ∧ ∀ pa, p.loc = .cell pa → ∀ i, i < p.bytes.length →
       ((mapped .s).dirtyCell (mapped .s).vf pa).map Prod.fst ≠ some (pa + i)) := by
  refine ⟨by decide, by decide, rfl, ?_, by decide, ?_⟩
  · intro pa h
    injection h with h
    subst h
    exact ⟨.inl (by decide), fun _ => by decide⟩
  · intro pa h
    injection h with h
    subst h
    decide

/-- S with entries in both data queues and saq, and without; an address in the channel object, with none; a range outside. -/
def sWith (x y : Block) (addr : Word) (mask : BitVec 256) (s : State) : State :=
  (sq x addr mask s).modR fun r => { r with sq := r.sq.set 1 ⟨[⟨0, some y, false, false⟩], 0⟩ }
def blockChecked (s : State) (p : List SPiece → State → SaqEntry → Bool) : Bool :=
  okWith (popPair 0 (s.settle .s)) fun r => okWith (checkBlock r.2.1 0 r.1 (maskPieces r.2.1.mask) r.2.2) fun q => p q.1 q.2 r.2.1
def errCode {α : Type} (x : Except Stop α) : Nat :=
  match x with
  | .error (.trap c) => c.code
  | _ => 0
theorem witness_StoresOfS :
    (∀ x y addr mask s, gate .s 1 (sWith x y addr mask s) = .ok () → Admits .s 1 .none (sWith x y addr mask s) ((sWith x y addr mask s).settle .s)) ∧
    (Admits .s 1 .none (mapped .s) ((mapped .s).settle .s) ∧ ∃ st, popPair 0 ((mapped .s).settle .s) = .error st) ∧
    okWith (popPair 0 ((sq 1 0x40000 1 (mapped .s)).settle .s)) (fun r =>
      errCode (checkBlock r.2.1 0 r.1 (maskPieces r.2.1.mask) r.2.2) == 0x10) = true ∧
    blockChecked (sq 1 0x30010 0 (mapped .s)) (fun _ _ y => y.mask == 0) = true ∧
    blockChecked (chan 0 (sq 1 0x30010 0b11 (mapped .s))) (fun _ v y => (List.range 2).all fun i =>
      v.channelOf (v.locOf (y.at i)) == some 0x30000000 && v.inScope 0x30000000) = true ∧
    blockChecked (chan 0 (sq 1 0x30010 0b11 (mapped .s))) (fun ps v _ => isOk (holdPieces v ps) && v.unacked .s == []) = true ∧
    blockChecked (chan 7 (sq 1 0x30010 0b11 (mapped .s))) (fun _ v y => (List.range 2).all fun i =>
      v.channelOf (v.locOf (y.at i)) == some 0x3E000000 && !v.inScope 0x3E000000) = true ∧
    blockChecked (chan 0 (sq 1 0x300FC 0xFF (mapped .s))) (fun _ v y => v.channelOf (v.locOf (y.at 3)) == some 0x30000000 &&
      v.channelOf (v.locOf (y.at 4)) == none) = true ∧
    blockChecked (sq 1 0x30010 1 (mapped .s)) (fun _ v y => v.channelOf (v.locOf (y.at 0)) == none) = true ∧
    (let s := sWith (BitVec.allOnes 2048 <<< 64 ||| 0x3_0000_0001) 7 0x30010 0 (mapped .s)
     let u := s.settle .s
     Admits .s (optWords (none : Option SPay)) .none s u ∧ okWith (u.core.r.qPop (.sq 0)) (fun a => okWith (a.2.qPop (.sq 1)) fun b =>
       okWith ((u.modR fun _ => b.2).saqHead) fun c => okWith (checkElems c.1 a.1 b.1 (List.range 64) c.2) fun d =>
         !d.1.isEmpty && isOk (preimages d.2 (d.1.map fun e => (e.va, .cell e.pa)))) = true) ∧
    (let s := sq 0 0x30010 0x3 (mapped .s)
     Admits .s (optWords (none : Option (BitVec 12))) .none s (s.settle .s) ∧ okWith s.saqHead (fun r =>
       match stzBlocks r.1 1 0 s with
       | (t, none) => isOk ((t.settle .s).saqHead)
       | _ => false) = true) ∧
    (let s := sq 0 0x3FFFC 0x3 (mapped .s)
     okWith s.saqHead (fun r =>
       match stzBlocks r.1 2 0 s with
       | (_, some (.trap _)) => true
       | _ => false) = true) := by
  refine ⟨fun x y addr mask s h => admits_plain h, ⟨admits_plain rfl, errs (by decide)⟩, by decide, by decide, by decide, by decide, by decide,
    by decide, by decide, ⟨admits_plain rfl, by decide⟩, ⟨admits_plain rfl, by decide⟩, by decide⟩

/-- M with a lease and a window of 64 KiB; the active entry is INT8 by INT8; pair 0 is at scratch 0 with rows of 256 bytes. -/
def mLease (lease : Lease) (claim : Option PlateTag) (own : Bool) (plate : Option Plate) : State :=
  let s := at0 .m
  let s := (s.modR fun r => { r with lease := lease, claim := claim, claimOwn := own, d := (r.d.set 1 256).set 6 32 }).modCr fun r =>
    { r with fmte := r.fmte.set 0 0xC3, spw := 0x00100000 }
  s.modVale s.valeIdx fun v => { v with plate := plate }
def held : Lease := { Lease.none with held := true }
def tag0 (ident : Option Nat) : PlateTag := ⟨⟨0, 256, 0⟩, false, none, ident⟩
theorem admits_m (l : Lease) (c : Option PlateTag) (o : Bool) (p : Option Plate) (n : Nat) (h : n = 1 ∨ n = 2) (hl : l.cut = false) :
    Admits .m n .none (mLease l c o p) ((mLease l c o p).settle .m) := by
  rcases h with rfl | rfl <;> refine admits_plain ?_ <;> simp [gate, mLease, hl] <;> rfl

def isTrap {α : Type} (x : Except Stop α) : Bool :=
  match x with
  | .error (.trap _) => true
  | _ => false
theorem traps {α : Type} {x : Except Stop α} (h : isTrap x = true) : ∃ c, x = .error (.trap c) := by
  cases x with
  | ok _ => simp [isTrap] at h
  | error st => cases st with
    | trap c => exact ⟨c, rfl⟩
    | _ => simp [isTrap] at h
/-- A plate of each kind: pair 3 fails its check (its rows fall out of the window), pair 0 passes; the plate is resident and
sealed, or it is not and is fetched; a request's plate likewise. Pairs at both sides of each check. -/
theorem witness_PlatesAreLoaded :
    (∀ n, n = 1 ∨ n = 2 → Admits .m n .none (mLease held none false none) ((mLease held none false none).settle .m)) ∧
    (let u := (mLease held none false none).settle .m
     u.core.r.lease.held = true ∧ u.core.r.lease.plate = none ∧
       okWith (plateOf (counted u) 0 none .zero) (fun r => r.1 == tag0 none && isOk (r.2.fetchPlate (tag0 none))) = true ∧
       isOk (plateOf (counted u) 0 (some 1) .zero) = true ∧ isTrap (plateOf (counted u) 3 none .zero) = true) ∧
    (let s := mLease held none false (some ⟨tag0 (some 5), [], [], false⟩)
     residentSealed (s.settle .m) (tag0 (some 5))) ∧
    (let s := mLease { held with plate := some (tag0 none) } none false none
     Admits .m 1 .none s (s.settle .m) ∧ (s.settle .m).core.r.lease.plate = some (tag0 none) ∧ ¬residentSealed (s.settle .m) (tag0 none) ∧
       (s.settle .m).core.r.claimOwn = false) ∧
    (pairCheck 0x00100000 0x800000 256 0 128 256 = some 1 ∧ pairCheck 0x00100000 32 256 0 128 256 = some 2 ∧
      pairCheck 0x00100000 0 (256 ||| 1 <<< 46) 0 128 256 = some 3 ∧ pairCheck 0x00100000 0x7FFFC0 256 0 128 256 = some 4 ∧
      pairCheck 0x00070000 0 256 0 128 256 = some 5 ∧ pairCheck 0x00080000 0 256 0 128 256 = none) := by
  refine ⟨fun n h => admits_m _ _ _ _ n h rfl, ⟨by decide, by decide, by decide, by decide, by decide⟩, ⟨by decide, _, rfl, rfl⟩,
    ⟨admits_m _ _ _ _ 1 (.inl rfl) rfl, by decide, fun h => h.1 rfl, by decide⟩, by decide⟩

/-- Two cores of a vale: core 0 holds or has a grant due, core 1 requests or not. -/
def twoCores (v : Vale → Vale) (l0 l1 : Lease) (claim : Option PlateTag) : State :=
  let s := at0 .m
  let c0 : Core := { s.core with r := { s.core.r with lease := l0, claim := claim } }
  let c1 : Core := { s.core with id := { s.core.id with core := 1 }, r := { s.core.r with lease := l1 } }
  { s with core := c0, done := [], todo := [c1] }.modVale 0 v
def asking : Lease := { Lease.none with req := true }
theorem witness_LeasesPassOn :
    ((State.reset.vale 0).holder = none ∧ (State.reset.vale 0).grant = none ∧ ∀ k ∈ (twoCores id .none .none none).valeCores 0, k.asks = false) ∧
    (let s := twoCores id .none asking none
     (s.vale 0).holder = none ∧ (s.vale 0).grant = none ∧
       (∃ k ∈ s.valeCores 0, k.id.core = ((s.vale 0).pointer + 1 + 1) % 8 ∧ k.asks = true) ∧
       ¬∃ k ∈ s.valeCores 0, k.id.core = ((s.vale 0).pointer + 1 + 0) % 8 ∧ k.asks = true) ∧
    (let s := twoCores (fun v => { v with grant := some ⟨0, 0, 0⟩ }) asking .none none
     ∃ c, s.coreOf 0 0 = some c ∧ c.r.claim = none) ∧
    (let s := twoCores (fun v => { v with grant := some ⟨0, 0, 0⟩ }) asking .none (some (tag0 none))
     ∃ c, s.coreOf 0 0 = some c ∧ c.r.claim = some (tag0 none) ∧ c.r.lease.plate = none ∧ claimMatches c.r (s.vale 0).plate = false) ∧
    (let s := twoCores (fun v => { v with holder := some 0, idle := 63 }) { held with cnt := 64 } asking none
     ∃ c, s.holderCore 0 = some c ∧ s.otherReq 0 c.id.core = true ∧ 63 ≤ (s.vale 0).idle ∧ arrayBusy c.r = false ∧ (s.vale 0).bud ≤ c.r.lease.cnt ∧ c.r.occ = none) ∧
    (let s := twoCores (fun v => { v with holder := some 0, idle := 63 }) { held with cnt := 64 } .none none
     ∃ c, s.holderCore 0 = some c ∧ s.otherReq 0 c.id.core = false ∧ (s.vale 0).bud ≤ c.r.lease.cnt ∧ c.r.occ = none) ∧
    (let s := twoCores (fun v => { v with holder := some 0, idle := 62 }) held asking none
     ∃ c, s.holderCore 0 = some c ∧ s.otherReq 0 c.id.core = true ∧ (s.vale 0).idle < 63) ∧
    (let s := twoCores (fun v => { v with grant := some ⟨0, 0, 0⟩, use := .switch }) asking .none none
     (s.vale 0).switching = true ∧ (s.vale 0).saving = 0 ∧ ((at0 .m).eng .m).wait ≠ .breath) ∧
    (∀ l, l = held ∨ l = Lease.none → ∀ n, n = 1 ∨ n = 2 → Admits .m n .none (mLease l none false none) ((mLease l none false none).settle .m)) ∧
    isOk (plateOf ((mLease .none none false none).settle .m) 0 none .zero) = true ∧
    isOk (plateOf ((mLease .none none false none).settle .m) 0 (some 1) .zero) = true := by
  refine ⟨by decide, by decide, ⟨_, rfl, rfl⟩, ⟨_, rfl, rfl, rfl, by decide⟩, ⟨_, rfl, by decide, by decide, by decide, by decide, rfl⟩,
    ⟨_, rfl, by decide, by decide, rfl⟩, ⟨_, rfl, by decide, by decide⟩, by decide, ?_, by decide, by decide⟩
  rintro l (rfl | rfl) n h <;> exact admits_m _ _ _ _ n h rfl

/-- A resident plate that has failed, and one that has not. -/
def plate0 (failed : Bool) : Plate := ⟨tag0 none, [], [], failed⟩
theorem witness_RowsStreamThroughThePlate :
    (∀ f, let s := mLease held (some (tag0 none)) true (some (plate0 f))
      Admits .m (xWords false) .none s (s.settle .m) ∧ (s.settle .m).core.r.lease.held = true ∧
      (∃ row s1, aRow .pbuf none 0 s = .ok (row, s1) ∧ ∃ sa s2, aScale none none 0 s1 = .ok (sa, s2) ∧
        takeFlaw (rowFlaw s.valeIdx) s2.flaws = none) ∧ (s.vale s.valeIdx).plate = some (plate0 f)) ∧
    (let u := (mLease held (some (tag0 none)) true (some (plate0 false))).settle .m
     okWith (counted u).arrayFmt (fun r => okWith (keepPair r.2 (some (.pair 0)) 0 1 256) fun p => okWith (keepPair p.2.2 none 0 1 16) fun q =>
       claimMatches q.2.2.core.r (q.2.2.vale q.2.2.valeIdx).plate && (tag0 none).wide == fmtWide (fmtA r.1) &&
       isOk (mmaRow 511 (.pair 0) none 0 r.1 #v[p.1, p.2.1, q.1, q.2.1] 0 q.2.2)) = true ∧
     isTrap (keepPair u (some (.pair 3)) 0 1 256) = true ∧ (u.core.r.row 511).int = false) ∧
    isTrap ((at0 .m).arrayFmt) = true ∧ isTrap (((at0 .m).modCr fun r => { r with fmte := r.fmte.set 0 0x83 }).arrayFmt) = true ∧
    (let r := { (at0 .m).core.r with mq := (at0 .m).core.r.mq.set 0 ⟨[⟨0, some 77, false, false⟩], 0⟩ }
     ∃ x t, r.qPop (mqId (.mq 0)) = .ok (x, t)) ∧
    ((decodeFmt .bf16 0x3F80).isFin = true ∧ (decodeFmt .bf16 0x3F80).isNan = false) := by
  refine ⟨fun f => ⟨admits_m _ _ _ _ 1 (.inl rfl) rfl, rfl, ⟨_, _, rfl, _, _, rfl, rfl⟩, rfl⟩, ⟨by decide, by decide, by decide⟩, by decide, by decide,
    ⟨_, _, rfl⟩, by decide, by decide⟩

/-- Rows withheld and not, busy and not; sq1 full; a queue entry for a row. -/
def mRows (f : Regs → Regs) : State := (at0 .m).modR f
def sideOf (fmt : BitVec 20) : State := (at0 .m).modCr fun r => { r with fmte := r.fmte.set 0 fmt }
theorem witness_RowsAreOutput :
    (∀ n, n = 1 ∨ n = 2 → ∀ f : BitVec 20, Admits .m n .none (sideOf f) ((sideOf f).settle .m)) ∧
    Fmt.ofCode (fmtO (((sideOf 0x05000).settle .m).fmtEntry .m).2.1) = none ∧
    (let r := ((sideOf 0x03000).settle .m).fmtEntry .m
     Fmt.ofCode (fmtO r.2.1) = some .i8 ∧ r.2.2.accNum (.num 511) + 1 ≤ 512 ∧ 512 < r.2.2.accNum (.num 511) + 2 ∧
       (r.2.2.core.r.row 511).valid = true ∧ isOk (pushAll [1, 2] r.2.2) = true) ∧
    (let s := mRows fun r => { r with rows := [(3, { Row.launch with valid := false })] }
     Admits .m (xWords false) .none s (s.settle .m) ∧ ((s.settle .m).core.r.row 3).valid = false ∧ (s.settle .m).core.r.eM.pend = []) ∧
    (let s := (at0 .m).modEng .m fun x => { x with pend := [⟨5, .row 3 Row.launch, 0⟩] }
     Admits .m (xWords false) .none s (s.settle .m) ∧ ∃ p ∈ (s.settle .m).core.r.eM.pend, ∃ k ∈ [3], landsOn p.land k = true) ∧ landsOn (.rowsZero 0 3 2 true) 4 = true ∧
    ((mRows fun r => { r with sq := r.sq.set 1 ⟨List.replicate 16 ⟨0, some 1, false, false⟩, 0⟩ }).core.r.qRoom (.sq 1) 1 = false) ∧
    (let s := mRows fun r => { r with mq := r.mq.set 0 ⟨[⟨0, some 77, false, false⟩], 0⟩ }
     Admits .m (xWords false) .none s (s.settle .m) ∧ ∃ b r, (s.settle .m).core.r.qPop (mqId (.mq 0)) = .ok (b, r)) := by
  refine ⟨?_, by decide, by decide, ⟨admits_plain rfl, by decide, by decide⟩, ⟨admits_plain rfl, by decide⟩, by decide, by decide, admits_plain rfl, _, _, rfl⟩
  rintro n (rfl | rfl) f <;> exact admits_plain rfl

theorem witness_MatrixControlIsSet : (∀ n, n = 1 ∨ n = 2 → ∃ u, Admits .m n .none (at0 .m) u) ∧ (15#6).toNat < 16 ∧
    ((at0 .m).settle .m).core.r.mstat.rrn < 2 ^ 16 ∧ ((at0 .m).settle .m).core.r.mstat.whn < 2 ^ 16 :=
  ⟨fun n h => ⟨_, admits_at0 .m n h⟩, by decide, by decide, by decide⟩

/-- Entries that MSMX refuses (INT8; scaling with BF16) and accepts; a row of integers and one of floats. -/
theorem witness_SoftmaxFoldsRows :
    (∀ n, n = 1 ∨ n = 2 → ∀ f : BitVec 20, Admits .m n .none (sideOf f) ((sideOf f).settle .m)) ∧
    smxFmtCheck (((sideOf 0x00003).settle .m).fmtEntry .m).2.1 = some 4 ∧ smxFmtCheck (((sideOf 0x40001).settle .m).fmtEntry .m).2.1 = some 3 ∧
    (let r := ((sideOf 0x00001).settle .m).fmtEntry .m
     smxFmtCheck r.2.1 = none ∧ Fmt.ofCode (fmtA r.2.1) = some .bf16 ∧ r.2.2.accNum (.num 511) + 1 ≤ 512 ∧ 512 < r.2.2.accNum (.num 511) + 2 ∧
       ¬(r.2.2.core.r.row 511).int = true) ∧
    (let s := mRows fun r => { r with rows := [(3, { Row.launch with int := true })] }
     Admits .m (xWords false) .none s (s.settle .m) ∧ ((s.settle .m).core.r.row 3).int = true) := by
  refine ⟨?_, by decide, by decide, by decide, admits_plain rfl, by decide⟩
  rintro n (rfl | rfl) f <;> exact admits_plain rfl

/-- C halted, free of its core, replaying, with a cause of its own, waiting for a response, held by slip; a run that ends at an own
word, at none, at an illegal word, at one that the store cannot deliver. -/
def cEng (f : Eng → Eng) : State := (at0 .c).modEng .c f
def respond (id : Nat) (ready : Bool) (l : Land) : State :=
  { cEng (fun x => { x with stall := some id }) with
    reads := [⟨id, ⟨0, 0, 0⟩, .c, .reg l, 0, [3], [], ready, [], (0, []), 0⟩], walks := [⟨9, ⟨0, 0, 0⟩, 0, 0x30000⟩] }
theorem witness_CyclesWithoutAnIssue :
    (cEng fun x => { x with halted := true }).moves? .c = false ∧ State.reset.moves? .v = false ∧
    (let s := cEng fun x => { x with replay := 2 }
     s.moves? .c = true ∧ (s.eng .c).replay ≠ 0) ∧
    (let s := (at0 .c).modCr fun r => { r with pending := [causeAt (at0 .c) .c 0x10 0] }
     s.moves? .c = true ∧ (s.eng .c).replay = 0 ∧ s.ownCause .c = true) ∧
    (let s := respond 5 true (.s 3 7)
     s.moves? .c = true ∧ (s.eng .c).replay = 0 ∧ s.ownCause .c = false ∧ (s.eng .c).stall ≠ none ∧
       (∃ r, s.reads.find? (fun r => r.id == 5) = some r ∧ s.mayRespond r = true ∧ r.core = s.core.id ∧ r.eng = .c ∧ r.arr = .reg (.s 3 7)) ∧
       (∀ r ∈ s.reads, r.id ≠ 6) ∧ (∃ w, s.walks.find? (fun w => w.id == 9) = some w ∧ w.core = s.core.id) ∧ ∀ w ∈ s.walks, w.id ≠ 6) ∧
    (let s := respond 5 false (.s 3 7)
     ∃ r, s.reads.find? (fun r => r.id == 5) = some r ∧ s.mayRespond r = false) ∧
    ((at0 .c).forms .c = true ∧ ((at0 .c).walk .c).1 = .own (.nop .none .c)) ∧
    (let s := State.reset.loadText .v [0x04000000]
     s.forms .v = true ∧ (s.walk .v).1 = .own (.nop .none .v)) ∧
    (let s := (at0 .c).modEng .v fun x => { x with halted := false }
     s.forms .v = true ∧ (s.walk .v).1 = .dry) ∧
    (let s := (at0 .c).modEng .c fun x => { x with walked := 600 }
     s.forms .c = true ∧ (s.walk .c).1 = .slip) ∧
    (let s := State.reset.loadText .v [0x0A000000]
     s.forms .v = true ∧ ∃ d, (s.walk .v).1 = .bad d) ∧
    (let s := { State.reset.loadText .v [0x04000000] with bad := [9 * 2 ^ 45] }
     s.forms .v = true ∧ ∃ u, (s.walk .v).1 = .fail u) := by
  refine ⟨by decide, by decide, by decide, by decide, ⟨by decide, by decide, by decide, by decide, ⟨_, rfl, by decide⟩, by decide, ⟨_, rfl, by decide⟩,
    by decide⟩, ⟨_, rfl, by decide⟩, by decide, by decide, by decide, by decide, ⟨by decide, 1, by decide⟩, by decide, 9 * 2 ^ 45, by decide⟩

/-- Every engine at a BREATH 3 of its own; x changes C. -/
def breaths (x : Eng → Eng) : State :=
  let s := State.reset.loadText .c (engines.flatMap fun e => encode (.breath .none e 3))
  let go := fun (pc : Nat) (y : Eng) => { y with pc := pc, wait := .breath, halted := false, stall := none, replay := 0 }
  s.modR fun r => { r with eC := x (go 0 r.eC), eA := go 1 r.eA, eM := go 2 r.eM, eV := go 3 r.eV, eS := go 4 r.eS }
theorem witness_BreathsMeet :
    ((breaths id).breathMet = true ∧ (breaths id).breathOk = true ∧ ∃ m, (breaths id).breathOf .c = some (m, 3)) ∧
    ((breaths fun x => { x with levels := [⟨0, 9, 3, 0⟩] }).breathMet = true ∧ (breaths fun x => { x with levels := [⟨0, 9, 3, 0⟩] }).breathOk = false) ∧
    (at0 .c).breathMet = false ∧
    ((at0 .c).core.cr.dead < 1024 ∧ ((at0 .c).modCr fun r => { r with dead := 1024 }).core.cr.dead = 1024 ∧ (at0 .c).inShadow = false) ∧
    (at0 .c).trapDue = false ∧ causes2.core.cr.pending ≠ [] ∧ causes2.core.st = .running ∧ causes2.core.frozen = false ∧
      causes2.inShadow = false ∧ causes2.core.r.eC.stall = none ∧ causes2.core.r.eC.replay = 0 ∧
    (∃ k, (at0 .c).coreOf 0 0 = some k ∧ k.st = .running ∧ k.frozen = false ∧ (k.eng .v).replay = 0 ∧
      (0 : Nat) / 8 < 16) ∧
    ∃ k, State.reset.coreOf 0 0 = some k ∧ k.st ≠ .running := by
  refine ⟨⟨by decide, by decide, _, rfl⟩, by decide, by decide, by decide, by decide, by decide, by decide, by decide, by decide, by decide, by decide,
    ⟨_, rfl, by decide⟩, _, rfl, by decide⟩

/-- Commands of core 0 with a window of 16 KiB of scratch, at hyper level. -/
def cmd0 (x : Fin 3) (stage : CmdStage) (ws : List Word) : Cmd :=
  ⟨1, x, ⟨0, 0, 0⟩, 0, false, 1, 0, ws, 0, 0, 0, 2, 0x00040000, 0, 0, none, [], stage, 0, [], 0, 0, 0, none, 0, [], [], 0, 0, []⟩
def withCmd (c : Cmd) (s : State) : State := { s with cmds := [c] }
/-- A COPY of one tile of two 4-byte elements in scratch, flags and post as w0 says. -/
def copyWords (w0 dst : Word) : List Word :=
  [0x0100_0000_0000_0000 + 2 <<< 47 + w0, 0, 0x8000000000000000, dst, 0x1_0000_0002, 0x1_0000_0001, 0, 0, 0, 0, 0, 0x0001_0001_0001_0002, 0]
def copyCmd (stage : CmdStage) (w0 : Word) : Cmd := cmd0 0 stage (copyWords w0 0x8000000000000100)
/-- A stopped gang of another core, 1, with a frozen core under key slot 0; a COPYX of its snapshot word 5. -/
def copyxCmd (mode : Word) : Cmd := cmd0 0 .started [0x0900_0001_0000_0000 ||| mode <<< 48, 0, 0x30000, 0x1_0000_0005, 0]
/-- What stands where the image is read. -/
def image1 : List Byte := [1]
def stoppedCore (slot : BitVec 7) : State :=
  let s := mapped .c
  let k : Core := { s.core with id := ⟨0, 0, 1⟩, launch := 7, cr := { s.core.cr with keyslot := slot } }
  { s with
    done := [k], disp := { s.disp with gangs := [{ gang0 0 with key := 7, cores := [⟨0, 0, 1⟩], st := .stopped, win := 0, wlen := 4 }] }
    vfs := s.vfs.set 0 { s.vfs[0] with s1tb := 0x10001 }
    mem := [(0x10000, 0x01), (0x10002, 0x03)] ++ (image1.zipIdx.map fun b => ((0x20000 + b.2, b.1) : Host.Cell)).filter (fun c => c.2 != 0) ++
      [(0x30000, 0x01), (0x30002, 0x04), (0x40018, 0x0F), (0x4001A, 0x02)] }
def imageRead (s : State) (p : List Byte → Bool) : Bool :=
  let r := Run.readList (copyxCmd 1) 0 8 8 11 (fun i => 0x30000 + BitVec.ofNat 64 (8 * i)) (Run.start (copyxCmd 1) s)
  r.err.isNone && p (r.data.flatMap fun x => valBytes x 8)
theorem witness_CommandsStartAndEnd :
    (let s := withCmd (copyCmd .queued 0) (at0 .c)
     s.cmd 1 = some (copyCmd .queued 0) ∧ s.canStart (copyCmd .queued 0) = true ∧ (copyCmd .queued 0).refused 0 = false ∧
       (copyCmd .queued 0).rotFault = false ∧ s.paused (copyCmd .queued 0) = false ∧ (copyCmd .queued 0).wids = []) ∧
    (copyCmd .queued 1).refused 0 = true ∧
    ((copyCmd .queued (1 <<< 42)).refused 0 = false ∧ ({ copyCmd .queued (1 <<< 42) with words := (copyWords (1 <<< 42) 0x8000000000000100).set 8 4 }).rotFault = true) ∧
    (copyCmd .started 0).stage ≠ .queued ∧
    (let c := copyCmd .performed (1 <<< 51)
     c.stage = .performed ∧ c.ben = false ∧ c.fen = true ∧ ∃ h, (withCmd c (at0 .c)).cores.find? (fun x => x.id == c.core) = some h ∧
       (h.r.f[c.flag]).room (1 + h.flagHeld c.flag) = true) ∧
    (let c := copyCmd .posted (1 <<< 51)
     let s := (at0 .c).modR fun r => { r with f := r.f.set 0 { r.f[0] with val := 255 } }
     ∃ h, (withCmd c s).cores.find? (fun x => x.id == c.core) = some h ∧ (h.r.f[c.flag]).room (1 + h.flagHeld c.flag) = false) ∧
    (copyCmd .performed 0).fen = false ∧
    (let s := (at0 .c).modCr fun r => { r with pending := [{ causeAt (at0 .c) .c 0x38 0 with unit := 5 }] }
     s.paused (copyCmd .performed 0) = true) ∧
    (let c := { copyCmd .performed (1 <<< 49) with words := (copyWords (1 <<< 49) 0x8000000000000100).set 1 0x4_1000_0001 }
     let o := (c.word 1).extractLsb' 0 32
     c.ben = true ∧ (withCmd c (at0 .c)).syncObj o = none ∧
       { withCmd c (at0 .c) with syncs := [{ bar2 0 with nb := 64 }] }.syncObj o = some { bar2 0 with nb := 64 } ∧ scopeHas (bar2 0) c.core none = true ∧ oidKind o = 1 ∧
       ∃ y, { bar2 0 with nb := 64 }.arrive (c.bits 1 32 32) 0 c.postBytes c.wrote [] = .ok y) ∧
    ((withCmd (copyCmd .complete 0) (at0 .c)).canPlace (copyCmd .started 0) = false ∧ (copyCmd .complete 0).work = 0 ∧
      (withCmd (copyCmd .complete 0) (at0 .c)).earlier (copyCmd .complete 0) = [] ∧ (copyCmd .complete 0).typ < 2 ^ 15) ∧
    ((0 : Nat) < 64 ∧ [0x1234].length < 2 ^ 32) := by
  refine ⟨⟨rfl, by decide, by decide, by decide, by decide, rfl⟩, by decide, ⟨by decide, by decide⟩, by decide, ⟨rfl, by decide, by decide, _, rfl, by decide⟩,
    ⟨_, rfl, by decide⟩, by decide, by decide, ⟨by decide, by decide, by rfl, by decide, by decide, _, rfl⟩, ⟨by decide, rfl, rfl, by decide⟩, by decide⟩
theorem witness_CommandsStartAndEnd_copyx :
    (withCmd (copyxCmd 0) (at0 .c)).cmd 1 = some (copyxCmd 0) ∧ (copyxCmd 0).stage = .started ∧ (copyxCmd 0).kind = some .copyx ∧
      (copyxCmd 0).bits 0 48 1 = 0 ∧ (copyxCmd 1).bits 0 48 1 = 1 ∧ (copyxCmd 0).stoppedTarget (at0 .c) = none ∧
    (∃ g t, (copyxCmd 0).stoppedTarget (stoppedCore 64) = some (g, t) ∧ t.cr.keyslot.toNat = 64 + (copyxCmd 0).xslot ∧ (copyxCmd 0).xfits g = true ∧
      (cmd0 0 .started [0x0900_0001_0000_0000, 0, 0x30000, 0x1_0000_0005, 0x1000_0000_4000]).xfits g = false) ∧
    (∃ g t, (copyxCmd 0).stoppedTarget (stoppedCore 65) = some (g, t) ∧ t.cr.keyslot.toNat ≠ 64 + (copyxCmd 0).xslot) ∧
    imageRead (stoppedCore 64) (fun bs => !isOk (openImage 0 0 0 5 1 0 0 bs)) = true ∧
    ((copyxCmd 0).xbound (stoppedCore 64) = none ∧ (stoppedCore 64).paused (copyxCmd 1) = false ∧ (copyxCmd 0).upto = 0 ∧
      { copyxCmd 1 with upto := 1 }.upto ≠ 0) ∧
    (let s := { stoppedCore 64 with binds := [⟨.sp 0 0x40, 0x40, 0x10000001, 0⟩], syncs := [{ bar2 0 with owner := ⟨0, 0, 1⟩ }] }
     { copyxCmd 0 with words := [0x0900_0001_0000_0000, 0, 0x30000, 0x1_0000_0005, 0x0000_0040_0000_0040] }.xbound s = some 9) := by
  refine ⟨rfl, rfl, by decide, by decide, by decide, rfl, ⟨_, _, rfl, by decide, by decide, by decide⟩, ⟨_, _, rfl, by decide⟩, by decide,
    by decide, by decide⟩

/-- A state whose tables map page 0x30000 of function 0 by a leaf with the low 16 bits low. -/
def tabled (low : BitVec 8) (s : State) : State :=
  { s with
    vfs := s.vfs.set 0 { s.vfs[0] with s1tb := 0x10001, segl := (s.vfs[0].segl.set 0 0x10000_0001).set 1 0x0001_0001_0000_0001 }
    mem := [(0x10000, 0x01), (0x10002, 0x03), (0x30000, 0x01), (0x30002, 0x04), (0x40018, low), (0x4001A, 0x02)] }
/-- Commands in scratch whose elements move, or whose destination lies outside the window; one that starts in generic memory. -/
def ran (c : Cmd) (s : State) : Run := (List.range c.tileElems).foldl (Run.copyOne c [c.vale c.dvl] c.plainC1) (Run.start c s)
def started (k : Nat) (dst : Word) (tail : List Word) : Cmd :=
  cmd0 0 .started (copyWords (BitVec.ofNat 64 ((k - 1) * 2 ^ 56)) dst ++ tail)
def pref (mode : Word) (len : Word) : Cmd := cmd0 0 .started [0x0700_0000_0000_0000 ||| mode <<< 47, 0, 0x30000, len]
theorem witness_CommandsMoveElements :
    (let c := started 1 0x8000000000000100 []
     let s := withCmd c (at0 .c)
     s.cmd 1 = some c ∧ c.stage = .started ∧ c.kind = some .copy ∧ (ran c s).err = none ∧ c.inside 0 0 = true ∧ c.inside 9 0 = true ∧
       c.inside 0 5 = false ∧ isScratch (c.word 2) = true ∧
       okWith ((Run.start c s).element c 0 0) (fun r => isOk (r.2.write c 0 0x8000000000000100 r.1 4) && r.2.err.isNone) = true) ∧
    (let c := started 1 0x8000000000004000 []
     (ran c (withCmd c (at0 .c))).err ≠ none ∧ isOk ((Run.start c (at0 .c)).write c 0 0x8000000000004000 [1] 1) = false) ∧
    (started 2 0x8000000000000100 [1, 0]).kind = some .mcast ∧
    (let c := started 3 0x8000000000000100 [0x2_0000_0000]
     c.kind = some .gather ∧ (Run.readList c 0 4 4 (c.tl 1) (fun i => scratchA (c.bits 13 0 23) + BitVec.ofNat 64 (4 * i)) (Run.start c (at0 .c))).err = none) ∧
    ((started 4 0x8000000000000100 [0x2_0000_0000]).kind = some .scatter ∧ (started 4 0x8000000000000100 [0]).bits 0 20 1 = 0) ∧
    (let c := cmd0 0 .started (copyWords (3 * 2 ^ 56 + 2 ^ 20) 0x8000000000000100 ++ [0])
     c.kind = some .scatter ∧ c.bits 0 20 1 = 1) ∧
    ((pref 0 0x10000).kind = some .pref ∧ (pref 0 0x10000).es = 0 ∧ (pref 1 0x10000).es = 1 ∧
      (prefPage (pref 0 0x10000) 0 (some (0, at0 .c)) 0x30000).isSome = true) ∧
    (let s := { tabled 0x1F (at0 .c) with moves := [⟨5, 0, 0x30000, 0x40018, 0x2001F, 1, 0, false, 0, none⟩] }
     (prefPage (pref 1 0x10000) 1 (some (0, s)) 0x30000).isNone = true) := by
  refine ⟨⟨rfl, rfl, by decide, by decide, by decide, by decide, by decide, by decide, by decide⟩, ⟨by decide, by decide⟩, by decide,
    ⟨by decide, by decide⟩, by decide, by decide, ⟨by decide, by decide, by decide, by decide⟩, by decide⟩

/-- A SIGATH of one signature of 8 bytes, and a SACC of one element, in scratch. -/
def sigathCmd : Cmd := cmd0 0 .started [0x0800_0000_0000_0000 ||| 2 <<< 47, 0, 0x8000000000000000, 0x8000000000000100, 0x1_0000_0100, 0, 64,
  0x8000000000000200, 0x8000000000000300, 0]
def saccCmd (dst : Word) : Cmd := cmd0 1 .started [0x0500_0000_0000_0000, 0, 0x8000000000000000, 0x8000000000000100, dst, 1]
theorem witness_BlocksAreSelectedAndAccumulated :
    ((withCmd sigathCmd (at0 .c)).cmd 1 = some sigathCmd ∧ sigathCmd.stage = .started ∧ sigathCmd.kind = some .sigath ∧
      (Run.readList sigathCmd 0 8 8 1 (fun i => sigathCmd.word 2 + BitVec.ofNat 64 (8 * i)) (Run.start sigathCmd (at0 .c))).err = none) ∧
    ((withCmd (saccCmd 0x8000000000000200) (at0 .c)).cmd 1 = some (saccCmd 0x8000000000000200) ∧ (saccCmd 0).stage = .started ∧
      (saccCmd 0).kind = some .sacc ∧ (saccCmd 0).bits 5 0 24 = 1 ∧
      ((List.range 1).foldl (Run.saccStep (saccCmd 0x8000000000000200) 1) (Run.start (saccCmd 0x8000000000000200) (at0 .c), 0)).1.err = none ∧
      ((List.range 1).foldl (Run.saccStep (saccCmd 0x8000000000004000) 1) (Run.start (saccCmd 0x8000000000004000) (at0 .c), 0)).1.err ≠ none) :=
  ⟨⟨rfl, rfl, by decide, by decide⟩, rfl, rfl, by decide, by decide, by decide, by decide⟩

/-- A collective of one member; its void; a domain of two members, one of which has pushed nothing; members that disagree. -/
def collCmd (w0 : Word) : Cmd := cmd0 2 .started [0x0600_0000_0000_0000 ||| w0, 0, 0x8000000000000000, 0x8000000000000100, 1, 0]
def dom0 (ms : List CoreId) : Domain := ⟨0, 0, 0, 1, ms, none, 3, [], 0, [], [], [], [], []⟩
/-- Two members' commands, at phases of their own. -/
def coll2 (p q : Nat) : List Cmd := [{ collCmd 0 with phase := p }, { collCmd 0 with id := 2, core := ⟨0, 0, 1⟩, phase := q }]
theorem witness_CollectivesAgree :
    (let s := { withCmd (collCmd 0) (at0 .c) with domains := [dom0 [⟨0, 0, 0⟩]] }
     s.cmd 1 = some (collCmd 0) ∧ (collCmd 0).stage = .started ∧ (collCmd 0).kind = some .coll ∧ (collCmd 0).bits 0 46 3 = 0 ∧
       (collCmd 0).phase = 0 ∧ s.paused (collCmd 0) = false ∧ ((collCmd 0).dom, (collCmd 0).seq) ∉ s.voids ∧
       s.collective (collCmd 0) = some [collCmd 0] ∧ agree [collCmd 0] = true ∧ (collGive 0 1 0 (collCmd 0) s).err = none) ∧
    ({ at0 .c with cmds := coll2 1 0, domains := [dom0 [⟨0, 0, 0⟩, ⟨0, 0, 1⟩]] }.collective ((coll2 1 0).headD (collCmd 0)) = some (coll2 1 0) ∧
      agree (coll2 1 0) = true ∧ (∃ d ∈ coll2 1 0, d.phase ≠ 1) ∧ (∀ d ∈ coll2 1 1, d.phase = 1)) ∧
    ({ collCmd 0 with phase := 2 }.phase = 2) ∧
    (((0, 0) : Nat × Nat) ∈ { at0 .c with voids := [(0, 0)] }.voids) ∧
    ({ withCmd (collCmd 0) (at0 .c) with domains := [dom0 [⟨0, 0, 0⟩, ⟨0, 0, 1⟩]] }.collective (collCmd 0) = none) ∧
    agree [collCmd 0, collCmd (1 <<< 27)] = false ∧
    (let c := { collCmd 0 with words := [0x0600_0000_0000_0000, 0, 0x8000000000004000, 0x8000000000000100, 1, 0] }
     (match (collGive 0 1 0 c (withCmd c (at0 .c))).err with | some (.fault _ _) => true | _ => false) = true) := by
  refine ⟨⟨rfl, rfl, by decide, by decide, by decide, by decide, by decide, by rfl, by decide, by decide⟩, ⟨by rfl, by decide, by decide, by decide⟩,
    rfl, by decide, by rfl, by decide, by decide⟩

/-- The package is ready; queue 0 is enabled. -/
def ready (s : State) : State := { s with plat := { s.plat with ready := true } }
def hol (n : Nat) (s : State) : State := { s with plat := { s.plat with hst := n } }
def queue0 (fifo : List Packed) (s : State) : State := s.setQueue 0 { Queue.reset with cfg := 0x10809, fifo := fifo }
/-- Packets: refused without a place for a record; refused with one; accepted. -/
def packet (w0 cmpl : Word) : List Word := [w0, 0x30000, 0, 0, cmpl, 0, 0, 0]
theorem witness_TheHostPushesAndConfigures :
    ((hol 1 State.reset).plat.hst ≠ 0 ∧ State.reset.plat.hst = 0 ∧ State.reset.plat.ready = false ∧ (ready State.reset).plat.ready = true) ∧
    ([] : List Word).length ≠ 8 ∧ (packet 0 0).length = 8 ∧
    32 ≤ ((queue0 (List.replicate 32 (packetOf [])) State.reset).queue 0).fifo.length ∧
    (let q := (queue0 [] State.reset).queue 0
     ¬32 ≤ q.fifo.length ∧ (packetOf (packet (1 <<< 41) 0)).bad q = true ∧ (packetOf (packet (1 <<< 41) 0)).cmpl % 64 = 0 ∧
       (packetOf (packet 0 1)).bad q = true ∧ (packetOf (packet 0 1)).cmpl % 64 ≠ 0 ∧ (packetOf (packet 0 0)).bad q = false ∧
       (packetOf (packet 0 0)).queue = 0) ∧
    (mayWrite 1 (vfLevels 0x8) = false ∧ mayWrite 2 (vfLevels 0x8) = true ∧ (0x1F8 : Nat) < 0x200 ∧ (0x9 : Nat) % 8 ≠ 0) ∧
    ([7] : List Byte) ≠ [] ∧ (0x1003 : Nat) % 8 + 1 ≤ 8 ∧ (0x1003 : Nat) + 1 ≤ 2 ^ 48 := by decide

/-- Heads: none; one whose predecessor failed; one to place, one that does not fit; a written VALEVF. -/
def head1 (w0 w3 : Word) : Packed := { packetOf [w0, 0x30000, 0, w3, 0, 0, 0, 0] with launch := 9 }
def decides (p : Packed) (s : State) : State := ready (queue0 [p] s)
def noVale (s : State) : State := { s with vales := (List.range 128).map fun v => (v, { Vale.reset with vfOn := false }) }
def openVale (s : State) : State := s.setVale 0 { Vale.reset with vfOn := true }
theorem witness_DecisionsPlaceGangs :
    ((hol 1 State.reset).plat.hst ≠ 0 ∧ (ready State.reset).plat.hst = 0 ∧ (ready State.reset).plat.ready = true ∧
      (ready State.reset).applyVales.heads = [] ∧ ∀ g ∈ (ready State.reset).applyVales.disp.gangs, g.st ≠ .stopped) ∧
    (let s := ready (State.reset.setVale 0 { Vale.reset with vfNext := some 33 })
     (s.vale 0).vfNext = some 33 ∧ s.valeUsed 0 = false) ∧
    (let s := decides (head1 0 7) { State.reset with disp := { State.reset.disp with dones := [(7, 2)] } }
     s.applyVales.heads = [(0, head1 0 7)] ∧ s.applyVales.nsBusy 0 = false ∧ s.applyVales.hold 0 (head1 0 7) = .cancel) ∧
    (let s := decides (head1 0 0) (openVale State.reset)
     let u := s.applyVales
     u.heads = [(0, head1 0 0)] ∧ u.hold 0 (head1 0 0) = .free ∧ u.effPrio (head1 0 0) < 8 ∧ (u.queue 0).fifo.head? = some (head1 0 0) ∧
       (match chooseQueue u [0] with
         | some (0, d) => ((d.setQueue 0 { d.queue 0 with fifo := [] }).placeAll 0 (head1 0 0) 16 0).isSome
         | _ => false) = true) ∧
    (let p := head1 (1 <<< 16 ||| 8 <<< 18) 0
     let u := (decides p (openVale State.reset)).applyVales
     u.hold 0 p = .free ∧ u.victims (u.effPrio p) = [] ∧
       (match chooseQueue u [0] with
         | some (0, d) => ((d.setQueue 0 { d.queue 0 with fifo := [] }).placeAll 0 p 16 0).isNone
         | _ => false) = true) := by
  refine ⟨by decide, by decide, ⟨by rfl, by decide, by decide⟩, ⟨by rfl, by decide, by decide, by rfl, by decide⟩, by decide, by decide, by decide⟩
def issuing (g : Gang) (s : State) : State := ready { s with disp := { s.disp with gangs := [g] } }
theorem witness_DecisionsPlaceGangs_issue :
    State.reset.dispatches = false ∧
    (let g : Gang := { gang0 0 with st := .chosen }
     let s := issuing g State.reset
     s.dispatches = true ∧ (s.disp.gangs.filter fun g => g.pk.launch == 1 && g.st == .chosen && g.saved.isEmpty && !g.ended) = [g] ∧
       g.run = 0 ∧ g.pk.dual = false ∧ (((g.cores.foldl State.withCore s).runsOf 1).filter fun x => x.key != g.key) = [] ∧
       isOk (loadAll g (g.cores.foldl State.withCore s)) = false) := by
  refine ⟨by decide, by decide, by rfl, by decide, by decide, by rfl, by decide⟩

/-- Its core runs; it has ended; it has a fault. -/
def ended (f : Option (Nat × Nat × Nat)) : State :=
  { (at0 .c).modCore fun c => { c with st := .ended } with disp := { State.reset.disp with gangs := [{ gang0 0 with fault := f }] } }
theorem witness_GangsComplete :
    (let s := withGang 0 (at0 .c)
     (s.disp.gangs.filter fun g => g.pk.launch == 1 && !g.ended && (g.st == .running || g.st == .stopping)) = [gang0 0] ∧
       (gang0 0).pk.dual = false ∧ (∃ c ∈ s.gangCores (gang0 0), c.st ≠ .ended) ∧ (gang0 0).fault = none ∧
       ∀ c ∈ s.gangCores (gang0 0), faultOf c = none) ∧
    (let s := ended none
     (∀ c ∈ s.gangCores (gang0 0), c.st = .ended) ∧ (∀ c ∈ s.gangCores (gang0 0), faultOf c = none) ∧ s.gangCmds (gang0 0) = false ∧
       (gang0 0).pk.launch ≠ 0) ∧
    ({ gang0 0 with fault := some (0, 1, 3) }.fault ≠ none) ∧ (5 : Nat) < 8 ∧ (3 : Nat) < 16 ∧ 0 < (packetOf []).launch + 1 := by
  refine ⟨⟨by rfl, by decide, by decide, by decide, by decide⟩, by decide, by decide, by decide, by decide, by decide⟩

/-- A gang that is to stop, with no pool, with a pool, with its area; a stopped one that is chosen; one that runs. -/
def stopG (st : GangSt) (area : Option Nat) (saved : List Core) : Gang := { gang0 0 with st := st, area := area, saved := saved }
def stopping (g : Gang) (pool : Word) : State :=
  let s := ready (mapped .c)
  { s with disp := { s.disp with gangs := [g] }, vfs := s.vfs.set 0 { s.vfs[0] with savel := pool } }
theorem witness_GangsStopAndResume :
    (let s := stopping (stopG .stopping none []) 0
     let g := stopG .stopping none []
     s.runsOf 1 = [g] ∧ g.st = .stopping ∧ g.fault = none ∧ (∀ c ∈ s.gangCores g, faultOf c = none) ∧ (∃ c ∈ s.gangCores g, c.st ≠ .ended) ∧
       g.area = none ∧ s.canSave [g] [] = false) ∧
    (stopping (stopG .stopping none []) 0x1000000).canSave [stopG .stopping none []] [] = true ∧
    (let g := stopG .stopping (some 0) []
     let s := stopping g 0
     let halted := s.modCore fun c => { c with st := .stopped }
     g.area ≠ none ∧ (∃ c ∈ s.gangCores g, c.st = .running) ∧ (∃ c ∈ halted.gangCores g, c.st ≠ .ended) ∧
       (∀ c ∈ halted.gangCores g, c.st ≠ .running) ∧ halted.gangCmds g = false ∧
       { halted with cmds := [copyCmd .started 0] }.gangCmds g = true) ∧
    (let g := stopG .chosen (some 0) [(at0 .c).core]
     (stopping g 0).runsOf 1 = [g] ∧ (stopping g 0).dispatches = true ∧ g.st = .chosen ∧ g.saved ≠ []) ∧
    (let g := { stopG .stopping none [] with quit := [⟨0, 0, 0⟩] }
     let s := stopping g 0x1000000
     g.cores = [s.core.id] ∧ s.core.st = .running ∧ g.quit = [s.core.id] ∧ s.canSave [g] [] = true ∧ s.runsOf 1 = [g]) ∧
    (stopG .running none []).st ≠ .stopping := by
  refine ⟨⟨by rfl, rfl, rfl, by decide, by decide, rfl, by decide⟩, by decide, by decide,
    ⟨by rfl, by decide, rfl, by decide⟩, ⟨by decide, by decide, by decide, by decide, by rfl⟩, by decide⟩

/-- Runs of a dual launch: not ended, ended, with equal and with other logs. -/
def runOf (k : Nat) (fin : Bool) (log : List (Nat × Nat)) : Gang := { gang0 0x4000 with key := k, run := k, ended := fin, log := log }
def dual (gs : List Gang) : State := { at0 .c with disp := { State.reset.disp with gangs := gs } }
def capt0 : Capture := ⟨0x40000, 0x20000, [], [0x30000], false⟩
theorem witness_RunsAreComparedAndCaptured :
    (let a := runOf 0 true []
     let b := runOf 1 true []
     (dual [a, b]).disp.gangs.filter (fun g => g.pk.launch == 1 && g.pk.dual) = [a, b] ∧ a.run = 0 ∧ b.run = 1 ∧ (runOf 2 true []).run = 2 ∧
       (runOf 1 false []).ended = false ∧ a.ended = true ∧ runsAgree (dual [a, b]) a b = true) ∧
    (let g : Gang := { gang0 0x8000 with capt := some capt0 }
     (dual [g]).disp.gangs.find? (fun g => g.pk.launch == 1 && g.run == 0 && !g.ended) = some g ∧ g.capt = some capt0 ∧ 0x30000 ∈ capt0.want ∧
       0x50000 ∉ capt0.want ∧ capt0.trunc = false ∧ capt0.pages.length < min 8160 (capt0.len / 65536 - 1) ∧
       min 8160 ({ capt0 with len := 0x10000 }.len / 65536 - 1) ≤ capt0.pages.length) := by
  refine ⟨⟨by rfl, rfl, rfl, rfl, rfl, rfl, by decide⟩, by rfl, rfl, by decide, by decide, by decide, by decide, by decide⟩

/-- MIGCTL on and off; a page that moves and one that stays; a move to commit, its leaf as it was and changed. -/
def moveOf (leaf : Word) : Move := ⟨5, 0, 0x30000, 0x40018, leaf, 1, 0xFFFF0000, false, 0, none⟩
def moving1 (leaf : Word) : State :=
  let s := tabled 0x1F State.reset
  { s with moves := [moveOf leaf], vfs := s.vfs.set 0 { s.vfs[0] with migctl := 1 } }
theorem witness_PagesMove :
    (State.reset.vfunOf 0).migctl.getLsbD 0 = false ∧
    (let s := tabled 0x1F State.reset
     let u := { s with vfs := s.vfs.set 0 { s.vfs[0] with migctl := 1, segl := s.vfs[0].segl.set 1 0x0001_0000_0100_0001 } }
     (u.vfunOf 0).migctl.getLsbD 0 = true ∧ u.listed 0 0x30000 = false ∧
       (match u.planMove 0 0x30000 1 with | .copy .. => true | _ => false) = true) ∧
    (let s := { State.reset with objs := [obj5], disp := { State.reset.disp with gangs := [{ gang0 0 with pk := { (gang0 0).pk with objs := [5] } }] } }
     s.listed 0 0x30000 = true) ∧
    (∀ m ∈ State.reset.moves, m.id ≠ 5) ∧
    (let s := moving1 0x2001F
     s.moves.find? (fun m => m.id == 5) = some (moveOf 0x2001F) ∧ bytesVal (Memory.readN s.mem 0x40018 8) = 0x2001F ∧
       s.framePa 0 0 (leafOa 0x2001F) = some 0x20000 ∧ s.badFrame 0x20000 = false ∧ Memory.wf s.mem = true ∧ leafLoc 0x2001F = 0) ∧
    (moveOf 0x3001F).leaf.toNat ≠ bytesVal (Memory.readN (moving1 0x3001F).mem 0x40018 8) ∧
    (let s := { moving1 0x2001F with vfs := (moving1 0x2001F).vfs.set 0 { (moving1 0x2001F).vfs[0] with segl := #v[0x10000_0001, 0x10000_0001, 0] } }
     (s.framePa 0 1 0xFFFF0000).isSome = true) := by
  refine ⟨by decide, ⟨by decide, by decide, by decide⟩, by decide, by decide, ⟨by rfl, by decide, by decide, by decide, by decide, by decide⟩,
    by decide, by decide⟩
/-- Exchanges: not asked; without a leaf; with another leaf; with the same, for an invalid word. A namespace export and import under
way and not; a waiting OPENW before and at its limit. -/
def exch (go : Nat) (old : Word) : State := tabled 0x0E (State.reset.modCr fun r => { r with lxgo := go, lxa := 0x30000, lxold := old })
theorem witness_PagesMove_registers :
    (∃ k, State.reset.cores.find? (fun x => x.id == ⟨0, 0, 0⟩) = some k ∧ k.cr.lxgo ≠ 1) ∧
    (∃ k, (exch 1 0x2000E).cores.find? (fun x => x.id == ⟨0, 0, 0⟩) = some k ∧ k.cr.lxgo = 1 ∧ (exch 1 0).leafOf 0 0x30000 = some (3, 0x40018, 0x2000E) ∧
      k.cr.lxold = 0x2000E ∧ leafMig k.cr.lxnew = false ∧ leafV 0x2000E = false) ∧
    ((exch 1 0).core.cr.lxold ≠ 0x2000E ∧ (exch 1 0).leafOf 0 0x80000000000000 = none) ∧
    (let s := State.reset.modVf 0 fun f => { f with nsx := 8, nsi := 8 }
     (s.vfunOf 0).nsx = 8 ∧ (s.vfunOf 0).nsi = 8) ∧ (State.reset.vfunOf 0).nsx = 0 ∧ (State.reset.vfunOf 0).nsi = 0 ∧
    ({ State.reset with exports := [([], ⟨[], [], []⟩)] }.imageAt 0 8).1 = some ⟨[], [], []⟩ ∧
    (let w : OpenW := ⟨⟨0, 0, 0⟩, 1, 3, [97], some 10⟩
     ∀ t, { State.reset with openws := [w], timer := t }.openws = [w] ∧ w.limit = some 10) ∧ (9 : Nat) < 10 ∧ (127 : Nat) < 128 := by
  refine ⟨⟨_, rfl, by decide⟩, ⟨_, rfl, by decide, by decide, by decide, by decide, by decide⟩, by decide, by decide, by decide, by decide, by rfl,
    fun t => ⟨rfl, rfl⟩, by decide, by decide⟩

theorem witness_AccountsBalance : (State.reset.timer / 1000 ≤ State.reset.books.tick) ∧
    (let s := { State.reset with timer := 1000 }
     s.books.tick < s.timer / 1000 ∧ s.books.pledges = []) ∧ State.reset.bookStores.books.broken [] = [] ∧
    Books.broken [] { Books.reset with elapsed := Vector.replicate 13 1 } ≠ [] ∧
    ([(0, 0), (1, 5)] : List (Nat × Nat)) ≠ [] ∧ (12 : Nat) < 13 ∧ Books.reset.live.Pairwise (fun x y => x.1 < y.1) := by
  refine ⟨by decide, by decide, by decide, by decide, by decide, by decide, List.Pairwise.nil⟩

/-- A port that is up, with its neighbour's epoch; one that trains. -/
def linked (st : Nat) : State := tabled 0x0F { State.reset with plat := { State.reset.plat with links := State.reset.plat.links.set 3 { Link.reset with st := st } } }
def remote (w : Bool) (va : Word) : RemoteReq := ⟨3, w, 0, va, false, 8, 7, 0⟩
theorem witness_LinksCarryAndRetrain :
    ((linked 2).linkUp 3 = true ∧ (linked 1).linkUp 3 = false ∧ (3 : Nat) < 12 ∧ ((linked 2).plat.links[3]).st = 2 ∧
      ((linked 1).plat.links[3]).st = 1 ∧ ((linked 2).link 3).epoch = 0 ∧ ((linked 2).plat.links[3]).spu = false ∧ (7 : Nat) < 8) ∧
    ((remoteTarget (remote false 0x80000000000000) (linked 2)).1 = .error (.code 0x10) ∧ isOk (remoteTarget (remote false 0x30000) (linked 2)).1 = true ∧
      isOk (remoteTarget (remote true 0x30000) (linked 2)).1 = true ∧ (linked 2).moving 0 0x30000 = false ∧ (linked 2).dirtyCell 0 0x20000 = none ∧
      { linked 2 with moves := [moveOf 0] }.moving 0 0x30000 = true) ∧
    (let s := { linked 2 with plat := { (linked 2).plat with tmctl := 6 } }
     s.plat.tmctl.getLsbD 0 = false ∧ (s.plat.tmctl.extractLsb' 1 4).toNat = 3 ∧ s.linkUp 3 = true ∧
       { s with plat := { s.plat with tmctl := 1 } }.plat.tmctl.getLsbD 0 = true) ∧
    ((State.reset.plat.cxl[0]).st ≠ 2 ∧ ((State.reset.plat.cxl.set 0 { State.reset.plat.cxl[0] with st := 2 })[0]).st = 2) := by
  refine ⟨by decide, by decide, by decide, by decide⟩
def mbx (op len : Nat) : Plat := { State.reset.plat with mbx := { Mailbox.reset with go := true, op := op, len := len } }
/-- Each mailbox operation started and none; steps 0, 2 and 8 of bring-up; before and after its 5 s. -/
theorem witness_LinksCarryAndRetrain_platform :
    (State.reset.plat.mbxRuns 1 = false ∧ (mbx 1 61441).mbxRuns 1 = true ∧ (mbx 2 61440).mbxRuns 2 = true ∧ (mbx 3 0).mbxRuns 3 = true ∧
      (mbx 4 0).mbxRuns 4 = true ∧ (mbx 2 61441).mbx.len = 61441) ∧
    (State.reset.plat.power.isNone = true) ∧
    (let p := { State.reset.plat with power := some 0, step := 8 }
     p.power.isSome = true ∧ p.ready = false ∧ p.rcv = false ∧ p.step = 8 ∧ { p with step := 2 }.step = 2 ∧ { p with step := 0 }.step ≠ 2 ∧
       { p with rcv := true }.rcv = true) ∧
    (let s := { State.reset with plat := { State.reset.plat with power := some 0 }, timer := 5000000000 }
     s.plat.power = some 0 ∧ 0 + 5000000000 ≤ s.timer ∧ State.reset.timer < 0 + 5000000000) := by decide

theorem witness_TheHollowStateIsEnteredAndLeft :
    (let p := { (ready (at0 .c)).plat with auto := true }
     p.hst = 0 ∧ p.ready = true ∧ p.mbxRuns 3 = false ∧ p.auto = true ∧ p.divNext = none ∧ { p with divNext := some 3 }.divNext = some 3) ∧
    ((ready (at0 .c)).done = [] ∧ (ready (at0 .c)).todo = [] ∧ (ready (at0 .c)).core.st = .running) ∧
    (∀ k, (hol k (at0 .c)).plat.hst = k) ∧ ((at0 .c).plat.warn = false ∧ { (at0 .c).plat with asked := true }.asked = true) ∧
    ((650 : Nat) ≤ 655 ∧ (655 : Nat) ≤ 900 ∧ (655 : Nat) % 5 = 0 ∧ (649 : Nat) < 650) ∧ (State.reset.plat.straths[0]).volt = 900 ∧
    ((⟨900, true, 0, [(3, 257)], 0⟩ : Strath).late = [(3, 257)] ∧ ∃ r ∈ ([(3, 257)] : List (Nat × Nat)), 256 < r.2) ∧
    (({ State.reset with bad := [1], soft := [2] }.bad = [1]) ∧ 1 ∉ ([2] : List Nat)) ∧
    ((State.reset.spare 0).csp = false ∧ State.reset.coreUsed 7 = false ∧ (withGang 0 State.reset).coreUsed 0 = true ∧
      (State.reset.vale 0).holder = none ∧ (State.reset.vale 0).grant = none ∧ (State.reset.spare 0).rows < 8 ∧ (State.reset.spare 0).cols < 8) ∧
    (Spare.reset.drn = false ∧ State.reset.valeUsed 0 = false ∧ (withGang 0 State.reset).valeUsed 0 = true) ∧
    (unitTotal 12 = 1 ∧ (12, 0) ∉ State.reset.plat.gone ∧ unitTotal 12 ≤ 1) := by
  refine ⟨by decide, by decide, fun k => rfl, by decide, by decide, by decide, ⟨by decide, _, List.mem_singleton.2 rfl, by decide⟩, by decide,
    by decide, by decide, by decide⟩

/-- The core has sent a remote write of an engine that is not yet acknowledged. -/
def owing (e : Engine) (s : State) : State :=
  { s with outbox := [.write ⟨0, 0, engNum e, s.core.id, none, s.core.launch, 0, 1, 0, 0x30000, [1], none⟩] }
/-- FSET, STRL, LAUNCH, RCLM and its group, SREL, PREEMPT with FREE, STQL and SFENCE wait for such a write; a response's tokens. -/
theorem witness_WritesNotYetPerformed :
    (let s := owing .v (at0 .v)
     Admits .v 1 .none s (s.settle .v) ∧ (s.settle .v).unacked .v ≠ [] ∧ (at0 .v).unacked .v = []) ∧
    (let s := owing .c (chan 0 (withS [(1, 0x30010)] (mapped .c)))
     let u := s.settle .c
     Admits .c 1 .none s u ∧ (∃ r, storeC u (u.sReg 1) 8 = .ok r) ∧ u.channelOf (.gen u.vf 0x30010) = some 0x30000000 ∧
       u.inScope 0x30000000 = true ∧ u.unacked .c ≠ [] ∧ (chan 0 (mapped .c)).unacked .c = []) ∧
    (let s := owing .c ((at0 .c).setQueue 0 { Queue.reset with cfg := 0x10809 })
     let u := s.settle .c
     Admits .c 1 .none s u ∧ s.inShadow = false ∧ u.unacked .c ≠ [] ∧ u.dirBusy = false ∧
       ((u.gang u.core.launch).map Gang.dual).getD false = false ∧
       (u.queue (queueKey u.vf (packetOf ((List.range 8).map fun i => u.sReg (nextReg 1 i))).queue)).fifo.length < 32) ∧
    (let b := { at0 .c with syncs := [{ flagObj 4 with oid := 0x20000001 }], binds := [⟨.gen 1 0x30000, 64, 0x20000001, 0⟩] }
     let s := owing .c { withS [(1, 0x320000001)] b with hist := [⟨0, 0, [], .gen 1 0x30000, none⟩] }
     let u := s.settle .c
     Admits .c 1 .none s u ∧ okWith (u.named (opOid (u.sReg 1)) 2) (fun o => decide (o.rels = []) && !(u.unackedOf o.oid).isEmpty) = true) ∧
    (let s := owing .c { maker 0x200000001 with disp := { (maker 1).disp with gangs := [{ gang0 0 with key := 5, st := .stopped, hold := true }] } }
     Admits .c (xWords false) .none s (s.settle .c) ∧ (s.settle .c).preemptBad 1 true = none ∧ (s.settle .c).unacked .c ≠ []) ∧
    (let s := owing .s (chan 0 (sq 1 0x30010 0b11 (mapped .s)))
     let u := s.settle .s
     Admits .s 1 .none s u ∧ u.unacked .s ≠ [] ∧ okWith (popPair 0 u) (fun r =>
       okWith (checkBlock r.2.1 0 r.1 (maskPieces r.2.1.mask) r.2.2) fun q => !(q.2.unacked .s).isEmpty) = true) ∧
    (at0 .c).unacked .c = [] := by
  refine ⟨⟨admits_plain rfl, by decide, rfl⟩, ⟨admits_plain rfl, oks (by decide), by decide, by decide, by decide, rfl⟩,
    ⟨admits_plain rfl, rfl, by decide, by decide, by decide, by decide⟩, ⟨admits_plain rfl, by decide⟩, ⟨admits_plain rfl, by decide, by decide⟩,
    ⟨admits_plain rfl, by decide, by decide⟩, rfl⟩

/-- An AGC before and after its record has come; the waits of A outside a BREATH. -/
theorem witness_GeneratorsAreLoaded_record :
    ((recAt gBytes).settle .a).core.agc ≠ some (((recAt gBytes).settle .a).pcOf .a) ∧ ((recAt gBytes).eng .a).wait ≠ .breath ∧
    (let s := (recAt gBytes).modCore fun c => { c with agc := some 0 }
     Admits .a 2 .none s (s.settle .a) ∧ (s.settle .a).core.agc = some ((s.settle .a).pcOf .a)) ∧
    ((withGen (gen1 1 1)).eng .a).wait ≠ .breath :=
  ⟨by decide, by decide, ⟨admits_plain rfl, by decide⟩, by decide⟩

/-- A word of another engine in the shadow context; V at an illegal word, outside a BREATH. -/
theorem witness_CyclesWithoutAnIssue_words :
    (let s := State.reset.loadText .c [0x04000000]
     let s := s.modCore fun c => { c with cr := { c.cr with shd := true }, pager := c.text }
     s.forms .c = true ∧ s.inShadow = true ∧ s.lastWord .c ≥ s.pcOf .c ∧
       s.badFetch .c (s.pcOf .c) (wordLen (s.wordAt .c (s.pcOf .c))) = none ∧ ownWordOf .c (s.wordAt .c (s.pcOf .c)) = false) ∧
    (let s := State.reset.loadText .v [0x0A000000]
     (∃ d, (s.walk .v).1 = .bad d) ∧ Engine.v ≠ .c ∧ (s.eng .v).wait ≠ .breath) ∧ (respond 5 true (.s 3 7)).unacked .c = [] ∧
    { (at0 .a).core with agc := none }.agc = none := by
  refine ⟨by decide, ⟨⟨1, by decide⟩, by decide, by decide⟩, by decide, rfl⟩

/-- An asynchronous engine at work and idle; an array with no holder. -/
theorem witness_BreathsMeet_units :
    ((withCmd (copyCmd .started 0) (at0 .c)).working 0 0 ≠ none ∧
      vget ((withCmd (copyCmd .started 0) (at0 .c)).vale 0).xrep 0 0 = 0 ∧ (0 : Nat) < 128) ∧
    (at0 .c).working 0 0 = none ∧ (at0 .c).holderCore 0 = none ∧
    ∃ k, shadow.coreOf 0 0 = some k ∧ k.cr.shd = true := by
  refine ⟨by decide, by decide, by decide, _, rfl, by decide⟩

/-- A command whose remote writes are not acknowledged; one that has elements done; a tagged one; one that is paused. -/
theorem witness_CommandsStartAndEnd_waits :
    { copyCmd .performed 0 with wids := [3] }.wids ≠ [] ∧ (copyCmd .performed 0).wids = [] ∧
    ((copyCmd .complete 0).stage = .complete ∧ (copyCmd .complete 0).wids = [] ∧ (copyCmd .complete 0).fault = none ∧
      (copyCmd .complete 0).shadow = false) ∧ { copyCmd .complete 0 with tag := some 3 }.tag = some 3 ∧
    (let c := { started 1 0x8000000000000100 [] with upto := 2 }
     (Run.start c (at0 .c)).err = none ∧ (Run.start c (at0 .c)).idx < (Run.start c (at0 .c)).cmd.upto) ∧
    { sigathCmd with upto := 1 }.upto ≠ 0 ∧ (withCmd sigathCmd (at0 .c)).paused sigathCmd = false ∧
      (saccCmd 0).bytes / 4 = 0 ∧
      (withCmd (saccCmd 0) (at0 .c)).paused (saccCmd 0) = false := by
  refine ⟨by decide, rfl, by decide, rfl, by decide, by decide, by decide, by decide, by decide⟩

/-- A page that moves holds a record back. -/
def held1 (s : State) : State := { s with moves := [⟨5, 0, 0, 0x40018, 0x2001F, 1, 0, false, 0, none⟩] }
theorem witness_GangsWait :
    ((held1 (at0 .c)).pagesHeld 0 0 64 = true ∧ (at0 .c).pagesHeld 0 0 64 = false) ∧
    (let s := owing .c (ended none)
     s.gangWrites (gang0 0) = true ∧ (ended none).gangWrites (gang0 0) = false) ∧
    (let g : Gang := { gang0 0 with st := .chosen }
     let s := issuing g { State.reset with cycle := 5 }
     (s.disp.gangs.filter fun g => g.pk.launch == 1 && g.st == .chosen && g.saved.isEmpty && !g.ended && decide (g.since < s.cycle)) = [g] ∧
       s.pagesHeld g.vf g.pk.cmpl 64 = false ∧ (held1 s).pagesHeld g.vf g.pk.cmpl 64 = true ∧ g.pk.captures = false ∧ g.run ≠ 2) ∧
    (let g := stopG .chosen (some 0) [(at0 .c).core]
     (stopping g 0).cycle ≤ g.since ∧ g.since < { stopping g 0 with cycle := 1 }.cycle) ∧
    (let s := decides (head1 0 7) { State.reset with disp := { State.reset.disp with dones := [(7, 2)] } }
     s.applyVales.pagesHeld 0 (head1 0 7).cmpl 64 = false) ∧
    (let u := (decides (head1 0 0) (openVale State.reset)).applyVales
     (∃ d, u.pickHead [0] = some (0, d)) ∧ u.disp.head = []) ∧
    { (at0 .c).disp with head := [(0, 9, 0)] }.head = [(0, 9, 0)] ∧
    (let w : IWord := 0x5A000000
     [w][(⟨4, 0, 0⟩ : Config.Reloc).place]? = some w) := by
  refine ⟨by decide, by decide, ⟨by rfl, by decide, by decide, by decide, by decide⟩, by decide, by decide, ⟨⟨_, rfl⟩, by decide⟩, by rfl, by rfl⟩

/-- The log of a run that agrees has, or has not, pages to capture first. -/
theorem witness_RunsAreComparedAndCaptured_logs :
    (let a := runOf 0 true []
     let b := runOf 1 true []
     let c := runOf 2 true []
     (dual [a, b, c]).disp.gangs.filter (fun g => g.pk.launch == 1 && g.pk.dual) = [a, b, c] ∧ (dual [a, b, c]).canPerform b = true ∧
       (held1 (dual [a, b, c])).canPerform b = false ∧ (dual [a, b, c]).logPages a b = []) ∧
    (let g : Gang := { gang0 0x8000 with capt := some capt0 }
     (dual [g]).pagesHeld 0 capt0.area 65536 = false) := by
  refine ⟨⟨by rfl, by decide, by decide, by decide⟩, by decide⟩

/-- A page with updates of a SAEQ still to be performed; a leaf that takes a page with a frame of the reserve, and with none. -/
theorem witness_PagesMove_frames :
    ({ at0 .c with updates := [⟨0, ⟨0, 0, 0⟩, 0, 0, 16, 0, false, [(0x30010, 0x20010, 1)]⟩] }.updatesIn 0x20000 = true ∧
      (at0 .c).updatesIn 0x20000 = false) ∧
    (exch 1 0x2000E).freeFrames 0 0 = [] ∧ (exch 1 0x2000E).exchangeError 0 3 0x2000E = none ∧
    (let s := { exch 1 0x2000E with vfs := (exch 1 0x2000E).vfs.set 0 { (exch 1 0x2000E).vfs[0] with segl := #v[0x0001_0000_1000_0001, 0, 0] } }
     ∃ a as, s.freeFrames 0 0 = a :: as) := by
  refine ⟨by decide, by decide, by decide, ⟨_, _, rfl⟩⟩

/-- Books of one unit that has booked its cycle of now, and those that a check finds at fault. -/
theorem witness_AccountsBalance_units :
    (let b := { Books.reset with own := [⟨5, 0, 1, 0, 0⟩] }
     b.own = [⟨5, 0, 1, 0, 0⟩]) ∧
    (∃ x xs, Books.broken [] { Books.reset with elapsed := Vector.replicate 13 1 } = x :: xs) ∧
    (∀ p ∈ State.reset.books.pledges, State.reset.moving p.vf p.va.toNat = false) := by
  refine ⟨rfl, ⟨_, _, rfl⟩, by decide⟩

/-- A function whose gangs are all stopped and held while its pages are tracked; an acknowledged write; a port that serves no time. -/
theorem witness_LinksCarryAndRetrain_served :
    (let s := { linked 2 with disp := { (linked 2).disp with gangs := [{ gang0 0 with st := .stopped, hold := true }] } }
     let t := { s with vfs := s.vfs.set 0 { s.vfs[0] with dtctl := 1 } }
     t.retired 0 = true ∧ s.retired 0 = false ∧ t.moving 0 0x30000 = false ∧ t.linkUp 3 = true) ∧
    (let w : FarWrite := ⟨3, 0, 0, ⟨0, 0, 0⟩, none, 0, 0, 1, 0, 0x30000, [1], none⟩
     { linked 2 with outbox := [.write w] }.outbox = .write w :: [] ∧ w.port = 3) := by
  refine ⟨by decide, rfl, rfl⟩

/-- 05 R149, R152: words of a reserved opcode and of a reserved sub-operation, a pair of a reserved opcode, X = 1 on an opcode of class none,
X = 0 on one of class req. -/
theorem witness_DecodedWordsAreCanonical_details :
    (let w := w1 0 1 0 0x25 0 0 0
     (w.extractLsb' 25 3).toNat = 1 ∧ w.getLsbD 24 = false ∧ reqOp 1 0x25 = false ∧ reservedOp 1 (w.extractLsb' 18 6).toNat = true) ∧
    (let w := w1 0 0 0 0x3C 0 0 10
     (w.extractLsb' 25 3).toNat = 0 ∧ w.getLsbD 24 = false ∧ reservedSub 0 (w.extractLsb' 18 6).toNat (w.extractLsb' 0 6).toNat = true ∧ reqOp 0 0x3C = false) ∧
    (let w := w1 0 2 1 0x3C 0 0 0
     w.getLsbD 24 = true ∧ goodPair w (w2 0 2 0) ∧ noneOp 2 0x3C = false ∧ reservedOp 2 (w.extractLsb' 18 6).toNat = true ∧ ¬ goodPair w (w2 0 3 0)) ∧
    (let w := w1 0 4 1 0x13 0 0 0
     w.getLsbD 24 = true ∧ goodPair w (w2 0 4 0) ∧ noneOp 4 (w.extractLsb' 18 6).toNat = true) ∧
    (let w := w1 0 0 0 0x30 0 0 0
     w.getLsbD 24 = false ∧ reqOp 0 (w.extractLsb' 18 6).toNat = true) := by
  refine ⟨by decide, by decide, ⟨by decide, ?_, by decide, by decide, ?_⟩, ⟨by decide, ?_, by decide⟩, by decide⟩ <;> unfold goodPair <;> decide

/-- A branch that is not taken at the last words of the store, and where the next word lies in it. -/
theorem witness_ConditionalBranchesOfC_end :
    (let s := (c2 4 5).modEng .c fun x => { x with pc := 32766 }
     let u := s.settle .c
     Admits .c 2 .none s u ∧ CondOp.holds (u.sReg 1) (u.sReg 2) .beq = false ∧ u.lastWord .c < u.pcOf .c + 2) ∧
    (((c2 4 5).settle .c).pcOf .c + 2 ≤ ((c2 4 5).settle .c).lastWord .c) ∧
    (let s := (at0 .a).modR fun r => { r with cond := r.cond.set 0 ⟨[⟨0, some false, false, false⟩], 0⟩ }
     let v := s.modEng .a fun x => { x with pc := 32767 }
     (s.settle .a).pcOf .a + 1 ≤ (s.settle .a).lastWord .a ∧ Admits .a 1 .none v (v.settle .a) ∧
       (∃ r, (v.settle .a).core.r.condPop .a = .ok (false, r)) ∧ (v.settle .a).lastWord .a < (v.settle .a).pcOf .a + 1) := by
  refine ⟨⟨admits_plain rfl, by decide, by decide⟩, by decide, by decide, admits_plain rfl, ⟨_, rfl⟩, by decide⟩

/-- An LDAQ of 2^55, of a misaligned address, and of a page without a leaf. -/
theorem witness_LoadsOfC_faults :
    (let s := withS [(1, 0x80000000000000)] (mapped .c)
     Admits .c 1 .none s (s.settle .c) ∧ 2 ^ 55 ≤ ((s.settle .c).sReg 1).toNat) ∧
    (let s := withS [(1, 0x30011)] (mapped .c)
     Admits .c 1 .none s (s.settle .c) ∧ ((s.settle .c).sReg 1).toNat < 2 ^ 55 ∧ ((s.settle .c).sReg 1).toNat % 8 ≠ 0) ∧
    (let s := withS [(1, 0x40000)] (mapped .c)
     let u := s.settle .c
     Admits .c 1 .none s u ∧ (u.sReg 1).toNat % 8 = 0 ∧ ∃ st, u.loadGen .c .c (u.sReg 1) 8 = .error st) :=
  ⟨⟨admits_plain rfl, by decide⟩, ⟨admits_plain rfl, by decide, by decide⟩, admits_plain rfl, by decide, errs (by decide)⟩

/-- A gang that takes pre-images with room for none yet. -/
def capturing (pages : List Nat) (s : State) : State :=
  { s with disp := { s.disp with gangs := [{ gang0 0x8000 with capt := some ⟨0x40000, 0x20000, pages, [], false⟩ }] } }
/-- Stores to a page without a leaf, to 2^55, misaligned, and to a page with and without its pre-image; an STRL to a channel's bytes in each of
those states, with a remote write that is not acknowledged, out of scope, and to sealed bytes. -/
theorem witness_StoresOfC_stops :
    (let s := withS [(1, 0x40000)] (mapped .c)
     let u := s.settle .c
     Admits .c 1 .none s u ∧ (u.sReg 1).toNat < 2 ^ 55 ∧ (u.sReg 1).toNat % 8 = 0 ∧ ∃ st, u.translate .c .c true (u.sReg 1) = .error st) ∧
    (2 ^ 55 ≤ (((withS [(1, 0x80000000000000)] (mapped .c)).settle .c).sReg 1).toNat ∧
      (((withS [(1, 0x30011)] (mapped .c)).settle .c).sReg 1).toNat % 8 ≠ 0) ∧
    (let u := (chan 0 (withS [(1, 0x30010)] (mapped .c))).settle .c
     okWith (u.translate .c .c true (u.sReg 1)) (fun q => okWith (q.2.okWrite .c (q.1.pieces 8)) fun t2 =>
       isOk (t2.preimage (u.sReg 1) q.1) && decide (t2.unacked .c = [])) = true ∧ u.inScope 0x30000000 = true ∧
       u.channelOf (.gen u.vf (u.sReg 1).toNat) = some 0x30000000) ∧
    (let u := (owing .c (chan 0 (withS [(1, 0x30010)] (mapped .c)))).settle .c
     okWith (u.translate .c .c true (u.sReg 1)) (fun q => okWith (q.2.okWrite .c (q.1.pieces 8)) fun t2 => !(t2.unacked .c).isEmpty) = true) ∧
    (let u := (capturing [] (withS [(1, 0x30010)] (mapped .c))).settle .c
     okWith (u.translate .c .c true (u.sReg 1)) (fun q => okWith (q.2.okWrite .c (q.1.pieces 8)) fun t2 => !isOk (t2.preimage (u.sReg 1) q.1)) = true) ∧
    (let u := (chan 7 (withS [(1, 0x30010)] (mapped .c))).settle .c
     (∃ oid, u.channelOf (.gen u.vf (u.sReg 1).toNat) = some oid ∧ u.inScope oid = false) ∧ isOk (u.translate .c .c true (u.sReg 1)) = true) ∧
    (let s := sealed (withS [(1, 0x30010)] (mapped .c))
     let u := s.settle .c
     isOk (u.translate .c .c true (u.sReg 1)) = true ∧ ∃ i, i < 8 ∧ u.isSealed u.vf ((u.sReg 1).toNat + i) (.cell (0x20010 + i)) = true) := by
  refine ⟨⟨admits_plain rfl, by decide, by decide, errs (by decide)⟩, by decide, by decide, by decide, by decide, ⟨⟨_, rfl, by decide⟩, by decide⟩,
    by decide, 0, by decide, by decide⟩

/-- The DIR group in the shadow context, and while its function's namespace moves; a stage that would hold too many names, and one with a
write that is not acknowledged; a SEAL of a range that is sealed, and with every handle held. -/
theorem witness_NamesAreOpenedAndClosed_waits :
    shadow.inShadow = true ∧
    (let s := (at0 .c).modVf 0 fun f => { f with nsx := 8 }
     Admits .c (xWords false) .none s (s.settle .c) ∧ s.inShadow = false ∧ (((s.settle .c).gang (s.settle .c).core.launch).map Gang.dual).getD false = false ∧
       (s.settle .c).dirBusy = true) ∧
    (let names := List.replicate 65537 (⟨0, [97], 5, 0⟩ : Name)
     let u := { (at0 .c).settle .c with names := names }
     u.staged.filter (fun p => p.gang == u.core.launch) = [] ∧ 65536 < names.length) ∧
    ((at0 .c).staged = [] ∧ (at0 .c).names.length ≤ 65536) ∧
    ((owing .c (at0 .c)).unacked .c ≠ []) := by
  refine ⟨by decide, ⟨admits_plain rfl, rfl, by decide, by decide⟩, ⟨rfl, by rw [List.length_replicate]; decide⟩, by decide, by decide⟩

/-- A barrier at pod scope whose phase is complete. -/
theorem witness_BarriersRelease_pod :
    let o := { bar2 2 with oid := 0x18000001, named := some 4 }
    { at0 .c with syncs := [o] }.syncObj 0x18000001 = some o ∧ o.due = true ∧ oidScope 0x18000001 = 4 := ⟨rfl, by decide, by decide⟩

/-- A statement's buffer whose last unit holds an uncorrectable error, and one whose page has no pre-image. -/
def stmtRuns (s : State) (p : Except Stop State → Except Stop Unit → Bool) : Bool :=
  let u := s.settle .c
  okWith (readWords (u.sReg 1) 4 u) fun r => okWith (r.2.translate .c .c true (u.sReg 1)) fun l =>
    ((List.range 522).all fun i => !l.2.isSealed l.2.vf ((u.sReg 1).toNat + 32 + i) ((l.1.byte 32).byte i)) &&
      p (l.2.okWrite .c ((l.1.byte 32).pieces 522)) (l.2.preimage (u.sReg 1) l.1)
theorem witness_CountersAreRead_stops :
    stmtRuns (withS [(1, 0x30000)] (mapped .c)) (fun w q => isOk w && isOk q) = true ∧
    stmtRuns { withS [(1, 0x30000)] (mapped .c) with bad := [0x20228 / 8] } (fun w _ => !isOk w) = true ∧
    stmtRuns (capturing [] (withS [(1, 0x30000)] (mapped .c))) (fun w q => isOk w && !isOk q) = true := by decide

/-- LDRO of a block that is held open but for its end, and of one in scratch. -/
theorem witness_LoadsOfA_readOnly :
    (let s := { aLoads 0x30040 0 with objs := [obj5], handles := [⟨0, 0, 5⟩] }
     isOk (blockAt (fun j => some (0x30040 + BitVec.ofNat 64 (4 * j))) (lqOne s)) = true ∧ (0x30040 : Word).getLsbD 63 = false ∧
       (∀ i, i < 192 → (s.settle .a).heldOpen ((0x30040 : Word).toNat + i) = true) ∧ (s.settle .a).heldOpen ((0x30040 : Word).toNat + 192) = false) ∧
    (isOk (blockAt (fun j => some (0x8000000000000000 + BitVec.ofNat 64 (4 * j))) (lqOne (aLoads 0x8000000000000000 0))) = true ∧
      (0x8000000000000000 : Word).getLsbD 63 = true) := by decide

/-- A core whose grant is due, with no plate asked for, and with a resident one; a core whose lease a freeze cut. -/
def granted (plate : Option PlateTag) : State :=
  let s := mLease { asking with plate := plate } none false (some ⟨tag0 (some 5), [], [], false⟩)
  s.modVale s.valeIdx fun v => { v with grant := some ⟨0, 0, 0⟩, use := .switch }
theorem witness_LeasesPassOn_grant :
    (Admits .m 1 .none (granted none) ((granted none).settle .m) ∧ ((granted none).settle .m).core.r.lease.held = false ∧
      ((granted none).settle .m).grantNow = true) ∧
    (let s := granted (some (tag0 (some 5)))
     let u := s.settle .m
     Admits .m 1 .none s u ∧ u.grantNow = true ∧ u.core.r.lease.plate = some (tag0 (some 5)) ∧ u.plateHere (tag0 (some 5)) true = true) ∧
    ((mLease .none none false none).settle .m).grantNow = false ∧
    (let s := twoCores id .none { asking with cut := true } none
     ∃ k, s.coreOf 0 1 = some k ∧ k.r.lease.cut = true ∧ k.asks = true) ∧
    (let s := twoCores (fun v => { v with holder := some 0, idle := 63 }) { held with cnt := 64 } asking none
     ∃ c, s.holderCore 0 = some c ∧ c.r.lease.rerun = 0) := by
  refine ⟨⟨admits_plain rfl, by decide, by decide⟩, ⟨admits_plain rfl, by decide, by decide, by decide⟩, by decide, ⟨_, rfl, by decide⟩, _, rfl, by decide⟩

/-- A row whose checksum fails once, and twice; an entry of floats. -/
theorem witness_RowsStreamThroughThePlate_flaws :
    (∀ twice, let s := { mLease held (some (tag0 none)) true (some (plate0 false)) with flaws := [.row 0 twice] }
      (∃ row s1, aRow .pbuf (keptTile 0 0 0 .pbuf) 0 s = .ok (row, s1) ∧ ∃ sa s2, aScale none none 0 s1 = .ok (sa, s2) ∧
        takeFlaw (rowFlaw s.valeIdx) s2.flaws = some (twice, [])) ∧ (s.vale s.valeIdx).plate = some (plate0 false) ∧ (plate0 false).failed = false) ∧
    (Fmt.ofCode (fmtA 0x00001) = some .bf16 ∧ ∃ f : BitVec 20, ∃ fa fb, Fmt.ofCode (fmtA f) = some fa ∧ Fmt.ofCode (fmtB f) = some fb ∧ fa ≠ .i8) := by
  refine ⟨fun b => ⟨⟨_, _, rfl, _, _, rfl, rfl⟩, rfl, rfl⟩, by decide, 0x00041, .bf16, .bf16, by decide, by decide, by decide⟩

/-- A core in a replay at a departed wait, and one whose load's response has come behind an older and before a younger operation; a response
for a place in a queue; a replay of another engine. -/
def backAt (l : Arrive) (e : Engine) (s : State) : State :=
  { s with reads := [⟨5, s.core.id, e, l, 0, [], [], true, [], (0, []), 7⟩] }
theorem witness_CyclesWithoutAnIssue_landings :
    (let s := (cEng fun x => { x with replay := 2 }).modCore fun c => { c with cwait := .departed (.dom 0) 3 0 }
     s.moves? .c = true ∧ (s.eng .c).replay ≠ 0 ∧ s.inShadow = false ∧ s.core.cwait = .departed (.dom 0) 3 0 ∧ s.decodeAt .c (s.pcOf .c) = .ok (.nop .none .c) ∧
       (∀ m x p q, Instr.nop .none .c ≠ .domsplit m x p q) ∧ ∀ m x p, Instr.nop .none .c ≠ .domjoin m x p) ∧
    (let s := cEng fun x => { x with replay := 2 }
     s.core.cwait = .none) ∧
    (let s := (at0 .m).modEng .m fun x => { x with replay := 2 }
     s.moves? .m = true ∧ (s.eng .m).replay ≠ 0 ∧ s.wantsLease .m = false) ∧
    (let s := (at0 .v).modEng .v fun x => { x with replay := 2 }
     s.moves? .v = true ∧ (s.eng .v).replay ≠ 0) ∧
    (let s := backAt (.reg (.s 3 9)) .c (cEng fun x => { x with pend := [⟨2, .s 3 8, 6⟩, ⟨2, .s 4 8, 8⟩] })
     ∃ r, s.reads.find? (fun r => r.id == 5) = some r ∧ s.mayRespond r = true ∧ r.core = s.core.id ∧ r.arr = .reg (.s 3 9)) ∧
    (let s := backAt (.reg (.s 3 9)) .c (at0 .c)
     s.core.r.eC.pend = [] ∧ s.inShadow = false ∧ ∃ r, s.reads.find? (fun r => r.id == 5) = some r ∧ s.mayRespond r = true ∧ r.eng = .c) ∧
    (let s := backAt (.reg (.a 3 9)) .a (at0 .a)
     s.core.r.eA.pend = [] ∧ ∃ r, s.reads.find? (fun r => r.id == 5) = some r ∧ s.mayRespond r = true ∧ r.eng = .a ∧ r.arr = .reg (.a 3 9)) ∧
    (let s := backAt (.slot 1 4 77) .a ((at0 .a).modR fun r => { r with lq := r.lq.set 1 ⟨[⟨4, none, false, false⟩], 0⟩ })
     ∃ r, s.reads.find? (fun r => r.id == 5) = some r ∧ s.mayRespond r = true ∧ r.core = s.core.id ∧ r.arr = .slot 1 4 77) := by
  refine ⟨⟨by decide, by decide, by decide, rfl, by rfl, ?_, ?_⟩, rfl, by decide, by decide, ⟨_, rfl, by decide⟩,
    ⟨rfl, by decide, _, rfl, by decide⟩, ⟨rfl, _, rfl, by decide⟩, _, rfl, by decide⟩
  all_goals intros; simp

/-- An engine that is halted, and one that is not, of a core that runs. -/
theorem witness_BreathsMeet_halted :
    (∃ k, (at0 .c).coreOf 0 0 = some k ∧ k.st = .running ∧ k.frozen = false ∧ k.cr.shd = false ∧ (k.eng .c).halted = false ∧ (k.eng .c).replay = 0) ∧
    (∃ k, (cEng fun x => { x with halted := true }).coreOf 0 0 = some k ∧ (k.eng .c).halted = true) ∧
    (∃ k, (cEng fun x => { x with replay := 2 }).coreOf 0 0 = some k ∧ (k.eng .c).replay ≠ 0) := ⟨⟨_, rfl, by decide⟩, ⟨_, rfl, by decide⟩, _, rfl, by decide⟩

/-- A command that posts: to no object, out of scope, to a flag, to a phase that is not held yet, past the count; a refused collective; one
with a fault, and one of the shadow path. -/
def postCmd (stage : CmdStage) (w1 : Word) : Cmd := { copyCmd stage (1 <<< 49) with words := (copyWords (1 <<< 49) 0x8000000000000100).set 1 w1 }
theorem witness_CommandsStartAndEnd_posts :
    (let c := postCmd .posting 0x4_1000_0001
     c.stage = .posting ∧ (withCmd c (at0 .c)).cmd 1 = some c ∧ (withCmd c (at0 .c)).syncObj ((c.word 1).extractLsb' 0 32) = none) ∧
    (let c := postCmd .posting 0x4_1000_0001
     let s := { withCmd c (at0 .c) with syncs := [bar2 0] }
     s.syncObj ((c.word 1).extractLsb' 0 32) = some (bar2 0) ∧ scopeHas { bar2 0 with owner := ⟨3, 3, 3⟩ } c.core none = false ∧
       (bar2 2).arrive (c.bits 1 32 32) 0 c.postBytes c.wrote [] = .overrun) ∧
    (let c := postCmd .posting 0x8_1000_0001
     (bar2 0).arrive (c.bits 1 32 32) 0 c.postBytes c.wrote [] = .wait) ∧
    (let c := postCmd .posting 0x4_2000_0001
     scopeHas { flagObj 0 with oid := 0x20000001 } c.core none = true ∧ oidKind ((c.word 1).extractLsb' 0 32) ≠ 1) ∧
    (let c := { collCmd 0 with stage := .queued, words := [0x0600_0000_0000_0001] }
     (withCmd c (at0 .c)).canStart c = true ∧ c.refused 0 = true ∧ c.kind = some .coll) ∧
    (let c := { copyCmd .complete 0 with fault := some 0x3E }
     c.stage = .complete ∧ c.wids = [] ∧ c.work = 0 ∧ (withCmd c (at0 .c)).earlier c = [] ∧ c.core = (at0 .c).core.id ∧ c.fault = some 0x3E ∧
       { c with shadow := true }.shadow = true) := by
  refine ⟨⟨rfl, rfl, by decide⟩, ⟨by rfl, by decide, by rfl⟩, by rfl, by decide, by decide, rfl, rfl, by decide, by rfl, rfl, rfl, rfl⟩

/-- An image of no words and no bytes, under key 0 of slot 0, whose tag is that of AES-256-GCM (computed with openssl from the header). -/
def image0 : List Byte := [67, 88, 86, 69, 1, 0, 0, 136, 0, 0, 0, 0, 0, 0, 0, 0, 0, 0, 0, 0, 5] ++ List.replicate 43 0 ++
  [217, 201, 88, 90, 57, 196, 226, 148, 33, 21, 53, 43, 210, 160, 249, 255]
theorem test_image_opens : isOk (openImage 0 0 0 5 0 0 0 image0) = true := by decide +kernel
def imageCmd (mode : Word) (len : Word) : Cmd := { copyxCmd mode with words := [0x0900_0001_0000_0000 ||| mode <<< 48, 0, 0x30000, 5, len] }
def holding (img : List Byte) : State :=
  let s := stoppedCore 64
  { s with mem := s.mem.filter (fun c => c.1 < 0x20000) ++ (img.zipIdx.map fun b => ((0x20000 + b.2, b.1) : Host.Cell)).filter (fun c => c.2 != 0) ++
      s.mem.filter fun c => 0x30000 ≤ c.1 }
def imageRun (c : Cmd) (s : State) : Run :=
  Run.readList c 0 8 8 ((80 + 8 * c.xcount + c.xlen) / 8) (fun i => c.word 2 + BitVec.ofNat 64 (8 * i)) (Run.start c s)
theorem witness_CommandsStartAndEnd_images :
    (let s := withCmd (imageCmd 1 0) (holding image0)
     let r := imageRun (imageCmd 1 0) s
     s.cmd 1 = some (imageCmd 1 0) ∧ (imageCmd 1 0).stage = .started ∧ s.paused (imageCmd 1 0) = false ∧ (imageCmd 1 0).kind = some .copyx ∧
       (imageCmd 1 0).bits 0 48 1 = 1 ∧ (∃ g t, (imageCmd 1 0).stoppedTarget s = some (g, t) ∧ (imageCmd 1 0).xfits g = true) ∧ s.keySlot 0 = (0, 0) ∧
       r.err = none ∧ r.data.flatMap (fun x => valBytes x 8) = image0 ∧ (imageCmd 1 0).xbound r.st = none ∧
       (imageCmd 1 0).xslot = 0 ∧ (imageCmd 1 0).xfirst = 5 ∧ (imageCmd 1 0).xcount = 0 ∧ (imageCmd 1 0).xoff = 0 ∧ (imageCmd 1 0).xlen = 0) ∧
    (let c := { imageCmd 1 0 with words := (imageCmd 1 0).words.set 2 0x70000 }
     (imageRun c (holding image0)).err ≠ none) ∧
    (let c := { imageCmd 1 0x8_0000_0000 with words := [0x0901_0001_0000_0000, 0, 0x30000, 0x1_0000_0005, 0x0000_0040_0000_0040] }
     let s := { stoppedCore 64 with binds := [⟨.sp 0 0x40, 0x40, 0x10000001, 0⟩], syncs := [{ bar2 0 with owner := ⟨0, 0, 1⟩ }] }
     c.xbound s = some 9) ∧
    (let c := imageCmd 0 0
     let s := stoppedCore 64
     (∃ g t, c.stoppedTarget s = some (g, t) ∧ t.cr.keyslot.toNat = 64 + c.xslot ∧ c.xfits g = true) ∧ c.xbound s = none ∧ c.upto = 0 ∧
       c.bits 0 48 1 = 0) := by
  refine ⟨⟨rfl, rfl, by decide, by decide, by decide, ⟨_, _, rfl, by decide⟩, by decide, by decide, by decide, by decide, by decide⟩, by decide, by decide,
    ⟨_, _, rfl, by decide, by decide⟩, by decide⟩

/-- Members that have read, one that writes, and one whose read meets an uncorrectable error; three parts of one length. -/
theorem witness_CollectivesAgree_phases :
    (let cs := coll2 1 1
     let s := { at0 .c with cmds := cs, domains := [dom0 [⟨0, 0, 0⟩, ⟨0, 0, 1⟩]] }
     let c := cs.headD (collCmd 0)
     s.cmd 1 = some c ∧ c.stage = .started ∧ c.kind = some .coll ∧ s.paused c = false ∧ c.phase = 1 ∧ (c.dom, c.seq) ∉ s.voids ∧
       s.collective c = some cs ∧ agree cs = true ∧ ∀ d ∈ cs, d.phase = 1) ∧
    (let s := { withCmd (collCmd 0) (at0 .c) with domains := [dom0 [⟨0, 0, 0⟩]], bad := [3 * 2 ^ 45] }
     (match (collGive 0 1 0 (collCmd 0) s).err with | some (.data _ _) => true | _ => false) = true) ∧
    (let gs : List (List Nat × List Nat) := [([], [1]), ([], [2]), ([], [3])]
     0 < gs.length ∧ gs.length ≤ 2 ^ 2 ∧ (∀ i, i < gs.length → (gs.getD i ([], [])).2.length = (gs.getD 0 ([], [])).2.length) ∧
       0 < (gs.getD 0 ([], [])).2.length) := by
  refine ⟨⟨rfl, rfl, by decide, by decide, by decide, by decide, by rfl, by decide, by decide⟩, by decide, by decide⟩

/-- Index lists that are read, that meet a fault, and of which a part has been read. -/
theorem witness_CommandsMoveElements_lists :
    (let c := started 3 0x8000000000000100 [0x2_0000_0000]
     let r := Run.start c (at0 .c)
     r.err = none ∧ r.data.length ≤ 0 ∧ isOk (r.read c 0 0x8000000000000000 4 4) = true ∧ isOk (r.read c 0 0x8000000000004000 4 4) = false ∧
       0 < { r with data := [7] }.data.length) ∧
    (let c := { started 1 0x8000000000000100 [] with upto := 2 }
     (Run.start c (at0 .c)).idx < (Run.start c (at0 .c)).cmd.upto) := by decide

/-- Eight cores of the one open vale are held by a launch of priority 0; a head of priority 5 has no placement; a save pool, or none. -/
def pressed (pool : Word) (heads : List (Nat × Nat × Nat)) : State :=
  let s := decides (head1 0xB40 0) (openVale State.reset)
  let g : Gang := { gang0 0 with cores := (List.range 8).map coreAt }
  { s with disp := { s.disp with gangs := [g], head := heads }, vfs := s.vfs.set 0 { s.vfs[0] with savel := pool, segl := s.vfs[0].segl.set 0 0x10000_0001 } }
theorem witness_DecisionsPlaceGangs_stops : ∀ hs, hs = [] ∨ hs = [(0, 9, 5)] →
    (let p := head1 0xB40 0
     let u := (pressed 0x1000000 hs).applyVales
     u.heads = [(0, p)] ∧ (∀ g ∈ u.disp.gangs, g.st ≠ .stopped) ∧ u.hold 0 p = .free ∧ u.effPrio p = 5 ∧ (u.queue 0).fifo.head? = some p ∧
       (match u.pickHead [0] with
         | some (0, d) =>
           let stay : State := { d with disp := { d.disp with head := [(0, 9, 5)] } }
           let vs := u.victims 5
           let room := fun (n : Nat) => ((stay.without ((vs.take n).map fun g => g.pk.launch)).placeAll 0 p 0 5).isSome
           ((d.setQueue 0 { d.queue 0 with fifo := [] }).placeAll 0 p 16 5).isNone && vs.length == 1 && !room 0 && room 1 &&
             stay.canSave (stay.disp.gangs.filter fun g => [1].contains g.pk.launch && !g.ended) []
         | _ => false) = true) ∧
    (let u := (pressed 0 hs).applyVales
     u.canSave u.disp.gangs [] = false) := by
  rintro hs (rfl | rfl) <;> exact ⟨⟨by rfl, by decide, by decide, by decide, by rfl, by decide⟩, by decide⟩

/-- A gang whose core holds its text, and whose image's header the tables map: it is loaded where that header is all there is to read. -/
def loading : Gang :=
  { gang0 0 with st := .chosen, pk := { (gang0 0).pk with words := ((gang0 0).pk.words).set 1 0x30000 } }
def loads : State :=
  let s := issuing loading (tabled 0x0F { State.reset with cycle := 5 })
  { s with core := { s.core with held := some (loading.holding ⟨0, 0, 0⟩) } }
theorem witness_DecisionsPlaceGangs_loads (h : ∀ bs, Config.imageHead bs = 0) : loads.dispatches = true ∧
    loads.pagesHeld loading.vf loading.pk.cmpl 64 = false ∧ loads.nsBusy loading.vf = false ∧ loading.pk.captures = false ∧
    loading.since < loads.cycle ∧ ∃ x, loadAll loading (loading.cores.foldl State.withCore loads) = .ok x := by
  refine ⟨by decide, by decide, by decide, by decide, by decide, ?_⟩
  have hr : isOk (readAs (loading.pk.reader loading.vf loading.owner) 4 16 loading.pk.img (loading.cores.foldl State.withCore loads)) = true := by decide
  obtain ⟨r, hr⟩ := oks hr
  have l : (loading.cores.foldl State.withCore loads).lacks loading (fun c => c.held == some (loading.holding c.id)) = 1 := by decide
  refine ⟨⟨Config.image [], [], none, [], r.2⟩, ?_⟩
  simp only [loadAll, readImage, hr, h, l, Bind.bind, Except.bind]
  rfl

/-- Two runs that disagree, with no place for a third and with one; three of which the last agrees with the second, whose log the capture
wants pages of, with the first, or with none; a page whose area moves; one that is read and one that cannot be. -/
def log1 : List (Nat × Nat) := [(0x30000, 1)]
theorem witness_RunsAreComparedAndCaptured_disagree :
    (let a := runOf 0 true []
     let b := runOf 1 true log1
     let s := dual [a, b]
     s.disp.gangs.filter (fun g => g.pk.launch == 1 && g.pk.dual) = [a, b] ∧ s.canPerform b = true ∧ runsAgree s a b = false ∧
       (s.placeRun a.vf a.pk a.owner a.prio 2).isNone = true ∧
       let t := { s with vales := [(1, { Vale.reset with vfOn := true })] }
       (t.placeRun a.vf a.pk a.owner a.prio 2).isSome = true) := by decide +kernel
theorem witness_RunsAreComparedAndCaptured_thirds :
    (let a := { runOf 0 true [] with capt := some { capt0 with want := [] } }
     let b := runOf 1 true log1
     let c := runOf 2 true log1
     let s := tabled 0x0F (dual [a, b, c])
     runsAgree s c b = true ∧ s.logPages a b ≠ [] ∧ (dual [runOf 0 true [], b, c]).logPages (runOf 0 true []) b = []) ∧
    (let a := runOf 0 true []
     let b := runOf 1 true log1
     let c := runOf 2 true []
     let s := dual [a, b, c]
     runsAgree s c b = false ∧ runsAgree s c a = true) ∧
    (let a := runOf 0 true [(0x30000, 2)]
     let b := runOf 1 true log1
     let c := runOf 2 true []
     let s := dual [a, b, c]
     runsAgree s c b = false ∧ runsAgree s c a = false) := by decide +kernel
theorem witness_RunsAreComparedAndCaptured_pages :
    (let g : Gang := { gang0 0x8000 with capt := some capt0 }
     let s := { dual [g] with moves := [⟨5, 0, 0x40000, 0x40018, 0x2001F, 1, 0, false, 0, none⟩] }
     s.pagesMove g.vf capt0.area 65536 = true ∧ (dual [g]).pagesMove g.vf capt0.area 65536 = false ∧
       (dual [g]).pagesMove g.vf (capt0.area + 65536 * (capt0.pages.length + 1)) 65536 = false) ∧
    (∃ x, preimageOf 0 0 0x30000 (dual []) = .ok x) ∧
    (let s := tabled 0x0F { dual [] with bad := [0x20000 / 8] }
     ∃ x, preimageOf 0 0 0x30000 s = .error x) := ⟨by decide, oks (by decide), errs (by decide)⟩

/-- A move to a frame of a steppe tier that has failed, and to one of the near tier; exchanges of a frame with an error, of a far frame to
which no port leads, and into a lost frame; a VALEVF in the hollow state. -/
theorem witness_PagesMove_errors :
    ((moving1 0x2001F).lostFrame 0x30000 = false ∧
      { moving1 0x2001F with plat := { (moving1 0x2001F).plat with noSteppe := true } }.lostFrame (2 ^ 48) = true) ∧
    (let s := { tabled 0x0F (State.reset.modCr fun r => { r with lxgo := 1, lxa := 0x30000, lxold := 0x2000F }) with bad := [0x20000 / 8] }
     s.leafOf 0 0x30000 = some (3, 0x40018, 0x2000F) ∧ (s.exchangeError 0 3 0x2000F).isSome = true ∧ s.lostFar 0x2000F = false) ∧
    ((exch 1 0x2000E).lostFar 0x2000E = false ∧ (exch 1 0).lostFar 0x200CF = true ∧ (exch 1 0).fillError 0 0x2000F = none) ∧
    (let s := exch 1 0
     let t := { s with plat := { s.plat with noSteppe := true }, vfs := s.vfs.set 0 { s.vfs[0] with segl := s.vfs[0].segl.set 1 0x10000_0001 } }
     (t.fillError 0 0x2004F).isSome = true) ∧
    (hol 2 State.reset).plat.hst ≠ 0 := by decide

/-- One pledge, whose page moves, whose page another gang's capture waits for, and neither. -/
def pledged (s : State) : State :=
  { s with timer := 1000, books := { s.books with pledges := [⟨⟨0, 0, 0⟩, 0, 5, 16, 0, 0x30000, []⟩] } }
theorem witness_AccountsBalance_pledges :
    (let s := pledged (at0 .c)
     ∃ p, s.books.pledges = [p] ∧ s.books.tick < s.timer / 1000 ∧ s.moving p.vf p.va.toNat = false ∧ s.claimed (some p.key) p.vf p.va.toNat = false) ∧
    (let s := { pledged (at0 .c) with moves := [⟨5, 0, 0x30000, 0x40018, 0x2001F, 1, 0, false, 0, none⟩] }
     s.moving 0 0x30000 = true) ∧
    (let s := { pledged (at0 .c) with disp := { State.reset.disp with gangs := [{ gang0 0x8000 with key := 5, capt := some capt0 }] } }
     s.claimed (some 0) 0 0x30000 = true) := ⟨⟨_, rfl, by decide⟩, by decide, by decide⟩

/-- A flit of 256 bytes with a header, its CRC right. -/
def flitBytes (h : Word) : List Byte :=
  let b := valBytes h.toNat 8 ++ List.replicate 240 0
  b ++ valBytes (Config.crc64 b).toNat 8
def flitAt (h : Word) (again : Option Nat) (pod : Option (SyncRef × Nat × Nat)) : Flit := ⟨3, flitBytes h, true, again, pod⟩
theorem valBytes_length : ∀ n x : Nat, (valBytes x n).length = n
  | 0, _ => rfl
  | n + 1, x => by simp [valBytes, valBytes_length n]
theorem flitAt_crcOk (h : Word) (again : Option Nat) (pod : Option (SyncRef × Nat × Nat)) : (flitAt h again pod).crcOk = true := by
  have l : (valBytes h.toNat 8 ++ List.replicate 240 (0 : Byte)).length = 248 := by simp [valBytes_length]
  simp only [Flit.crcOk, flitAt, flitBytes, List.take_left' l, List.drop_left' l, bytesVal_valBytes, List.length_append, l, valBytes_length]
  simpa using Nat.mod_eq_of_lt (Config.crc64 _).isLt
/-- Flits that are bad by their length, their class and a Z bit; a good acknowledgement, with a write that waits for it; one that brings a
credit for what waits; one that asks for a flit, and one with a tick. -/
theorem witness_LinksCarryAndRetrain_flits :
    ((linked 2).asleep = false ∧ (hol 2 (linked 2)).asleep = true ∧ ({ flitAt 0 none none with bytes := [] } : Flit).crcOk = false ∧
      6 ≤ (flitAt 6 none none).cls ∧ (flitAt (1 <<< 47) none none).zOk = false) ∧
    (let f := flitAt 1 none none
     f.crcOk = true ∧ f.cls = 1 ∧ f.zOk = true ∧ f.ack = true ∧ f.epoch = ((linked 2).plat.links[3]).epoch ∧ ((linked 2).plat.links[3]).queue = []) ∧
    (let f := flitAt (1 <<< 36) none none
     let l := { (linked 2).plat.links[3] with queue := [(0, .retry 3)] }
     f.crcOk = true ∧ f.zOk = true ∧ f.cls = 0 ∧ 0 < f.cred ∧ f.ccls < 5 ∧ l.queue = [(f.ccls, .retry 3)]) ∧
    (let f := flitAt 5 (some 7) (some (.obj 0x18000001, 4, 100))
     f.crcOk = true ∧ f.zOk = true ∧ f.cls = 5 ∧ f.again = some 7 ∧ oidScope 0x18000001 = 4 ∧
       { linked 2 with syncs := [{ bar2 2 with oid := 0x18000001 }] }.syncObj 0x18000001 = some { bar2 2 with oid := 0x18000001 }) := by
  refine ⟨by decide, ⟨flitAt_crcOk _ _ _, by decide⟩, ⟨flitAt_crcOk _ _ _, by decide, by decide, by decide, by decide, rfl⟩,
    flitAt_crcOk _ _ _, by decide, by decide, rfl, by decide, rfl⟩

/-- A remote access that waits, one of another epoch, one to a function that has moved, one that meets an uncorrectable error, and one that is
performed and answered with a leaf or without; every timing message; a port that trains; a lane repaired before. -/
def gone (s : State) : State := s.modVf 0 fun f => { f with moved := true }
def timed (p : Ptp) (s : State) : State := { s with plat := { s.plat with tmctl := 6, ptp := p } }
theorem witness_LinksCarryAndRetrain_remote :
    (remoteWaits (remote true 0x30000) { linked 2 with moves := [⟨5, 0, 0x30000, 0x40018, 0x2001F, 1, 0, false, 0, none⟩] } = true ∧
      remoteWaits (remote true 0x30000) (linked 2) = false ∧ remoteWaits (remote false 0x30000) (linked 2) = false ∧
      ({ remote true 0x30000 with epoch := 9 } : RemoteReq).epoch ≠ ((linked 2).link 3).epoch ∧ (remote true 0x30000).epoch = ((linked 2).link 3).epoch) ∧
    ((gone (linked 2)).retired 0 = true ∧ remoteWaits (remote false 0x30000) (gone (linked 2)) = false ∧ (linked 2).retired 0 = false ∧
      remoteWaits (remote true 0x30000) (gone (linked 2)) = false) ∧
    (remoteTarget (remote false 0x30000) { linked 2 with bad := [0x20000 / 8] }).1 = .error (.data 0x20000) ∧
    (remoteTarget (remote false 0x30000) (linked 2)).1 = .ok (0x20000, 0x2000F) ∧
    (remoteTarget (remote true 0x30000) (linked 2)).1 = .ok (0x20000, 0) ∧
    ((linked 1).plat.links[3]).st = 1 ∧ (linked 1).asleep = false ∧ ({ (linked 2).plat.links[3] with spu := true } : Link).spu = true ∧
    (let s := timed ⟨none, some 7, none⟩ (linked 2)
     s.linkUp 3 = true ∧ s.asleep = false ∧ s.plat.tmctl.getLsbD 0 = false ∧ (s.plat.tmctl.extractLsb' 1 4).toNat = 3 ∧
       2 ≤ (s.link 3).cred[4] ∧ (s.link 3).queue = [] ∧ s.plat.ptp.t2 = some 7) ∧
    (timed ⟨some 1, some 2, some 3⟩ (linked 2)).plat.ptp = ⟨some 1, some 2, some 3⟩ := by decide

/-- Every step of bring-up in a package that is neither ready nor recovering; one that has failed; what the opaque forms answer. -/
theorem witness_LinksCarryAndRetrain_steps :
    (∀ k, let p := { State.reset.plat with power := some 0, step := k }
      p.power.isSome = true ∧ p.ready = false ∧ p.rcv = false ∧ p.flt = 0 ∧ p.step = k) ∧
    ({ State.reset.plat with power := some 0, flt := 4 } : Plat).flt ≠ 0 ∧
    (Config.spdmRequest (mbx 1 8).mbx.bytes = none ∨ ∃ q, Config.spdmRequest (mbx 1 8).mbx.bytes = some q) ∧ ¬61440 < (mbx 1 8).mbx.len ∧
    (∀ img, (Config.imageSigned img = false ∨ Config.imageSigned img = true) ∧ (Config.imageVersion img < 0 ∨ 0 ≤ Config.imageVersion img)) := by
  refine ⟨fun k => by simp [State.reset, Plat.reset], by decide, ?_, by decide, fun img => ⟨by cases Config.imageSigned img <;> simp, .inr (Nat.zero_le _)⟩⟩
  cases Config.spdmRequest (mbx 1 8).mbx.bytes with
  | none => exact .inl rfl
  | some q => exact .inr ⟨q, rfl⟩

/-- A core that waits in HOLLOW; a divider that is written, and one that waits for the wake; an entry whose cores have stopped, and have not;
a hollow state that wakes at once, at its delay, and not yet; a wake that completes. -/
def holding1 (k : Nat) (f : Plat → Plat) : State := let s := hol k (ready (at0 .c)); { s with plat := f s.plat }
theorem witness_TheHollowStateIsEnteredAndLeft_entry :
    (let s := (ready (at0 .c)).modCore fun c => { c with cwait := .hollow 0 }
     s.plat.hst = 0 ∧ s.plat.ready = true ∧ s.plat.mbxRuns 3 = false ∧ ∃ c ∈ s.cores, c.inHollow = true) ∧
    (¬∃ c ∈ (ready (at0 .c)).cores, c.inHollow = true) ∧
    (let p := (holding1 0 fun p => { p with divNext := some 3 }).plat
     p.divNext.isSome = true ∧ p.divHeld = false ∧ p.divGo = false ∧ p.hst ≠ 2 ∧ { p with divGo := true }.divGo = true ∧ { p with divHeld := true }.divHeld = true) ∧
    ((holding1 1 id).plat.calm = false ∧ (holding1 1 id).toStop ≠ [] ∧ ((holding1 1 id).modCore fun c => { c with frozen := true }).toStop = [] ∧
      (holding1 1 fun p => { p with calm := true }).plat.calm = true ∧ (holding1 1 id).updates = []) ∧
    ((holding1 2 fun p => { p with asked := true }).plat.asked = true ∧
      (let s := { holding1 2 (fun p => { p with wdly := 1 }) with timer := 1000 }
       s.plat.warn = false ∧ s.plat.warnAt + s.plat.wdly * 1000 ≤ s.timer) ∧
      (let p := (holding1 2 fun p => { p with warn := true }).plat
       p.hst = 2 ∧ p.asked = false ∧ p.warn = true ∧ 0 < p.wdly)) ∧
    ((holding1 3 id).plat.hst = 3 ∧ (holding1 3 id).timer / 1000 ≤ (holding1 3 id).books.tick ∧ (holding1 3 id).core.st = .running ∧
      ∀ i, (holding1 3 id).linkUp i = false) := by
  refine ⟨⟨rfl, rfl, rfl, _, List.mem_cons_self, rfl⟩, by decide, by decide, by decide, by decide, rfl, by decide, rfl, fun i => ?_⟩
  by_cases h : i < 12
  · exact (show ∀ j : Fin 12, (holding1 3 id).linkUp j = false by decide) ⟨i, h⟩
  · simp [State.linkUp, h]

/-- A strath whose window has passed, and one whose window has not; a spare core whose moment has come, and one whose core is used; HBM rows
that are being copied, and not. -/
theorem witness_TheHollowStateIsEnteredAndLeft_spares :
    (let s := { State.reset with cycle := 2 ^ 20, plat := { State.reset.plat with straths := State.reset.plat.straths.set 2 ⟨900, true, 0, [(3, 257)], 0⟩ } }
     (s.plat.straths[2]).volt = 900 ∧ (s.plat.straths[2]).since + 2 ^ 20 ≤ s.cycle ∧ ∃ r ∈ (s.plat.straths[2]).late, 256 < r.2) ∧
    (State.reset.cycle < (State.reset.plat.straths[2]).since + 2 ^ 20) ∧
    ((State.reset.spare 0).csp = false ∧ State.reset.coreUsed 0 = false ∧ (State.reset.vale 0).betweenLeases = true ∧
      (withGang 0 State.reset).coreUsed 0 = true) ∧
    (let s := { State.reset with plat := { State.reset.plat with spares := [(0, { Spare.reset with csp := true })] } }
     (s.spare 0).csp = true) ∧
    ((3, 7) ∉ State.reset.plat.rows ∧ (3, 7) ∈ ({ State.reset.plat with rows := [(3, 7)] } : Plat).rows) := by decide

theorem witness_IntegerOperationsKeepTheRest : ∃ t, ((at0 .c).inShadow = true → Marks.none = .none) ∧
    exec (IntOp.instr .none 3 1 (.reg 2) .add) (at0 .c) = .next t := ⟨_, fun _ => rfl, rfl⟩
theorem witness_LaneOperationsKeepTheRest : ∃ t, (∃ p ∈ vTwos .none (.v 3) (.v 1) (.v 2) none, Instr.vadd .none (.v 3) (.v 1) (.v 2) none = p.2.2.1) ∧
    exec (.vadd .none (.v 3) (.v 1) (.v 2) none) (at0 .v) = .next t := ⟨_, ⟨_, List.mem_cons_self, rfl⟩, rfl⟩
theorem witness_OnlyStoresChangeMemory : ∃ t, (Instr.raw (.nop .none .c)).isSome = true ∧ storesToMemory (.nop .none .c) = false ∧
    exec (.nop .none .c) (at0 .c) = .next t := ⟨_, rfl, rfl, rfl⟩
theorem witness_MemoryStaysCanonical : State.reset.memOk = true ∧ ∃ t, step State.reset = .next t := ⟨by decide, _, rfl⟩

end Sys2Proof.Tests
end

section
/-! The memories of the package stay in canonical form (log 2): no step brings a cell out of order or lists one that holds the byte that an
unlisted cell holds anyway.

`State.memOk` speaks of physical storage, of the staging image and of the mailbox. Few functions of the model write one of the three, and each
of them writes by `Memory.write` or `Memory.writeN`, which keep the form (`Memory.write_wf`, `Memory.writeN_wf`). So there is one lemma for
each function that answers a state, in the order of the model: its answer is canonical where its arguments are. Three predicates say so of
an answer that is wrapped: `Yields` and `Ends` of a computation that may fail, `Gives` of an optional value, `Keeps` of an outcome. -/

namespace Sys2Proof.Machine

open Sys2Proof

/-! ## Answers -/

/-- The value of a computation, where it succeeds, has a property. -/
def Yields {ε α : Type} (p : α → Prop) : Except ε α → Prop
  | .ok a => p a
  | .error _ => True

/-- The value of a computation, where it succeeds, has one property, and its error, where it fails, another. -/
def Ends {ε α : Type} (q : ε → Prop) (p : α → Prop) : Except ε α → Prop
  | .ok a => p a
  | .error e => q e

/-- An optional value, where it is there, has a property. -/
def Gives {α : Type} (p : α → Prop) : Option α → Prop
  | some a => p a
  | none => True

/-- The next state of an outcome, where it has one, has its memories in canonical form. -/
def Keeps : Host.Outcome State Fault Refusal → Prop
  | .next t => t.memOk = true
  | _ => True

section Answers
variable {ε α β : Type} {p : α → Prop} {q : β → Prop} {r : ε → Prop} {c : Prop} [Decidable c]

theorem Yields.bind {x : Except ε α} {f : α → Except ε β} (hx : Yields p x) (hf : ∀ a, p a → Yields q (f a)) : Yields q (x >>= f) := by
  cases x with
  | error e => trivial
  | ok a => exact hf a hx

/-- A computation of whose value nothing need be known comes first. -/
theorem Yields.skip {x : Except ε α} {f : α → Except ε β} (hf : ∀ a, Yields q (f a)) : Yields q (x >>= f) := by
  cases x with
  | error e => trivial
  | ok a => exact hf a

theorem Yields.ite {x y : Except ε α} (hx : Yields p x) (hy : Yields p y) : Yields p (if c then x else y) := by
  split
  · exact hx
  · exact hy

theorem Yields.of_eq {x : Except ε α} {a : α} (hx : Yields p x) (e : x = .ok a) : p a := by
  subst e; exact hx

theorem Ends.bind {x : Except ε α} {f : α → Except ε β} (hx : Ends r p x) (hf : ∀ a, p a → Ends r q (f a)) : Ends r q (x >>= f) := by
  cases x with
  | error e => exact hx
  | ok a => exact hf a hx

theorem Ends.map {x : Except ε α} {f : α → β} (hx : Ends r p x) (hf : ∀ a, p a → q (f a)) : Ends r q (x.map f) := by
  cases x with
  | error e => exact hx
  | ok a => exact hf a hx

/-- A computation whose first step is left out under a condition, for a value that is there already. -/
theorem Ends.bind_ite {x : Except ε α} {f : α → Except ε β} {a : α} (ha : p a) (hx : Ends r p x) (hf : ∀ a, p a → Ends r q (f a)) :
    Ends r q (if c then (Except.ok a : Except ε α) >>= f else x >>= f) := by
  split
  · exact hf a ha
  · exact .bind hx hf

theorem Ends.of_ok {x : Except ε α} {a : α} (hx : Ends r p x) (e : x = .ok a) : p a := by
  subst e; exact hx

theorem Ends.of_error {x : Except ε α} {a : ε} (hx : Ends r p x) (e : x = .error a) : r a := by
  subst e; exact hx

theorem Gives.bind {o : Option α} {f : α → Option β} (ho : Gives p o) (hf : ∀ a, p a → Gives q (f a)) : Gives q (o.bind f) := by
  cases o with
  | none => trivial
  | some a => exact hf a ho

theorem Gives.skip {o : Option α} {f : α → Option β} (hf : ∀ a, Gives q (f a)) : Gives q (o.bind f) := by
  cases o with
  | none => trivial
  | some a => exact hf a

theorem Gives.ite {x y : Option α} (hx : Gives p x) (hy : Gives p y) : Gives p (if c then x else y) := by
  split
  · exact hx
  · exact hy

theorem Gives.of_eq {o : Option α} {a : α} (ho : Gives p o) (e : o = some a) : p a := by
  subst e; exact ho

theorem Keeps.of_eq {o : Host.Outcome State Fault Refusal} {t : State} (ho : Keeps o) (e : o = .next t) : t.memOk = true := by
  subst e; exact ho

end Answers

/-! ## States -/

theorem memOk_iff {s : State} :
    s.memOk = true ↔ Memory.wf s.mem = true ∧ Memory.wf s.plat.staging = true ∧ Memory.wf s.plat.mbx.buf = true := by
  simp only [State.memOk, Bool.and_eq_true, and_assoc]

/-- A state with the storage and the platform of a canonical one is canonical. -/
theorem memOk_congr {s t : State} (h : s.memOk = true) (hm : t.mem = s.mem) (hp : t.plat = s.plat) : t.memOk = true := by
  unfold State.memOk
  rw [hm, hp]
  exact h

/-- An update of the platform that leaves the staging image and the mailbox's buffer alone. -/
theorem State.modPlat_memOk {s : State} {f : Plat → Plat} (h : s.memOk = true)
    (hf : ∀ p, (f p).staging = p.staging ∧ (f p).mbx.buf = p.mbx.buf) : (s.modPlat f).memOk = true := by
  rw [memOk_iff] at h ⊢
  obtain ⟨hmem, hst, hbuf⟩ := h
  obtain ⟨hs, hb⟩ := hf s.plat
  exact ⟨hmem, hs.symm ▸ hst, hb.symm ▸ hbuf⟩

section States
variable {ε α β γ : Type}

theorem ite_memOk {c : Prop} [Decidable c] {s t : State} (hs : s.memOk = true) (ht : t.memOk = true) :
    (if c then s else t).memOk = true := by
  split
  · exact hs
  · exact ht

theorem fst_of_eq {a : State × α} {b : α} {t : State} (e : a = (t, b)) (h : a.1.memOk = true) : t.memOk = true := by
  subst e; exact h

theorem snd_of_eq {a : α × State} {b : α} {t : State} (e : a = (b, t)) (h : a.2.memOk = true) : t.memOk = true := by
  subst e; exact h

theorem third_of_eq {a : α × β × State} {b : α} {c : β} {t : State} (e : a = (b, c, t)) (h : a.2.2.memOk = true) :
    t.memOk = true := by
  subst e; exact h

theorem memOk_of_ok {x : Except ε State} {t : State} (e : x = .ok t) (h : Yields (·.memOk) x) : t.memOk = true :=
  h.of_eq e

/-- What each step of a fold keeps, the fold keeps: the form in which the folds below use `List.foldlRecOn`. -/
theorem foldl_inv {p : β → Prop} {g : β → α → β} {xs : List α} {b : β} (hg : ∀ b a, p b → p (g b a)) (hb : p b) : p (xs.foldl g b) :=
  List.foldlRecOn xs g hb fun b h a _ => hg b a h

theorem foldl_memOk {g : State → α → State} {xs : List α} {s : State} (hg : ∀ t a, t.memOk = true → (g t a).memOk = true)
    (h : s.memOk = true) : (xs.foldl g s).memOk = true :=
  foldl_inv (p := fun t : State => t.memOk = true) hg h

theorem foldl_run_memOk {g : Run → α → Run} {xs : List α} {r : Run} (hg : ∀ r a, r.st.memOk = true → (g r a).st.memOk = true)
    (h : r.st.memOk = true) : (xs.foldl g r).st.memOk = true :=
  foldl_inv (p := fun r : Run => r.st.memOk = true) hg h

theorem foldlM_run_memOk {g : Run → α → Except ε Run} {xs : List α} {r : Run}
    (hg : ∀ r a, r.st.memOk = true → Yields (·.st.memOk) (g r a)) (h : r.st.memOk = true) : Yields (·.st.memOk) (xs.foldlM g r) := by
  induction xs generalizing r with
  | nil => exact h
  | cons a xs ih => exact .bind (hg r a h) fun _ h1 => ih h1

end States

/-! ## The functions of the model, part by part -/

/-! ### Cores, queues, marks, causes, and the frame in which an instruction issues -/

section Ops
variable {s : State} {f : Core → Core} {e : Engine} {c : CoreId} {cls lat words : Nat} {fs : List (Fin 10)} {w : Wait} {m : Marks}
   {body : State → Except Stop Done}

theorem State.modCore_memOk (h : s.memOk) : (s.modCore f).memOk := h

theorem State.modEng_memOk {f : Eng → Eng} (h : s.memOk) : (s.modEng e f).memOk := h

theorem State.modR_memOk {f : Regs → Regs} (h : s.memOk) : (s.modR f).memOk := h

theorem State.modCr_memOk {f : CReg → CReg} (h : s.memOk) : (s.modCr f).memOk := h

theorem State.mapCores_memOk (h : s.memOk) : (s.mapCores f).memOk := h

theorem State.focus_memOk (h : s.memOk) : (s.focus c).memOk := by
  unfold State.focus
  split <;> exact h

/-- What keeps the memories keeps them with another core in focus. -/
theorem State.onCore_memOk {f : State → State} (hf : ∀ u, u.memOk → (f u).memOk) (h : s.memOk) : (s.onCore c f).memOk := by
  unfold State.onCore
  split
  · exact hf _ h
  · exact State.focus_memOk (hf _ (State.focus_memOk h))

theorem State.alert_memOk {src kind : Nat} {payload : List Nat} (h : s.memOk) : (s.alert src kind payload).memOk :=
  h

theorem State.poison_memOk {pa : Nat} (h : s.memOk) : (s.poison pa).memOk := by
  unfold State.poison
  dsimp only
  split <;> exact h

theorem State.sendFlit_memOk {port : Nat} {body : Sent} (h : s.memOk) : (s.sendFlit port cls body).memOk :=
  h

theorem State.sendAll_memOk {body : Nat → Sent} (h : s.memOk) : (s.sendAll cls body).memOk :=
  foldl_memOk (fun _ _ h1 => by split <;> exact h1) h

theorem State.pay_memOk {x : Spent} (h : s.memOk) : (s.pay x).memOk := by
  unfold State.pay
  dsimp only
  split <;> exact h

theorem State.tick_memOk (h : s.memOk) : s.tick.memOk := h

theorem State.settle_memOk (h : s.memOk) : (s.settle e).memOk := h

theorem State.sendToks_memOk (h : s.memOk) : (s.sendToks e fs).memOk := by
  unfold State.sendToks
  dsimp only
  split
  · exact h
  split
  · exact foldl_memOk (fun _ _ h1 => h1) h
  · exact h

theorem State.cancel_memOk (h : s.memOk) : (s.cancel e).memOk := by
  unfold State.cancel
  refine foldl_memOk (fun _ _ h1 => ?_) h
  refine State.sendToks_memOk ?_
  split <;> exact h1

theorem State.post_memOk {l : Land} (h : s.memOk) : (s.post e lat l).memOk := by
  unfold State.post
  split <;> exact h

theorem State.putC_memOk {r : Fin 32} {x : Word} (h : s.memOk) : (s.putC lat r x).memOk :=
  State.post_memOk h

theorem State.pushCuts_memOk (h : s.memOk) : Yields (·.memOk) (s.pushCuts e) := .skip fun _ => h

theorem popWaits_memOk : ∀ {fs : List (Fin 10)} {s : State}, s.memOk → Yields (·.memOk) (popWaits e fs s)
  | [], _, h => h
  | _ :: _, _, h => by
    unfold popWaits
    split
    · trivial
    · exact popWaits_memOk h

theorem reserveSignals_memOk : ∀ {fs : List (Fin 10)} {s : State}, s.memOk → Yields (·.memOk) (reserveSignals fs s)
  | [], _, h => h
  | _ :: _, _, h => by
    unfold reserveSignals
    split
    · trivial
    · exact reserveSignals_memOk h

theorem deliverSignals_memOk {d : Done} (h : d.st.memOk) : (deliverSignals e fs d).memOk := by
  unfold deliverSignals
  split
  · exact h
  split
  · exact h
  dsimp only
  split
  · exact foldl_memOk (fun _ _ => State.post_memOk) h
  · exact h

theorem State.trace_memOk {pc target : Nat} (h : s.memOk) : (s.trace e pc target).memOk := by
  unfold State.trace
  dsimp only
  split <;> exact h

theorem closeLoops_memOk (h : s.memOk) : (closeLoops e s).memOk := by
  unfold closeLoops
  dsimp only
  split
  · exact h
  · exact State.trace_memOk h

theorem retire_memOk {skip : Nat} {jump : Option Nat} (h : s.memOk) : (retire e words skip jump s).memOk := by
  unfold retire
  dsimp only
  split
  · exact State.trace_memOk h
  · exact closeLoops_memOk h

theorem stalled_memOk (h : s.memOk) : (stalled e w s).memOk := h

theorem joined_memOk (h : s.memOk) : (joined e w s).memOk := h

theorem takeTrap_memOk {eret : Nat} (h : s.memOk) : (takeTrap eret s).memOk := by
  unfold takeTrap
  split
  · exact h
  refine State.modCore_memOk ?_
  split <;> exact h

theorem doubleTrap_memOk {code : Nat} (h : s.memOk) : (doubleTrap code s).memOk := h

theorem State.report_memOk {c : CauseRec} (h : s.memOk) : (s.report c).memOk := by
  unfold State.report
  refine State.pay_memOk ?_
  split
  · exact State.poison_memOk h
  · exact h

theorem raise_memOk {c : CauseRec} (h : s.memOk) : (raise e c s).memOk := by
  unfold raise
  dsimp only
  split
  · split
    · split
      · exact State.report_memOk h
      · exact takeTrap_memOk (State.report_memOk h)
    · split
      · exact State.report_memOk h
      · exact takeTrap_memOk (State.report_memOk h)
  · refine State.modCore_memOk ?_
    split <;> exact State.report_memOk h

theorem stopped_memOk {st : Stop} (h : s.memOk) : Keeps (stopped e st s) := by
  unfold stopped
  split
  · exact h
  · exact h
  · exact h
  · exact raise_memOk h
  · trivial
  · trivial

/-- An instruction whose body keeps the memories keeps them when it issues: the waits, the signals and the end of an issue write none of them. -/
theorem issueRun_memOk (hf : ∀ u, u.memOk → Yields (·.st.memOk) (body u)) (h : s.memOk) : Yields (·.memOk) (issueRun e words m body s) :=
  .skip fun _ => .bind (popWaits_memOk h) fun _ h1 => .bind (reserveSignals_memOk h1) fun _ h2 => .bind (hf _ h2) fun _ h3 =>
      retire_memOk (deliverSignals_memOk h3)

theorem issue_memOk (hf : ∀ u, u.memOk → Yields (·.st.memOk) (body u)) (h : s.memOk) : Keeps (issue e words m body s) := by
  unfold issue
  split
  · exact h
  split
  next e1 => exact (issueRun_memOk hf h).of_eq e1
  · exact stopped_memOk h

theorem issueKernel_memOk (hf : ∀ u, u.memOk → Yields (·.st.memOk) (body u)) (h : s.memOk) : Keeps (issueKernel e words m body s) := by
  unfold issueKernel
  split
  · exact h
  · exact issue_memOk hf h

theorem issueBranch_memOk {kill : Bool} {cond : State → Except Stop (Option Nat)} {eff : Bool → State → Except Stop State}
    (hf : ∀ u v, v.memOk → Yields (·.memOk) (eff u v)) (h : s.memOk) :
    Keeps (issueBranch e words m kill cond eff s) := by
  unfold issueBranch
  split
  · exact h
  split
  · exact stopped_memOk h
  next e1 =>
    have h1 := memOk_of_ok e1 (issueRun_memOk (fun _ h1 => .skip fun _ => .skip fun _ => .bind (hf _ _ h1) fun _ h2 => h2) h)
    split
    · exact h1
    split
    · split
      next e2 => exact memOk_of_ok e2 (issueRun_memOk (fun _ h2 => .bind (hf _ _ h2) fun _ h3 => h3) (State.cancel_memOk h))
      · exact stopped_memOk h
    · exact h1

end Ops

/-! ### Storage: the one place at which a write of an engine changes it -/

section Mem
variable {s : State} {p : Party} {pa n id : Nat} {bs : List Byte} {loc : Loc} {rel : Option View} {e : Engine}

theorem State.modVale_memOk {v : Nat} {f : Vale → Vale} (h : s.memOk) : (s.modVale v f).memOk := h

theorem readHist_memOk {now : List Byte} (h : s.memOk) : (readHist s p pa n now).st.memOk := by
  unfold readHist
  dsimp only
  split <;> exact h

theorem readPiece_memOk (h : s.memOk) : (readPiece s p pa n).st.memOk := readHist_memOk h

theorem readPieces_memOk : ∀ {k : Nat} {s : State} {p : Party} {pa : Nat}, s.memOk → (readPieces s p pa n k).2.2.memOk
  | 0, _, _, _, h => h
  | k + 1, _, _, _, h => readPieces_memOk (k := k) (readPiece_memOk h)

theorem writeAt_memOk (h : s.memOk) : (writeAt id s pa bs loc rel).memOk := by
  rw [memOk_iff] at h ⊢
  obtain ⟨hmem, hst, hbuf⟩ := h
  exact ⟨Memory.writeN_wf bs pa hmem, hst, hbuf⟩

theorem writePiece_memOk (h : s.memOk) : (writePiece s pa bs loc rel).memOk := writeAt_memOk h

theorem State.announce_memOk (h : s.memOk) : (s.announce id).memOk := h

theorem State.setParty_memOk (h : s.memOk) : (s.setParty e p).memOk := h

theorem State.readBy_memOk (h : s.memOk) : (s.readBy e pa n).2.2.memOk := readPiece_memOk h

theorem State.writeBy_memOk {more : Bool} (h : s.memOk) : (s.writeBy e pa bs loc rel more).memOk :=
  State.modEng_memOk (writeAt_memOk h)

theorem State.corrected_memOk {u : Nat} (h : s.memOk) : (s.corrected u).memOk := h

theorem State.fixSoft_memOk (h : s.memOk) : (s.fixSoft pa n).memOk := by
  unfold State.fixSoft
  split
  · exact h
  · exact foldl_memOk (fun _ _ h1 => h1) h

theorem State.okRead_memOk (h : s.memOk) : Yields (·.memOk) (s.okRead e pa n) := by
  unfold State.okRead
  split
  · trivial
  · exact State.fixSoft_memOk h

theorem State.okWrite_memOk {ps : List (Nat × Nat)} (h : s.memOk) : Yields (·.memOk) (s.okWrite e ps) := by
  unfold State.okWrite
  split
  · trivial
  split
  · exact h
  dsimp only
  split
  · trivial
  · exact h

end Mem

/-! ### Translation, table walks, and reads and writes of generic and scratch memory -/

section Translate
variable {s : State} {pa acct vf n eia va key : Nat} {w : Walker} {f : VFun} {p : Party} {write : Bool} {t : TlbId} {bs : List Byte}
   {e : Engine}

theorem State.transfer_memOk (h : s.memOk) : (s.transfer pa acct).memOk := by
  unfold State.transfer
  dsimp only
  split <;> exact h

theorem State.walkKeep_memOk {e : Word} (h : s.memOk) : (s.walkKeep w vf n eia e).memOk := by
  unfold State.walkKeep
  split <;> exact h

theorem readEntry_memOk (h : s.memOk) : (readEntry w vf f n eia pa p s).2.2.memOk := by
  unfold readEntry
  split
  · exact h
  split
  · exact readPiece_memOk h
  · exact State.transfer_memOk (readPiece_memOk h)

theorem entryError_memOk (h : s.memOk) : (entryError w vf n eia pa s).2.memOk := by
  unfold entryError
  split
  · exact h
  · exact State.fixSoft_memOk h

theorem walkFrom_memOk : ∀ {k t : Nat} {p : Party} {s : State}, s.memOk → (walkFrom w vf f va k t p s).2.2.memOk
  | 0, _, _, _, h => h
  | _ + 1, _, _, _, h => by
    unfold walkFrom
    dsimp only
    split
    · exact h
    have h1 {w vf f n eia pa p} {e : Nat} : (readEntry w vf f n eia pa p (entryError w vf n eia e _).2).2.2.memOk :=
      readEntry_memOk (entryError_memOk h)
    split
    · exact h
    split
    · exact h
    split
    · exact h1
    split
    · split
      · exact h1
      · exact walkFrom_memOk (State.walkKeep_memOk h1)
    · split <;> exact h1

theorem walkVa_memOk (h : s.memOk) : (walkVa w vf f va p s).2.2.memOk := by
  unfold walkVa
  split
  · exact h
  split
  · exact h
  · exact walkFrom_memOk h

theorem xlate_memOk {user : Bool} {cache : List TlbEntry} (h : s.memOk) : (xlate w s p vf user write n cache va).st.memOk := by
  unfold xlate
  dsimp only
  split
  · exact h
  split
  · exact h
  split
  next e1 => exact third_of_eq e1 (walkVa_memOk h)
  next e2 => exact third_of_eq e2 (walkVa_memOk h)

theorem State.prefetch_memOk (h : s.memOk) : (s.prefetch t va).memOk := by
  unfold State.prefetch
  dsimp only
  (repeat' split) <;> exact h

theorem State.modGang_memOk {f : Gang → Gang} (h : s.memOk) : (s.modGang key f).memOk := h

theorem State.logWrite_memOk (h : s.memOk) : (s.logWrite key va bs).memOk := by
  unfold State.logWrite
  split <;> exact h

theorem spillOne_memOk {i : Fin 32} (h : s.memOk) : (spillOne pa bs s i).memOk := by
  unfold spillOne
  dsimp only
  split
  · exact h
  · exact foldl_memOk (fun _ _ h1 => h1) h

theorem State.spill_memOk (h : s.memOk) : (s.spill pa bs).memOk := by
  unfold State.spill
  split
  · exact foldl_memOk (fun _ _ => spillOne_memOk) h
  · exact h

theorem State.translate_memOk {va : Word} (h : s.memOk) : Yields (·.2.memOk) (s.translate e t write va) := by
  unfold State.translate
  dsimp only
  split
  · trivial
  split
  · trivial
  split
  · trivial
  split
  · exact State.prefetch_memOk (xlate_memOk h)
  split
  · trivial
  · exact State.prefetch_memOk (xlate_memOk h)

theorem setBitAt_memOk {bit : Nat} (h : s.memOk) : (setBitAt s pa bit).memOk := by
  rw [memOk_iff] at h ⊢
  obtain ⟨hmem, hst, hbuf⟩ := h
  exact ⟨Memory.write_wf pa _ hmem, hst, hbuf⟩

theorem State.markDirty_memOk (h : s.memOk) : (s.markDirty vf pa).memOk := by
  unfold State.markDirty
  split
  · exact h
  · exact setBitAt_memOk h

theorem State.noteWatch_memOk {addr : Nat} (h : s.memOk) : (s.noteWatch e addr n write).memOk := by
  unfold State.noteWatch
  (repeat' split) <;> exact h

theorem remoteBytes_memOk : ∀ {n : Nat} {s : State}, s.memOk → (remoteBytes s n).2.memOk
  | 0, _, h => h
  | n + 1, s, h => remoteBytes_memOk (n := n) (s := s.tick) h

theorem State.loadGen_memOk {va : Word} (h : s.memOk) : Yields (·.2.2.2.memOk) (s.loadGen e t va n) := by
  unfold State.loadGen
  refine (State.translate_memOk h).bind fun _ h1 => ?_
  dsimp only
  split
  · exact (State.okRead_memOk h1).bind fun _ h2 => State.transfer_memOk (State.noteWatch_memOk (State.readBy_memOk h2))
  split
  · trivial
  · exact State.noteWatch_memOk (remoteBytes_memOk h1)

theorem State.sendWrite_memOk {w : FarWrite} {cls : Nat} (h : s.memOk) : (s.sendWrite w acct cls).memOk := by
  unfold State.sendWrite
  dsimp only
  split <;> exact h

theorem State.putLoc_memOk {loc : PLoc} {va : Word} {rel : Option View} {more : Bool} (h : s.memOk) :
    (s.putLoc e loc va bs rel more).memOk := by
  unfold State.putLoc
  dsimp only
  split
  · exact State.noteWatch_memOk (State.logWrite_memOk h)
  split
  · exact State.noteWatch_memOk (State.transfer_memOk (State.markDirty_memOk (State.writeBy_memOk
        (State.spill_memOk (State.logWrite_memOk h)))))
  · exact State.noteWatch_memOk (State.sendWrite_memOk (State.logWrite_memOk h))

theorem State.awaitReg_memOk {l : Land} {far elems : List (Nat × Nat)} (h : s.memOk) : (s.awaitReg e l far elems).1.memOk :=
  h

end Translate

/-! ### Operands -/

section Operands
variable {s : State} {t : Fmt} {a : VSrc} {d : VDst} {e : Engine}

theorem State.vRead_memOk (h : s.memOk) : Yields (·.2.memOk) (s.vRead t a) := by
  unfold State.vRead
  split
  · exact .skip fun _ => h
  · exact .skip fun _ => h
  · exact h

theorem State.vRead2_memOk {b : VSrc} (h : s.memOk) : Yields (·.2.2.memOk) (s.vRead2 t a b) := by
  unfold State.vRead2
  refine (State.vRead_memOk h).bind fun _ h1 => ?_
  dsimp only
  split
  · exact h1
  · exact (State.vRead_memOk h1).bind fun _ h2 => h2

theorem State.vReserve_memOk (h : s.memOk) : Yields (·.2.memOk) (s.vReserve d) := by
  unfold State.vReserve
  split
  · exact h
  split
  · exact h
  · trivial

theorem State.vPut_memOk {slot : Option (QId × Nat)} {lat : Nat} {x : Block} (h : s.memOk) : (s.vPut d slot lat x).memOk := by
  unfold State.vPut
  split
  · exact State.post_memOk h
  split
  · exact State.post_memOk h
  · exact h

theorem State.seeDesc_memOk {k : Nat} {now : Word} (h : s.memOk) : (s.seeDesc e k now).2.memOk :=
  readHist_memOk h

theorem State.descRead_memOk {k : Fin 8} (h : s.memOk) : (s.descRead k).2.memOk :=
  State.seeDesc_memOk h

theorem State.fmtEntry_memOk (h : s.memOk) : (s.fmtEntry e).2.2.memOk :=
  State.seeDesc_memOk (State.seeDesc_memOk h)

end Operands

/-! ### Overflow counts -/

section Flags
variable {s : State} {e : Engine} {f : Fin 16} {n : Nat}

theorem State.flagAdd_memOk (h : s.memOk) : Yields (·.memOk) (s.flagAdd e f n) := by
  unfold State.flagAdd
  refine .skip fun _ => ?_
  dsimp only
  split <;> exact h

theorem State.flagTake_memOk (h : s.memOk) : Yields (·.memOk) (s.flagTake e f n) := .skip fun _ => h

end Flags

/-! ### The common block -/

section Common
variable {m : Marks} {e : Engine} {s : State} {len : BitVec 12} {kill : Bool} {off : BitVec 16} {f : Fin 16} {n : BitVec 8}

theorem execNop_memOk (h : s.memOk) : Keeps (execNop m e s) := issue_memOk (fun _ h1 => h1) h

theorem openLoop_memOk {words len count : Nat} (h : s.memOk) : Yields (·.st.memOk) (openLoop e words len count s) := by
  unfold openLoop
  dsimp only
  split
  · exact h
  split
  · trivial
  · exact h

theorem execLoop_memOk {r : LoopReg} (h : s.memOk) : Keeps (execLoop m r len s) :=
  issue_memOk (fun _ => openLoop_memOk) h

theorem execLoopi_memOk {n : LoopCnt} (h : s.memOk) : Keeps (execLoopi m e n len s) :=
  issue_memOk (fun _ => openLoop_memOk) h

theorem execBr_memOk (h : s.memOk) : Keeps (execBr m e kill off s) := by
  unfold execBr
  split
  · exact h
  · exact issueBranch_memOk (fun _ _ h1 => h1) h

theorem execBcq_memOk {cut : Bool} (h : s.memOk) : Keeps (execBcq m e kill cut off s) := by
  unfold execBcq
  split
  · exact h
  refine issueBranch_memOk (fun _ _ h1 => ?_) h
  refine .skip fun _ => ?_
  dsimp only
  split
  · exact State.pushCuts_memOk h1
  · exact h1

theorem execFset_memOk (h : s.memOk) : Keeps (execFset m e f n s) :=
  issueKernel_memOk (fun _ h1 => (State.flagAdd_memOk h1).bind fun _ h2 => h2) h

theorem execFwait_memOk (h : s.memOk) : Keeps (execFwait m e f n s) :=
  issueKernel_memOk (fun _ h1 => (State.flagTake_memOk h1).bind fun _ h2 => h2) h

theorem execMark_memOk {notify : Bool} (h : s.memOk) : Keeps (execMark m e n notify s) := by
  unfold execMark
  refine issueKernel_memOk (fun _ h1 => ?_) h
  split
  · split
    · exact h1
    · trivial
  · exact h1

theorem execHalt_memOk (h : s.memOk) : Keeps (execHalt m e s) := by
  unfold execHalt
  refine issueKernel_memOk (fun _ h1 => ?_) h
  split
  · exact h1
  · trivial

theorem arriveBreath_memOk (h : s.memOk) : Yields (·.memOk) (arriveBreath e m s) := by
  unfold arriveBreath
  refine .skip fun _ => ?_
  split
  · exact joined_memOk h
  · exact (popWaits_memOk (State.settle_memOk h)).bind fun _ h1 => (reserveSignals_memOk h1).bind fun _ => State.modEng_memOk

theorem execBreath_memOk {k : BitVec 5} (h : s.memOk) : Keeps (execBreath m e k s) := by
  unfold execBreath
  split
  · exact h
  split
  next e1 => exact (arriveBreath_memOk h).of_eq e1
  · exact stopped_memOk h

theorem State.clearQueue_memOk {q : QId} (h : s.memOk) : Yields (·.memOk) (s.clearQueue q) := by
  unfold State.clearQueue
  dsimp only
  split
  · split
    · exact h
    · trivial
  · split
    · exact h
    · trivial
  · split
    · exact h
    · trivial
  · split
    · exact h
    · trivial
  · split
    · exact h
    · trivial
  · split
    · exact h
    · trivial

theorem execQclr_memOk {q : QclrQ} (h : s.memOk) : Keeps (execQclr m q s) :=
  issue_memOk (fun _ h1 => (State.clearQueue_memOk h1).bind fun _ h2 => h2) h

theorem execRecv_memOk {d : RecvDst} (h : s.memOk) : Keeps (execRecv m d s) :=
  issue_memOk (fun _ h1 => .skip fun _ => State.post_memOk h1) h

theorem execLcrd_memOk {d : LcrdDst} {lv : BitVec 2} (h : s.memOk) : Keeps (execLcrd m d lv s) :=
  issueKernel_memOk (fun _ => State.post_memOk) h

end Common

/-! ### Integer operations of C -/

section CInt
variable {m : Marks} {d a : Fin 32} {b : CSrc} {s : State} {i : Imm}

theorem aluOp_memOk {lat : Nat} {f : Word → Word → Word → Word} (h : s.memOk) : Keeps (aluOp m d a b lat f s) :=
  issue_memOk (fun _ => State.putC_memOk) h

theorem execAdd_memOk (h : s.memOk) : Keeps (execAdd m d a b s) := aluOp_memOk h

theorem execSub_memOk (h : s.memOk) : Keeps (execSub m d a b s) := aluOp_memOk h

theorem execMul_memOk (h : s.memOk) : Keeps (execMul m d a b s) := aluOp_memOk h

theorem execMulh_memOk (h : s.memOk) : Keeps (execMulh m d a b s) := aluOp_memOk h

theorem execMulhu_memOk (h : s.memOk) : Keeps (execMulhu m d a b s) := aluOp_memOk h

theorem execDiv_memOk (h : s.memOk) : Keeps (execDiv m d a b s) := aluOp_memOk h

theorem execDivu_memOk (h : s.memOk) : Keeps (execDivu m d a b s) := aluOp_memOk h

theorem execRem_memOk (h : s.memOk) : Keeps (execRem m d a b s) := aluOp_memOk h

theorem execRemu_memOk (h : s.memOk) : Keeps (execRemu m d a b s) := aluOp_memOk h

theorem execAnd_memOk (h : s.memOk) : Keeps (execAnd m d a b s) := aluOp_memOk h

theorem execOr_memOk (h : s.memOk) : Keeps (execOr m d a b s) := aluOp_memOk h

theorem execXor_memOk (h : s.memOk) : Keeps (execXor m d a b s) := aluOp_memOk h

theorem execSll_memOk (h : s.memOk) : Keeps (execSll m d a b s) := aluOp_memOk h

theorem execSrl_memOk (h : s.memOk) : Keeps (execSrl m d a b s) := aluOp_memOk h

theorem execSra_memOk (h : s.memOk) : Keeps (execSra m d a b s) := aluOp_memOk h

theorem execMin_memOk (h : s.memOk) : Keeps (execMin m d a b s) := aluOp_memOk h

theorem execMax_memOk (h : s.memOk) : Keeps (execMax m d a b s) := aluOp_memOk h

theorem execMinu_memOk (h : s.memOk) : Keeps (execMinu m d a b s) := aluOp_memOk h

theorem execMaxu_memOk (h : s.memOk) : Keeps (execMaxu m d a b s) := aluOp_memOk h

theorem execSlt_memOk (h : s.memOk) : Keeps (execSlt m d a b s) := aluOp_memOk h

theorem execSltu_memOk (h : s.memOk) : Keeps (execSltu m d a b s) := aluOp_memOk h

theorem execSeq_memOk (h : s.memOk) : Keeps (execSeq m d a b s) := aluOp_memOk h

theorem execSel_memOk (h : s.memOk) : Keeps (execSel m d a b s) := aluOp_memOk h

theorem execAddq_memOk (h : s.memOk) : Keeps (execAddq m d a b s) := aluOp_memOk h

theorem execLi_memOk (h : s.memOk) : Keeps (execLi m d i s) :=
  issue_memOk (fun _ => State.putC_memOk) h

theorem execLih_memOk (h : s.memOk) : Keeps (execLih m d i s) :=
  issue_memOk (fun _ => State.putC_memOk) h

end CInt

/-! ### Branches and jumps of C -/

section CCtl
variable {m : Marks} {a b d : Fin 32} {kill cut : Bool} {off : BitVec 16} {s : State} {set : BitVec 4}

theorem condBr_memOk {p : Word → Word → Bool} (h : s.memOk) : Keeps (condBr m a b kill cut off p s) := by
  unfold condBr
  refine issueBranch_memOk (fun _ _ h1 => ?_) h
  split
  · exact State.pushCuts_memOk h1
  · exact h1

theorem execBeq_memOk (h : s.memOk) : Keeps (execBeq m a b kill cut off s) := condBr_memOk h

theorem execBne_memOk (h : s.memOk) : Keeps (execBne m a b kill cut off s) := condBr_memOk h

theorem execBlt_memOk (h : s.memOk) : Keeps (execBlt m a b kill cut off s) := condBr_memOk h

theorem execBge_memOk (h : s.memOk) : Keeps (execBge m a b kill cut off s) := condBr_memOk h

theorem execBltu_memOk (h : s.memOk) : Keeps (execBltu m a b kill cut off s) := condBr_memOk h

theorem execBgeu_memOk (h : s.memOk) : Keeps (execBgeu m a b kill cut off s) := condBr_memOk h

theorem execJal_memOk (h : s.memOk) : Keeps (execJal m d kill off s) :=
  issueBranch_memOk (fun _ _ h1 => State.putC_memOk h1) h

theorem execJalr_memOk (h : s.memOk) : Keeps (execJalr m d a kill s) :=
  issueBranch_memOk (fun _ _ h1 => State.putC_memOk h1) h

theorem execCbc_memOk (h : s.memOk) : Keeps (execCbc m set a s) :=
  issueKernel_memOk (fun _ h1 => .skip fun _ => h1) h

theorem execSendv_memOk (h : s.memOk) : Keeps (execSendv m set a s) :=
  issueKernel_memOk (fun _ h1 => .skip fun _ => h1) h

end CCtl

/-! ### Loads and stores of C -/

section CMem
variable {m : Marks} {d a b : Fin 32} {s : State}

theorem execLd_memOk {o : Option LdOpt} (h : s.memOk) : Keeps (execLd m d a o s) :=
  issue_memOk (fun _ h1 => .skip fun _ => (State.loadGen_memOk h1).bind fun _ h2 => h2) h

theorem storeC_memOk {t : State} {va : Word} {n : Nat} (h : t.memOk) : Yields (·.2.memOk) (storeC t va n) := by
  unfold storeC
  refine .skip fun _ => ?_
  refine (State.translate_memOk h).bind fun _ h1 => ?_
  dsimp only
  split
  · trivial
  · exact (State.okWrite_memOk h1).bind fun _ h2 => h2

theorem execSt_memOk {o : Option StOpt} (h : s.memOk) : Keeps (execSt m a b o s) :=
  issue_memOk (fun _ h1 => (storeC_memOk h1).bind fun _ h2 => .skip fun _ => State.putLoc_memOk h2) h

theorem execLdaq_memOk (h : s.memOk) : Keeps (execLdaq m d a s) := by
  unfold execLdaq
  refine issue_memOk (fun _ h1 => ?_) h
  refine .skip fun _ => ?_
  refine (State.loadGen_memOk h1).bind fun _ h2 => ?_
  dsimp only
  split
  · exact h2
  split
  · trivial
  · exact h2

theorem execStrl_memOk (h : s.memOk) : Keeps (execStrl m a b s) := by
  unfold execStrl
  refine issue_memOk (fun _ h1 => ?_) h
  refine (storeC_memOk h1).bind fun _ h2 => ?_
  dsimp only
  split
  · trivial
  split
  · trivial
  · exact .skip fun _ => .skip fun _ => State.putLoc_memOk h2

end CMem

/-! ### The A engine -/

section Access
variable {s : State} {e : Engine} {t : TlbId} {n align : Nat} {addr : Nat → Option Word} {q : Fin 4} {m : Marks} {d : Fin 16} {a : ASrc}
   {b : AOp} {i : Imm} {kill cut : Bool} {off : BitVec 16} {o : Option (BitVec 24)}

theorem State.readA_memOk {va : Word} (h : s.memOk) : Yields (·.st.memOk) (s.readA e t va n align) := by
  unfold State.readA
  refine .skip fun _ => ?_
  split
  · exact (State.okRead_memOk h).bind fun _ h1 => State.noteWatch_memOk (State.readBy_memOk h1)
  · exact (State.loadGen_memOk h).bind fun _ h2 => h2

theorem readElems_memOk {fill : List Byte} {onFault : Nat → CauseRec → CauseRec} :
    ∀ {k j : Nat} {s : State}, s.memOk → Yields (·.st.memOk) (readElems e t n align fill addr onFault k j s)
  | 0, _, _, h => h
  | _ + 1, _, _, h => by
    unfold readElems
    split
    · split
      · trivial
      next e1 =>
        have h1 := (readElems_memOk h).of_eq e1
        exact h1
    split
    · trivial
    · trivial
    next e1 =>
      split
      · trivial
      next e2 =>
        have h1 := (readElems_memOk ((State.readA_memOk h).of_eq e1)).of_eq e2
        exact h1

theorem State.readBlock_memOk (h : s.memOk) : Yields (·.st.memOk) (s.readBlock t addr) :=
  readElems_memOk h

theorem State.lqReserve_memOk (h : s.memOk) : Yields (·.2.memOk) (s.lqReserve q) := .skip fun _ => h

theorem aaluOp_memOk {lat : Nat} {f : Word → Word → Word} (h : s.memOk) : Keeps (aaluOp m d a b lat f s) :=
  issue_memOk (fun _ => State.post_memOk) h

theorem execAadd_memOk (h : s.memOk) : Keeps (execAadd m d a b s) := aaluOp_memOk h

theorem execAsub_memOk (h : s.memOk) : Keeps (execAsub m d a b s) := aaluOp_memOk h

theorem execAaddq_memOk (h : s.memOk) : Keeps (execAaddq m d a b s) := aaluOp_memOk h

theorem execAmul_memOk (h : s.memOk) : Keeps (execAmul m d a b s) := aaluOp_memOk h

theorem execAsll_memOk (h : s.memOk) : Keeps (execAsll m d a b s) := aaluOp_memOk h

theorem execAsrl_memOk (h : s.memOk) : Keeps (execAsrl m d a b s) := aaluOp_memOk h

theorem execAli_memOk (h : s.memOk) : Keeps (execAli m d i s) :=
  issue_memOk (fun _ => State.post_memOk) h

theorem execAhi_memOk (h : s.memOk) : Keeps (execAhi m d i s) :=
  issue_memOk (fun _ => State.post_memOk) h

theorem execAmov_memOk (h : s.memOk) : Keeps (execAmov m d a s) :=
  issue_memOk (fun _ => State.post_memOk) h

theorem acondBr_memOk {b : ASrc} {p : Word → Word → Bool} (h : s.memOk) : Keeps (acondBr m a b kill cut off p s) := by
  unfold acondBr
  refine issueBranch_memOk (fun _ _ h1 => ?_) h
  split
  · exact State.pushCuts_memOk h1
  · exact h1

theorem execAbne_memOk {b : ASrc} (h : s.memOk) : Keeps (execAbne m a b kill cut off s) :=
  acondBr_memOk h

theorem execAblt_memOk {b : ASrc} (h : s.memOk) : Keeps (execAblt m a b kill cut off s) :=
  acondBr_memOk h

theorem execAld_memOk {o : Option LdOpt} (h : s.memOk) : Keeps (execAld m d a o s) :=
  issue_memOk (fun _ h1 => (State.readA_memOk h1).bind fun _ h2 => h2) h

theorem execLdq_memOk (h : s.memOk) : Keeps (execLdq m q a o s) :=
  issue_memOk (fun _ h1 => (State.lqReserve_memOk h1).bind fun _ h2 => (State.readBlock_memOk h2).bind fun _ h3 => h3) h

theorem execLdqs_memOk {b : ASrc} (h : s.memOk) : Keeps (execLdqs m q a b o s) :=
  issue_memOk (fun _ h1 => (State.lqReserve_memOk h1).bind fun _ h2 => (State.readBlock_memOk h2).bind fun _ h3 => h3) h

theorem execLdqx_memOk {b : ASrc} (h : s.memOk) : Keeps (execLdqx m q a b o s) := by
  unfold execLdqx
  refine issue_memOk (fun _ h1 => ?_) h
  refine (State.lqReserve_memOk h1).bind fun _ h2 => ?_
  dsimp only
  split
  · trivial
  · exact (State.readBlock_memOk h2).bind fun _ h3 => (State.readBlock_memOk h3).bind fun _ h4 => h4

theorem execLdro_memOk (h : s.memOk) : Keeps (execLdro m q a o s) := by
  unfold execLdro
  refine issue_memOk (fun _ h1 => ?_) h
  refine (State.lqReserve_memOk h1).bind fun _ h2 => ?_
  refine (State.readBlock_memOk h2).bind fun _ h3 => ?_
  split
  · trivial
  · exact h3

theorem State.saqPush_memOk {x : SaqEntry} (h : s.memOk) : Yields (·.memOk) (s.saqPush x) :=
  .skip fun _ => h

theorem execSaq_memOk (h : s.memOk) : Keeps (execSaq m a o s) :=
  issue_memOk (fun _ h1 => (State.saqPush_memOk h1).bind fun _ h2 => h2) h

theorem execDset_memOk {d : Fin 8} {add : Bool} (h : s.memOk) : Keeps (execDset m d a add s) :=
  issue_memOk (fun _ h1 => h1) h

end Access

/-! ### Synchronisation objects, barriers and domains -/

section Sync
variable {m : Marks} {s t : State} {x : Bool} {a d : Fin 32} {view : View} {o : SyncRef}

theorem issueWait_memOk {words : Nat} {ask : State → Except Stop (State → State)} {fin : State → Except Stop Done}
    (hask : ∀ u, u.memOk → Yields (fun r => ∀ t, t.memOk → (r t).memOk) (ask u)) (hf : ∀ u, u.memOk → Yields (·.st.memOk) (fin u))
    (h : s.memOk) :
    Keeps (issueWait words m ask fin s) := by
  unfold issueWait
  split
  · exact h
  split
  · exact issueKernel_memOk hf h
  dsimp only
  split
  · exact stopped_memOk h
  next e1 =>
    have hp := Yields.skip (x := gate .c words s) fun _ => (popWaits_memOk (e := .c) (fs := waitList .c m)
        (show (s.settle .c).memOk from h)).bind
      fun _ h1 => (reserveSignals_memOk (fs := signalList .c m) h1).bind fun t h2 => hask t h2
    exact issueKernel_memOk hf (hp.of_eq e1 _ h)

theorem State.setWait_memOk {w : CWait} (h : s.memOk) : (s.setWait w).memOk := h

theorem finAnswer_memOk {d : Option (Fin 32)} (h : t.memOk) : Yields (·.st.memOk) (finAnswer d t) := by
  unfold finAnswer
  split
  · dsimp only
    split
    · exact State.putC_memOk h
    · exact h
  · trivial

theorem State.setObj_memOk {x : SyncObj} (h : s.memOk) : (s.setObj x).memOk := h

theorem serveFlag_memOk : ∀ {n : Nat} {x : SyncObj} {s : State}, s.memOk → (serveFlag n x s).2.memOk
  | 0, _, _, h => h
  | _ + 1, _, _, h => by
    unfold serveFlag
    split
    · split
      · exact serveFlag_memOk h
      · exact h
    · exact h

theorem State.putFlag_memOk {x : SyncObj} (h : s.memOk) : (s.putFlag x).memOk := serveFlag_memOk h

theorem execSacq_memOk (h : s.memOk) : Keeps (execSacq m x a s) :=
  issueWait_memOk (fun _ _ => .skip fun _ => fun _ h1 => State.putFlag_memOk h1) (fun _ => finAnswer_memOk) h

theorem execSrel_memOk (h : s.memOk) : Keeps (execSrel m x a s) := by
  unfold execSrel
  refine issueKernel_memOk (fun _ h1 => ?_) h
  refine .skip fun _ => ?_
  dsimp only
  split
  · trivial
  · exact State.putFlag_memOk h1

theorem State.clearWids_memOk {done : Bool} {ids : List Nat} (h : s.memOk) : (s.clearWids done ids).memOk := by
  unfold State.clearWids
  refine foldl_memOk (fun _ _ h1 => ?_) h
  split
  · exact State.putFlag_memOk h1
  · exact h1

theorem State.ownWrite_memOk {w : FarWrite} (h : s.memOk) : (s.ownWrite w).memOk := by
  unfold State.ownWrite
  dsimp only
  split <;> exact h

theorem State.setDomain_memOk {d : Domain} (h : s.memOk) : (s.setDomain d).memOk := h

theorem State.domArrive_memOk (h : s.memOk) : (s.domArrive view).memOk := by
  unfold State.domArrive
  split
  · exact h
  · exact State.modCr_memOk (State.setDomain_memOk h)

theorem State.scheduleAll_memOk (h : s.memOk) : s.scheduleAll.memOk := h

theorem State.podDone_memOk {phase tick : Nat} (h : s.memOk) : (s.podDone o phase tick).memOk := by
  unfold State.podDone
  (repeat' split) <;> exact h

theorem execPhaseCompletion_memOk (h : s.memOk) : Keeps (execPhaseCompletion o s) := by
  unfold execPhaseCompletion
  split
  · split
    · exact h
    split
    · exact h
    dsimp only
    split
    · exact State.sendAll_memOk h
    · exact h
  · (repeat' split) <;> exact h

theorem execPodReleaseTick_memOk (h : s.memOk) : Keeps (execPodReleaseTick o s) := by
  unfold execPodReleaseTick
  (repeat' split) <;> exact h

theorem execBarrierRelease_memOk {c : CoreId} (h : s.memOk) : Keeps (execBarrierRelease c s) := h

theorem State.waitPhase_memOk {k : Nat} (h : s.memOk) : (s.waitPhase o k).memOk := h

theorem State.depart_memOk (h : s.memOk) : (s.depart o view).1.memOk := by
  unfold State.depart
  split <;> exact h

theorem finDepart_memOk (h : t.memOk) : Yields (·.st.memOk) (finDepart d t) := by
  unfold finDepart
  split
  · exact State.putC_memOk (State.depart_memOk h)
  · exact State.putC_memOk h
  · trivial

theorem execBara_memOk (h : s.memOk) : Keeps (execBara m x d a s) := by
  unfold execBara
  refine issueKernel_memOk (fun _ h1 => ?_) h
  dsimp only
  split
  · split
    · trivial
    · exact State.putC_memOk (State.domArrive_memOk h1)
  · refine .skip fun _ => ?_
    split
    · trivial
    · trivial
    · exact State.putC_memOk h1

theorem execBarw_memOk (h : s.memOk) : Keeps (execBarw m x d a s) := by
  unfold execBarw
  refine issueWait_memOk (fun _ _ => ?_) (fun _ => finDepart_memOk) h
  dsimp only
  split
  · split
    · trivial
    split
    · trivial
    · exact fun _ h1 => h1
  refine .skip fun _ => ?_
  split <;> exact fun _ h1 => h1

theorem askDomain_memOk : Yields (fun r => ∀ u, u.memOk → (r u).memOk) (askDomain t) := by
  unfold askDomain
  split
  · trivial
  split
  · trivial
  · exact fun _ h => State.waitPhase_memOk (State.domArrive_memOk h)

theorem execBaraw_memOk (h : s.memOk) : Keeps (execBaraw m x d a s) := by
  unfold execBaraw
  refine issueWait_memOk (fun _ h1 => ?_) (fun _ => finDepart_memOk) h
  dsimp only
  split
  · exact askDomain_memOk
  refine .skip fun _ => ?_
  split
  · trivial
  · trivial
  · exact fun _ h2 => State.waitPhase_memOk (State.setObj_memOk h2)

theorem execWaitmk_memOk (h : s.memOk) : Keeps (execWaitmk m x d a s) :=
  issueKernel_memOk (fun _ h1 => .skip fun _ => State.putC_memOk h1) h

theorem splitDomain_memOk {dm : Domain} (h : s.memOk) : (splitDomain dm s).memOk :=
  foldl_memOk (fun _ _ h1 => h1) h

theorem State.joinSplit_memOk {colour : Nat} (h : s.memOk) : (s.joinSplit colour view).memOk := by
  unfold State.joinSplit
  dsimp only
  split
  · exact State.setWait_memOk (State.depart_memOk h)
  split
  · exact splitDomain_memOk (State.setWait_memOk (State.depart_memOk h))
  · exact State.setDomain_memOk (State.setWait_memOk (State.depart_memOk h))

theorem execDomsplit_memOk (h : s.memOk) : Keeps (execDomsplit m x d a s) := by
  unfold execDomsplit
  refine issueWait_memOk (fun _ h1 => ?_) (fun _ => finAnswer_memOk) ?_
  · split
    · trivial
    · exact askDomain_memOk
  · split
    · exact State.joinSplit_memOk h
    · exact h

theorem joinDomain_memOk {up : Domain} (h : s.memOk) : (joinDomain up s).memOk := h

theorem State.joinUp_memOk (h : s.memOk) : (s.joinUp view).memOk := by
  unfold State.joinUp
  dsimp only
  split
  · exact State.setWait_memOk (State.depart_memOk h)
  split
  · exact joinDomain_memOk (State.setWait_memOk (State.depart_memOk h))
  · exact State.setDomain_memOk (State.setWait_memOk (State.depart_memOk h))

theorem execDomjoin_memOk (h : s.memOk) : Keeps (execDomjoin m x d s) := by
  unfold execDomjoin
  refine issueWait_memOk (fun _ h1 => ?_) (fun _ => finAnswer_memOk) ?_
  · split
    · trivial
    · exact askDomain_memOk
  · split
    · exact State.joinUp_memOk h
    · exact h

theorem readWords_memOk : ∀ {n : Nat} {va : Word} {s : State}, s.memOk → Yields (·.2.memOk) (readWords va n s)
  | 0, _, _, h => h
  | _ + 1, _, _, h => .skip fun _ => (State.loadGen_memOk h).bind fun _ h1 => (readWords_memOk h1).bind fun _ h2 => h2

theorem State.create_memOk {b : BindRec} (h : s.memOk) : Gives (·.2.memOk) (s.create b) := by
  unfold State.create
  dsimp only
  split
  · trivial
  split
  · trivial
  · exact h

theorem execRbndr_memOk (h : s.memOk) : Keeps (execRbndr m x d a s) := by
  unfold execRbndr
  refine issueKernel_memOk (fun _ h1 => ?_) h
  refine (readWords_memOk h1).bind fun _ h2 => ?_
  dsimp only
  split
  · trivial
  split
  · trivial
  split
  · split
    · exact State.awaitReg_memOk h2
    next e1 =>
      refine State.awaitReg_memOk ?_
      split
      · exact (State.create_memOk h2).of_eq e1
      · exact memOk_congr ((State.create_memOk h2).of_eq e1) rfl rfl
  · split
    · trivial
    split
    · trivial
    refine State.awaitReg_memOk ?_
    split
    · exact h2
    · exact memOk_congr h2 rfl rfl

theorem execUbndr_memOk (h : s.memOk) : Keeps (execUbndr m x a s) := by
  unfold execUbndr
  refine issueKernel_memOk (fun _ h1 => ?_) h
  dsimp only
  split
  · exact h1
  · trivial

end Sync

/-! ### The directory -/

section Dir
variable {d a : Fin 32} {u s : State} {m : Marks} {vf : Nat} {name : List Byte} {x : Bool}

theorem dirReply_memOk {x : Word} (h : u.memOk) : Yields (·.st.memOk) (dirReply d u x) := h

theorem issueDir_memOk {bar : Bool} {words : Nat} {body : State → Except Stop Done} (hf : ∀ u, u.memOk → Yields (·.st.memOk) (body u))
    (h : s.memOk) :
    Keeps (issueDir bar words m body s) := by
  unfold issueDir
  refine issueKernel_memOk (fun _ h1 => ?_) h
  dsimp only
  split
  · exact .skip fun _ => .skip fun _ => .skip fun _ => hf _ h1
  · exact .skip fun _ => .skip fun _ => hf _ h1

theorem readName_memOk {va : Word} (h : s.memOk) : Yields (·.2.memOk) (readName va s) := by
  unfold readName
  refine (readWords_memOk h).bind fun _ h1 => ?_
  dsimp only
  split
  · exact h1
  · exact (readWords_memOk h1).bind fun _ h2 => h2

theorem State.openName_memOk {gang : Nat} (h : s.memOk) : Yields (·.2.2.memOk) (s.openName gang vf name) := by
  unfold State.openName
  split
  · trivial
  split
  · trivial
  split
  · trivial
  · exact h

theorem openNow_memOk (h : u.memOk) : Yields (·.st.memOk) (openNow d name u) := by
  unfold openNow
  split
  · exact h
  next e1 => exact (State.openName_memOk h).of_eq e1

theorem execOpen_memOk (h : s.memOk) : Keeps (execOpen m x d a s) := by
  unfold execOpen
  refine issueDir_memOk (fun _ h1 => ?_) h
  refine (readName_memOk h1).bind fun _ h2 => ?_
  dsimp only
  split
  · exact h2
  · exact openNow_memOk h2

theorem execOpenw_memOk (h : s.memOk) : Keeps (execOpenw m x d a s) := by
  unfold execOpenw
  refine issueDir_memOk (fun _ h1 => ?_) h
  refine (readName_memOk h1).bind fun _ h2 => ?_
  dsimp only
  split
  · exact h2
  split
  · split <;> exact h2
  · exact openNow_memOk h2

theorem State.settleOpenw_memOk {w : OpenW} {x : Word} {view : View} (h : s.memOk) : (s.settleOpenw w x view).memOk :=
  State.onCore_memOk (fun _ h1 => h1) h

theorem settleOpenws_memOk : ∀ {ws : List OpenW} {s : State}, s.memOk → (settleOpenws ws s).memOk
  | [], _, h => h
  | _ :: _, _, h => by
    unfold settleOpenws
    refine settleOpenws_memOk ?_
    split
    · exact h
    split
    · exact h
    · exact State.settleOpenw_memOk h
    next e1 => exact State.settleOpenw_memOk ((State.openName_memOk h).of_eq e1)

theorem execOpenwTimeout_memOk {c : CoreId} (h : s.memOk) : Keeps (execOpenwTimeout c s) := by
  unfold execOpenwTimeout
  split
  · exact h
  · exact State.settleOpenw_memOk h

theorem execClose_memOk (h : s.memOk) : Keeps (execClose m x d a s) := by
  unfold execClose
  refine issueDir_memOk (fun _ h1 => ?_) h
  dsimp only
  split <;> exact h1

theorem State.walkPages_memOk {acct : Nat} {pages : List Nat} (h : s.memOk) : (s.walkPages vf acct pages).memOk :=
  foldl_memOk (fun _ _ => walkVa_memOk) h

theorem execHqry_memOk (h : s.memOk) : Keeps (execHqry m x d a s) := by
  unfold execHqry
  refine issueDir_memOk (fun _ h1 => ?_) h
  dsimp only
  split
  · exact State.awaitReg_memOk h1
  split
  · exact State.awaitReg_memOk h1
  refine State.awaitReg_memOk ?_
  split
  · exact State.walkPages_memOk h1
  · exact h1

theorem execSeal_memOk (h : s.memOk) : Keeps (execSeal m x d a s) := by
  refine issueDir_memOk (fun t ht => .bind (readWords_memOk ht) fun r h1 => ?_) h
  dsimp only
  split
  · exact dirReply_memOk h1
  split
  · exact dirReply_memOk (State.walkPages_memOk h1)
  split
  · exact dirReply_memOk (State.walkPages_memOk h1)
  split
  · exact dirReply_memOk (State.walkPages_memOk h1)
  split
  · exact dirReply_memOk (State.walkPages_memOk h1)
  · exact .skip fun _ => State.walkPages_memOk (s := r.2) h1

theorem execRbstg_memOk (h : s.memOk) : Keeps (execRbstg m x d a s) := by
  unfold execRbstg
  dsimp only
  refine issueDir_memOk (fun _ h1 => ?_) h
  refine (readWords_memOk h1).bind fun _ h2 => ?_
  refine (readName_memOk h2).bind fun _ h3 => ?_
  (repeat' split) <;> exact h3

theorem execRbcmt_memOk (h : s.memOk) : Keeps (execRbcmt m x d s) := by
  unfold execRbcmt
  refine issueDir_memOk (fun _ h1 => ?_) h
  dsimp only
  split
  · exact h1
  · exact settleOpenws_memOk h1

theorem execRbabt_memOk (h : s.memOk) : Keeps (execRbabt m x d s) :=
  issueDir_memOk (fun _ h1 => h1) h

theorem storeWords_memOk : ∀ {ws : List Word} {va : Word} {s : State}, s.memOk → Yields (·.memOk) (storeWords va ws s)
  | [], _, _, h => h
  | _ :: _, _, _, h => (storeC_memOk h).bind fun _ h1 => (storeWords_memOk h1).bind fun _ h2 => .skip fun _ => State.putLoc_memOk h2

theorem execRclm_memOk (h : s.memOk) : Keeps (execRclm m x d a s) := by
  unfold execRclm
  refine issueDir_memOk (fun _ h1 => ?_) h
  split
  · exact h1
  · exact (storeWords_memOk h1).bind fun _ h2 => h2

end Dir

/-! ### Pages that move -/

section Migrate
variable {s : State} {vf va pa tier ia leafAt acct : Nat} {bs : List Byte} {leaf e : Word}

theorem State.invalidate_memOk (h : s.memOk) : (s.invalidate vf va).memOk := h

theorem State.writeAll_memOk {loc : Loc} (h : s.memOk) : (s.writeAll pa bs loc).memOk :=
  State.announce_memOk (writePiece_memOk h)

theorem State.markRange_memOk {n : Nat} (h : s.memOk) : (s.markRange vf pa n).memOk :=
  foldl_memOk (fun _ _ => State.markDirty_memOk) h

theorem State.markFrame_memOk (h : s.memOk) : (s.markFrame vf pa).memOk := State.markRange_memOk h

theorem State.modVf_memOk {f : VFun → VFun} (h : s.memOk) : (s.modVf vf f).memOk := h

theorem State.takeFrame_memOk (h : s.memOk) : (s.takeFrame vf tier ia).memOk := h

theorem State.returnFrame_memOk (h : s.memOk) : (s.returnFrame vf tier ia).memOk := h

theorem State.startMove_memOk {dest : Nat} {frame : Nat} {cmd : Option Nat} (h : s.memOk) :
    (s.startMove vf va dest leafAt leaf frame acct cmd).memOk :=
  h

theorem State.commitMove_memOk {m : Move} (h : s.memOk) : (s.commitMove m).2.memOk := by
  unfold State.commitMove
  dsimp only
  split
  · split
    · exact memOk_congr h rfl rfl
    split
    · exact State.poison_memOk (memOk_congr h rfl rfl)
    split
    · exact State.poison_memOk (memOk_congr h rfl rfl)
    · exact State.invalidate_memOk (State.markDirty_memOk (State.writeAll_memOk
          (State.returnFrame_memOk (State.takeFrame_memOk (State.transfer_memOk
          (State.transfer_memOk (State.markFrame_memOk (State.writeAll_memOk (State.fixSoft_memOk (memOk_congr h rfl rfl))))))))))
  · exact memOk_congr h rfl rfl

theorem State.commitMark_memOk (h : s.memOk) : (s.commitMark vf va leafAt leaf).memOk :=
  State.markDirty_memOk (State.writeAll_memOk h)

theorem execMigrationMove_memOk {va : Word} {near : Bool} (h : s.memOk) : Keeps (execMigrationMove vf va near s) := by
  unfold execMigrationMove
  split
  · exact h
  dsimp only
  split <;> exact h

theorem execMigrationCommit_memOk {k : Nat} (h : s.memOk) : Keeps (execMigrationCommit k s) := by
  unfold execMigrationCommit
  split
  · exact h
  dsimp only
  split <;> exact State.commitMove_memOk h

theorem State.frameOf_memOk (h : s.memOk) : (s.frameOf vf e).2.memOk := by
  unfold State.frameOf
  split
  · exact State.fixSoft_memOk h
  split
  · exact remoteBytes_memOk h
  · exact h

theorem State.fillFrame_memOk {bytes : List Byte} (h : s.memOk) : (s.fillFrame vf va e bytes).memOk := by
  unfold State.fillFrame
  split
  · exact State.markFrame_memOk (State.writeAll_memOk h)
  · exact h

theorem State.transferFill_memOk (h : s.memOk) : (s.transferFill vf acct e).memOk := by
  unfold State.transferFill
  split
  · exact State.transfer_memOk h
  · exact h

theorem State.copyOf_memOk (h : s.memOk) : (s.copyOf vf acct va e).memOk := by
  unfold State.copyOf
  split
  · exact State.transfer_memOk h
  · (repeat' split) <;> exact h

/-- A leaf is written, marked dirty and invalidated. -/
theorem putLeaf_memOk {a : Nat} {l : Loc} (h : s.memOk) : (((s.writeAll a bs l).markDirty vf a).invalidate vf va).memOk :=
  State.invalidate_memOk (State.markDirty_memOk (State.writeAll_memOk h))

theorem State.exchange_memOk {lxa old new : Word} (h : s.memOk) : (s.exchange vf acct lxa old new).st.memOk := by
  unfold State.exchange
  extract_lets va refuse page
  split
  · exact h
  split
  · exact h
  split
  · exact h
  extract_lets put kept
  split
  · split
    · exact State.poison_memOk h
    · exact h
    split
    · exact h
    split
    · exact h
    extract_lets leaf
    split
    · exact State.poison_memOk h
    split
    next e1 =>
      extract_lets t2 t3
      have h1 := snd_of_eq e1 (by split; exacts [State.frameOf_memOk h, h])
      have h2 : t2.memOk := ite_memOk (State.copyOf_memOk h1) h1
      have h3 : t3.memOk := ite_memOk (State.takeFrame_memOk h2) h2
      exact putLeaf_memOk (State.transferFill_memOk (State.fillFrame_memOk (State.takeFrame_memOk h3)))
  split
  · split
    · exact State.poison_memOk h
    split
    next e1 =>
      extract_lets t2
      have h1 := snd_of_eq e1 (State.frameOf_memOk h)
      have h2 : t2.memOk := ite_memOk (State.transferFill_memOk (State.fillFrame_memOk (State.copyOf_memOk h1))) h
      exact putLeaf_memOk (State.returnFrame_memOk h2)
  · exact putLeaf_memOk (ite_memOk (State.takeFrame_memOk h) h)

theorem execLeafExchange_memOk {c : CoreId} (h : s.memOk) : Keeps (execLeafExchange c s) := by
  unfold execLeafExchange
  split
  · exact h
  dsimp only
  split
  · exact h
  refine State.onCore_memOk (fun _ h1 => h1) ?_
  refine State.exchange_memOk ?_
  split
  · split
    · exact State.poison_memOk (walkVa_memOk h)
    · exact walkVa_memOk h
  · exact walkVa_memOk h

theorem execDtctlCurChange_memOk {cur : Bool} (h : s.memOk) : Keeps (execDtctlCurChange vf cur s) :=
  h

theorem execDirtyFlipSettle_memOk (h : s.memOk) : Keeps (execDirtyFlipSettle vf s) := h

end Migrate

/-! ### Commands as C pushes and pops them -/

section Port
variable {m : Marks} {x : Fin 3} {s : State} {d : Fin 32} {c : Cmd} {k : Nat}

theorem execXpush_memOk {a : Fin 32} {n : BitVec 6} (h : s.memOk) : Keeps (execXpush m x a n s) := by
  unfold execXpush
  refine issue_memOk (fun _ h1 => ?_) h
  refine .skip fun _ => ?_
  refine State.modCore_memOk ?_
  split <;> exact h1

theorem execXpop_memOk (h : s.memOk) : Keeps (execXpop m d x s) := by
  unfold execXpop
  refine issue_memOk (fun _ h1 => ?_) h
  dsimp only
  split
  · split
    · trivial
    · exact State.putC_memOk h1
  · trivial

theorem execXstat_memOk (h : s.memOk) : Keeps (execXstat m d x s) :=
  issue_memOk (fun _ => State.putC_memOk) h

theorem State.setCmd_memOk (h : s.memOk) : (s.setCmd c).memOk := h

theorem State.voidColl_memOk (h : s.memOk) : (s.voidColl c).memOk := by
  unfold State.voidColl
  split <;> exact h

theorem execCommandStart_memOk (h : s.memOk) : Keeps (execCommandStart k s) := by
  unfold execCommandStart
  split
  · exact h
  split
  · exact h
  dsimp only
  split
  · exact State.voidColl_memOk h
  · split <;> exact h

theorem State.finishCmd_memOk (h : s.memOk) : (s.finishCmd c).memOk := by
  unfold State.finishCmd
  split
  · exact h
  split
  · exact h
  dsimp only
  split
  · exact State.onCore_memOk (fun _ h1 => h1) h
  · exact h

theorem State.postCmd_memOk (h : s.memOk) : (s.postCmd c).memOk := by
  unfold State.postCmd
  dsimp only
  split
  · exact h
  split
  · exact h
  split
  · exact h
  split
  · exact h
  · exact h
  · exact State.finishCmd_memOk h

theorem execCommandCompletion_memOk (h : s.memOk) : Keeps (execCommandCompletion k s) := by
  unfold execCommandCompletion
  split
  · exact h
  split
  · exact h
  split
  · split
    · exact State.postCmd_memOk h
    · exact State.finishCmd_memOk h
  · exact State.finishCmd_memOk h
  · exact h

theorem execBarrierPost_memOk (h : s.memOk) : Keeps (execBarrierPost k s) := by
  unfold execBarrierPost
  split
  · exact h
  split
  · exact State.postCmd_memOk h
  · exact h

theorem placeResult_memOk {u : State} (h : u.memOk) : (placeResult c u).memOk := by
  unfold placeResult
  (repeat' split) <;> exact h

theorem State.noteTag_memOk (h : s.memOk) : (s.noteTag c).memOk := by
  unfold State.noteTag
  split <;> exact h

theorem execResultElementPlace_memOk (h : s.memOk) : Keeps (execResultElementPlace k s) := by
  unfold execResultElementPlace
  split
  · exact h
  split
  · exact State.onCore_memOk (fun _ => placeResult_memOk) (State.noteTag_memOk h)
  · exact h

end Port

/-! ### Booking of engines -/

section Split

theorem State.modBooks_memOk {s : State} {f : Books → Books} (h : s.memOk) : (s.modBooks f).memOk :=
  h

end Split

/-! ### Generators -/

section Gen
variable {s t : State} {g : Fin 2} {o : Host.Outcome State Fault Refusal} {m : Marks}

theorem finishRead_memOk {g : Gen} {t : TabEntry} (h : s.memOk) : (finishRead g t s).2.memOk := by
  unfold finishRead
  dsimp only
  split
  · exact readPiece_memOk h
  · exact h

theorem State.endReads_memOk {n : Nat} (h : s.memOk) : (s.endReads g n).memOk := by
  unfold State.endReads
  dsimp only
  refine State.modCore_memOk ?_
  split
  · refine finishRead_memOk ?_
    split
    · exact finishRead_memOk h
    · exact h
  · split
    · exact finishRead_memOk h
    · exact h

theorem execGeneratorTableRead_memOk (h : s.memOk) : Keeps (execGeneratorTableRead g s) :=
  State.endReads_memOk h

theorem genRead_memOk {x : Gen} {e : Nat} (h : t.memOk) : Yields (·.st.memOk) (genRead t g x e) := by
  unfold genRead
  split
  · dsimp only
    split
    · trivial
    next e1 =>
      split
      · trivial
      next e2 =>
        have h1 := (readElems_memOk ((readElems_memOk h).of_eq e1)).of_eq e2
        exact h1
  · exact readElems_memOk h

theorem withEntry_memOk {f : State → Gen → Nat → Except Stop Done} (hf : ∀ u v w, u.memOk → Yields (·.st.memOk) (f u v w)) (h : t.memOk) :
    Yields (·.st.memOk) (withEntry g t f) := by
  unfold withEntry
  dsimp only
  split
  · trivial
  split
  · trivial
  · trivial
  split
  · exact (State.okRead_memOk (State.endReads_memOk h)).bind fun _ h1 => hf _ _ _ h1
  · exact hf _ _ _ (State.endReads_memOk h)

theorem noteNeed_memOk (h : Keeps o) : Keeps (noteNeed g o) := by
  cases o with
  | next t =>
    unfold noteNeed
    dsimp only
    split
    · split <;> exact h
    · exact h
  | fault => trivial
  | refused => trivial

theorem execAgld_memOk {q : Fin 4} (h : s.memOk) : Keeps (execAgld m g q s) :=
  noteNeed_memOk (issue_memOk (fun _ h1 => withEntry_memOk (fun _ _ _ h2 => (State.lqReserve_memOk h2).bind fun _ h3 =>
      (genRead_memOk h3).bind fun _ h4 => h4) h1) h)

theorem execAgsa_memOk (h : s.memOk) : Keeps (execAgsa m g s) :=
  noteNeed_memOk (issue_memOk (fun _ h1 => withEntry_memOk (fun _ _ _ h2 => (State.saqPush_memOk h2).bind fun _ h3 => h3) h1) h)

theorem noteRecord_memOk {pc : Nat} (h : Keeps o) : Keeps (noteRecord pc o) := by
  cases o with
  | next t =>
    unfold noteRecord
    dsimp only
    split <;> exact h
  | fault => trivial
  | refused => trivial

theorem execAgc_memOk {a : ASrc} {off : BitVec 24} (h : s.memOk) : Keeps (execAgc m g a off s) := by
  unfold execAgc
  refine noteRecord_memOk ?_
  refine issue_memOk (fun _ h1 => ?_) h
  dsimp only
  split
  · trivial
  refine .skip fun _ => ?_
  refine (readElems_memOk h1).bind fun _ h2 => ?_
  split
  · trivial
  · exact h2

end Gen

/-! ### The V engine -/

section Vec
variable {m : Marks} {rule : VRule} {d : VDst} {a b : VSrc} {o : Option VPay} {lat : Nat} {s : State} {x : Bool} {e : Fin 4} {p : VPay}

theorem vUn_memOk {f : Fmt → BitVec 13 → Nat → Nat} (h : s.memOk) : Keeps (vUn m rule d a o lat f s) :=
  issue_memOk (fun _ h1 => (State.vReserve_memOk h1).bind fun _ h2 => (State.vRead_memOk h2).bind fun _ h3 => State.vPut_memOk h3) h

theorem vBin_memOk {f : Fmt → BitVec 13 → Nat → Nat → Nat} (h : s.memOk) : Keeps (vBin m rule d a b o lat f s) :=
  issue_memOk (fun _ h1 => (State.vReserve_memOk h1).bind fun _ h2 => (State.vRead2_memOk h2).bind fun _ h3 => State.vPut_memOk h3) h

theorem vTri_memOk {d : Fin 48} {f : Fmt → BitVec 13 → Nat → Nat → Nat → Nat} (h : s.memOk) : Keeps (vTri m rule d a b o lat f s) :=
  issue_memOk (fun _ h1 => (State.vRead2_memOk h1).bind fun _ h2 => State.vPut_memOk h2) h

theorem vWhole_memOk {f : Fmt → BitVec 13 → (Nat → Bool) → Block → Block → Nat → Nat} (h : s.memOk) :
    Keeps (vWhole m rule d a b o lat f s) :=
  issue_memOk (fun _ h1 => (State.vReserve_memOk h1).bind fun _ h2 => (State.vRead2_memOk h2).bind fun _ h3 => State.vPut_memOk h3) h

theorem execVadd_memOk (h : s.memOk) : Keeps (execVadd m d a b o s) := vBin_memOk h

theorem execVsub_memOk (h : s.memOk) : Keeps (execVsub m d a b o s) := vBin_memOk h

theorem execVmul_memOk (h : s.memOk) : Keeps (execVmul m d a b o s) := vBin_memOk h

theorem execVfma_memOk {d : Fin 48} (h : s.memOk) : Keeps (execVfma m d a b o s) := vTri_memOk h

theorem execVfms_memOk {d : Fin 48} (h : s.memOk) : Keeps (execVfms m d a b o s) := vTri_memOk h

theorem execVmax_memOk (h : s.memOk) : Keeps (execVmax m d a b o s) := vBin_memOk h

theorem execVmin_memOk (h : s.memOk) : Keeps (execVmin m d a b o s) := vBin_memOk h

theorem execVabs_memOk (h : s.memOk) : Keeps (execVabs m d a o s) := vUn_memOk h

theorem execVneg_memOk (h : s.memOk) : Keeps (execVneg m d a o s) := vUn_memOk h

theorem execViadd_memOk (h : s.memOk) : Keeps (execViadd m d a b o s) := vBin_memOk h

theorem execVisub_memOk (h : s.memOk) : Keeps (execVisub m d a b o s) := vBin_memOk h

theorem execVimul_memOk (h : s.memOk) : Keeps (execVimul m d a b o s) := vBin_memOk h

theorem execVclamp_memOk (h : s.memOk) : Keeps (execVclamp m d a b o s) := vBin_memOk h

theorem execVexp_memOk (h : s.memOk) : Keeps (execVexp m d a o s) := vUn_memOk h

theorem execVrcp_memOk (h : s.memOk) : Keeps (execVrcp m d a o s) := vUn_memOk h

theorem execVrsq_memOk (h : s.memOk) : Keeps (execVrsq m d a o s) := vUn_memOk h

theorem execVlog2_memOk (h : s.memOk) : Keeps (execVlog2 m d a o s) := vUn_memOk h

theorem execVround_memOk (h : s.memOk) : Keeps (execVround m d a o s) := vUn_memOk h

theorem execVand_memOk (h : s.memOk) : Keeps (execVand m d a b o s) := vBin_memOk h

theorem execVor_memOk (h : s.memOk) : Keeps (execVor m d a b o s) := vBin_memOk h

theorem execVxor_memOk (h : s.memOk) : Keeps (execVxor m d a b o s) := vBin_memOk h

theorem execVnot_memOk (h : s.memOk) : Keeps (execVnot m d a o s) := vUn_memOk h

theorem execVshl_memOk (h : s.memOk) : Keeps (execVshl m d a b o s) := vBin_memOk h

theorem execVshr_memOk (h : s.memOk) : Keeps (execVshr m d a b o s) := vBin_memOk h

theorem execVsra_memOk (h : s.memOk) : Keeps (execVsra m d a b o s) := vBin_memOk h

theorem execVpopc_memOk (h : s.memOk) : Keeps (execVpopc m d a o s) := vUn_memOk h

theorem execVsign_memOk (h : s.memOk) : Keeps (execVsign m d a o s) :=
  issue_memOk (fun _ h1 => (State.vReserve_memOk h1).bind fun _ h2 => (State.vRead_memOk h2).bind fun _ h3 => State.vPut_memOk h3) h

theorem execVdot4_memOk {d : Fin 48} (h : s.memOk) : Keeps (execVdot4 m d a b o s) :=
  issue_memOk (fun _ h1 => (State.vRead2_memOk h1).bind fun _ h2 => State.vPut_memOk h2) h

theorem execVcmp_memOk {k : Fin 8} (h : s.memOk) : Keeps (execVcmp m k a b o s) :=
  issue_memOk (fun _ h1 => (State.vRead2_memOk h1).bind fun _ h2 => State.post_memOk h2) h

theorem execVsel_memOk (h : s.memOk) : Keeps (execVsel m d a b o s) :=
  issue_memOk (fun _ h1 => (State.vReserve_memOk h1).bind fun _ h2 => (State.vRead2_memOk h2).bind fun _ h3 => State.vPut_memOk h3) h

theorem kOp_memOk {d a b : Fin 8} {f : BitVec 256 → BitVec 256 → BitVec 256} (h : s.memOk) : Keeps (kOp m x d a b f s) :=
  issue_memOk (fun _ => State.post_memOk) h

theorem execKand_memOk {d a b : Fin 8} (h : s.memOk) : Keeps (execKand m x d a b s) := kOp_memOk h

theorem execKor_memOk {d a b : Fin 8} (h : s.memOk) : Keeps (execKor m x d a b s) := kOp_memOk h

theorem execKxor_memOk {d a b : Fin 8} (h : s.memOk) : Keeps (execKxor m x d a b s) := kOp_memOk h

theorem execKandn_memOk {d a b : Fin 8} (h : s.memOk) : Keeps (execKandn m x d a b s) := kOp_memOk h

theorem execKnot_memOk {d a : Fin 8} (h : s.memOk) : Keeps (execKnot m x d a s) := kOp_memOk h

theorem execKmov_memOk {d a : Fin 8} (h : s.memOk) : Keeps (execKmov m x d a s) := kOp_memOk h

theorem execKset_memOk {d : Fin 8} (h : s.memOk) : Keeps (execKset m d e s) :=
  issue_memOk (fun _ => State.post_memOk) h

theorem execKsetImm_memOk {d : Fin 8} {n : BitVec 9} (h : s.memOk) : Keeps (execKsetImm m d n s) :=
  issue_memOk (fun _ => State.post_memOk) h

theorem execKcnt_memOk {d : Fin 4} {a : Fin 8} (h : s.memOk) : Keeps (execKcnt m x d a s) :=
  issue_memOk (fun _ => State.post_memOk) h

theorem execVrsum_memOk (h : s.memOk) : Keeps (execVrsum m d a o s) := vWhole_memOk h

theorem execVrmax_memOk (h : s.memOk) : Keeps (execVrmax m d a o s) := vWhole_memOk h

theorem execVmov_memOk (h : s.memOk) : Keeps (execVmov m d a o s) := vUn_memOk h

theorem execVbc_memOk (h : s.memOk) : Keeps (execVbc m d a o s) := vWhole_memOk h

theorem execVperm_memOk (h : s.memOk) : Keeps (execVperm m d a b o s) := vWhole_memOk h

theorem execVslide_memOk (h : s.memOk) : Keeps (execVslide m d a b o s) := vWhole_memOk h

theorem execVxtr_memOk {d : Fin 4} (h : s.memOk) : Keeps (execVxtr m d a o s) :=
  issue_memOk (fun _ h1 => (State.vRead_memOk h1).bind fun _ h2 => State.post_memOk h2) h

theorem execVins_memOk {d : Fin 48} (h : s.memOk) : Keeps (execVins m d e o s) :=
  issue_memOk (fun _ => State.post_memOk) h

theorem vConst_memOk {x : Nat} (h : s.memOk) : Keeps (vConst m d p x s) :=
  issue_memOk (fun _ h1 => (State.vReserve_memOk h1).bind fun _ h2 => State.vPut_memOk h2) h

theorem execVli_memOk (h : s.memOk) : Keeps (execVli m d p s) := vConst_memOk h

theorem execVlid_memOk (h : s.memOk) : Keeps (execVlid m d p s) := vConst_memOk h

end Vec

/-! ### The S engine -/

section Store
variable {s : State} {x : SaqEntry} {base : Nat} {data : Block} {q : Fin 2} {m : Marks}

theorem State.saqHead_memOk (h : s.memOk) : Yields (·.2.memOk) s.saqHead := by
  unfold State.saqHead
  split
  · trivial
  · exact h

theorem checkS_memOk {va : Word} {n : Nat} {aligned : Bool} (h : s.memOk) : Yields (·.2.memOk) (checkS s va n aligned) := by
  unfold checkS
  refine .skip fun _ => ?_
  dsimp only
  split
  · trivial
  refine .skip fun _ => ?_
  split
  · exact h
  refine (State.translate_memOk h).bind fun _ h1 => ?_
  split
  · trivial
  · exact h1

theorem checkPieces_memOk :
    ∀ {ps : List (Nat × Nat)} {last : Option Nat} {s : State}, s.memOk → Yields (·.2.memOk) (checkPieces x base data last ps s)
  | [], _, _, h => h
  | _ :: _, _, _, h => by
    unfold checkPieces
    split
    · trivial
    next e1 =>
      split
      · trivial
      next e2 =>
        have h1 := (checkPieces_memOk ((checkS_memOk h).of_eq e1)).of_eq e2
        exact h1

theorem putPiece_memOk {rel : Option View} {p : SPiece} (h : s.memOk) : (putPiece rel s p).memOk := by
  unfold putPiece
  split
  · exact State.noteWatch_memOk (State.writeBy_memOk h)
  · exact State.putLoc_memOk h

theorem checkBlock_memOk {ps : List (Nat × Nat)} (h : s.memOk) : Yields (·.2.memOk) (checkBlock x base data ps s) :=
  (checkPieces_memOk h).bind fun _ h1 => (State.okWrite_memOk h1).bind fun _ h2 => h2

theorem popPair_memOk {t : State} (h : t.memOk) : Yields (·.2.2.memOk) (popPair q t) :=
  .skip fun _ => (State.saqHead_memOk (State.modR_memOk h)).bind fun _ h1 => h1

theorem blaming_yields {α : Type} {p : α → Prop} {y : SaqEntry} {x : Except Stop α} (h : Yields p x) : Yields p (blaming y x) := by
  unfold blaming
  split
  · trivial
  · exact h

theorem execStq_memOk (h : s.memOk) : Keeps (execStq m q s) :=
  issue_memOk (fun _ h1 => .bind (popPair_memOk h1) fun _ h2 => .bind (blaming_yields (checkBlock_memOk h2)) fun _ h3 => .skip fun _ =>
      foldl_memOk (fun _ _ => putPiece_memOk) h3) h

theorem execStql_memOk (h : s.memOk) : Keeps (execStql m q s) := by
  unfold execStql
  dsimp only
  refine issue_memOk (fun _ h1 => ?_) h
  refine .bind (popPair_memOk h1) fun _ h2 => ?_
  refine .bind (blaming_yields (checkBlock_memOk h2)) fun _ h3 => ?_
  split
  · exact blaming_yields trivial
  · exact h3
  split
  · exact blaming_yields trivial
  · exact .skip fun _ => .skip fun _ => foldl_memOk (fun _ _ => putPiece_memOk) h3

theorem checkElems_memOk {idx vals : Block} : ∀ {js : List Nat} {s : State}, s.memOk → Yields (·.2.memOk) (checkElems x idx vals js s)
  | [], _, h => h
  | _ :: _, _, h => by
    unfold checkElems
    dsimp only
    split
    · exact checkElems_memOk h
    split
    · trivial
    · trivial
    next e1 =>
      split
      · trivial
      split
      · trivial
      next e2 =>
        have h1 := (State.okRead_memOk ((checkS_memOk h).of_eq e1)).of_eq e2
        split
        · trivial
        next e3 =>
          have h2 := (checkElems_memOk h1).of_eq e3
          exact h2

theorem State.saSend_memOk {op : Nat} {ft : Bool} {es : List SaElem} (h : s.memOk) : (s.saSend op ft es).memOk := by
  unfold State.saSend
  split
  · exact h
  · exact foldl_memOk (fun _ _ => State.noteWatch_memOk) h

theorem SaWork.one_memOk {w : SaWork} {acc : List (Nat × Nat) × State} {x : Word × Nat × Nat} (h : acc.2.memOk) :
    (w.one acc x).2.memOk := by
  unfold SaWork.one
  dsimp only
  split
  · exact State.writeBy_memOk h
  split
  · exact State.logWrite_memOk h
  · exact State.transfer_memOk (State.markDirty_memOk (State.writeBy_memOk (State.spill_memOk (State.logWrite_memOk h))))

theorem performUpdate_memOk {k : Nat} (h : s.memOk) : Keeps (performUpdate k s) := by
  unfold performUpdate
  split
  · exact h
  next w _ =>
    have hw : ∀ u, u.memOk → (w.elems.foldl w.one ([], u)).2.memOk := fun u hu =>
      foldl_inv (p := fun b : List (Nat × Nat) × State => b.2.memOk = true) (fun _ _ => SaWork.one_memOk) hu
    split
    · exact h
    · exact State.clearWids_memOk (State.onCore_memOk hw h)

theorem execSaeq_memOk {vq iq : Fin 2} {o : Option SaOpt} (h : s.memOk) : Keeps (execSaeq m vq iq o s) :=
  issue_memOk (fun _ h1 => .skip fun _ => .skip fun _ => .bind (State.saqHead_memOk h1) fun _ h2 =>
      .bind (blaming_yields (checkElems_memOk h2)) fun _ h3 => .skip fun _ => State.saSend_memOk h3) h

theorem stzBlocks_memOk : ∀ {k i : Nat} {s : State}, s.memOk → (stzBlocks x k i s).1.memOk
  | 0, _, _, h => h
  | _ + 1, _, _, h => by
    unfold stzBlocks
    split
    · exact h
    next e1 =>
      have h1 := (checkBlock_memOk h).of_eq e1
      split
      · exact h
      · exact stzBlocks_memOk (foldl_memOk (fun _ _ => putPiece_memOk) h1)

theorem execStz_memOk {n : Option (BitVec 12)} (h : s.memOk) : Keeps (execStz m n s) := by
  unfold execStz
  dsimp only
  split
  · exact stopped_memOk h
  · exact stopped_memOk h
  split
  next e1 => exact stopped_memOk (fst_of_eq e1 (stzBlocks_memOk h))
  next e1 => exact issue_memOk (fun _ h1 => (State.saqHead_memOk h1).bind fun _ h2 => h2) (fst_of_eq e1 (stzBlocks_memOk h))

theorem execSfence_memOk (h : s.memOk) : Keeps (execSfence m s) :=
  issue_memOk (fun _ h1 => .skip fun _ => h1) h

end Store

/-! ### Elements of commands -/

section Run
variable {r : Run} {f : Run → Except XErr Run} {write : Bool} {c : Cmd} {vale n align k : Nat} {va : Word} {s : State} {bs : List Byte}
   {addr : Nat → Word}

theorem Run.act_memOk (hf : ∀ u, u.st.memOk → Yields (·.st.memOk) (f u)) (h : r.st.memOk) : (r.act f).st.memOk := by
  unfold Run.act
  split
  · exact h
  split
  next e1 => exact (hf _ h).of_eq e1
  · exact h

theorem Run.next_memOk (h : r.st.memOk) : r.next.st.memOk := by
  unfold Run.next
  split <;> exact h

theorem Run.elem_memOk (hf : ∀ u, u.st.memOk → Yields (·.st.memOk) (f u)) (h : r.st.memOk) : (r.elem f).st.memOk := by
  unfold Run.elem
  split
  · exact h
  · exact Run.next_memOk (Run.act_memOk hf h)

theorem Run.cached_memOk {vf : Nat} {cache : List TlbEntry} {va : Nat} (h : r.st.memOk) : (r.cached write vf c cache va).st.memOk := by
  unfold Run.cached
  extract_lets last back next keep
  have hk : ∀ {r ts}, r.st.memOk = true → (keep r ts).st.memOk = true := by
    intro r ts hr
    dsimp only [keep]
    split <;> exact hr
  split
  · exact hk h
  split
  next e1 => exact hk (third_of_eq e1 (walkVa_memOk h))
  next e1 => exact hk (third_of_eq e1 (walkVa_memOk h))

theorem Run.locate_memOk (h : r.st.memOk) : Yields (·.run.st.memOk) (Run.locate c r vale va n align write) := by
  unfold Run.locate
  split
  · dsimp only
    split
    · trivial
    split
    · trivial
    split
    · trivial
    split
    · trivial
    · exact h
  split
  · trivial
  split
  · trivial
  generalize (if write = true then r.dst else r.src) = cache
  dsimp only
  split
  · trivial
  split
  · trivial
  split
  · trivial
  split
  · trivial
  split
  · exact Run.cached_memOk (xlate_memOk h)
  split
  · trivial
  · exact State.tick_memOk (Run.cached_memOk (xlate_memOk h))

theorem Cmd.noteWatch_memOk (h : s.memOk) : (c.noteWatch s vale va n write).memOk := by
  unfold Cmd.noteWatch
  split
  · exact h
  refine State.onCore_memOk (fun _ h1 => ?_) h
  split <;> exact h1

theorem Run.read_memOk (h : r.st.memOk) : Yields (·.2.st.memOk) (Run.read c r vale va n align) := by
  unfold Run.read
  refine (Run.locate_memOk h).bind fun _ h1 => ?_
  split
  · split
    · trivial
    next e1 => exact State.transfer_memOk (Cmd.noteWatch_memOk (readPiece_memOk ((State.okRead_memOk h1).of_eq e1)))
  · split
    · trivial
    · exact Cmd.noteWatch_memOk (remoteBytes_memOk h1)

theorem At.put_memOk {a : At} (h : a.run.st.memOk) : (a.put c vale va bs).st.memOk := by
  unfold At.put
  dsimp only
  split
  · split
    · exact Cmd.noteWatch_memOk (State.logWrite_memOk h)
    split
    · exact State.transfer_memOk (Cmd.noteWatch_memOk (State.markDirty_memOk (writePiece_memOk
          (State.spill_memOk (State.logWrite_memOk h)))))
    · exact Cmd.noteWatch_memOk (State.sendWrite_memOk (State.logWrite_memOk h))
  · split
    · exact Cmd.noteWatch_memOk h
    split
    · exact State.transfer_memOk (Cmd.noteWatch_memOk (writePiece_memOk h))
    · exact Cmd.noteWatch_memOk (State.sendWrite_memOk h)

theorem Run.checkWrite_memOk (h : r.st.memOk) : Yields (·.run.st.memOk) (Run.checkWrite c r vale va n align) := by
  unfold Run.checkWrite
  refine (Run.locate_memOk h).bind fun _ h1 => ?_
  split
  · trivial
  split
  · trivial
  next e1 => exact (State.okWrite_memOk h1).of_eq e1

theorem Run.write_memOk (h : r.st.memOk) : Yields (·.st.memOk) (Run.write c r vale va bs align) :=
  (Run.checkWrite_memOk h).bind fun _ h1 => .skip fun _ => At.put_memOk h1

theorem Run.readNext_memOk {i : Nat} (h : r.st.memOk) : (Run.readNext c vale n align addr r i).st.memOk := by
  unfold Run.readNext
  dsimp only
  split
  · exact h
  split
  · exact h
  next e1 => split <;> exact (Run.read_memOk h).of_eq e1

theorem Run.readList_memOk (h : r.st.memOk) : (Run.readList c vale n align k addr r).st.memOk :=
  foldl_run_memOk (fun _ _ => Run.readNext_memOk) h

theorem Run.settle_memOk {before : State} {done : Cmd → Cmd} (hb : before.memOk) (hr : r.st.memOk) :
    Keeps (Run.settle c before r done) := by
  unfold Run.settle
  split
  · exact hr
  · exact State.pay_memOk hr
  · exact State.poison_memOk (State.pay_memOk hr)
  · exact hr
  · exact hb
  · exact State.onCore_memOk (fun _ h1 => h1) hb
  · trivial

/-- A step of a command keeps the memories where its work on the command does. -/
theorem runCmd_memOk {p : Cmd → Bool} {f : Cmd → State → Host.Outcome State Fault Refusal} (hf : ∀ u v, v.memOk → Keeps (f u v))
    (h : s.memOk) :
    Keeps (runCmd k p f s) := by
  unfold runCmd
  split
  · exact h
  split
  · exact hf _ _ h
  · exact h

end Run

/-! ### Copies, gathers, accumulations and collectives -/

section Cmd
variable {c : Cmd} {r : Run} {e k va n op : Nat} {s : State} {xs : List Nat} {acc : Run × Nat} {cs : List Cmd}

theorem Run.element_memOk {c1 : Nat} (h : r.st.memOk) : Yields (·.2.st.memOk) (Run.element c r e c1) := by
  unfold Run.element
  split
  · exact Run.read_memOk h
  · exact h

theorem Run.copyOne_memOk {vales : List Nat} {c1 : Nat → Nat} (h : r.st.memOk) : (Run.copyOne c vales c1 r e).st.memOk :=
  Run.elem_memOk (fun _ h1 => .bind (Run.element_memOk h1) fun _ h2 => foldlM_run_memOk (fun _ _ => Run.write_memOk) h2) h

theorem Cmd.record_memOk (h : s.memOk) : (c.record s).memOk := by
  unfold Cmd.record
  split <;> exact h

theorem execCopy_memOk (h : s.memOk) : Keeps (execCopy k s) := by
  unfold execCopy
  refine runCmd_memOk (fun _ _ h1 => ?_) h
  refine Run.settle_memOk h1 ?_
  split
  · exact Cmd.record_memOk (foldl_run_memOk (fun _ _ => Run.copyOne_memOk) h1)
  · exact foldl_run_memOk (fun _ _ => Run.copyOne_memOk) h1

theorem execMcast_memOk (h : s.memOk) : Keeps (execMcast k s) :=
  runCmd_memOk (fun _ _ h1 => Run.settle_memOk h1 (foldl_run_memOk (fun _ _ => Run.copyOne_memOk) h1)) h

theorem Run.indices_memOk (h : r.st.memOk) : (Run.indices c r).st.memOk := Run.readList_memOk h

theorem execGather_memOk (h : s.memOk) : Keeps (execGather k s) :=
  runCmd_memOk (fun _ _ h1 => Run.settle_memOk h1 (foldl_run_memOk (fun _ _ => Run.copyOne_memOk) (Run.indices_memOk h1))) h

theorem Run.scatterOne_memOk (h : r.st.memOk) : (Run.scatterOne c xs r e).st.memOk := by
  unfold Run.scatterOne
  refine Run.elem_memOk (fun _ h1 => ?_) h
  refine (Run.element_memOk h1).bind fun _ h2 => ?_
  dsimp only
  split
  · exact h2
  · exact Run.write_memOk h2

theorem Run.scatterSum_memOk (h : r.st.memOk) : (Run.scatterSum c xs r e).st.memOk := by
  unfold Run.scatterSum
  refine Run.elem_memOk (fun _ h1 => ?_) h
  refine (Run.element_memOk h1).bind fun _ h2 => ?_
  dsimp only
  split
  · exact h2
  split
  · exact h2
  · exact Run.write_memOk h2

theorem execScatter_memOk (h : s.memOk) : Keeps (execScatter k s) := by
  unfold execScatter
  refine runCmd_memOk (fun _ _ h1 => ?_) h
  refine Run.settle_memOk h1 ?_
  refine foldl_run_memOk (fun _ _ h2 => ?_) (Run.indices_memOk h1)
  split
  · exact Run.scatterSum_memOk h2
  · exact Run.scatterOne_memOk h2

theorem prefWalk_memOk {vf : Nat} (h : s.memOk) : (prefWalk c vf va s).2.memOk := by
  unfold prefWalk
  dsimp only
  split
  · split
    · exact State.poison_memOk (walkVa_memOk h)
    · exact walkVa_memOk h
  · exact walkVa_memOk h

theorem prefPage_memOk {dest : Nat} {acc : Option (Nat × State)} (h : Gives (·.2.memOk) acc) :
    Gives (·.2.memOk) (prefPage c dest acc va) := by
  unfold prefPage
  cases acc with
  | none => trivial
  | some a =>
    have hw := prefWalk_memOk (c := c) (vf := c.vf a.2) (va := va) h
    dsimp only [Option.bind_some]
    split
    · exact hw
    · trivial
    · exact State.commitMark_memOk hw
    split
    · exact State.startMove_memOk hw
    · dsimp only [Gives]
      split
      · exact State.alert_memOk (State.commitMove_memOk (State.startMove_memOk hw))
      · exact State.commitMove_memOk (State.startMove_memOk hw)

theorem runPref_memOk {mode : Nat} (h : s.memOk) : Keeps (runPref mode k s) := by
  refine runCmd_memOk (fun c t ht => ?_) h
  dsimp only
  split
  · exact ht
  next e1 =>
    have h1 := (foldl_inv (p := Gives fun b : Nat × State => b.2.memOk = true) (fun _ _ =>
        prefPage_memOk) (show Gives (·.2.memOk) (some (0, t)) from ht)).of_eq e1
    exact h1

theorem execPrefPromote_memOk (h : s.memOk) : Keeps (execPrefPromote k s) := runPref_memOk h

theorem execPrefDemote_memOk (h : s.memOk) : Keeps (execPrefDemote k s) := runPref_memOk h

theorem Run.writes_memOk {vale : Nat} {va : Word} {xs : List (List Byte)} (h : r.st.memOk) : (Run.writes c vale va xs r).st.memOk :=
  foldl_run_memOk (fun _ _ h1 => Run.elem_memOk (fun _ => Run.write_memOk) h1) h

theorem Run.signatures_memOk {own : Nat} (h : r.st.memOk) : (Run.signatures c own r).st.memOk :=
  Run.readList_memOk h

theorem execSigath_memOk (h : s.memOk) : Keeps (execSigath k s) := by
  unfold execSigath
  refine runCmd_memOk (fun _ _ h1 => ?_) h
  refine Run.settle_memOk h1 ?_
  refine Run.writes_memOk ?_
  refine foldl_run_memOk (fun _ _ h2 => ?_) (Run.signatures_memOk h1)
  refine foldl_run_memOk (fun _ _ h3 => ?_) h2
  refine Run.elem_memOk (fun _ h4 => ?_) h3
  dsimp only
  split
  · exact .bind (Run.read_memOk h4) fun _ => Run.write_memOk
  · exact Run.write_memOk h4

theorem Run.saccCheck_memOk {j x v : Nat} (h : r.st.memOk) : Yields (·.dest.run.st.memOk) (Run.saccCheck c r j x v) := by
  unfold Run.saccCheck
  refine .bind (Run.checkWrite_memOk h) fun _ h1 => ?_
  split
  · trivial
  split
  · trivial
  split
  · trivial
  next e1 => exact (State.okRead_memOk h1).of_eq e1

theorem Run.saccWindow_memOk : ∀ {es : List (Nat × Nat × Nat)} {r : Run}, r.st.memOk → Yields (·.2.st.memOk) (Run.saccWindow c es r)
  | [], _, h => h
  | _ :: _, _, h => by
    unfold Run.saccWindow
    split
    · exact Run.saccWindow_memOk h
    · exact .bind (Run.saccCheck_memOk h) fun _ h1 => .bind (Run.saccWindow_memOk h1) fun _ h2 => h2

theorem Run.saccPut_memOk {y : Update} (h : acc.1.st.memOk) : (Run.saccPut c acc y).1.st.memOk := by
  unfold Run.saccPut
  dsimp only
  split
  · exact h
  split
  · exact At.put_memOk h
  · exact h

theorem Run.saccStep_memOk {w : Nat} (h : acc.1.st.memOk) : (Run.saccStep c n acc w).1.st.memOk := by
  unfold Run.saccStep
  dsimp only
  split
  · exact h
  generalize hr : Run.readList _ _ _ _ _ _ _ = r1
  have h1 : r1.st.memOk := hr ▸ Run.readList_memOk (r := { acc.1 with idx := _, sums := _ }) h
  split
  · exact h1
  split
  next a k e1 =>
    have hb : Yields (fun y : Run × Nat => y.1.st.memOk = true) (.ok (a, k) : Except XErr (Run × Nat)) :=
      e1 ▸ .bind (Run.saccWindow_memOk h1) fun _ h2 => .skip fun _ => foldl_inv (p := fun b : Run × Nat => b.1.st.memOk = true) (fun _ _ =>
          Run.saccPut_memOk) h2
    exact hb
  · exact h1

theorem execSacc_memOk (h : s.memOk) : Keeps (execSacc k s) := by
  refine runCmd_memOk (fun c t ht => Run.settle_memOk ht ?_) h
  have hr : (((List.range ((c.bits 5 0 24 + 63) / 64)).foldl (Run.saccStep c (c.bits 5 0 24)) (Run.start c t, c.bytes / 4)).1).st.memOk :=
    foldl_inv (p := fun b : Run × Nat => b.1.st.memOk = true) (fun _ _ => Run.saccStep_memOk) ht
  split <;> exact hr

theorem Run.take_memOk {va : Word} (h : r.st.memOk) : (Run.take c va n r).st.memOk :=
  foldl_run_memOk (fun _ _ h1 => Run.elem_memOk (fun _ h2 => .bind (Run.read_memOk h2) fun _ h3 => h3) h1) h

theorem collGive_memOk {size rank : Nat} (h : s.memOk) : (collGive op size rank c s).st.memOk := by
  unfold collGive
  split
  · exact Run.take_memOk (Run.take_memOk h)
  split
  · exact h
  · exact Run.take_memOk h

theorem collFail_memOk {code elem : Nat} (h : s.memOk) : (collFail cs code elem s).memOk :=
  foldl_memOk (fun _ _ h1 => h1) h

theorem collRead_memOk (h : s.memOk) : Keeps (collRead op cs c s) := by
  unfold collRead
  dsimp only
  split
  · exact collGive_memOk h
  · exact collFail_memOk (State.pay_memOk (collGive_memOk h))
  · exact collFail_memOk (State.poison_memOk (State.pay_memOk (collGive_memOk h)))
  · exact Run.settle_memOk h (collGive_memOk h)

theorem collShare_memOk (h : s.memOk) : (collShare op cs s).memOk :=
  foldl_memOk (fun _ _ h1 => h1) h

theorem collWrite_memOk (h : s.memOk) : Keeps (collWrite c s) := by
  unfold collWrite
  exact Run.settle_memOk h (Run.writes_memOk h)

theorem runColl_memOk (h : s.memOk) : Keeps (runColl op k s) := by
  unfold runColl
  refine runCmd_memOk (fun _ _ h1 => ?_) h
  split
  · exact collWrite_memOk h1
  split
  · exact h1
  split
  · exact h1
  split
  · exact collFail_memOk h1
  split
  · exact collRead_memOk h1
  split
  · exact collShare_memOk h1
  · exact h1

theorem execAllreduce_memOk (h : s.memOk) : Keeps (execAllreduce k s) := runColl_memOk h

theorem execReduce_memOk (h : s.memOk) : Keeps (execReduce k s) := runColl_memOk h

theorem execBcast_memOk (h : s.memOk) : Keeps (execBcast k s) := runColl_memOk h

theorem execAllgather_memOk (h : s.memOk) : Keeps (execAllgather k s) := runColl_memOk h

theorem execAlltoall_memOk (h : s.memOk) : Keeps (execAlltoall k s) := runColl_memOk h

end Cmd

/-! ### Leases and plates -/

section Lease
variable {s : State} {k p : Fin 4} {n r v : Nat} {d : TileRef} {t : PlateTag} {o : Host.Outcome State Fault Refusal} {m : Marks}
   {sc : Option (Fin 4)} {x : Bool} {c : CoreId}

theorem State.pairRead_memOk (h : s.memOk) : (s.pairRead k).2.2.memOk :=
  State.descRead_memOk (State.descRead_memOk h)

theorem State.pairTile_memOk {t len : Nat} (h : s.memOk) : Yields (·.2.memOk) (s.pairTile k t n len) := by
  unfold State.pairTile
  dsimp only
  split
  · trivial
  · exact State.pairRead_memOk h

theorem readSpan_memOk {p : Party} {pa : Nat} (h : s.memOk) : (readSpan s p pa n).2.2.memOk := by
  unfold readSpan
  split
  · exact readPiece_memOk h
  · exact readPieces_memOk h

theorem readLines_memOk : ∀ {k i : Nat} {s : State}, s.memOk → Yields (·.2.memOk) (readLines d r k i s)
  | 0, _, _, h => h
  | _ + 1, _, _, h => .bind (State.okRead_memOk h) fun _ h1 => .bind (readLines_memOk (readSpan_memOk h1)) fun _ h2 => h2

theorem readRow_memOk (h : s.memOk) : Yields (·.2.memOk) (readRow d r s) :=
  .bind (readLines_memOk h) fun _ h1 => h1

theorem readConts_memOk (h : s.memOk) : Yields (·.2.memOk) (readConts d r s) :=
  .bind (State.okRead_memOk h) fun _ => readSpan_memOk

theorem State.arrayFmt_memOk (h : s.memOk) : Yields (·.2.memOk) s.arrayFmt := by
  unfold State.arrayFmt
  dsimp only
  split
  · trivial
  · exact State.fmtEntry_memOk h

theorem readPlateRows_memOk : ∀ {k r : Nat} {s : State}, s.memOk → Yields (·.2.memOk) (readPlateRows d k r s)
  | 0, _, _, h => h
  | _ + 1, _, _, h => .bind (readRow_memOk h) fun _ h1 => .bind (readPlateRows_memOk h1) fun _ h2 => h2

theorem readScaleRows_memOk : ∀ {k r : Nat} {s : State}, s.memOk → Yields (·.2.memOk) (readScaleRows d k r s)
  | 0, _, _, h => h
  | _ + 1, _, _, h => .bind (readLines_memOk h) fun _ h1 => .bind (readScaleRows_memOk h1) fun _ h2 => h2

theorem State.endFetch_memOk (h : s.memOk) : (s.endFetch v).memOk := by
  unfold State.endFetch
  split <;> exact h

theorem State.claimPlate_memOk {bens : List Nat} (h : s.memOk) : (s.claimPlate t bens).memOk := h

theorem State.fetchPlate_memOk (h : s.memOk) : Yields (·.2.memOk) (s.fetchPlate t) := by
  refine .bind (readPlateRows_memOk h) fun r h1 => ?_
  extract_lets v bens
  split
  extract_lets rest
  have hr : ∀ q, q.2.memOk = true → Yields (·.2.memOk) (rest q) := fun q h2 => by
    have h3 := State.endFetch_memOk (v := v) (State.claimPlate_memOk (t := t) (bens := bens) h2)
    dsimp only [rest]
    split
    · exact h3
    · exact ite_memOk (State.alert_memOk h3) h3
  split
  · split
    · exact .bind (p := fun (q : List (BitVec 4096) × State) => q.2.memOk = true) h1 hr
    · exact .bind (readScaleRows_memOk h1) hr
  · exact .bind (p := fun (q : List (BitVec 4096) × State) => q.2.memOk = true) h1 hr

theorem State.arrayRerun_memOk (h : s.memOk) : (s.arrayRerun n).memOk := h

theorem noteReq_memOk (h : Keeps o) : Keeps (noteReq o) := by
  cases o with
  | next t =>
    unfold noteReq
    dsimp only
    split <;> exact h
  | fault => trivial
  | refused => trivial

theorem issueM_memOk {words : Nat} {body : State → Except Stop Done} (hf : ∀ u, u.memOk → Yields (·.st.memOk) (body u)) (h : s.memOk) :
    Keeps (issueM words m body s) :=
  noteReq_memOk (issue_memOk hf h)

theorem needLease_memOk (h : s.memOk) : Yields (·.memOk) (needLease s) := .skip fun _ => h

theorem State.occupy_memOk {kind : OccKind} (h : s.memOk) : (s.occupy kind n).memOk := by
  unfold State.occupy
  split <;> exact h

theorem loadPlate_memOk {own : Bool} (h : s.memOk) : Yields (·.st.memOk) (loadPlate t own s) := by
  unfold loadPlate
  split
  · exact State.occupy_memOk h
  refine .bind (State.fetchPlate_memOk h) fun _ h1 => ?_
  refine State.occupy_memOk ?_
  split <;> exact h1

theorem plateOf_memOk {t : Tile} (h : s.memOk) : Yields (·.2.memOk) (plateOf s p sc t) := by
  unfold plateOf
  dsimp only
  refine .bind (State.arrayFmt_memOk h) fun _ h1 => ?_
  refine .bind (State.pairTile_memOk h1) fun _ h2 => ?_
  split
  · exact h2
  · exact .bind (State.pairTile_memOk h2) fun _ h3 => h3

theorem execMlease_memOk (h : s.memOk) : Keeps (execMlease m s) :=
  issueM_memOk (fun _ h1 => .skip fun _ => h1) h

theorem notePlate_memOk {t : Option PlateTag} (h : Keeps o) : Keeps (notePlate t o) := by
  cases o with
  | next u =>
    unfold notePlate
    dsimp only
    split <;> exact h
  | fault => trivial
  | refused => trivial

theorem execMleasePlate_memOk {t : Tile} (h : s.memOk) : Keeps (execMleasePlate m p sc t s) := by
  unfold execMleasePlate
  refine notePlate_memOk ?_
  refine issueM_memOk (fun _ h1 => ?_) h
  dsimp only
  split
  · exact loadPlate_memOk h1
  · exact .bind (needLease_memOk h1) fun _ h2 => .bind (plateOf_memOk h2) fun _ => loadPlate_memOk
  · exact .skip fun _ => loadPlate_memOk h1
  · exact .bind (plateOf_memOk h1) fun _ h3 => trivial

theorem State.endLease_memOk (h : s.memOk) : s.endLease.memOk := h

theorem execMrel_memOk (h : s.memOk) : Keeps (execMrel m s) := by
  unfold execMrel
  refine issueM_memOk (fun _ h1 => ?_) h
  split <;> exact h1

theorem execMwld_memOk {t : Tile} (h : s.memOk) : Keeps (execMwld m x p t s) :=
  issueM_memOk (fun _ h1 => .bind (needLease_memOk h1) fun _ h2 => .bind (plateOf_memOk h2) fun _ h3 => loadPlate_memOk h3) h

theorem execMwlds_memOk {sc : Fin 4} {t : Tile} (h : s.memOk) : Keeps (execMwlds m x p sc t s) :=
  issueM_memOk (fun _ h1 => .bind (needLease_memOk h1) fun _ h2 => .bind (plateOf_memOk h2) fun _ h3 => loadPlate_memOk h3) h

theorem State.arbitrate_memOk (h : s.memOk) : (s.arbitrate v).memOk := by
  unfold State.arbitrate
  dsimp only
  (repeat' split) <;> exact h

theorem State.takeLease_memOk (h : s.memOk) : (s.takeLease v c).memOk :=
  State.onCore_memOk (fun _ h1 => h1) h

theorem State.refetch_memOk (h : s.memOk) : (s.refetch v c t).memOk := by
  unfold State.refetch
  refine State.focus_memOk ?_
  split
  next e1 => exact (State.fetchPlate_memOk (State.focus_memOk h)).of_eq e1
  · dsimp only
    split
    · exact State.focus_memOk h
    · exact raise_memOk (State.focus_memOk h)
  · exact State.focus_memOk h

theorem execLeaseGrant_memOk (h : s.memOk) : Keeps (execLeaseGrant v s) := by
  unfold execLeaseGrant
  split
  · exact h
  split
  · exact h
  split
  · split
    · exact State.takeLease_memOk h
    · exact State.refetch_memOk h
  · exact State.takeLease_memOk h

theorem noteCarry_memOk {before after : State} (h : after.memOk) : (noteCarry before after).memOk :=
  h

theorem State.countIdle_memOk (h : s.memOk) : (s.countIdle v).memOk := by
  unfold State.countIdle
  split <;> exact h

theorem execLeaseIdleEnd_memOk (h : s.memOk) : Keeps (execLeaseIdleEnd v s) := by
  unfold execLeaseIdleEnd
  split
  · exact h
  split
  · exact State.onCore_memOk (fun _ h1 => h1) h
  · exact h

theorem execLeaseBudgetEnd_memOk (h : s.memOk) : Keeps (execLeaseBudgetEnd v s) := by
  unfold execLeaseBudgetEnd
  split
  · exact h
  split
  · exact h
  refine State.onCore_memOk (fun _ h1 => ?_) h
  split <;> exact h1

theorem State.freezeLease_memOk (h : s.memOk) : s.freezeLease.memOk := by
  unfold State.freezeLease
  split <;> exact h

theorem execFreezeSave_memOk (h : s.memOk) : Keeps (execFreezeSave v s) := by
  unfold execFreezeSave
  split
  · exact h
  split
  · exact State.onCore_memOk (fun _ => State.freezeLease_memOk) h
  · exact h

theorem State.beginCount_memOk (h : s.memOk) : (s.beginCount v).memOk := State.arbitrate_memOk h

theorem State.endCount_memOk (h : s.memOk) : (s.endCount v).memOk := State.countIdle_memOk h

end Lease

/-! ### Accounts -/

section Books
variable {v : Nat} {s : State} {m : Marks} {x : Bool} {d a : Fin 32}

theorem bookEngine_memOk {x : Nat} (h : s.memOk) : (bookEngine v x s).memOk := by
  unfold bookEngine
  split
  · split
    · exact State.modBooks_memOk h
    · exact h
  · split
    · exact State.modBooks_memOk h
    split
    · exact State.modBooks_memOk h
    · split
      · exact State.modBooks_memOk h
      · exact State.setCmd_memOk (State.modBooks_memOk h)
    · split
      · exact State.modBooks_memOk h
      · exact State.setCmd_memOk (State.modBooks_memOk h)
    · exact State.modBooks_memOk h

theorem bookMigration_memOk (h : s.memOk) : (bookMigration s).memOk := by
  unfold bookMigration
  split <;> exact h

theorem State.bookCycle_memOk (h : s.memOk) : s.bookCycle.memOk :=
  State.modBooks_memOk (State.modBooks_memOk (bookMigration_memOk (foldl_memOk (fun _ _ h1 =>
      bookEngine_memOk (bookEngine_memOk (bookEngine_memOk h1))) (State.modBooks_memOk (State.modBooks_memOk h)))))

theorem State.fetchCycle_memOk (h : s.memOk) : (s.fetchCycle v).memOk := by
  unfold State.fetchCycle
  split
  · exact h
  dsimp only
  split
  · exact State.endFetch_memOk h
  · exact h

theorem State.splitCmds_memOk (h : s.memOk) : s.splitCmds.memOk := foldl_memOk (fun _ _ h1 => h1) h

theorem State.runReplays_memOk (h : s.memOk) : (s.runReplays v).memOk := by
  unfold State.runReplays
  split <;> exact h

theorem State.bookStore_memOk {j cap : Nat} {xs : List (Nat × Nat)} (h : s.memOk) : (s.bookStore j cap xs).memOk :=
  foldl_memOk (fun _ _ h1 => h1) h

theorem State.bookStores_memOk (h : s.memOk) : s.bookStores.memOk :=
  State.bookStore_memOk (State.bookStore_memOk (State.bookStore_memOk (State.bookStore_memOk h)))

theorem State.violate_memOk {x : Broken} (h : s.memOk) : (s.violate x).memOk := h

theorem putBytes_memOk {u : State} {loc : PLoc} {va : Word} {bs : List Byte} (h : u.memOk) : (putBytes u loc va bs).memOk :=
  foldl_memOk (fun _ _ => State.putLoc_memOk) h

theorem State.readyRead_memOk {k : Nat} (h : s.memOk) : (s.readyRead k).memOk := h

theorem State.asCore_memOk {i : CoreId} {key : Nat} {f : State → State} (hf : ∀ u, u.memOk → (f u).memOk) (h : s.memOk) :
    (s.asCore i key f).memOk := by
  unfold State.asCore
  dsimp only
  split
  · exact h
  · exact hf _ h

theorem honour_memOk {p : Pledge} (h : s.memOk) : (honour s p).memOk := by
  unfold honour
  split
  · exact State.modBooks_memOk h
  refine State.readyRead_memOk ?_
  refine State.modBooks_memOk ?_
  refine State.asCore_memOk (fun _ h1 => ?_) h
  dsimp only
  split
  · split
    next e1 => exact putBytes_memOk ((State.okWrite_memOk (xlate_memOk h1)).of_eq e1)
    · exact State.modCr_memOk (State.report_memOk (xlate_memOk h1))
    · exact xlate_memOk h1
  · exact xlate_memOk h1

theorem execStmt_memOk (h : s.memOk) : Keeps (execStmt m x d a s) := by
  refine issue_memOk (fun _ ht => .skip fun _ => .ite trivial (.ite trivial (.bind (readWords_memOk ht) fun _ h1 =>
    .bind (State.translate_memOk h1) fun r h2 => ?_))) h
  cases r
  dsimp only
  generalize State.sealedRange _ _ _ _ _ = b
  cases b
  · exact .skip fun _ => .skip fun _ => h2
  · trivial

theorem State.postFixed_memOk (h : s.memOk) : s.postFixed.memOk := foldl_memOk (fun _ _ h1 => h1) h

theorem execAccountTick_memOk (h : s.memOk) : Keeps (execAccountTick s) := by
  unfold execAccountTick
  split
  · exact h
  · exact foldl_memOk (fun _ _ => honour_memOk) (State.modBooks_memOk (State.modBooks_memOk (foldl_memOk (fun _ _ =>
        State.violate_memOk) (State.postFixed_memOk (State.bookStores_memOk h)))))

theorem execTime_memOk (h : s.memOk) : Keeps (execTime m x d s) :=
  issue_memOk (fun _ => State.putC_memOk) h

theorem execCyc_memOk {sel : BitVec 3} (h : s.memOk) : Keeps (execCyc m x d sel s) :=
  issue_memOk (fun _ => State.putC_memOk) h

theorem execAcrd_memOk (h : s.memOk) : Keeps (execAcrd m x d a s) :=
  issue_memOk (fun _ => State.putC_memOk) h

end Books

/-! ### Snapshots -/

section Snap
variable {e : Engine} {s : State}

theorem readAgain_memOk : ∀ {xs : List (Nat × Nat)} {s : State}, s.memOk → Yields (·.2.2.memOk) (readAgain e xs s)
  | [], _, h => h
  | _ :: _, _, h => .bind (State.readA_memOk h) fun _ h1 => .bind (readAgain_memOk h1) fun _ h2 => h2

theorem State.restart_memOk {tgt idx pc : Nat} {elems : List (Nat × Nat)} (h : s.memOk) : (s.restart e tgt idx pc elems).memOk := by
  unfold State.restart
  split
  · exact State.report_memOk h
  · exact h
  next e1 =>
    dsimp only
    split
    · exact (readAgain_memOk h).of_eq e1
    split
    · exact (readAgain_memOk h).of_eq e1
    split <;> exact (readAgain_memOk h).of_eq e1

theorem addFresh_memOk {old : Option Occ} {a : Fresh} (h : s.memOk) : (addFresh old s a).memOk := by
  unfold addFresh
  split
  · exact h
  · exact State.restart_memOk h
  · split <;> exact h

theorem State.reload_memOk (h : s.memOk) : Gives (·.memOk) s.reload := by
  unfold State.reload
  dsimp only
  split
  · exact h
  split
  · trivial
  · exact foldl_memOk (fun _ _ => addFresh_memOk) h

end Snap

/-! ### Control registers -/

section Control
variable {s : State} {m : Marks} {n : BitVec 12}

theorem State.ctlWrite_memOk {c : CtlWrite} (h : s.memOk) : (s.ctlWrite c).memOk := by
  unfold State.ctlWrite
  dsimp only
  repeat' refine ite_memOk ?_ ?_
  all_goals exact h

theorem State.ctlCommit_memOk (h : s.memOk) : s.ctlCommit.memOk :=
  foldl_memOk (fun _ _ h1 => State.onCore_memOk (fun _ => State.ctlWrite_memOk) h1) h

theorem execCrr_memOk {d : Fin 32} (h : s.memOk) : Keeps (execCrr m d n s) := by
  unfold execCrr
  refine issue_memOk (fun _ h1 => ?_) h
  split
  · trivial
  · exact .skip fun _ => State.putC_memOk h1

theorem execCrw_memOk {a : Fin 32} (h : s.memOk) : Keeps (execCrw m a n s) := by
  unfold execCrw
  refine issue_memOk (fun _ h1 => ?_) h
  split
  · trivial
  · trivial
  refine .skip fun _ => ?_
  dsimp only
  split <;> exact h1

end Control

/-! ### The M engine -/

section Mat
variable {src : MSrc} {i n : Nat} {s u : State} {sc : Option MSrc} {d : Acc} {t : Tile} {m : Marks} {x clr : Bool} {rows : BitVec 6}

theorem aRow_memOk {d : Option TileRef} (h : s.memOk) : Yields (·.2.memOk) (aRow src d i s) := by
  unfold aRow
  split
  · exact .skip fun _ => h
  · exact h
  · exact readRow_memOk h
  · exact h

theorem aScale_memOk {src : Option MSrc} {d : Option TileRef} (h : s.memOk) : Yields (·.2.memOk) (aScale src d i s) := by
  unfold aScale
  split
  · exact h
  · exact .skip fun _ => h
  · exact h
  · exact readConts_memOk h
  · exact h

theorem mmaRow_memOk {d : Nat} {tile : Nat} {f : BitVec 20} {desc : Vector Word 4} (h : s.memOk) :
    Yields (·.memOk) (mmaRow d src sc tile f desc i s) := by
  unfold mmaRow
  dsimp only
  refine .bind (aRow_memOk h) fun _ h1 => ?_
  refine .bind (aScale_memOk h1) fun _ h2 => ?_
  split
  · exact h2
  split
  · exact State.post_memOk h2
  split
  · exact State.post_memOk h2
  · split <;> exact State.post_memOk (State.alert_memOk (State.modR_memOk (State.arrayRerun_memOk (memOk_congr h2 rfl rfl))))

theorem keepPair_memOk {src : Option MSrc} {t len : Nat} (h : s.memOk) : Yields (·.2.2.memOk) (keepPair s src t n len) := by
  unfold keepPair
  split
  · dsimp only
    split
    · trivial
    · exact State.pairRead_memOk h
  · exact h

theorem mmaBody_memOk (h : u.memOk) : Yields (·.st.memOk) (mmaBody d src sc t n u) := by
  unfold mmaBody
  dsimp only
  refine .bind (needLease_memOk h) fun _ h1 => ?_
  refine .bind (State.arrayFmt_memOk h1) fun _ h2 => ?_
  refine .bind (keepPair_memOk h2) fun _ h3 => ?_
  refine .bind (keepPair_memOk h3) fun _ h4 => ?_
  split
  · trivial
  split
  · trivial
  split
  · trivial
  split
  · trivial
  split
  · trivial
  · exact .bind (mmaRow_memOk h4) fun _ => State.occupy_memOk

theorem execMma_memOk (h : s.memOk) : Keeps (execMma m x rows d src t s) :=
  issueM_memOk (fun _ => mmaBody_memOk) h

theorem execMmas_memOk {sc : MSrc} (h : s.memOk) : Keeps (execMmas m x rows d src sc s) :=
  issueM_memOk (fun _ => mmaBody_memOk) h

theorem State.postRow_memOk {ls : List (Nat × Land)} (h : u.memOk) : (u.postRow ls).memOk :=
  foldl_memOk (fun _ _ => State.post_memOk) h

theorem State.postRows_memOk {row : Nat → List (Nat × Land)} (h : u.memOk) : (u.postRows row n).memOk :=
  State.occupy_memOk (State.postRow_memOk h)

theorem execMzero_memOk {f l : Acc} {int : Bool} (h : s.memOk) : Keeps (execMzero m x f l int s) := by
  unfold execMzero
  refine issueM_memOk (fun _ h1 => ?_) h
  dsimp only
  split
  · trivial
  · exact State.post_memOk h1

theorem pushSq1_memOk {x : Block} (h : s.memOk) : Yields (·.memOk) (pushSq1 x s) :=
  .skip fun _ => State.post_memOk h

theorem epiOvf_memOk {p : Nat × Nat} (h : u.memOk) : (epiOvf clr u p).memOk := State.post_memOk h

theorem pushAll_memOk {out : List Block} (h : u.memOk) : Yields (·.memOk) (pushAll out u) := by
  unfold pushAll
  split
  · exact h
  · exact .bind (pushSq1_memOk h) fun _ => State.occupy_memOk

theorem execMepi_memOk {a : Acc} {ovf : Bool} (h : s.memOk) : Keeps (execMepi m x rows a ovf clr s) := by
  unfold execMepi
  refine issueM_memOk (fun _ h1 => ?_) h
  dsimp only
  split
  · trivial
  split
  · trivial
  split
  · trivial
  · exact .bind (pushAll_memOk (State.fmtEntry_memOk h1)) fun _ h2 => foldl_memOk (fun _ _ => epiOvf_memOk) h2

theorem movQ_memOk {d : Nat} {q : MQ} {acc : List Block} {run : Nat} (h : u.memOk) : Yields (·.2.memOk) (movQ d q acc run u) := by
  unfold movQ
  refine .skip fun _ => ?_
  dsimp only
  split
  · exact State.post_memOk h
  · exact h

theorem execMmov_memOk {form : MmovForm} (h : s.memOk) : Keeps (execMmov m x rows form s) := by
  unfold execMmov
  refine issueM_memOk (fun _ h1 => ?_) h
  dsimp only
  split
  · split
    · trivial
    · exact .skip fun _ => State.postRows_memOk h1
  · split
    · trivial
    refine .skip fun _ => ?_
    split
    · trivial
    · exact .bind (pushAll_memOk h1) fun _ h2 => h2
  · exact .skip fun _ => State.post_memOk h1
  · split
    · trivial
    · exact .skip fun _ => .bind (movQ_memOk h1) fun _ => State.occupy_memOk

theorem execMmova_memOk {form : MmovaForm} {field : BitVec 2} (h : s.memOk) : Keeps (execMmova m x form field s) := by
  unfold execMmova
  refine issueM_memOk (fun _ h1 => ?_) h
  split <;> exact .skip fun _ => State.post_memOk h1

theorem execMfmt_memOk {a : Fin 4} {t : BitVec 6} (h : s.memOk) : Keeps (execMfmt m x a t s) := by
  unfold execMfmt
  refine issueM_memOk (fun _ h1 => ?_) h
  dsimp only
  split <;> exact h1

theorem execMstat_memOk {d : Fin 4} (h : s.memOk) : Keeps (execMstat m d s) :=
  issueM_memOk (fun _ h1 => State.post_memOk h1) h

theorem occWork_memOk {o : Occ} (h : u.memOk) : Yields (·.memOk) (occWork o u) := by
  unfold occWork
  dsimp only
  split
  · exact State.modR_memOk h
  · exact State.modR_memOk h
  · exact .bind (mmaRow_memOk h) fun _ => State.modR_memOk
  · split
    · exact State.modR_memOk h
    · exact .bind (pushSq1_memOk h) fun _ => State.modR_memOk
  · exact State.modR_memOk h
  · exact State.modR_memOk (State.postRow_memOk h)
  · exact .bind (movQ_memOk h) fun _ => State.modR_memOk

end Mat

/-! ### Traps and the system group -/

section Sys
variable {m : Marks} {x : Bool} {s : State} {a d : Fin 32}

theorem execTrap_memOk {n : BitVec 12} (h : s.memOk) : Keeps (execTrap m x n s) := by
  unfold execTrap
  split
  · exact doubleTrap_memOk h
  split
  next e1 => exact takeTrap_memOk (memOk_of_ok e1 (issueRun_memOk (fun _ h1 => h1) h))
  · exact stopped_memOk h

theorem leaveShadow_memOk (h : s.memOk) : (leaveShadow s).memOk := h

theorem redoLost_memOk (h : s.memOk) : (redoLost s).memOk := by
  unfold redoLost
  refine foldl_memOk (fun _ _ h1 => ?_) h
  split
  · exact State.report_memOk h1
  · exact h1
  next e1 => exact (readAgain_memOk h1).of_eq e1

theorem abandonGang_memOk (h : s.memOk) : (abandonGang s).memOk := h

theorem execEret_memOk {abandon : Bool} (h : s.memOk) : Keeps (execEret m x abandon s) := by
  unfold execEret
  split
  · exact issue_memOk (fun _ _ => trivial) h
  split
  · exact doubleTrap_memOk h
  split
  · exact stopped_memOk h
  next e1 =>
    have h1 := memOk_of_ok e1 (issueRun_memOk (fun _ h1 => h1) h)
    split
    · exact abandonGang_memOk h1
    split
    · exact doubleTrap_memOk h1
    next e2 => exact redoLost_memOk (leaveShadow_memOk ((State.reload_memOk h1).of_eq e2))

theorem execTlbi_memOk {t : Option (BitVec 2)} (h : s.memOk) : Keeps (execTlbi m a t s) :=
  issue_memOk (fun _ h1 => .skip fun _ => h1) h

theorem execSnaprd_memOk (h : s.memOk) : Keeps (execSnaprd m x d a s) :=
  issue_memOk (fun _ h1 => .skip fun _ => State.putC_memOk h1) h

theorem execSnapwr_memOk (h : s.memOk) : Keeps (execSnapwr m x d a s) := by
  unfold execSnapwr
  refine issue_memOk (fun _ h1 => ?_) h
  refine .skip fun _ => ?_
  refine State.putC_memOk ?_
  split <;> exact h1

theorem execWpset_memOk {n : BitVec 2} (h : s.memOk) : Keeps (execWpset m x n a s) :=
  issue_memOk (fun _ h1 => h1) h

theorem execAcsw_memOk (h : s.memOk) : Keeps (execAcsw m x d a s) := by
  unfold execAcsw
  refine issue_memOk (fun _ h1 => ?_) h
  refine .skip fun _ => ?_
  dsimp only
  split <;> exact State.putC_memOk h1

theorem execKeysel_memOk (h : s.memOk) : Keeps (execKeysel m x d a s) := by
  unfold execKeysel
  refine issue_memOk (fun _ h1 => ?_) h
  refine .skip fun _ => ?_
  dsimp only
  split
  · exact h1
  refine State.modCore_memOk ?_
  split <;> exact h1

theorem freeHeld_memOk (h : s.memOk) : Keeps (freeHeld s) := by
  unfold freeHeld
  refine foldl_memOk (fun _ _ h1 => ?_) h
  split <;> exact h1

theorem execPreempt_memOk (h : s.memOk) : Keeps (execPreempt m x d a s) := by
  unfold execPreempt
  refine issue_memOk (fun _ h1 => ?_) h
  refine .skip fun _ => ?_
  refine .skip fun _ => ?_
  dsimp only
  split
  · exact h1
  split
  · exact h1
  split
  · exact .skip fun _ => h1
  split
  · exact State.putC_memOk h1
  · exact h1

theorem execHollow_memOk (h : s.memOk) : Keeps (execHollow m x d s) :=
  issue_memOk (fun _ h1 => .skip fun _ => .skip fun _ => h1) h

end Sys

/-! ### Launches -/

section Launch
variable {s : State} {k va n acct vf owner prio l page : Nat} {r : Reader} {bs : List Byte} {more : Bool} {p : Packed} {view : View}
   {tied : List Nat} {g : Gang} {gs : List Gang}

theorem State.setQueue_memOk {q : Queue} (h : s.memOk) : (s.setQueue k q).memOk := h

theorem pieceAs_memOk (h : s.memOk) : Ends (·.st.memOk) (·.2.memOk) (pieceAs r va n s) := by
  unfold pieceAs
  dsimp only
  split
  · exact h
  split
  · split
    · exact State.poison_memOk (xlate_memOk h)
    · exact xlate_memOk h
  · split
    · exact State.pay_memOk (xlate_memOk h)
    · exact xlate_memOk h
    · exact remoteBytes_memOk (xlate_memOk h)
  · split
    · exact State.poison_memOk (xlate_memOk h)
    · exact State.transfer_memOk (readPiece_memOk (State.fixSoft_memOk (xlate_memOk h)))

theorem readAs_memOk : ∀ {k va : Nat} {s : State}, s.memOk → Ends (·.st.memOk) (·.2.memOk) (readAs r n k va s)
  | 0, _, _, h => h
  | _ + 1, _, _, h => .bind (pieceAs_memOk h) fun _ h1 => .bind (readAs_memOk h1) fun _ h2 => h2

theorem State.dispWrite_memOk {pa : Nat} {loc : Loc} (h : s.memOk) : (s.dispWrite pa bs loc more).memOk := by
  unfold State.dispWrite
  extract_lets t
  have ht : t.memOk := writeAt_memOk h
  exact memOk_congr ht rfl rfl

theorem writeAs_memOk (h : s.memOk) : (writeAs acct vf va bs s more).memOk := by
  unfold writeAs
  dsimp only
  split
  · split
    · exact State.poison_memOk (xlate_memOk h)
    · exact State.transfer_memOk (State.markRange_memOk (State.dispWrite_memOk (State.spill_memOk (xlate_memOk h))))
  · exact State.sendWrite_memOk (xlate_memOk h)
  · split
    · exact State.poison_memOk (xlate_memOk h)
    · exact xlate_memOk h

theorem writeWordsAs_memOk : ∀ {va : Nat} {ws : List Word} {s : State}, s.memOk → (writeWordsAs acct vf va ws s).memOk
  | _, [], _, h => h
  | _, _ :: _, _, h => by
    unfold writeWordsAs
    exact writeWordsAs_memOk (writeAs_memOk h)

theorem readObjs_memOk (h : s.memOk) : (readObjs r p s).2.memOk := by
  unfold readObjs
  split
  next e1 => exact (readAs_memOk h).of_ok e1
  next e2 => exact (readAs_memOk h).of_error e2

theorem State.accept_memOk (h : s.memOk) : (s.accept vf p view).2.memOk := by
  unfold State.accept
  extract_lets l k
  split
  next t e1 =>
    extract_lets q t1
    have h1 : t1.memOk := State.setQueue_memOk (snd_of_eq e1 (readObjs_memOk h))
    exact memOk_congr h1 rfl rfl

theorem execLaunch_memOk {m : Marks} {d a : Fin 32} (h : s.memOk) : Keeps (execLaunch m d a s) := by
  unfold execLaunch
  refine issueKernel_memOk (fun _ h1 => ?_) h
  refine .skip fun _ => ?_
  refine .skip fun _ => ?_
  refine .skip fun _ => ?_
  split
  · exact State.awaitReg_memOk h1
  · exact State.awaitReg_memOk (State.accept_memOk h1)

theorem State.complete_memOk {e : Ending} (h : s.memOk) : (s.complete vf p owner e view).memOk := by
  unfold State.complete
  extract_lets w0 t u v
  have h1 : u.memOk := writeAs_memOk (writeWordsAs_memOk h)
  have h2 : v.memOk := ite_memOk h1 h1
  split
  · exact h2
  · exact memOk_congr h2 rfl rfl

theorem readImage_memOk {size : List Byte → Nat} (h : s.memOk) : Ends (·.st.memOk) (·.2.memOk) (readImage r size p s) :=
  .bind (readAs_memOk h) fun _ => readAs_memOk

theorem State.placeRun_memOk {run : Nat} (h : s.memOk) : Gives (·.memOk) (s.placeRun vf p owner prio run) := by
  unfold State.placeRun
  dsimp only
  split
  · trivial
  split
  · trivial
  · exact h

theorem State.placeAll_memOk (h : s.memOk) : Gives (·.memOk) (s.placeAll vf p owner prio) :=
  .bind (State.placeRun_memOk h) fun _ h1 => .ite (State.placeRun_memOk h1) h1

theorem State.promote_memOk (h : s.memOk) : (s.promote vf owner p).memOk := by
  unfold State.promote
  refine foldl_memOk (fun _ _ h1 => ?_) h
  split <;> exact h1

theorem State.cancelHead_memOk (h : s.memOk) : (s.cancelHead k p).memOk := State.complete_memOk h

theorem State.stopAll_memOk {ls : List Nat} (h : s.memOk) : (s.stopAll ls).memOk := by
  unfold State.stopAll
  split
  · exact foldl_memOk (fun _ _ h1 => h1) h
  · exact h

theorem chooseQueue_memOk (h : s.memOk) : Gives (·.2.memOk) (chooseQueue s tied) := by
  unfold chooseQueue
  extract_lets inRound s1 ks
  have h1 : s1.memOk := ite_memOk (foldl_memOk (fun _ _ h1 => h1) h) h
  split
  · trivial
  · exact h1

theorem State.keepCores_memOk (h : s.memOk) : (s.keepCores g).memOk := by
  unfold State.keepCores
  dsimp only
  split
  · exact State.stopAll_memOk h
  · exact h

theorem State.pickHead_memOk (h : s.memOk) : Gives (·.2.memOk) (s.pickHead tied) := by
  unfold State.pickHead
  split
  · exact h
  · exact chooseQueue_memOk h

theorem State.decideBelow_memOk : ∀ {n : Nat} {s : State}, s.memOk → (State.decideBelow n s).memOk
  | 0, _, h => h
  | e + 1, s, h => by
    have h1 : ((s.waitingGangs e).foldl (fun t g => t.keepCores g) s).memOk := foldl_memOk (fun _ _ => State.keepCores_memOk) h
    unfold State.decideBelow
    dsimp only
    split
    · exact h
    split
    · exact State.decideBelow_memOk h1
    next s2 e1 =>
      have h2 : s2.memOk := (State.pickHead_memOk h1).of_eq e1
      split
      · exact h1
      split
      next e2 =>
        have h3 := (State.placeAll_memOk (s := s2.setQueue _ _) h2).of_eq e2
        exact h3
      split
      · exact State.stopAll_memOk (s := { s2 with disp := _ }) h2
      · exact h2

theorem State.withCore_memOk {i : CoreId} (h : s.memOk) : (s.withCore i).memOk := by
  unfold State.withCore
  split <;> exact h

theorem loadAll_memOk (h : s.memOk) : Ends (·.2.st.memOk) (·.st.memOk) (loadAll g s) := by
  unfold loadAll
  extract_lets pg rd blame noText noPager
  have hb : ∀ {α : Type} {p : α → Prop} {i : Nat} {x : Except ReadErr α}, Ends (·.st.memOk) p x → Ends (·.2.st.memOk) p (blame i x) := by
    intro α p i x hx
    cases x <;> exact hx
  refine .bind (hb (readImage_memOk h)) fun r h1 => .bind_ite (p := (·.2.memOk)) h1 ?_ fun q h2 =>
      .bind_ite (p := (·.2.memOk)) h2 ?_ fun u h3 => ?_
  · exact .map (hb (readImage_memOk h1)) fun _ h2 => h2
  · exact .map (hb (readAs_memOk h2)) fun _ h2 => h2
  · exact .bind (hb (readAs_memOk h3)) fun _ h4 => h4

theorem State.modGangCores_memOk {f : Nat → Core → Core} (h : s.memOk) : (s.modGangCores g f).memOk :=
  h

theorem State.cleanStores_memOk {t : State} {pager : Bool} (h : t.memOk) : (s.cleanStores t pager g).memOk := by
  unfold State.cleanStores
  dsimp only
  split <;> exact h

theorem State.freshWindows_memOk (h : s.memOk) : (s.freshWindows g).memOk := h

theorem State.overrun_memOk (h : s.memOk) : (s.overrun g).memOk := h

theorem startCapture_memOk {args : List Byte} (h : s.memOk) : (startCapture g args s).1.memOk := by
  unfold startCapture
  split
  · exact h
  refine writeWordsAs_memOk ?_
  refine writeWordsAs_memOk ?_
  refine writeAs_memOk ?_
  split
  next e1 => exact (readAs_memOk h).of_ok e1
  next e2 => exact (readAs_memOk h).of_error e2

theorem State.runsHere_memOk (h : s.memOk) : (s.runsHere vf).memOk := h

theorem issueRunOf_memOk {x : Loaded} (h : s.memOk) : (issueRunOf g x s).memOk := by
  unfold issueRunOf
  split
  next s1 capt e1 =>
    extract_lets level dom d src s2 s3 s4
    have h1 : s2.memOk := memOk_congr (State.runsHere_memOk (vf := g.vf) (fst_of_eq e1 (startCapture_memOk h))) rfl rfl
    have h2 : s4.memOk := State.modGang_memOk (State.modGangCores_memOk (State.overrun_memOk (State.freshWindows_memOk h1)))
    exact State.cleanStores_memOk (memOk_congr h2 rfl rfl)

theorem loadRuns_memOk : ∀ {gs : List Gang} {s : State}, s.memOk → Ends (·.2.st.memOk) (·.2.memOk) (loadRuns gs s)
  | [], _, h => h
  | _ :: _, _, h => .bind (loadAll_memOk h) fun _ h1 => .bind (loadRuns_memOk h1) fun _ h2 => h2

theorem failLoad_memOk {runs i code : Nat} (h : s.memOk) : (failLoad g runs i code s).memOk := by
  unfold failLoad
  split
  · exact h
  · exact State.complete_memOk h

theorem execGangIssue_memOk (h : s.memOk) : Keeps (execGangIssue l s) := by
  unfold execGangIssue
  extract_lets gs u
  have hu : u.memOk := foldl_memOk (fun _ _ => State.withCore_memOk) h
  clear_value gs u
  cases gs with
  | nil => exact h
  | cons g gs' =>
    refine ite_memOk h ?_
    dsimp only
    split
    next e1 => exact failLoad_memOk ((loadRuns_memOk hu).of_error e1)
    next t e1 =>
      have ht : t.memOk := (loadRuns_memOk hu).of_ok e1
      have h1 := fun xs => foldl_memOk (xs := xs) (g := fun u (x : Gang × Loaded) => issueRunOf x.1 x.2 u) (fun _ _ => issueRunOf_memOk) ht
      exact ite_memOk (h1 _) (h1 _)

theorem State.spreadFault_memOk (h : s.memOk) : (s.spreadFault g).memOk := by
  unfold State.spreadFault
  split <;> exact h

theorem State.endRun_memOk (h : s.memOk) : (s.endRun g).memOk := by
  unfold State.endRun
  extract_lets s1 own on unlease s2 s3 s4 quit s5
  have h1 : s2.memOk := foldl_memOk (fun t _ ht => ite_memOk (State.endFetch_memOk ht) ht) h
  have h2 : s5.memOk := foldl_memOk (fun _ _ ht => ite_memOk (State.putFlag_memOk ht) ht) h1
  exact h2

theorem State.answerAsked_memOk {n : ℤ} (h : s.memOk) : (s.answerAsked l n).memOk := h

theorem State.finishRun_memOk (h : s.memOk) : (s.finishRun g).memOk := by
  unfold State.finishRun
  dsimp only
  split
  · exact State.modGang_memOk (State.endRun_memOk h)
  · exact State.answerAsked_memOk (memOk_congr (State.complete_memOk (State.modGang_memOk (State.endRun_memOk h))) rfl rfl)

theorem execGangCompletion_memOk (h : s.memOk) : Keeps (execGangCompletion l s) := by
  unfold execGangCompletion
  refine foldl_memOk (fun _ _ h1 => ?_) (foldl_memOk (fun _ _ => State.spreadFault_memOk) h)
  split
  · exact State.finishRun_memOk h1
  · exact h1

theorem performLog_memOk (h : s.memOk) : (performLog g s).memOk :=
  foldl_memOk (fun _ _ => writeAs_memOk) h

theorem State.noteDisagree_memOk (h : s.memOk) : s.noteDisagree.memOk := h

theorem State.finishDual_memOk {best : Gang} {status : Nat} {mis : Bool} {log : View} (h : s.memOk) :
    (s.finishDual gs best status mis log).memOk :=
  State.complete_memOk h

theorem State.takeLog_memOk {a b : Gang} (h : s.memOk) : (s.takeLog gs a b).memOk := by
  unfold State.takeLog
  split
  · exact State.finishDual_memOk (performLog_memOk h)
  · exact h

theorem execDualRunCompare_memOk (h : s.memOk) : Keeps (execDualRunCompare l s) := by
  unfold execDualRunCompare
  dsimp only
  split
  next e1 _ _ =>
    split
    · exact h
    split
    · exact h
    split
    · exact State.finishDual_memOk h
    split
    next e2 => exact State.noteDisagree_memOk ((State.placeRun_memOk h).of_eq e2)
    · exact h
  · split
    · exact h
    split
    · exact State.takeLog_memOk h
    split
    · exact State.finishDual_memOk (State.noteDisagree_memOk h)
    · exact State.finishDual_memOk (State.noteDisagree_memOk (State.noteDisagree_memOk h))
  · exact h

theorem State.copyCycle_memOk (h : s.memOk) : (s.copyCycle acct).memOk := h

theorem preimageOf_memOk (h : s.memOk) : Ends (·.memOk) (·.2.memOk) (preimageOf vf acct page s) := by
  unfold preimageOf
  dsimp only
  split
  · split
    · exact State.poison_memOk (walkVa_memOk h)
    · exact walkVa_memOk h
  · split
    · split
      · exact State.poison_memOk (walkVa_memOk h)
      · exact State.transfer_memOk (State.fixSoft_memOk (walkVa_memOk h))
    · exact walkVa_memOk h

theorem execCapturePreimage_memOk (h : s.memOk) : Keeps (execCapturePreimage l page s) := by
  unfold execCapturePreimage
  split
  · exact h
  split
  · exact h
  dsimp only
  split
  · exact h
  split
  · exact writeAs_memOk (State.modGang_memOk h)
  split
  next e1 => exact writeAs_memOk (State.modGang_memOk ((preimageOf_memOk h).of_error e1))
  next e2 => exact writeAs_memOk (State.modGang_memOk (writeAs_memOk (writeAs_memOk
        (State.copyCycle_memOk ((preimageOf_memOk h).of_ok e2)))))

theorem State.cancelGang_memOk (h : s.memOk) : (s.cancelGang g).memOk :=
  State.finishDual_memOk (foldl_memOk (fun _ _ => State.endRun_memOk) h)

theorem State.decide_memOk (h : s.memOk) : s.decide.memOk := by
  unfold State.decide
  dsimp only
  split
  · exact State.cancelHead_memOk h
  split
  · exact State.cancelGang_memOk h
  · exact State.decideBelow_memOk (foldl_memOk (fun _ _ => State.promote_memOk) (foldl_memOk (fun _ _ => State.promote_memOk) h))

theorem execDispatchDecision_memOk (h : s.memOk) : Keeps (execDispatchDecision s) := by
  unfold execDispatchDecision
  split
  · exact State.decide_memOk h
  · exact h

end Launch

/-! ### Stops and resumptions of gangs -/

section Freeze
variable {t s : State} {c : CoreId} {vf ia l k : Nat} {bs : List Byte} {g : Gang} {r : Run}

theorem freezeCore_memOk (h : t.memOk) : (freezeCore t c).memOk := by
  unfold freezeCore
  refine State.onCore_memOk (fun _ h1 => ?_) h
  split
  · exact h1
  · exact State.freezeLease_memOk h1

theorem State.putArea_memOk (h : s.memOk) : (s.putArea vf ia bs).memOk :=
  State.transfer_memOk (State.markRange_memOk (State.dispWrite_memOk (State.spill_memOk h)))

theorem saveCore_memOk {acc : State × Nat} {c : Core} (h : acc.1.memOk) : (saveCore vf acc c).1.memOk := by
  unfold saveCore
  dsimp only
  split <;> exact State.putArea_memOk h

theorem saveRun_memOk (h : s.memOk) : (saveRun s g).memOk := by
  have hc : ((s.gangCores g).foldl (saveCore g.vf) (s, g.area.getD 0)).1.memOk :=
    foldl_inv (p := fun b : State × Nat => b.1.memOk = true) (fun _ _ => saveCore_memOk) h
  exact foldl_inv (p := fun b : State × Nat => b.1.memOk = true) (fun _ _ => State.putArea_memOk) hc

theorem freezeSome_memOk (h : s.memOk) : (freezeSome s g).memOk :=
  foldl_memOk (fun _ _ => freezeCore_memOk) h

theorem beginStop_memOk {runs : List Gang} (h : s.memOk) : (beginStop s runs).memOk := by
  unfold beginStop
  refine foldl_memOk (fun _ _ h1 => ?_) h
  split
  · exact h1
  · exact freezeSome_memOk h1

theorem letGo_memOk (h : s.memOk) : (letGo s c).memOk := by
  unfold letGo
  refine State.onCore_memOk (fun _ h1 => ?_) h
  refine State.modCore_memOk ?_
  split <;> exact h1

theorem endStop_memOk (h : s.memOk) : (endStop s g).memOk := by
  unfold endStop
  extract_lets mine t cs u
  have hu : u.memOk := State.modGang_memOk (saveRun_memOk (foldl_memOk (fun _ _ => letGo_memOk) h))
  exact memOk_congr hu rfl rfl

theorem execPreemptionStop_memOk (h : s.memOk) : Keeps (execPreemptionStop l s) := by
  unfold execPreemptionStop
  dsimp only
  split
  · exact h
  split
  · split
    · exact beginStop_memOk h
    · exact h
  · split
    · exact foldl_memOk (fun _ _ => freezeSome_memOk) h
    split
    · exact h
    · exact foldl_memOk (fun _ _ => endStop_memOk) h

theorem State.areaBytes_memOk {n : Nat} (h : s.memOk) : (s.areaBytes vf ia n).2.memOk :=
  State.transfer_memOk (State.fixSoft_memOk h)

theorem State.putScratch_memOk {v off : Nat} (h : s.memOk) : (s.putScratch v off bs).memOk := by
  unfold State.putScratch
  split
  · exact h
  · exact State.writeAll_memOk h

theorem resumeCore_memOk {acc : Except (Nat × Nat) (State × Nat)} {x : Core × Nat} (h : Yields (·.1.memOk) acc) :
    Yields (·.1.memOk) (resumeCore g acc x) := by
  refine .bind h fun r h1 => ?_
  dsimp only
  split
  · exact State.onCore_memOk (fun _ => State.modCore_memOk) h1
  split
  · split
    · trivial
    · exact State.putScratch_memOk (State.onCore_memOk (fun _ => State.modCore_memOk) (State.withCore_memOk (State.areaBytes_memOk h1)))
  · exact State.onCore_memOk (fun _ => State.modCore_memOk) (State.withCore_memOk (State.areaBytes_memOk h1))

theorem restoreWindows_memOk {vales : List Nat} {a : Nat} (h : s.memOk) : (restoreWindows g vales a s).memOk :=
  foldl_memOk (fun _ _ h1 => State.putScratch_memOk (State.areaBytes_memOk h1)) h

theorem restorePatches_memOk (h : t.memOk) : (restorePatches g s t).memOk :=
  foldl_memOk (fun _ _ => State.putScratch_memOk) h

theorem reloadCore_memOk (h : t.memOk) : (reloadCore t c).memOk := by
  unfold reloadCore
  refine State.onCore_memOk (fun _ h1 => ?_) h
  split
  next e1 => exact (State.reload_memOk h1).of_eq e1
  · exact h1

theorem resumeRun_memOk (h : s.memOk) : (resumeRun s g).memOk := by
  have hr : Yields (·.1.memOk) (g.saved.zipIdx.foldl (resumeCore g) (.ok (s, g.area.getD 0))) :=
    foldl_inv (p := Yields fun b : State × Nat => b.1.memOk = true) (fun _ _ => resumeCore_memOk) h
  unfold resumeRun
  dsimp only
  split
  · exact State.poison_memOk h
  · exact h
  next t _ _ e1 =>
   have h1 : t.memOk := hr.of_eq e1
   exact foldl_memOk (s := { restorePatches g s (restoreWindows g _ _ t) with reads := _, openws := _ }) (fun _ _ =>
       reloadCore_memOk) (restorePatches_memOk (s := s) (restoreWindows_memOk h1))

theorem execGangResume_memOk (h : s.memOk) : Keeps (execGangResume l s) := by
  unfold execGangResume
  dsimp only
  split
  · exact h
  · exact foldl_memOk (fun _ _ => resumeRun_memOk) (foldl_memOk (fun _ _ h1 => h1) h)

theorem execCopyxSave_memOk (h : s.memOk) : Keeps (execCopyxSave k s) := by
  unfold execCopyxSave
  refine runCmd_memOk (fun _ _ h1 => ?_) h
  split
  · exact h1
  split
  · exact h1
  split
  · exact h1
  split
  · exact h1
  refine Run.settle_memOk h1 ?_
  refine foldl_run_memOk (fun _ _ h2 => Run.elem_memOk (fun _ => Run.write_memOk) h2) ?_
  split <;> exact h1

theorem Cmd.restore_memOk {c : Cmd} {ws : List Word} (h : r.st.memOk) : (c.restore g ws bs r).st.memOk := by
  unfold Cmd.restore
  refine foldl_run_memOk (fun _ _ => writePiece_memOk) ?_
  refine State.mapCores_memOk ?_
  split <;> exact h

theorem Run.readImage_memOk {c : Cmd} (h : r.st.memOk) : (Run.readImage c r).st.memOk :=
  Run.readList_memOk h

theorem execCopyxRestore_memOk (h : s.memOk) : Keeps (execCopyxRestore k s) := by
  unfold execCopyxRestore
  refine runCmd_memOk (fun _ _ h1 => ?_) h
  split
  · exact h1
  split
  · exact h1
  dsimp only
  split
  · exact Run.settle_memOk h1 (Run.readImage_memOk h1)
  split
  · exact Run.readImage_memOk h1
  split
  · exact Run.readImage_memOk h1
  · exact Run.settle_memOk h1 (Cmd.restore_memOk (Run.readImage_memOk h1))

end Freeze

/-! ### The platform: mailbox, staging, bring-up, the host window -/

section Platform
variable {s : State} {i : RingId} {k vf va v o port : Nat} {w a : Word} {hh : Fin 2}

theorem State.modRing_memOk {f : Ring → Ring} (h : s.memOk) : (s.modRing i f).memOk := by
  unfold State.modRing
  split
  · exact h
  · exact State.modPlat_memOk h fun _ => ⟨rfl, rfl⟩
  · exact State.modPlat_memOk h fun _ => ⟨rfl, rfl⟩

theorem State.deliverOne_memOk {a : Alert} (h : s.memOk) : (s.deliverOne a).memOk := by
  unfold State.deliverOne
  dsimp only
  split
  · exact State.modRing_memOk h
  · exact State.modRing_memOk (writeAs_memOk h)

theorem State.deliver_memOk (h : s.memOk) : s.deliver.memOk := by
  unfold State.deliver
  refine foldl_memOk (fun _ _ h1 => ?_) h
  split
  · exact h1
  · exact State.deliverOne_memOk h1

theorem State.writeRing_memOk (h : s.memOk) : (s.writeRing i k w).memOk := by
  unfold State.writeRing
  split
  · exact State.modRing_memOk (State.deliver_memOk h)
  · exact State.modRing_memOk h
  · exact h

theorem State.setNamespace_memOk {x : Config.Namespace} (h : s.memOk) : (s.setNamespace vf x).memOk :=
  h

theorem State.exportNow_memOk (h : s.memOk) : (s.exportNow vf a).memOk :=
  foldl_memOk (fun _ _ => writeAs_memOk) h

theorem execNamespaceExport_memOk (h : s.memOk) : Keeps (execNamespaceExport vf a s) := by
  unfold execNamespaceExport
  dsimp only
  split
  · exact h
  split
  · exact State.exportNow_memOk h
  · split <;> exact h

theorem bytesAs_memOk {n : Nat} (h : s.memOk) : Gives (·.2.memOk) (bytesAs vf va n s) := by
  unfold bytesAs
  split
  next t e1 =>
    have h1 : t.memOk := (readAs_memOk h).of_ok e1
    exact h1
  · trivial

theorem State.imageAt_memOk (h : s.memOk) : (s.imageAt vf va).2.memOk := by
  unfold State.imageAt
  split
  · exact h
  split
  · exact h
  next e1 =>
    split
    · exact (bytesAs_memOk h).of_eq e1
    next e2 => exact (bytesAs_memOk ((bytesAs_memOk h).of_eq e1)).of_eq e2

theorem State.importNow_memOk (h : s.memOk) : (s.importNow vf a).memOk := by
  unfold State.importNow
  split
  next e1 => exact State.modVf_memOk (State.setNamespace_memOk (snd_of_eq e1 (State.imageAt_memOk h)))
  next e2 => exact State.modVf_memOk (snd_of_eq e2 (State.imageAt_memOk h))

theorem execNamespaceImport_memOk (h : s.memOk) : Keeps (execNamespaceImport vf a s) := by
  unfold execNamespaceImport
  dsimp only
  split
  · exact State.importNow_memOk h
  · split <;> exact h

theorem State.writeVale_memOk (h : s.memOk) : (s.writeVale v w).memOk := h

theorem execValevfWrite_memOk (h : s.memOk) : Keeps (execValevfWrite v w s) := by
  unfold execValevfWrite
  split <;> exact h

theorem State.writeVf_memOk (h : s.memOk) : (s.writeVf vf o w).memOk := by
  unfold State.writeVf
  dsimp only
  refine ite_memOk h <| ite_memOk h <| ite_memOk h <| ite_memOk h <| ite_memOk ?_ <| ite_memOk ?_ <| ite_memOk h <| ite_memOk h ?_
  · split
    next e1 => exact (execNamespaceExport_memOk h).of_eq e1
    · exact h
  · split
    next e1 => exact (execNamespaceImport_memOk h).of_eq e1
    · exact h
  · exact State.writeRing_memOk h

theorem State.dropPort_memOk (h : s.memOk) : (s.dropPort port).memOk := h

theorem lostRead_memOk {r : Read} (h : s.memOk) : (lostRead s r).memOk := by
  unfold lostRead
  refine State.onCore_memOk (fun _ h1 => ?_) h
  dsimp only
  split
  · exact raise_memOk h1
  · exact raise_memOk h1
  · exact h1

theorem State.dropWrites_memOk (h : s.memOk) : (s.dropWrites port).memOk :=
  State.clearWids_memOk (foldl_memOk (fun _ _ h1 => h1) h)

theorem State.modLink_memOk {f : Link → Link} (h : s.memOk) : (s.modLink port f).memOk :=
  State.modPlat_memOk h fun _ => ⟨rfl, rfl⟩

theorem State.epochChange_memOk (h : s.memOk) : (s.epochChange port).memOk :=
  foldl_memOk (fun _ _ => lostRead_memOk) (State.dropWrites_memOk (State.dropPort_memOk (State.modLink_memOk h)))

theorem execLinkEpochChange_memOk (h : s.memOk) : Keeps (execLinkEpochChange port s) := by
  unfold execLinkEpochChange
  split
  · exact State.epochChange_memOk h
  · exact h

theorem State.writeLink_memOk (h : s.memOk) : (s.writeLink port w).memOk := by
  unfold State.writeLink
  dsimp only
  split
  · split
    · exact State.epochChange_memOk (State.modLink_memOk h)
    · exact State.modLink_memOk (State.modLink_memOk h)
  · split
    · exact State.modLink_memOk (State.modLink_memOk h)
    · exact State.modLink_memOk h

theorem State.writePkg_memOk (h : s.memOk) : (s.writePkg o w).memOk := by
  unfold State.writePkg
  split
  · exact State.modBooks_memOk h
  split
  · exact State.modPlat_memOk h fun _ => ⟨rfl, rfl⟩
  split
  · exact State.modPlat_memOk h fun _ => ⟨rfl, rfl⟩
  split
  · exact State.modPlat_memOk h fun _ => ⟨rfl, rfl⟩
  split
  · exact State.writeRing_memOk h
  split
  · exact State.writeRing_memOk h
  split
  · exact State.writeVale_memOk h
  · exact State.writeLink_memOk h

theorem State.mbxDone_memOk {res : Nat} (h : s.memOk) : (s.mbxDone res).memOk :=
  State.modPlat_memOk h fun _ => ⟨rfl, rfl⟩

/-- SPDM_REQUEST writes its answer into an empty buffer (20 R532). -/
theorem execSpdmRequest_memOk (h : s.memOk) : Keeps (execSpdmRequest s) := by
  unfold execSpdmRequest
  split
  · exact h
  split
  · exact State.mbxDone_memOk h
  split
  · exact State.mbxDone_memOk (State.tick_memOk h)
  · refine State.mbxDone_memOk ?_
    rw [memOk_iff] at h ⊢
    obtain ⟨hmem, hst, hbuf⟩ := h
    exact ⟨hmem, hst, Memory.writeN_wf _ _ rfl⟩

/-- IMAGE_CHUNK writes the staging image (20 R529). -/
theorem execImageChunk_memOk (h : s.memOk) : Keeps (execImageChunk s) := by
  unfold execImageChunk
  split
  · exact h
  split
  · exact State.mbxDone_memOk h
  · refine State.mbxDone_memOk ?_
    rw [memOk_iff] at h ⊢
    obtain ⟨hmem, hst, hbuf⟩ := h
    exact ⟨hmem, Memory.writeN_wf _ _ hst, hbuf⟩

theorem execImageCommit_memOk (h : s.memOk) : Keeps (execImageCommit s) := by
  unfold execImageCommit
  split
  · exact h
  dsimp only
  split
  · exact State.mbxDone_memOk (State.modPlat_memOk h fun _ => ⟨rfl, rfl⟩)
  · exact State.mbxDone_memOk h

/-- A reset leaves storage, the staging image and the mailbox without a listed cell (20 R529). -/
theorem State.restartAll_memOk {on : Bool} : (s.restartAll on).memOk := rfl

theorem State.applyMap_memOk (h : s.memOk) : s.applyMap.memOk :=
  State.modPlat_memOk (foldl_memOk (fun _ _ h1 => foldl_memOk (fun _ _ h2 => h2) h1) h) fun _ => ⟨rfl, rfl⟩

theorem State.bootStep_memOk (h : s.memOk) : s.bootStep.memOk := by
  unfold State.bootStep
  dsimp only
  split
  · exact State.modPlat_memOk h fun _ => ⟨rfl, rfl⟩
  · (repeat' split) <;> exact State.modPlat_memOk h fun _ => ⟨rfl, rfl⟩
  · exact State.modPlat_memOk (State.applyMap_memOk h) fun _ => ⟨rfl, rfl⟩
  · split <;> exact State.modPlat_memOk h fun _ => ⟨rfl, rfl⟩
  · exact State.modPlat_memOk h fun _ => ⟨rfl, rfl⟩
  · exact State.modPlat_memOk h fun _ => ⟨rfl, rfl⟩
  · exact State.modPlat_memOk h fun _ => ⟨rfl, rfl⟩
  · exact State.modPlat_memOk h fun _ => ⟨rfl, rfl⟩

theorem execPowerGood_memOk (h : s.memOk) : Keeps (execPowerGood s) := by
  unfold execPowerGood
  split
  · exact State.restartAll_memOk
  split
  · exact h
  · exact State.bootStep_memOk h

theorem execBringupWatchdog_memOk (h : s.memOk) : Keeps (execBringupWatchdog s) := by
  unfold execBringupWatchdog
  split
  · exact State.modPlat_memOk h fun _ => ⟨rfl, rfl⟩
  · exact h

theorem execMailboxReset_memOk (h : s.memOk) : Keeps (execMailboxReset s) := by
  unfold execMailboxReset
  split
  · exact State.restartAll_memOk
  · exact h

theorem execPowerLoss_memOk : Keeps (execPowerLoss s) := State.restartAll_memOk

theorem State.addRefu_memOk (h : s.memOk) : (s.addRefu k).memOk := h

/-- A write of the host into the mailbox (20 R513). -/
theorem Mailbox.write_wf {m : Mailbox} (h : Memory.wf m.buf = true) : Memory.wf (m.write o w).buf = true := by
  unfold Mailbox.write Mailbox.writeCtl
  split
  · exact h
  split
  · exact h
  split
  · exact h
  split
  · exact Memory.writeN_wf _ _ h
  · exact h

theorem execHostConfigWrite_memOk {lvl off : Nat} (h : s.memOk) : Keeps (execHostConfigWrite lvl off w s) := by
  have hm : (s.modPlat fun p => { p with mbx := p.mbx.write (off - mbxBase) w }).memOk := by
    rw [memOk_iff] at h ⊢
    obtain ⟨hmem, hst, hbuf⟩ := h
    exact ⟨hmem, hst, Mailbox.write_wf hbuf⟩
  exact ite_memOk h (ite_memOk (ite_memOk (State.addRefu_memOk h) h) (ite_memOk h (ite_memOk (ite_memOk hm h) (ite_memOk h
    (ite_memOk (ite_memOk (State.writeVf_memOk h) h) (ite_memOk (ite_memOk (State.writePkg_memOk h) h) h))))))

theorem State.refusePush_memOk {p : Packed} (h : s.memOk) : (s.refusePush vf k p).memOk := by
  unfold State.refusePush
  split
  · exact State.complete_memOk h
  · exact h

theorem State.hostWrite_memOk {x : Nat × List Byte} (h : s.memOk) : (State.hostWrite hh s x).memOk := by
  unfold State.hostWrite
  extract_lets t
  have ht : t.memOk := writePiece_memOk h
  exact memOk_congr ht rfl rfl

theorem State.hostDo_memOk {w : HostWork} (h : s.memOk) : (s.hostDo hh w).memOk :=
  foldl_memOk (fun _ _ h1 => foldl_memOk (fun _ _ => State.hostWrite_memOk) h1) h

theorem execHostPush_memOk {x : HostParty} {q : Nat} {ws : List Word} (h : s.memOk) : Keeps (execHostPush x vf q ws s) := by
  unfold execHostPush
  dsimp only
  split
  · exact State.hostDo_memOk h
  split
  · split <;> exact State.hostDo_memOk h
  split
  · exact State.hostDo_memOk h
  split
  · exact State.hostDo_memOk h
  split
  · exact State.hostDo_memOk h
  split
  · exact State.refusePush_memOk (State.hostDo_memOk h)
  · exact State.accept_memOk (State.hostDo_memOk h)

end Platform

/-! ### Links -/

section Links
variable {s : State} {port : Nat} {r : RemoteReq}

theorem State.owe_memOk {cls : Nat} (h : s.memOk) : (s.owe port cls).memOk := State.modLink_memOk h

theorem State.ackWrite_memOk (h : s.memOk) : (s.ackWrite port).memOk := by
  unfold State.ackWrite
  split
  · exact h
  · exact State.clearWids_memOk (State.ownWrite_memOk h)

theorem State.linkWork_memOk (h : s.memOk) : (s.linkWork port).memOk := h

theorem State.retryAt_memOk (h : s.memOk) : (s.retryAt port).memOk :=
  State.linkWork_memOk (State.modLink_memOk h)

theorem execFlitReceive_memOk {f : Flit} (h : s.memOk) : Keeps (execFlitReceive f s) := by
  unfold execFlitReceive
  refine ite_memOk h (ite_memOk (State.sendFlit_memOk (State.retryAt_memOk h)) ?_)
  extract_lets t u v w x
  have hu : u.memOk := ite_memOk (State.ackWrite_memOk (State.modLink_memOk h)) (State.modLink_memOk h)
  have hv : v.memOk := by
    dsimp only [v]
    split
    · exact ite_memOk (State.retryAt_memOk (State.modLink_memOk hu)) hu
    · exact hu
  have hw : w.memOk := by
    dsimp only [w]
    split
    · exact ite_memOk (State.podDone_memOk hv) hv
    · exact hv
  have hx : x.memOk := ite_memOk (State.linkWork_memOk hw) hw
  exact ite_memOk hx (State.owe_memOk hx)

theorem State.replyRemote_memOk {bs : List Byte} {code : Nat} {leaf : Word} (h : s.memOk) : (s.replyRemote port bs code leaf).memOk := by
  unfold State.replyRemote
  dsimp only
  split <;> exact h

theorem remoteTarget_memOk (h : s.memOk) : (remoteTarget r s).2.memOk := by
  unfold remoteTarget
  dsimp only
  split
  next e1 => exact third_of_eq e1 (walkVa_memOk h)
  next e2 => exact third_of_eq e2 (walkVa_memOk h)

theorem execRemoteAccess_memOk (h : s.memOk) : Keeps (execRemoteAccess r s) := by
  unfold execRemoteAccess
  dsimp only
  split
  · exact h
  split
  · exact State.owe_memOk h
  split
  · refine State.owe_memOk ?_
    split
    · exact h
    · exact State.replyRemote_memOk h
  · split
    · trivial
    next e1 => exact State.owe_memOk (State.replyRemote_memOk (snd_of_eq e1 (remoteTarget_memOk h)))
    next e2 => exact State.owe_memOk (State.replyRemote_memOk (State.poison_memOk (snd_of_eq e2 (remoteTarget_memOk h))))
    next e3 =>
      refine State.owe_memOk ?_
      split
      · exact State.replyRemote_memOk (State.markDirty_memOk (writePiece_memOk (State.spill_memOk (snd_of_eq e3 (remoteTarget_memOk h)))))
      · exact State.replyRemote_memOk (readPiece_memOk (State.fixSoft_memOk (snd_of_eq e3 (remoteTarget_memOk h))))

theorem execLinkTrainingComplete_memOk {farEpoch nbr : Nat} (h : s.memOk) : Keeps (execLinkTrainingComplete port farEpoch nbr s) := by
  unfold execLinkTrainingComplete
  split
  · exact State.modLink_memOk h
  · exact h

theorem State.repairEvent_memOk {kind unit spare : Nat} (h : s.memOk) : (s.repairEvent kind unit spare).memOk :=
  h

theorem execLaneRepair_memOk {lane : Nat} (h : s.memOk) : Keeps (execLaneRepair port lane s) := by
  unfold execLaneRepair
  split
  · exact h
  split
  · exact State.repairEvent_memOk h
  · exact State.repairEvent_memOk (State.linkWork_memOk (State.modLink_memOk h))

theorem State.timing_memOk {a : PtpMsg} (h : s.memOk) : (s.timing port a).memOk := by
  unfold State.timing
  split
  · split
    · exact State.linkWork_memOk (State.linkWork_memOk (State.sendFlit_memOk (State.sendFlit_memOk h)))
    · exact h
  · split
    · exact State.modPlat_memOk h fun _ => ⟨rfl, rfl⟩
    · exact h
  · split
    · exact State.sendFlit_memOk (State.modPlat_memOk h fun _ => ⟨rfl, rfl⟩)
    · exact h
  · exact State.sendFlit_memOk h
  · split
    · exact State.modPlat_memOk (State.tick_memOk h) fun _ => ⟨rfl, rfl⟩
    · exact h

theorem execPtpMessage_memOk {msg : PtpMsg} (h : s.memOk) : Keeps (execPtpMessage port msg s) := by
  unfold execPtpMessage
  split
  · exact h
  dsimp only
  split
  · exact State.timing_memOk h
  · exact State.owe_memOk (State.timing_memOk h)

theorem execUcieModuleFail_memOk {i : Fin 2} (h : s.memOk) : Keeps (execUcieModuleFail i s) :=
  State.modPlat_memOk h fun _ => ⟨rfl, rfl⟩

theorem execCxlPortFail_memOk {i : Fin 8} (h : s.memOk) : Keeps (execCxlPortFail i s) := by
  unfold execCxlPortFail
  split
  · exact State.repairEvent_memOk (State.modPlat_memOk h fun _ => ⟨rfl, rfl⟩)
  · exact h

end Links

/-! ### Replays, spares and service -/

section Service
variable {s : State} {v strath cls i : Nat} {u : ReplayUnit} {k : SpareKind}

theorem State.beginReplay_memOk (h : s.memOk) : Gives (·.memOk) (s.beginReplay v u) := by
  cases u with
  | engine n e =>
    refine .skip fun k => .ite trivial ?_
    exact State.onCore_memOk (fun _ => State.modEng_memOk) h
  | array =>
    refine .skip fun k => .ite trivial ?_
    exact State.onCore_memOk (fun _ => State.arrayRerun_memOk) h
  | async i => exact .ite trivial h

theorem execTimingErrorReplay_memOk (h : s.memOk) : Keeps (execTimingErrorReplay v u s) := by
  unfold execTimingErrorReplay
  split
  · exact h
  next e1 => exact State.modPlat_memOk ((State.beginReplay_memOk h).of_eq e1) fun _ => ⟨rfl, rfl⟩

theorem execVoltageTrim_memOk {mv : Nat} (h : s.memOk) : Keeps (execVoltageTrim strath mv s) := by
  unfold execVoltageTrim
  split
  · exact h
  · exact State.modPlat_memOk h fun _ => ⟨rfl, rfl⟩

theorem execStrathRepairNeeded_memOk (h : s.memOk) : Keeps (execStrathRepairNeeded strath s) := by
  unfold execStrathRepairNeeded
  split
  · exact State.repairEvent_memOk (State.modPlat_memOk h fun _ => ⟨rfl, rfl⟩)
  · exact h

theorem execClkdivWrite_memOk {w : Word} (h : s.memOk) : Keeps (execClkdivWrite w s) := h

theorem execClkdivChange_memOk (h : s.memOk) : Keeps (execClkdivChange s) := by
  unfold execClkdivChange
  split
  · exact State.modPlat_memOk h fun _ => ⟨rfl, rfl⟩
  · exact h

theorem execHcctlClear_memOk (h : s.memOk) : Keeps (execHcctlClear s) := h

theorem execHbmRefresh_memOk {g : Nat} (h : s.memOk) : Keeps (execHbmRefresh g s) := by
  unfold execHbmRefresh
  split <;> exact h

theorem execScrub_memOk {tier a : Nat} (h : s.memOk) : Keeps (execScrub tier a s) := by
  unfold execScrub
  dsimp only
  split
  · exact h
  split
  · split
    · exact State.poison_memOk (State.transfer_memOk h)
    split
    · exact State.corrected_memOk (State.transfer_memOk h)
    · exact State.transfer_memOk h
  · split
    · exact State.poison_memOk h
    split
    · exact State.corrected_memOk h
    · exact h

theorem State.modSpare_memOk {f : Spare → Spare} (h : s.memOk) : (s.modSpare v f).memOk :=
  State.modPlat_memOk h fun _ => ⟨rfl, rfl⟩

theorem State.revive_memOk (h : s.memOk) : (s.revive cls i).memOk := by
  unfold State.revive
  dsimp only
  split
  · exact State.modPlat_memOk (foldl_memOk (fun _ _ h1 => h1) (foldl_memOk (fun _ _ h2 => h2) h)) fun _ => ⟨rfl, rfl⟩
  · exact foldl_memOk (fun _ _ h3 => h3) h

/-- A bank that comes into service is written line by line (22 R565). -/
theorem newBank_memOk {b : Nat} (h : s.memOk) : (newBank v b s).memOk := by
  refine foldl_memOk (fun t _ ht => ?_) h
  have hr := remoteBytes_memOk (n := 64) ht
  dsimp only
  generalize remoteBytes t 64 = r at hr ⊢
  rw [memOk_iff] at hr ⊢
  obtain ⟨hmem, hst, hbuf⟩ := hr
  exact ⟨Memory.writeN_wf _ _ hmem, hst, hbuf⟩

theorem freshCores_memOk {p : CoreId → Bool} (h : s.memOk) : (freshCores p s).memOk := h

theorem State.install_memOk {a : SpareKind} (h : s.memOk) : (s.install a).memOk := by
  unfold State.install
  split
  · exact freshCores_memOk (State.revive_memOk (State.modSpare_memOk h))
  · exact State.modVale_memOk (State.modSpare_memOk h)
  · exact State.modVale_memOk (State.modSpare_memOk h)
  · exact freshCores_memOk (foldl_memOk (fun _ _ => State.revive_memOk) (foldl_memOk (fun _ _ =>
        State.revive_memOk) (State.modPlat_memOk h fun _ => ⟨rfl, rfl⟩)))
  · exact newBank_memOk (State.modSpare_memOk h)
  · exact State.linkWork_memOk (State.modLink_memOk h)
  · exact State.modPlat_memOk h fun _ => ⟨rfl, rfl⟩

theorem State.awaitSpare_memOk (h : s.memOk) : (s.awaitSpare k).memOk := by
  unfold State.awaitSpare
  dsimp only
  split
  · exact State.modPlat_memOk (State.modPlat_memOk h fun _ => ⟨rfl, rfl⟩) fun _ => ⟨rfl, rfl⟩
  · exact State.modPlat_memOk h fun _ => ⟨rfl, rfl⟩

theorem execSpareIntoService_memOk (h : s.memOk) : Keeps (execSpareIntoService k s) := by
  unfold execSpareIntoService
  dsimp only
  split
  · exact h
  split
  · exact State.repairEvent_memOk (State.modPlat_memOk h fun _ => ⟨rfl, rfl⟩)
  split
  · exact State.repairEvent_memOk (State.modPlat_memOk (State.install_memOk h) fun _ => ⟨rfl, rfl⟩)
  · exact State.awaitSpare_memOk h

theorem execDrainRequest_memOk (h : s.memOk) : Keeps (execDrainRequest v s) := by
  unfold execDrainRequest
  split
  · exact State.modSpare_memOk h
  · exact h

theorem execDrainComplete_memOk (h : s.memOk) : Keeps (execDrainComplete v s) := by
  unfold execDrainComplete
  split
  · exact State.repairEvent_memOk (State.modSpare_memOk h)
  · exact h

theorem execUnitRetirement_memOk (h : s.memOk) : Keeps (execUnitRetirement cls i s) := by
  unfold execUnitRetirement
  split
  · exact h
  · exact State.modPlat_memOk (foldl_memOk (fun _ _ h1 => h1) h) fun _ => ⟨rfl, rfl⟩

end Service

/-! ### The hollow state -/

section Power
variable {s : State}

theorem haltCore_memOk {c : CoreId} (h : s.memOk) : (haltCore s c).memOk := by
  unfold haltCore
  refine State.onCore_memOk (fun _ h1 => ?_) h
  split
  · exact h1
  · exact State.freezeLease_memOk h1

theorem State.performAll_memOk (h : s.memOk) : s.performAll.memOk := by
  unfold State.performAll
  refine foldl_memOk (fun _ _ h1 => ?_) h
  split
  next e1 => exact (performUpdate_memOk h1).of_eq e1
  · exact h1

theorem State.selfRefresh_memOk (h : s.memOk) : s.selfRefresh.memOk :=
  foldl_memOk (fun _ _ h1 => h1) h

theorem quiesce_memOk (h : s.memOk) : Keeps (quiesce s) := by
  unfold quiesce
  split
  · exact h
  · exact State.modPlat_memOk (State.selfRefresh_memOk (State.sendAll_memOk (State.performAll_memOk h))) fun _ => ⟨rfl, rfl⟩

theorem State.enter_memOk {asked : Bool} (h : s.memOk) : (s.enter asked).memOk :=
  State.modPlat_memOk h fun _ => ⟨rfl, rfl⟩

theorem State.warned_memOk (h : s.memOk) : s.warned.memOk :=
  State.modPlat_memOk h fun _ => ⟨rfl, rfl⟩

theorem execHollowEntry_memOk (h : s.memOk) : Keeps (execHollowEntry s) := by
  unfold execHollowEntry
  split
  · exact State.enter_memOk h
  dsimp only
  split
  · exact State.enter_memOk (State.warned_memOk h)
  · exact State.warned_memOk h

theorem execHollowEntryComplete_memOk (h : s.memOk) : Keeps (execHollowEntryComplete s) := by
  unfold execHollowEntryComplete
  split
  · exact State.modPlat_memOk h fun _ => ⟨rfl, rfl⟩
  · exact h

theorem beginWake_memOk (h : s.memOk) : Keeps (beginWake s) := by
  unfold beginWake
  split
  · exact State.modPlat_memOk (State.selfRefresh_memOk (State.modBooks_memOk h)) fun _ => ⟨rfl, rfl⟩
  · exact h

theorem execWake_memOk (h : s.memOk) : Keeps (execWake s) := by
  unfold execWake
  refine beginWake_memOk ?_
  split
  · exact State.modPlat_memOk h fun _ => ⟨rfl, rfl⟩
  · exact h

theorem State.catchUp_memOk (h : s.memOk) : s.catchUp.memOk := by
  unfold State.catchUp
  dsimp only
  split
  · exact h
  split
  next e1 => exact (execAccountTick_memOk (foldl_memOk (fun _ _ h1 => State.modBooks_memOk (State.bookStores_memOk h1)) h)).of_eq e1
  · exact foldl_memOk (fun _ _ h2 => State.modBooks_memOk (State.bookStores_memOk h2)) h

theorem execWakeComplete_memOk (h : s.memOk) : Keeps (execWakeComplete s) := by
  unfold execWakeComplete
  refine ite_memOk h (State.scheduleAll_memOk (foldl_memOk (fun _ _ => State.epochChange_memOk) ?_))
  refine State.modPlat_memOk (State.mapCores_memOk (memOk_congr (State.catchUp_memOk h) rfl rfl)) fun p => ?_
  dsimp only
  split <;> exact ⟨rfl, rfl⟩

end Power

/-! ### The turn of an engine -/

section Engine
variable {e : Engine} {s before after : State} {k : Nat}

theorem passWords_memOk {n : Nat} (h : s.memOk) : (passWords e n s).memOk := h

/-- Walking past words of other engines writes no memory. -/
theorem walkRun_memOk : ∀ {k room : Nat} {s : State}, s.memOk → (walkRun e k room s).2.memOk
  | 0, _, _, h => h
  | k + 1, room, s, h => by
    unfold walkRun
    dsimp only
    split
    · exact h
    split
    · exact h
    split
    · exact h
    split
    · exact h
    split
    · exact h
    split
    · exact h
    split
    · exact h
    split
    · split <;> exact h
    split
    · exact h
    split
    · exact h
    · exact walkRun_memOk (passWords_memOk h)

theorem State.walk_memOk (h : s.memOk) : (s.walk e).2.memOk := walkRun_memOk h

theorem State.head_memOk (h : s.memOk) : Gives (·.2.memOk) (s.head e) := by
  unfold State.head
  split
  · split
    next e1 => exact snd_of_eq e1 (State.walk_memOk h)
    · trivial
  · trivial

theorem State.pass_memOk (h : s.memOk) : (s.pass e).memOk := h

theorem stopIllegal_memOk {d : Nat} (h : s.memOk) : (stopIllegal e d s).memOk := by
  unfold stopIllegal
  refine raise_memOk ?_
  refine State.modCore_memOk ?_
  split <;> exact h

theorem stopFetch_memOk {unit : Nat} {t : State} (h : t.memOk) : Keeps (stopFetch e unit t) :=
  raise_memOk h

theorem occWalk_memOk (h : s.memOk) : (occWalk s).memOk := by
  unfold occWalk
  split
  next e1 => exact State.modEng_memOk (snd_of_eq e1 (State.walk_memOk h))
  · exact h

theorem occTurn_memOk {o : Occ} (h : s.memOk) : Keeps (occTurn o s) := by
  unfold occTurn
  split
  next e1 => exact State.modEng_memOk ((occWork_memOk (State.settle_memOk (occWalk_memOk h))).of_eq e1)
  · exact raise_memOk h
  · exact stopped_memOk h

theorem departNow_memOk (h : s.memOk) : (departNow s).memOk := by
  unfold departNow
  split
  · split
    · exact State.joinSplit_memOk h
    · exact State.joinUp_memOk h
    · exact State.depart_memOk h
  · exact h

theorem replayed_memOk (h : s.memOk) : (replayed e s).memOk := by
  unfold replayed
  dsimp only
  split
  · refine State.modCore_memOk ?_
    split
    · exact departNow_memOk h
    · exact h
  · refine State.modCore_memOk ?_
    split
    · exact departNow_memOk h
    · exact h

theorem execEngineRun_memOk (h : s.memOk) : Keeps (execEngineRun e s) := by
  unfold execEngineRun
  dsimp only
  split
  · exact h
  split
  · exact replayed_memOk h
  split
  · exact stalled_memOk h
  split
  · exact stalled_memOk h
  split
  · exact State.modR_memOk (stalled_memOk h)
  split
  · exact occTurn_memOk h
  split
  next e1 => exact snd_of_eq e1 (State.walk_memOk h)
  next e2 => exact State.pass_memOk (snd_of_eq e2 (State.walk_memOk h))
  · exact stalled_memOk h
  next e3 => exact stopIllegal_memOk (snd_of_eq e3 (State.walk_memOk h))
  next e4 => exact stopFetch_memOk (snd_of_eq e4 (State.walk_memOk h))

theorem execOperationLanding_memOk (h : s.memOk) : Keeps (execOperationLanding e s) := by
  unfold execOperationLanding
  split <;> exact h

theorem execTrapEntry_memOk (h : s.memOk) : Keeps (execTrapEntry s) := by
  unfold execTrapEntry
  split
  · exact State.freezeLease_memOk (takeTrap_memOk h)
  · exact h

theorem takeIn_memOk {r : Read} {u : State} (h : u.memOk) : (takeIn r u).memOk := by
  unfold takeIn
  refine State.sendToks_memOk ?_
  split <;> exact h

theorem execLoadResponse_memOk (h : s.memOk) : Keeps (execLoadResponse k s) := by
  unfold execLoadResponse
  split
  · exact h
  split
  · exact State.onCore_memOk (fun _ => takeIn_memOk) h
  · exact h

theorem execTableWalk_memOk (h : s.memOk) : Keeps (execTableWalk k s) := by
  unfold execTableWalk
  split
  · exact h
  refine State.onCore_memOk (fun _ h1 => ?_) (memOk_congr h rfl rfl)
  dsimp only
  split
  · exact h1
  split
  next e1 => exact State.setParty_memOk (third_of_eq e1 (walkVa_memOk h1))
  next e2 =>
    split
    · exact State.setParty_memOk (third_of_eq e2 (walkVa_memOk h1))
    · exact State.modCore_memOk (State.setParty_memOk (third_of_eq e2 (walkVa_memOk h1)))

theorem leaveBreath_memOk {target : Option Nat} (h : s.memOk) : (leaveBreath target s e).memOk := by
  unfold leaveBreath
  split
  · exact h
  · exact State.sendToks_memOk h

theorem undoBreath_memOk (h : s.memOk) : (undoBreath s).memOk := by
  unfold undoBreath
  split <;> exact h

theorem execBreathSwitch_memOk (h : s.memOk) : Keeps (execBreathSwitch s) := by
  unfold execBreathSwitch
  split
  · exact h
  split
  · exact foldl_memOk (fun _ _ => leaveBreath_memOk) h
  · exact State.freezeLease_memOk (raise_memOk (undoBreath_memOk h))

theorem execRingDeadlock_memOk (h : s.memOk) : Keeps (execRingDeadlock s) := by
  unfold execRingDeadlock
  split
  · exact h
  refine State.freezeLease_memOk ?_
  refine raise_memOk ?_
  split
  next e1 => exact (State.head_memOk (State.modCr_memOk (undoBreath_memOk h))).of_eq e1
  · exact State.modCr_memOk (undoBreath_memOk h)

theorem countTurn_memOk (h : after.memOk) : (countTurn e before after).memOk := by
  unfold countTurn
  (repeat' split) <;> exact h

theorem traceRun_memOk (h : after.memOk) : (traceRun e before after).memOk := by
  unfold traceRun
  dsimp only
  split <;> exact h

theorem tickTables_memOk (h : s.memOk) : (tickTables s).memOk := by
  unfold tickTables
  dsimp only
  split <;> exact h

theorem completeCore_memOk (h : s.memOk) : (completeCore s).memOk := by
  unfold completeCore
  dsimp only
  split
  · refine State.modCore_memOk ?_
    refine State.modBooks_memOk ?_
    refine State.modVale_memOk ?_
    split
    · exact State.endLease_memOk h
    · exact h
  · exact h

theorem countStuck_memOk (h : s.memOk) : (countStuck s).memOk := by
  unfold countStuck
  split <;> exact h

theorem passTurn_memOk (h : s.memOk) : (passTurn e s).memOk := by
  unfold passTurn
  (repeat' split) <;> exact h

theorem noteRedo_memOk (h : after.memOk) : (noteRedo e before after).memOk := h

theorem afterTurn_memOk (h : after.memOk) : (afterTurn e before after).memOk := by
  unfold afterTurn
  extract_lets t u v
  have ht : t.memOk := noteRedo_memOk (traceRun_memOk (countTurn_memOk h))
  have hu : u.memOk := ite_memOk (State.freezeLease_memOk ht) ht
  refine passTurn_memOk ?_
  dsimp only [v]
  split
  · exact tickTables_memOk hu
  · exact noteCarry_memOk hu
  · exact completeCore_memOk (countStuck_memOk hu)
  · exact hu

end Engine

/-! ### The streaming softmax -/

section Softmax
variable {m : Marks} {s : State} {x : Bool} {rows : BitVec 6} {o a : Acc}

theorem execMscl_memOk {a b : Fin 4} {o : Option (Bool × Bool)} (h : s.memOk) : Keeps (execMscl m a b o s) :=
  issueM_memOk (fun _ => State.post_memOk) h

theorem execMsmx_memOk (h : s.memOk) : Keeps (execMsmx m x rows o a s) := by
  unfold execMsmx
  refine issueM_memOk (fun _ h1 => ?_) h
  dsimp only
  split
  · trivial
  split
  · trivial
  split
  · trivial
  refine State.postRows_memOk ?_
  split
  · exact State.post_memOk (State.fmtEntry_memOk h1)
  · exact State.fmtEntry_memOk h1

theorem execMsmn_memOk (h : s.memOk) : Keeps (execMsmn m x rows o s) := by
  unfold execMsmn
  refine issueM_memOk (fun _ h1 => ?_) h
  dsimp only
  split
  · trivial
  split
  · trivial
  · exact State.postRows_memOk h1

theorem execMsmg_memOk {d : Acc} (h : s.memOk) : Keeps (execMsmg m x rows d a s) := by
  unfold execMsmg
  refine issueM_memOk (fun _ h1 => ?_) h
  dsimp only
  split
  · trivial
  split
  · trivial
  · exact State.postRows_memOk h1

end Softmax

/-! ### Conversions of V -/

section VConv
variable {s : State} {m : Marks} {d : VDst} {a : VSrc} {o : Option VPay} {g : Fin 12}

theorem State.postOvf_memOk {lat n : Nat} (h : s.memOk) : (s.postOvf lat n).memOk := by
  unfold State.postOvf
  split
  · exact h
  · exact State.post_memOk h

theorem execVcvt_memOk (h : s.memOk) : Keeps (execVcvt m d a o s) :=
  issue_memOk (fun _ h1 => .bind (State.vReserve_memOk h1) fun _ h2 => .bind (State.vRead_memOk h2) fun _ h3 =>
      State.postOvf_memOk (State.vPut_memOk h3)) h

theorem qntSet_memOk {t : State} {p : VPay} (h : t.memOk) : Yields (·.st.memOk) (qntSet t p) := by
  unfold qntSet
  split
  · exact h
  dsimp only
  split
  · trivial
  · exact State.fmtEntry_memOk h

theorem execVqnt_memOk (h : s.memOk) : Keeps (execVqnt m d g o s) :=
  issue_memOk (fun _ h1 => .bind (qntSet_memOk h1) fun _ h2 => .bind (State.vReserve_memOk h2) fun _ h3 =>
      State.postOvf_memOk (State.post_memOk (State.vPut_memOk h3))) h

theorem execVdqn_memOk (h : s.memOk) : Keeps (execVdqn m g a o s) :=
  issue_memOk (fun _ h1 => .bind (qntSet_memOk h1) fun _ h2 => .bind (State.vRead_memOk h2) fun _ h3 =>
      State.postOvf_memOk (foldl_memOk (fun _ _ => State.post_memOk) h3)) h

end VConv

/-! ### The instructions, each by the rule of the operation that gives its meaning -/

section Dispatch

/-- The memories stay canonical whatever instruction or step is executed. -/
theorem exec_memOk {s : State} (h : s.memOk) : ∀ {i : Instr}, Keeps (exec i s)
  | .nop _ _ => execNop_memOk h
  | .loop _ _ _ => execLoop_memOk h
  | .loopi _ _ _ _ => execLoopi_memOk h
  | .br _ _ _ _ => execBr_memOk h
  | .bcq _ _ _ _ _ => execBcq_memOk h
  | .fset _ _ _ _ => execFset_memOk h
  | .fwait _ _ _ _ => execFwait_memOk h
  | .mark _ _ _ _ => execMark_memOk h
  | .halt _ _ => execHalt_memOk h
  | .breath _ _ k => execBreath_memOk (k := k) h
  | .qclr _ _ => execQclr_memOk h
  | .recv _ _ => execRecv_memOk h
  | .lcrd _ _ _ => execLcrd_memOk h
  | .add _ _ _ _ => execAdd_memOk h
  | .sub _ _ _ _ => execSub_memOk h
  | .mul _ _ _ _ => execMul_memOk h
  | .mulh _ _ _ _ => execMulh_memOk h
  | .mulhu _ _ _ _ => execMulhu_memOk h
  | .div _ _ _ _ => execDiv_memOk h
  | .divu _ _ _ _ => execDivu_memOk h
  | .rem _ _ _ _ => execRem_memOk h
  | .remu _ _ _ _ => execRemu_memOk h
  | .and _ _ _ _ => execAnd_memOk h
  | .or _ _ _ _ => execOr_memOk h
  | .xor _ _ _ _ => execXor_memOk h
  | .sll _ _ _ _ => execSll_memOk h
  | .srl _ _ _ _ => execSrl_memOk h
  | .sra _ _ _ _ => execSra_memOk h
  | .min _ _ _ _ => execMin_memOk h
  | .max _ _ _ _ => execMax_memOk h
  | .minu _ _ _ _ => execMinu_memOk h
  | .maxu _ _ _ _ => execMaxu_memOk h
  | .slt _ _ _ _ => execSlt_memOk h
  | .sltu _ _ _ _ => execSltu_memOk h
  | .seq _ _ _ _ => execSeq_memOk h
  | .sel _ _ _ _ => execSel_memOk h
  | .addq _ _ _ _ => execAddq_memOk h
  | .li _ _ _ => execLi_memOk h
  | .lih _ _ _ => execLih_memOk h
  | .beq _ _ _ _ _ _ => execBeq_memOk h
  | .bne _ _ _ _ _ _ => execBne_memOk h
  | .blt _ _ _ _ _ _ => execBlt_memOk h
  | .bge _ _ _ _ _ _ => execBge_memOk h
  | .bltu _ _ _ _ _ _ => execBltu_memOk h
  | .bgeu _ _ _ _ _ _ => execBgeu_memOk h
  | .jal _ _ _ _ => execJal_memOk h
  | .jalr _ _ _ _ => execJalr_memOk h
  | .ld _ _ _ _ => execLd_memOk h
  | .st _ _ _ _ => execSt_memOk h
  | .ldaq _ _ _ => execLdaq_memOk h
  | .strl _ _ _ => execStrl_memOk h
  | .cbc _ _ _ => execCbc_memOk h
  | .sendv _ _ _ => execSendv_memOk h
  | .xpush _ _ _ _ => execXpush_memOk h
  | .xpop _ _ _ => execXpop_memOk h
  | .xstat _ _ _ => execXstat_memOk h
  | .launch _ _ _ => execLaunch_memOk h
  | .open _ _ _ _ => execOpen_memOk h
  | .openw _ _ _ _ => execOpenw_memOk h
  | .close _ _ _ _ => execClose_memOk h
  | .hqry _ _ _ _ => execHqry_memOk h
  | .seal _ _ _ _ => execSeal_memOk h
  | .rbstg _ _ _ _ => execRbstg_memOk h
  | .rbcmt _ _ _ => execRbcmt_memOk h
  | .rbabt _ _ _ => execRbabt_memOk h
  | .rclm _ _ _ _ => execRclm_memOk h
  | .sacq _ _ _ => execSacq_memOk h
  | .srel _ _ _ => execSrel_memOk h
  | .bara _ _ _ _ => execBara_memOk h
  | .barw _ _ _ _ => execBarw_memOk h
  | .baraw _ _ _ _ => execBaraw_memOk h
  | .waitmk _ _ _ _ => execWaitmk_memOk h
  | .domsplit _ _ _ _ => execDomsplit_memOk h
  | .domjoin _ _ _ => execDomjoin_memOk h
  | .rbndr _ _ _ _ => execRbndr_memOk h
  | .ubndr _ _ _ => execUbndr_memOk h
  | .time _ _ _ => execTime_memOk h
  | .cyc _ _ _ _ => execCyc_memOk h
  | .acrd _ _ _ _ => execAcrd_memOk h
  | .stmt _ _ _ _ => execStmt_memOk h
  | .trap _ _ _ => execTrap_memOk h
  | .eret _ _ _ => execEret_memOk h
  | .crr _ _ _ => execCrr_memOk h
  | .crw _ _ _ => execCrw_memOk h
  | .tlbi _ _ _ => execTlbi_memOk h
  | .snaprd _ _ _ _ => execSnaprd_memOk h
  | .snapwr _ _ _ _ => execSnapwr_memOk h
  | .wpset _ _ _ _ => execWpset_memOk h
  | .acsw _ _ _ _ => execAcsw_memOk h
  | .preempt _ _ _ _ => execPreempt_memOk h
  | .keysel _ _ _ _ => execKeysel_memOk h
  | .hollow _ _ _ => execHollow_memOk h
  | .aadd _ _ _ _ => execAadd_memOk h
  | .asub _ _ _ _ => execAsub_memOk h
  | .aaddq _ _ _ _ => execAaddq_memOk h
  | .amul _ _ _ _ => execAmul_memOk h
  | .asll _ _ _ _ => execAsll_memOk h
  | .asrl _ _ _ _ => execAsrl_memOk h
  | .ali _ _ _ => execAli_memOk h
  | .ahi _ _ _ => execAhi_memOk h
  | .amov _ _ _ => execAmov_memOk h
  | .ald _ _ _ _ => execAld_memOk h
  | .ldq _ _ _ _ => execLdq_memOk h
  | .ldqs _ _ _ _ _ => execLdqs_memOk h
  | .ldqx _ _ _ _ _ => execLdqx_memOk h
  | .ldro _ _ _ _ => execLdro_memOk h
  | .agc _ _ _ _ => execAgc_memOk h
  | .agld _ _ _ => execAgld_memOk h
  | .agsa _ _ => execAgsa_memOk h
  | .saq _ _ _ => execSaq_memOk h
  | .dset _ _ _ _ => execDset_memOk h
  | .abne _ _ _ _ _ _ => execAbne_memOk h
  | .ablt _ _ _ _ _ _ => execAblt_memOk h
  | .vadd _ _ _ _ _ => execVadd_memOk h
  | .vsub _ _ _ _ _ => execVsub_memOk h
  | .vmul _ _ _ _ _ => execVmul_memOk h
  | .vfma _ _ _ _ _ => execVfma_memOk h
  | .vfms _ _ _ _ _ => execVfms_memOk h
  | .vmax _ _ _ _ _ => execVmax_memOk h
  | .vmin _ _ _ _ _ => execVmin_memOk h
  | .vabs _ _ _ _ => execVabs_memOk h
  | .vneg _ _ _ _ => execVneg_memOk h
  | .vrcp _ _ _ _ => execVrcp_memOk h
  | .vrsq _ _ _ _ => execVrsq_memOk h
  | .vexp _ _ _ _ => execVexp_memOk h
  | .vlog2 _ _ _ _ => execVlog2_memOk h
  | .vcvt _ _ _ _ => execVcvt_memOk h
  | .vqnt _ _ _ _ => execVqnt_memOk h
  | .vdqn _ _ _ _ => execVdqn_memOk h
  | .vand _ _ _ _ _ => execVand_memOk h
  | .vor _ _ _ _ _ => execVor_memOk h
  | .vxor _ _ _ _ _ => execVxor_memOk h
  | .vnot _ _ _ _ => execVnot_memOk h
  | .vshl _ _ _ _ _ => execVshl_memOk h
  | .vshr _ _ _ _ _ => execVshr_memOk h
  | .vsra _ _ _ _ _ => execVsra_memOk h
  | .viadd _ _ _ _ _ => execViadd_memOk h
  | .visub _ _ _ _ _ => execVisub_memOk h
  | .vimul _ _ _ _ _ => execVimul_memOk h
  | .vdot4 _ _ _ _ _ => execVdot4_memOk h
  | .vpopc _ _ _ _ => execVpopc_memOk h
  | .vsign _ _ _ _ => execVsign_memOk h
  | .vcmp _ _ _ _ _ => execVcmp_memOk h
  | .vsel _ _ _ _ _ => execVsel_memOk h
  | .vrsum _ _ _ _ => execVrsum_memOk h
  | .vrmax _ _ _ _ => execVrmax_memOk h
  | .vbc _ _ _ _ => execVbc_memOk h
  | .vperm _ _ _ _ _ => execVperm_memOk h
  | .vslide _ _ _ _ _ => execVslide_memOk h
  | .vmov _ _ _ _ => execVmov_memOk h
  | .vli _ _ _ => execVli_memOk h
  | .vlid _ _ _ => execVlid_memOk h
  | .kand _ _ _ _ _ => execKand_memOk h
  | .kor _ _ _ _ _ => execKor_memOk h
  | .kxor _ _ _ _ _ => execKxor_memOk h
  | .kandn _ _ _ _ _ => execKandn_memOk h
  | .knot _ _ _ _ => execKnot_memOk h
  | .kmov _ _ _ _ => execKmov_memOk h
  | .kset _ _ _ => execKset_memOk h
  | .ksetImm _ _ _ => execKsetImm_memOk h
  | .kcnt _ _ _ _ => execKcnt_memOk h
  | .vxtr _ _ _ _ => execVxtr_memOk h
  | .vins _ _ _ _ => execVins_memOk h
  | .vclamp _ _ _ _ _ => execVclamp_memOk h
  | .vround _ _ _ _ => execVround_memOk h
  | .mlease _ => execMlease_memOk h
  | .mleasePlate _ _ _ _ => execMleasePlate_memOk h
  | .mrel _ => execMrel_memOk h
  | .mwld _ _ _ _ => execMwld_memOk h
  | .mwlds _ _ _ _ _ => execMwlds_memOk h
  | .mma _ _ _ _ _ _ => execMma_memOk h
  | .mmas _ _ _ _ _ _ => execMmas_memOk h
  | .mzero _ _ _ _ _ => execMzero_memOk h
  | .msmx _ _ _ _ _ => execMsmx_memOk h
  | .msmn _ _ _ _ => execMsmn_memOk h
  | .msmg _ _ _ _ _ => execMsmg_memOk h
  | .mepi _ _ _ _ _ _ => execMepi_memOk h
  | .mmov _ _ _ _ => execMmov_memOk h
  | .mmova _ _ _ _ => execMmova_memOk h
  | .mscl _ _ _ _ => execMscl_memOk h
  | .mfmt _ _ _ _ => execMfmt_memOk h
  | .mstat _ _ => execMstat_memOk h
  | .stq _ _ => execStq_memOk h
  | .stql _ _ => execStql_memOk h
  | .saeq _ _ _ _ => execSaeq_memOk h
  | .sfence _ => execSfence_memOk h
  | .stz _ _ => execStz_memOk h
  | .engineRun _ => execEngineRun_memOk h
  | .operationLanding _ => execOperationLanding_memOk h
  | .loadResponse _ => execLoadResponse_memOk h
  | .generatorTableRead _ => execGeneratorTableRead_memOk h
  | .tableWalk _ => execTableWalk_memOk h
  | .timingErrorReplay _ _ => execTimingErrorReplay_memOk h
  | .breathSwitch => execBreathSwitch_memOk h
  | .gangCompletion _ => execGangCompletion_memOk h
  | .ringDeadlock => execRingDeadlock_memOk h
  | .trapEntry => execTrapEntry_memOk h
  | .commandStart _ => execCommandStart_memOk h
  | .copy _ => execCopy_memOk h
  | .mcast _ => execMcast_memOk h
  | .gather _ => execGather_memOk h
  | .scatter _ => execScatter_memOk h
  | .prefPromote _ => execPrefPromote_memOk h
  | .prefDemote _ => execPrefDemote_memOk h
  | .sigath _ => execSigath_memOk h
  | .copyxSave _ => execCopyxSave_memOk h
  | .copyxRestore _ => execCopyxRestore_memOk h
  | .sacc _ => execSacc_memOk h
  | .allreduce _ => execAllreduce_memOk h
  | .reduce _ => execReduce_memOk h
  | .bcast _ => execBcast_memOk h
  | .allgather _ => execAllgather_memOk h
  | .alltoall _ => execAlltoall_memOk h
  | .commandCompletion _ => execCommandCompletion_memOk h
  | .barrierPost _ => execBarrierPost_memOk h
  | .resultElementPlace _ => execResultElementPlace_memOk h
  | .phaseCompletion _ => execPhaseCompletion_memOk h
  | .barrierRelease _ => execBarrierRelease_memOk h
  | .podReleaseTick _ => execPodReleaseTick_memOk h
  | .openwTimeout _ => execOpenwTimeout_memOk h
  | .leaseGrant _ => execLeaseGrant_memOk h
  | .leaseIdleEnd _ => execLeaseIdleEnd_memOk h
  | .leaseBudgetEnd _ => execLeaseBudgetEnd_memOk h
  | .hostPush _ _ _ _ => execHostPush_memOk h
  | .hostConfigWrite _ _ _ => execHostConfigWrite_memOk h
  | .dispatchDecision => execDispatchDecision_memOk h
  | .gangIssue _ => execGangIssue_memOk h
  | .preemptionStop _ => execPreemptionStop_memOk h
  | .gangResume _ => execGangResume_memOk h
  | .dualRunCompare _ => execDualRunCompare_memOk h
  | .capturePreimage _ _ => execCapturePreimage_memOk h
  | .migrationMove _ _ _ => execMigrationMove_memOk h
  | .migrationCommit _ => execMigrationCommit_memOk h
  | .leafExchange _ => execLeafExchange_memOk h
  | .dtctlCurChange _ _ => execDtctlCurChange_memOk h
  | .dirtyFlipSettle _ => execDirtyFlipSettle_memOk h
  | .namespaceExport _ _ => execNamespaceExport_memOk h
  | .namespaceImport _ _ => execNamespaceImport_memOk h
  | .valevfWrite _ _ => execValevfWrite_memOk h
  | .clkdivWrite _ => execClkdivWrite_memOk h
  | .clkdivChange => execClkdivChange_memOk h
  | .hcctlClear => execHcctlClear_memOk h
  | .spdmRequest => execSpdmRequest_memOk h
  | .imageChunk => execImageChunk_memOk h
  | .imageCommit => execImageCommit_memOk h
  | .mailboxReset => execMailboxReset_memOk h
  | .accountTick => execAccountTick_memOk h
  | .flitReceive _ => execFlitReceive_memOk h
  | .remoteAccess _ => execRemoteAccess_memOk h
  | .linkEpochChange _ => execLinkEpochChange_memOk h
  | .linkTrainingComplete _ _ _ => execLinkTrainingComplete_memOk h
  | .laneRepair _ _ => execLaneRepair_memOk h
  | .ptpMessage _ _ => execPtpMessage_memOk h
  | .ucieModuleFail _ => execUcieModuleFail_memOk h
  | .cxlPortFail _ => execCxlPortFail_memOk h
  | .powerGood => execPowerGood_memOk h
  | .bringupWatchdog => execBringupWatchdog_memOk h
  | .hollowEntry => execHollowEntry_memOk h
  | .hollowEntryComplete => execHollowEntryComplete_memOk h
  | .wake => execWake_memOk h
  | .wakeComplete => execWakeComplete_memOk h
  | .powerLoss => execPowerLoss_memOk
  | .voltageTrim _ _ => execVoltageTrim_memOk h
  | .strathRepairNeeded _ => execStrathRepairNeeded_memOk h
  | .scrub _ _ => execScrub_memOk h
  | .spareIntoService _ => execSpareIntoService_memOk h
  | .drainComplete _ => execDrainComplete_memOk h
  | .drainRequest _ => execDrainRequest_memOk h
  | .unitRetirement _ _ => execUnitRetirement_memOk h
  | .hbmRefresh _ => execHbmRefresh_memOk h

end Dispatch

/-! ### What the package does: every act that is due or may come about keeps the memories -/

section Package
variable {c : CoreId} {f : Act} {s : State} {fs gs : List Act} {α : Type} {xs : List α}

theorem onFocus_memOk (hf : ∀ u, u.memOk → Keeps (f u)) (h : s.memOk) : Keeps (onFocus c f s) := by
  unfold onFocus
  split
  next e1 => exact State.focus_memOk ((hf _ (State.focus_memOk h)).of_eq e1)
  · exact hf _ (State.focus_memOk h)

theorem State.runTimer_memOk (h : s.memOk) : s.runTimer.memOk :=
  State.modPlat_memOk h fun _ => ⟨rfl, rfl⟩

theorem State.innerFlaw_memOk {core engine : Nat} {fatal : Bool} (h : s.memOk) : (s.innerFlaw core engine fatal).memOk := by
  unfold State.innerFlaw
  dsimp only
  split
  · split
    · exact h
    split
    · exact State.onCore_memOk (fun _ => raise_memOk) h
    · exact h
  · exact h

theorem State.addFlaw_memOk {f : Config.Flaw} (h : s.memOk) : (s.addFlaw f).memOk := by
  unfold State.addFlaw
  split
  · exact State.innerFlaw_memOk h
  · (repeat' split) <;> exact h
  · exact h

theorem State.firstTurn_memOk (h : s.memOk) : s.firstTurn.memOk := by
  unfold State.firstTurn
  split <;> exact h

theorem State.endArrays_memOk (h : s.memOk) : s.endArrays.memOk := by
  unfold State.endArrays
  refine foldl_memOk (fun _ _ h1 => ?_) ?_
  · split
    · exact State.endCount_memOk h1
    · exact h1
  · refine foldl_memOk (fun _ _ => State.runReplays_memOk) ?_
    refine State.splitCmds_memOk ?_
    refine foldl_memOk (fun _ _ => State.fetchCycle_memOk) ?_
    refine State.bookCycle_memOk ?_
    split
    · exact foldl_memOk (fun _ _ => State.beginCount_memOk) (foldl_memOk (fun _ _ h2 => h2) h)
    · exact foldl_memOk (fun _ _ h3 => h3) h

theorem State.endCycle_memOk (h : s.memOk) : s.endCycle.memOk := by
  refine State.firstTurn_memOk (State.tick_memOk (State.modPlat_memOk (f := fun p => p.endDiv.endWindow _) ?_ fun p => ?_))
  · exact foldl_memOk (fun _ _ => State.addFlaw_memOk)
      (State.runTimer_memOk (State.deliver_memOk (State.mapCores_memOk (State.ctlCommit_memOk (State.endArrays_memOk h)))))
  · unfold Plat.endWindow Plat.endDiv
    split
    · exact ⟨rfl, rfl⟩
    · split <;> exact ⟨rfl, rfl⟩

theorem State.close_memOk (h : s.memOk) : s.close.memOk := by
  unfold State.close
  split
  · exact h
  split
  · exact State.runTimer_memOk h
  · exact State.endCycle_memOk h

/-- An act leaves every state whose memories are in canonical form so. -/
def Safe (f : Act) : Prop := ∀ u, u.memOk = true → Keeps (f u)

/-- Every act of a list does. -/
def AllSafe (fs : List Act) : Prop := ∀ f ∈ fs, Safe f

theorem AllSafe.nil : AllSafe [] := by
  intro f hf
  cases hf

theorem AllSafe.one (hf : Safe f) : AllSafe [f] := by
  intro g hg
  rw [List.mem_singleton] at hg
  exact hg ▸ hf

theorem AllSafe.append (hf : AllSafe fs) (hg : AllSafe gs) : AllSafe (fs ++ gs) := by
  intro f hm
  rcases List.mem_append.mp hm with hm | hm
  · exact hf f hm
  · exact hg f hm

theorem AllSafe.ite {c : Prop} [Decidable c] (hf : AllSafe fs) (hg : AllSafe gs) : AllSafe (if c then fs else gs) := by
  split
  · exact hf
  · exact hg

/-- An act that comes about under a condition. -/
theorem AllSafe.when {c : Prop} [Decidable c] (hf : Safe f) : AllSafe (if c then [f] else []) :=
  .ite (.one hf) .nil

theorem AllSafe.map {g : α → Act} (hg : ∀ a, Safe (g a)) : AllSafe (xs.map g) := by
  intro f hm
  obtain ⟨a, -, rfl⟩ := List.mem_map.mp hm
  exact hg a

theorem AllSafe.flatMap {g : α → List Act} (hg : ∀ a, AllSafe (g a)) : AllSafe (xs.flatMap g) := by
  intro f hm
  obtain ⟨a, -, ha⟩ := List.mem_flatMap.mp hm
  exact hg a f ha

theorem AllSafe.head (hf : AllSafe fs) : Gives Safe fs.head? := by
  cases fs with
  | nil => trivial
  | cons f fs => exact hf f List.mem_cons_self

theorem onFocus_safe (hf : Safe f) : Safe (onFocus c f) := fun _ => onFocus_memOk hf

theorem coreActs_safe : AllSafe s.coreActs := by
  refine .flatMap fun c => .append (.append (.append (.append (.when ?_) (.when ?_)) (.when ?_)) (.when ?_)) ?_
  · exact onFocus_safe fun _ => execBreathSwitch_memOk
  · exact onFocus_safe fun _ => execRingDeadlock_memOk
  · exact onFocus_safe fun _ => execGeneratorTableRead_memOk
  · exact onFocus_safe fun _ => execGeneratorTableRead_memOk
  · split
    · exact .when fun _ => execBarrierRelease_memOk
    · exact .nil

theorem valeActs_safe : AllSafe s.valeActs :=
  .flatMap fun _ => .append (.append (.append (.when fun _ => execLeaseGrant_memOk) (.when fun _ => execFreezeSave_memOk))
    (.when fun _ => execLeaseIdleEnd_memOk)) (.when fun _ => execLeaseBudgetEnd_memOk)

theorem spareActs_safe : AllSafe s.spareActs :=
  .append (.map fun _ _ => execSpareIntoService_memOk) (.map fun _ _ => execDrainComplete_memOk)

theorem dueActs_safe : AllSafe s.dueActs := by
  refine .append (.append (.append (.append (.append (.append (.append (.append (.append (.append (.append ?_ coreActs_safe) ?_) ?_) ?_)
    valeActs_safe) spareActs_safe) ?_) (.when ?_)) (.when ?_)) (.when ?_)) ?_
  · exact .map fun _ _ => execGangCompletion_memOk
  · exact .map fun _ _ => execPreemptionStop_memOk
  · exact .map fun _ _ => execPhaseCompletion_memOk
  · exact .map fun _ _ => execPodReleaseTick_memOk
  · exact .map fun _ _ => execOpenwTimeout_memOk
  · exact fun _ => execClkdivChange_memOk
  · exact fun _ => execHollowEntry_memOk
  · exact fun _ => freeHeld_memOk
  · exact .map fun _ _ => execStrathRepairNeeded_memOk

theorem hollowActs_safe : AllSafe s.hollowActs :=
  .append (.ite (.ite (.one fun _ => quiesce_memOk) (.append coreActs_safe valeActs_safe)) .nil) (.when fun _ => execClkdivChange_memOk)

/-- What is due before the cycle ends. -/
theorem due_safe : Gives Safe s.due := by
  have hs : AllSafe ((if s.tickDue && s.plat.hst != 3 then [execAccountTick] else []) ++
      (if s.bootLate then [execBringupWatchdog] else []) ++
      (if s.plat.hst == 0 then s.dueActs else s.hollowActs)) :=
    .append (.append (.when fun _ => execAccountTick_memOk) (.when fun _ => execBringupWatchdog_memOk)) (.ite dueActs_safe hollowActs_safe)
  unfold State.due
  exact .ite trivial (.ite (.ite (fun _ => beginWake_memOk) trivial) hs.head)

theorem cmdAct_safe {c : Cmd} : AllSafe (cmdAct s c) := by
  unfold cmdAct
  split
  · exact .nil
  split
  · exact .when fun _ => execCommandStart_memOk
  · split
    · exact .one fun _ => execCopy_memOk
    · exact .one fun _ => execMcast_memOk
    · exact .one fun _ => execGather_memOk
    · exact .one fun _ => execScatter_memOk
    · split
      · exact .one fun _ => execPrefPromote_memOk
      · exact .one fun _ => execPrefDemote_memOk
    · exact .one fun _ => execSigath_memOk
    · split
      · exact .one fun _ => execCopyxSave_memOk
      · exact .one fun _ => execCopyxRestore_memOk
    · exact .one fun _ => execSacc_memOk
    · split
      · exact .one fun _ => execAllreduce_memOk
      · exact .one fun _ => execReduce_memOk
      · exact .one fun _ => execBcast_memOk
      · exact .one fun _ => execAllgather_memOk
      · exact .one fun _ => execAlltoall_memOk
    · exact .nil
  · exact .one fun _ => execCommandCompletion_memOk
  · exact .one fun _ => execCommandCompletion_memOk
  · exact .one fun _ => execBarrierPost_memOk
  · exact .when fun _ => execResultElementPlace_memOk

theorem ownMoves_safe : AllSafe s.ownMoves :=
  .flatMap fun _ => .append (.one fun _ => execMigrationMove_memOk) (.one fun _ => execMigrationMove_memOk)

theorem dispActs_safe : AllSafe s.dispActs := by
  refine .append (.append (.append (.append (.append (.append (.append (.append (.append (.append ?_ ownMoves_safe) ?_) ?_) ?_) ?_) ?_)
    (.when fun _ => execDispatchDecision_memOk)) ?_) ?_) ?_
  · exact .map fun _ _ => execMigrationCommit_memOk
  · exact .map fun _ _ => execLeafExchange_memOk
  · exact .flatMap fun _ => .map fun _ _ => execCapturePreimage_memOk
  · refine .map fun g u h => ?_
    split
    · exact execGangIssue_memOk h
    · exact execGangResume_memOk h
  · exact .map fun _ _ => execPreemptionStop_memOk
  · exact .map fun _ _ => execDualRunCompare_memOk
  · exact .map fun _ _ => execDirtyFlipSettle_memOk
  · exact .map fun _ _ => execNamespaceExport_memOk
  · exact .map fun _ _ => execNamespaceImport_memOk

theorem platActs_safe : AllSafe s.platActs := by
  refine .append (.append (.append (.ite .nil (.one fun _ => execPowerGood_memOk)) (.when fun _ => execClkdivChange_memOk))
    (.map fun _ _ => execSpareIntoService_memOk)) (.ite ?_ .nil)
  split
  · exact .one fun _ => execSpdmRequest_memOk
  · exact .one fun _ => execImageChunk_memOk
  · exact .one fun _ => execImageCommit_memOk
  · exact .one fun _ => execMailboxReset_memOk

/-- What may come about next. -/
theorem mayActs_safe : AllSafe s.mayActs := by
  unfold State.mayActs
  split
  · exact .nil
  split
  · refine .append (.append (.append (.append (.append (.flatMap fun _ => cmdAct_safe) ?_) ?_) ?_) dispActs_safe) platActs_safe
    · exact .map fun _ _ => performUpdate_memOk
    · exact .map fun _ _ => execLoadResponse_memOk
    · exact .map fun _ _ => execTableWalk_memOk
  · exact .ite (.one fun _ => execHollowEntryComplete_memOk) (.append (.map fun _ _ => haltCore_memOk) (.when fun _ =>
        execClkdivChange_memOk))
  · exact .one fun _ => execWakeComplete_memOk
  · exact .nil

/-- The state with which an input lands, or the one that an act answers, has its memories in canonical form. -/
def Next.memOk : Next → Prop
  | .input _ t => t.memOk = true
  | .act o => Keeps o

theorem State.next_memOk (h : s.memOk) : s.next.memOk := by
  unfold State.next
  split
  next e1 => exact due_safe.of_eq e1 s h
  extract_lets acts inp n k t
  have ht : t.memOk := State.tick_memOk h
  split
  next f _ e1 => exact mayActs_safe _ (List.mem_of_getElem? e1) t ht
  · split
    · exact ht
    · exact State.close_memOk ht
  · exact State.close_memOk ht

end Package

/-! ### Turns -/

section Turn
variable {s : State} {e : Engine}

theorem boundary_memOk (h : s.memOk) : Keeps (boundary s) := by
  unfold boundary
  split
  · exact execTrapEntry_memOk h
  next e1 =>
    split
    next e2 =>
      split
      · exact (exec_memOk ((State.head_memOk h).of_eq e1)).of_eq e2
      · exact execTrapEntry_memOk h
    · exact execTrapEntry_memOk h
  · split
    · exact execTrapEntry_memOk h
    split
    next e3 => exact stopIllegal_memOk (snd_of_eq e3 (State.walk_memOk h))
    next e4 => exact stopFetch_memOk (snd_of_eq e4 (State.walk_memOk h))
    · exact execTrapEntry_memOk h

theorem engineTurn_memOk (h : s.memOk) : Keeps (engineTurn e s) := by
  unfold engineTurn
  split
  · exact boundary_memOk h
  split
  next e1 => exact exec_memOk ((State.head_memOk h).of_eq e1)
  · exact execEngineRun_memOk h

theorem turnOf_memOk (h : s.memOk) : Keeps (turnOf e s) := by
  unfold turnOf
  split
  next e1 => exact afterTurn_memOk ((engineTurn_memOk h).of_eq e1)
  · exact engineTurn_memOk h

theorem packageTurn_memOk (h : s.memOk) : Keeps (packageTurn s) := by
  unfold packageTurn
  have hn := State.next_memOk h
  split
  next e1 =>
    rw [e1] at hn
    exact exec_memOk hn
  next e1 =>
    rw [e1] at hn
    exact hn

end Turn

/-! ### The step -/

section Step

theorem step_memOk {s : State} (h : s.memOk) : Keeps (step s) := by
  unfold step
  split
  · exact turnOf_memOk h
  · exact packageTurn_memOk h

end Step
/-- Settles O59, by one lemma for each function that a step calls: what an engine's turn and the package's turn answer has its memories in
canonical form. -/
theorem memoryStaysCanonical : Obligations.MemoryStaysCanonical := by
  unfold Obligations.MemoryStaysCanonical
  intro s t h e
  exact (step_memOk h).of_eq e

end Sys2Proof.Machine
end

section
/-! Lanes of a block, and what the lane forms of V do with them (07 R244, R245). A block is made by `packLanes` alone, so one lemma about
`packLanes` says what each lane of a result is; one lemma for each lane form says when it issues and what it then posts. -/

namespace Sys2Proof.Machine

open Sys2Proof

/-! ## Lanes -/

theorem packLanes_lt (w : Nat) (g : Nat → Nat) : ∀ n, packLanes w g n < 2 ^ (w * n)
  | 0 => by simp [packLanes]
  | n + 1 => by
    have ih := packLanes_lt w g n
    have hg : g n % 2 ^ w < 2 ^ w := Nat.mod_lt _ (Nat.two_pow_pos w)
    rw [packLanes, Nat.shiftLeft_eq, Nat.mul_succ, Nat.pow_add]
    calc packLanes w g n + g n % 2 ^ w * 2 ^ (w * n)
        < (g n % 2 ^ w + 1) * 2 ^ (w * n) := by rw [Nat.add_mul]; omega
      _ ≤ 2 ^ w * 2 ^ (w * n) := Nat.mul_le_mul_right _ hg
      _ = 2 ^ (w * n) * 2 ^ w := Nat.mul_comm _ _

/-- Value j of those put together. -/
theorem packLanes_div_mod (w : Nat) (g : Nat → Nat) (j : Nat) :
    ∀ n, packLanes w g n / 2 ^ (w * j) % 2 ^ w = if j < n then g j % 2 ^ w else 0
  | 0 => by simp [packLanes]
  | n + 1 => by
    have ih := packLanes_div_mod w g j n
    have hlt := packLanes_lt w g n
    have hj : 0 < 2 ^ (w * j) := Nat.two_pow_pos _
    rcases Nat.lt_trichotomy j n with h | rfl | h
    · have he : 2 ^ (w * n) = 2 ^ (w * (n - j - 1)) * 2 ^ w * 2 ^ (w * j) := by
        rw [← Nat.pow_add, ← Nat.pow_add]
        congr 1
        obtain ⟨k, rfl⟩ := Nat.exists_eq_add_of_lt h
        rw [show j + k + 1 - j - 1 = k by omega]
        ring
      rw [packLanes, Nat.shiftLeft_eq, he, ← Nat.mul_assoc, Nat.add_mul_div_right _ _ hj, ← Nat.mul_assoc, Nat.add_mul_mod_self_right,
        ih, if_pos h, if_pos (by omega)]
    · rw [packLanes, Nat.shiftLeft_eq, Nat.add_mul_div_right _ _ hj, Nat.div_eq_of_lt hlt, if_pos (by omega)]
      simp
    · have hle : packLanes w g (n + 1) < 2 ^ (w * j) :=
        Nat.lt_of_lt_of_le (packLanes_lt w g (n + 1)) (Nat.pow_le_pow_right (by decide) (Nat.mul_le_mul_left w h))
      rw [Nat.div_eq_of_lt hle, if_neg (by omega), Nat.zero_mod]

theorem lane_eq (w : Nat) (x : Block) (j : Nat) : lane w x j = x.toNat / 2 ^ (w * j) % 2 ^ w := by
  rw [lane, BitVec.extractLsb'_toNat, Nat.shiftRight_eq_div_pow]

theorem lane_lt (w : Nat) (x : Block) (j : Nat) : lane w x j < 2 ^ w := BitVec.isLt _

theorem lane_mod (w : Nat) (x : Block) (j : Nat) : lane w x j % 2 ^ w = lane w x j := Nat.mod_eq_of_lt (lane_lt w x j)

theorem toNat_packLanes {m w n : Nat} (g : Nat → Nat) (h : w * n ≤ m) :
    (BitVec.ofNat m (packLanes w g n)).toNat = packLanes w g n := by
  rw [BitVec.toNat_ofNat, Nat.mod_eq_of_lt]
  exact Nat.lt_of_lt_of_le (packLanes_lt w g n) (Nat.pow_le_pow_right (by decide) h)

/-- A lane of a block put together: the value put there, cut to its width. -/
theorem lane_packLanes {w n : Nat} (g : Nat → Nat) (j : Nat) (h : w * n ≤ 2048) :
    lane w (BitVec.ofNat 2048 (packLanes w g n)) j = if j < n then g j % 2 ^ w else 0 := by
  rw [lane_eq, toNat_packLanes g h, packLanes_div_mod]

/-- A bit of a word put together bit by bit. -/
theorem getLsbD_packLanes {m n : Nat} (g : Nat → Nat) (j : Nat) (h : n ≤ m) :
    (BitVec.ofNat m (packLanes 1 g n)).getLsbD j = (decide (j < n) && decide (g j % 2 = 1)) := by
  have hp := packLanes_div_mod 1 g j n
  rw [Nat.one_mul, Nat.pow_one] at hp
  rw [BitVec.getLsbD, toNat_packLanes g (by omega), Nat.testBit_eq_decide_div_mod_eq, hp]
  by_cases hj : j < n <;> simp [hj]

theorem lane_ofLanes {w : Nat} (g : Nat → Nat) {j : Nat} (hj : j < 2048 / w) : lane w (ofLanes w g) j = g j % 2 ^ w := by
  rw [ofLanes, lane_packLanes g j (Nat.mul_div_le 2048 w), if_pos hj]

/-- What `vMerge` gives is a result of the lane form of R244. -/
theorem vMerge_laneResult (v : State) (d : VDst) (p : VPay) {g r : Nat → Nat}
    (h : ∀ j, j < 2048 / p.ty.width → g j % 2 ^ p.ty.width = r j % 2 ^ p.ty.width) : LaneResult v d p r (v.vMerge d p p.ty.width g) := by
  intro j hj
  rw [State.vMerge, lane_ofLanes _ hj]
  cases v.vActive p j
  case true => simpa using h j hj
  case false =>
    cases d with
    | v k => cases p.zm <;> simp [State.vOld, lane_mod]
    | _ => simp

/-- The number of indices below n that meet a test. -/
theorem countTo_eq (p : Nat → Bool) : ∀ n, countTo p n = ((List.range n).filter p).length
  | 0 => rfl
  | n + 1 => by
    rw [countTo, countTo_eq p n, List.range_succ, List.filter_append, List.length_append]
    cases hp : p n <;> simp [hp]

end Sys2Proof.Machine
end

section
/-! The lane forms of V (07 R244): when each issues, and with what result. -/

namespace Sys2Proof.Machine

open Sys2Proof

/-! ## Issue of the lane forms -/

section Forms
variable {m : Marks} {rule : VRule} {d : VDst} {a b : VSrc} {o : Option VPay} {lat : Nat} {s u t v : State} {slot : Option (QId × Nat)}
  {x y : Block} {st : Stop} {r : Nat → Nat}

/-- An instruction whose body acts to give w, with a latency, issues so. -/
theorem issue_finish {e : Engine} {n : Nat} {body : State → Except Stop Done} {w : State} (h : Admits e n m s u)
    (hb : body u = .ok { st := w, lat := lat }) : issue e n m body s = .next (finish e n m lat w) := issue_admits h hb

theorem vUn_issues {f : Fmt → BitVec 13 → Nat → Nat} (h : Admits .v (optWords o) m s u) (hr : u.vReserve d = .ok (slot, t))
    (hx : t.vRead (payOf rule o).ty a = .ok (x, v))
    (hf : ∀ j, f (payOf rule o).ty (payOf rule o).ops (lane (payOf rule o).ty.width x j) % 2 ^ (payOf rule o).ty.width =
      r j % 2 ^ (payOf rule o).ty.width) :
    ∃ z, LaneResult v d (payOf rule o) r z ∧
      vUn m rule d a o lat f s = .next (finish .v (optWords o) m lat (v.vPut d slot lat z)) :=
  ⟨_, vMerge_laneResult v d _ fun j _ => hf j, issue_finish h (by simp [bind, Except.bind, hr, hx])⟩

theorem vUn_waits_resv {f : Fmt → BitVec 13 → Nat → Nat} (h : Admits .v (optWords o) m s u) (hr : u.vReserve d = .error st) :
    vUn m rule d a o lat f s = stopped .v st s := issue_admits_err h (by simp [bind, Except.bind, hr])

theorem vUn_waits_pop {f : Fmt → BitVec 13 → Nat → Nat} (h : Admits .v (optWords o) m s u) (hr : u.vReserve d = .ok (slot, t))
    (hx : t.vRead (payOf rule o).ty a = .error st) : vUn m rule d a o lat f s = stopped .v st s :=
  issue_admits_err h (by simp [bind, Except.bind, hr, hx])

theorem vBin_issues {f : Fmt → BitVec 13 → Nat → Nat → Nat} (h : Admits .v (optWords o) m s u) (hr : u.vReserve d = .ok (slot, t))
    (hx : t.vRead2 (payOf rule o).ty a b = .ok (x, y, v))
    (hf : ∀ j, f (payOf rule o).ty (payOf rule o).ops (lane (payOf rule o).ty.width x j) (lane (payOf rule o).ty.width y j) %
      2 ^ (payOf rule o).ty.width = r j % 2 ^ (payOf rule o).ty.width) :
    ∃ z, LaneResult v d (payOf rule o) r z ∧
      vBin m rule d a b o lat f s = .next (finish .v (optWords o) m lat (v.vPut d slot lat z)) :=
  ⟨_, vMerge_laneResult v d _ fun j _ => hf j, issue_finish h (by simp [bind, Except.bind, hr, hx])⟩

theorem vBin_waits_resv {f : Fmt → BitVec 13 → Nat → Nat → Nat} (h : Admits .v (optWords o) m s u) (hr : u.vReserve d = .error st) :
    vBin m rule d a b o lat f s = stopped .v st s := issue_admits_err h (by simp [bind, Except.bind, hr])

theorem vBin_waits_pop {f : Fmt → BitVec 13 → Nat → Nat → Nat} (h : Admits .v (optWords o) m s u)
    (hr : u.vReserve d = .ok (slot, t)) (hx : t.vRead2 (payOf rule o).ty a b = .error st) :
    vBin m rule d a b o lat f s = stopped .v st s := issue_admits_err h (by simp [bind, Except.bind, hr, hx])

theorem vTri_issues {k : Fin 48} {f : Fmt → BitVec 13 → Nat → Nat → Nat → Nat} (h : Admits .v (optWords o) m s u)
    (hx : u.vRead2 (payOf rule o).ty a b = .ok (x, y, v)) :
    ∃ z, LaneResult v (.v k) (payOf rule o) (fun j => f (payOf rule o).ty (payOf rule o).ops (lane (payOf rule o).ty.width x j)
        (lane (payOf rule o).ty.width y j) (lane (payOf rule o).ty.width v.core.r.v[k] j)) z ∧
      vTri m rule k a b o lat f s = .next (finish .v (optWords o) m lat (v.vPut (.v k) none lat z)) :=
  ⟨_, vMerge_laneResult v (.v k) _ fun _ _ => rfl, issue_finish h (by simp [bind, Except.bind, hx])⟩

theorem vWhole_issues {f : Fmt → BitVec 13 → (Nat → Bool) → Block → Block → Nat → Nat} (h : Admits .v (optWords o) m s u)
    (hr : u.vReserve d = .ok (slot, t)) (hx : t.vRead2 (payOf rule o).ty a b = .ok (x, y, v))
    (hf : ∀ j, f (payOf rule o).ty (payOf rule o).ops (v.vActive (payOf rule o)) x y j % 2 ^ (payOf rule o).ty.width =
      r j % 2 ^ (payOf rule o).ty.width) :
    ∃ z, LaneResult v d (payOf rule o) r z ∧
      vWhole m rule d a b o lat f s = .next (finish .v (optWords o) m lat (v.vPut d slot lat z)) :=
  ⟨_, vMerge_laneResult v d _ fun j _ => hf j, issue_finish h (by simp [bind, Except.bind, hr, hx])⟩

end Forms

/-! ## Integers of a lane (07 R250, R259) -/

theorem fmtWidth_pos (f : Fmt) : 0 < f.width := by cases f <;> simp [Fmt.width]

theorem vInt_bounds (f : Fmt) (x : Nat) : -(2 ^ (f.width - 1)) ≤ vInt f x ∧ vInt f x < 2 ^ (f.width - 1) := by
  have h : (2 : Int) * 2 ^ (f.width - 1) = 2 ^ f.width := by
    rw [← pow_succ', Nat.sub_add_cancel (fmtWidth_pos f)]
  have h1 := BitVec.le_two_mul_toInt (x := BitVec.ofNat f.width x)
  have h2 := BitVec.two_mul_toInt_lt (x := BitVec.ofNat f.width x)
  unfold vInt
  omega

/-- A lane read as an integer and written back. -/
theorem vWrap_vInt (f : Fmt) (x : Nat) : vWrap f (vInt f x) = x % 2 ^ f.width := by
  simp [vWrap, vInt]

/-- An integer saturated is the integer held to the range of the type. -/
theorem satInt_eq_vWrap (f : Fmt) (x : Int) : satInt f.width x = vWrap f (vHeld f x) := by
  have hp : (0 : Int) < 2 ^ (f.width - 1) := by positivity
  unfold satInt vWrap vHeld vTop
  dsimp only
  congr 2
  generalize (2 : Int) ^ (f.width - 1) = p at hp ⊢
  split_ifs <;> omega

theorem vmaxLane_int {f : Fmt} (hf : f.isI = true) (x y : Nat) :
    vmaxLane f x y % 2 ^ f.width = vWrap f (max (vInt f x) (vInt f y)) := by
  rw [vmaxLane, if_pos hf]
  change (if vInt f x < vInt f y then y else x) % _ = _
  split
  next h => rw [max_eq_right h.le, vWrap_vInt]
  next h => rw [max_eq_left (not_lt.mp h), vWrap_vInt]

theorem vminLane_int {f : Fmt} (hf : f.isI = true) (x y : Nat) :
    vminLane f x y % 2 ^ f.width = vWrap f (min (vInt f x) (vInt f y)) := by
  rw [vminLane, if_pos hf]
  change (if vInt f x < vInt f y then x else y) % _ = _
  split
  next h => rw [min_eq_left h.le, vWrap_vInt]
  next h => rw [min_eq_right (not_lt.mp h), vWrap_vInt]

theorem vWrap_mod (f : Fmt) (x : Int) : vWrap f x % 2 ^ f.width = vWrap f x := Nat.mod_eq_of_lt (BitVec.isLt _)

theorem vclampLane_int {f : Fmt} (hf : f.isI = true) (x y : Nat) :
    vclampLane f x y = vWrap f (max (-min (Int.natAbs (vInt f y) : Int) (vTop f)) (min (vInt f x) (min (Int.natAbs (vInt f y) : Int) (vTop f)))) := by
  have hp : (0 : Int) < 2 ^ (f.width - 1) := by positivity
  have hh : ((min (vInt f y).natAbs (vTop f).toNat : Nat) : Int) = min ((vInt f y).natAbs : Int) (vTop f) := by
    unfold vTop
    generalize (2 : Int) ^ (f.width - 1) = p at hp ⊢
    omega
  rw [vclampLane, if_pos hf, ← hh]
  rfl

/-- Shifting right by more than its width, an integer gives its sign. -/
theorem vsraLane_eq (f : Fmt) (x y : Nat) : vsraLane f.width x y = ((BitVec.ofNat f.width x).sshiftRight y).toNat := by
  have hb := vInt_bounds f x
  have h : vInt f x / 2 ^ min y f.width = vInt f x / 2 ^ y := by
    rcases Nat.le_total y f.width with h | h
    · rw [Nat.min_eq_left h]
    · rw [Nat.min_eq_right h]
      have hw : (2 : Int) ^ (f.width - 1) ≤ 2 ^ f.width := pow_le_pow_right₀ (by decide) (Nat.sub_le _ _)
      have hy : (2 : Int) ^ f.width ≤ 2 ^ y := pow_le_pow_right₀ (by decide) h
      rcases Int.lt_or_le (vInt f x) 0 with h0 | h0
      · rw [Int.ediv_eq_neg_one_of_neg_of_le (by omega) (by omega), Int.ediv_eq_neg_one_of_neg_of_le (by omega) (by omega)]
      · rw [Int.ediv_eq_zero_of_lt h0 (by omega), Int.ediv_eq_zero_of_lt h0 (by omega)]
  have hs : ((BitVec.ofNat f.width x).sshiftRight y).toInt = vInt f x / 2 ^ y := by
    rw [BitVec.toInt_sshiftRight, Int.shiftRight_eq_div_pow]
    rfl
  change (BitVec.ofInt f.width (vInt f x / 2 ^ min y f.width)).toNat = _
  rw [h, ← hs, BitVec.ofInt_toInt]

theorem vshlLane_mod (w x y : Nat) : vshlLane w x y % 2 ^ w = (if w ≤ y then 0 else x * 2 ^ y) % 2 ^ w := by
  unfold vshlLane
  split <;> simp

theorem vshrLane_eq {w x : Nat} (h : x < 2 ^ w) (y : Nat) : vshrLane w x y = x / 2 ^ y := by
  unfold vshrLane
  split
  next hy => rw [Nat.div_eq_of_lt (Nat.lt_of_lt_of_le h (Nat.pow_le_pow_right (by decide) hy))]
  · rfl

theorem popNat_eq (w x : Nat) : popNat w x = ((List.range w).filter x.testBit).length := countTo_eq _ w

theorem extractLsb'_zero_toNat {n : Nat} (x : BitVec 13) : (x.extractLsb' 0 n).toNat = x.toNat % 2 ^ n := by
  simp [BitVec.extractLsb'_toNat]

end Sys2Proof.Machine
end

section
/-! The lane operations of V: each is a lane form, with the function of its row in the statement's tables (07 R249 to R254, R259, R266). -/

namespace Sys2Proof.Machine

open Sys2Proof

/-- An instruction of two sources is the lane form with a function that acts on lanes as the statement's. -/
theorem vTwos_vBin {m : Marks} {d : VDst} {a b : VSrc} {o : Option VPay} {p : VRule × Nat × Instr × LaneFn}
    (hp : p ∈ vTwos m d a b o) :
    ∃ g : Fmt → BitVec 13 → Nat → Nat → Nat, (∀ s, exec p.2.2.1 s = vBin m p.1 d a b o p.2.1 g s) ∧
      ∀ f ops x y, x < 2 ^ f.width → g f ops x y % 2 ^ f.width = p.2.2.2 f ops x y % 2 ^ f.width := by
  simp only [vTwos, List.mem_cons, List.not_mem_nil, or_false] at hp
  rcases hp with rfl | rfl | rfl | rfl | rfl | rfl | rfl | rfl | rfl | rfl | rfl | rfl | rfl | rfl | rfl
  · exact ⟨fun f _ x y => vaddLane f x y, fun _ => rfl, fun _ _ _ _ _ => rfl⟩
  · exact ⟨fun f _ x y => vsubLane f x y, fun _ => rfl, fun _ _ _ _ _ => rfl⟩
  · exact ⟨fun f _ x y => vmulLane f x y, fun _ => rfl, fun _ _ _ _ _ => rfl⟩
  · refine ⟨fun f _ x y => vmaxLane f x y, fun _ => rfl, fun f _ x y _ => ?_⟩
    cases hf : f.isI
    · simp only [vmaxLane, hf]; rfl
    · simp only [vmaxLane_int hf, hf, if_true, vWrap_mod]
  · refine ⟨fun f _ x y => vminLane f x y, fun _ => rfl, fun f _ x y _ => ?_⟩
    cases hf : f.isI
    · simp only [vminLane, hf]; rfl
    · simp only [vminLane_int hf, hf, if_true, vWrap_mod]
  · refine ⟨fun f p x y => viaddLane f (p.getLsbD 0) x y, fun _ => rfl, fun f ops x y _ => ?_⟩
    cases hs : ops.getLsbD 0 <;> simp only [viaddLane, hs, satInt_eq_vWrap] <;> rfl
  · refine ⟨fun f p x y => visubLane f (p.getLsbD 0) x y, fun _ => rfl, fun f ops x y _ => ?_⟩
    cases hs : ops.getLsbD 0 <;> simp only [visubLane, hs, satInt_eq_vWrap] <;> rfl
  · exact ⟨fun f _ x y => wrapInt f.width (laneInt f.width x * laneInt f.width y), fun _ => rfl, fun _ _ _ _ _ => rfl⟩
  · refine ⟨fun f _ x y => vclampLane f x y, fun _ => rfl, fun f _ x y _ => ?_⟩
    cases hf : f.isI
    · simp only [vclampLane, hf]; rfl
    · simp only [vclampLane_int hf, hf, if_true]
  · exact ⟨fun _ _ x y => x &&& y, fun _ => rfl, fun _ _ _ _ _ => rfl⟩
  · exact ⟨fun _ _ x y => x ||| y, fun _ => rfl, fun _ _ _ _ _ => rfl⟩
  · exact ⟨fun _ _ x y => x ^^^ y, fun _ => rfl, fun _ _ _ _ _ => rfl⟩
  · exact ⟨fun f _ x y => vshlLane f.width x y, fun _ => rfl, fun f _ x y _ => vshlLane_mod f.width x y⟩
  · exact ⟨fun f _ x y => vshrLane f.width x y, fun _ => rfl, fun f _ x y hx => congrArg (· % 2 ^ f.width) (vshrLane_eq hx y)⟩
  · exact ⟨fun f _ x y => vsraLane f.width x y, fun _ => rfl, fun f _ x y _ => congrArg (· % 2 ^ f.width) (vsraLane_eq f x y)⟩

/-- An instruction of one source is the lane form with the statement's function. -/
theorem vOnes_vUn {m : Marks} {d : VDst} {a : VSrc} {o : Option VPay} {p : VRule × Nat × Instr × (Fmt → BitVec 13 → Nat → Nat)}
    (hp : p ∈ vOnes m d a o) :
    ∃ g : Fmt → BitVec 13 → Nat → Nat, (∀ s, exec p.2.2.1 s = vUn m p.1 d a o p.2.1 g s) ∧
      ∀ f ops x, g f ops x = p.2.2.2 f ops x := by
  simp only [vOnes, List.mem_cons, List.not_mem_nil, or_false] at hp
  rcases hp with rfl | rfl | rfl | rfl | rfl | rfl | rfl | rfl | rfl | rfl
  · exact ⟨fun f _ x => vabsLane f x, fun _ => rfl, fun _ _ _ => rfl⟩
  · exact ⟨fun f _ x => vnegLane f x, fun _ => rfl, fun _ _ _ => rfl⟩
  · exact ⟨fun _ _ x => (expDv (BitVec.ofNat 32 x)).toNat, fun _ => rfl, fun _ _ _ => rfl⟩
  · exact ⟨fun f _ x => roundV f (rcpNum (decodeFmt f x)), fun _ => rfl, fun _ _ _ => rfl⟩
  · exact ⟨fun f _ x => rsqCode f (decodeFmt f x), fun _ => rfl, fun _ _ _ => rfl⟩
  · exact ⟨fun f _ x => log2Code f (decodeFmt f x), fun _ => rfl, fun _ _ _ => rfl⟩
  · exact ⟨fun f p x => roundIntegral f (p.toNat % 4) (decodeFmt f x), fun _ => rfl, fun _ ops _ => by
      simp only [extractLsb'_zero_toNat]; rfl⟩
  · exact ⟨fun f _ x => 2 ^ f.width - 1 - x, fun _ => rfl, fun _ _ _ => rfl⟩
  · exact ⟨fun f _ x => popNat f.width x, fun _ => rfl, fun f _ x => popNat_eq f.width x⟩
  · exact ⟨fun _ _ x => x, fun _ => rfl, fun _ _ _ => rfl⟩

/-- Settles O30: each instruction is a lane form, and the lane forms issue with a result as R244 has it. -/
theorem laneOperations : Obligations.LaneOperations := by
  unfold Obligations.LaneOperations
  intro m d a b o s u h
  refine ⟨fun p hp => ?_, fun p hp => ?_, ?_⟩
  · obtain ⟨g, hexec, hg⟩ := vTwos_vBin hp
    simp only [hexec]
    exact ⟨fun slot t x y v hr hx => vBin_issues h hr hx fun j => hg _ _ _ _ (lane_lt _ x j),
      fun st hr => vBin_waits_resv h hr, fun slot t st hr hx => vBin_waits_pop h hr hx⟩
  · obtain ⟨g, hexec, hg⟩ := vOnes_vUn hp
    simp only [hexec]
    exact ⟨fun slot t x v hr hx => vUn_issues h hr hx fun j => by rw [hg]; rfl,
      fun st hr => vUn_waits_resv h hr, fun slot t st hr hx => vUn_waits_pop h hr hx⟩
  · intro k x y v pay f at_ hx
    exact ⟨vTri_issues (rule := vF) (lat := 4) (f := fun f _ x y z => vfmaLane f x y z) h hx,
      vTri_issues (rule := vF) (lat := 4) (f := fun f _ x y z => vfmsLane f x y z) h hx⟩

end Sys2Proof.Machine
end

section
/-! The operations of V whose lanes come from whole sources, compares, selects and masks (07 R260 to R268). -/

namespace Sys2Proof.Machine

open Sys2Proof

/-! ## Reductions (07 R265) -/

theorem pairUp_range (f : Nat → Nat → Nat) : ∀ (n : Nat) (x : Nat → Nat),
    pairUp f ((List.range (2 * n)).map x) = (List.range n).map fun j => f (x (2 * j)) (x (2 * j + 1))
  | 0, _ => rfl
  | n + 1, x => by
    have ih := pairUp_range f n fun j => x (j + 2)
    rw [Nat.mul_add, List.range_succ_eq_map, List.range_succ_eq_map, List.range_succ_eq_map]
    simp only [List.map_cons, List.map_map, pairUp]
    exact congrArg (f (x 0) (x 1) :: ·) ih

theorem treeFold_single (f : Nat → Nat → Nat) (x : Nat) : ∀ k, treeFold f k [x] = x
  | 0 => rfl
  | k + 1 => treeFold_single f x k

/-- The tree of the model over 2^k values is that of the statement: levels beyond the k-th change nothing. -/
theorem treeFold_range (f : Nat → Nat → Nat) (i : Nat) : ∀ (k : Nat) (x : Nat → Nat),
    treeFold f (i + k) ((List.range (2 ^ k)).map x) = pairTree f k x
  | 0, x => treeFold_single f (x 0) i
  | k + 1, x => by
    rw [pow_succ', ← Nat.add_assoc, treeFold, pairUp_range, treeFold_range f i k]
    rfl

theorem treeFold_lanes (g : Nat → Nat → Nat) (f : Fmt) (x : Nat → Nat) :
    treeFold g 8 ((List.range f.lanes).map x) = pairTree g (treeDepth f) x := by
  have h : f.lanes = 2 ^ treeDepth f ∧ 8 = (8 - treeDepth f) + treeDepth f := by
    cases f <;> simp [Fmt.lanes, Fmt.width, treeDepth]
  conv_lhs => rw [h.1, h.2]
  exact treeFold_range g _ _ x

/-! ## Bits and lanes of masks -/

theorem firstBits_getLsbD (n : Nat) {j : Nat} (hj : j < 256) : (firstBits n).getLsbD j = decide (j < n) := by
  have hle : 2 ^ min n 256 ≤ 2 ^ 256 := Nat.pow_le_pow_right (by decide) (Nat.min_le_right _ _)
  have hlt : 2 ^ min n 256 - 1 < 2 ^ 256 := by omega
  rw [firstBits, BitVec.getLsbD, BitVec.toNat_ofNat, Nat.mod_eq_of_lt hlt, Nat.testBit_two_pow_sub_one]
  by_cases h : j < n <;> simp [h, hj]

theorem lanes_le (f : Fmt) : f.lanes ≤ 256 := by cases f <;> simp [Fmt.lanes, Fmt.width]

theorem signPack_getLsbD (f : Fmt) (act : Nat → Bool) (x : Block) (j : Nat) :
    (signPack f.width f.lanes act x).getLsbD j =
      (decide (j < 2048 / f.width) && act j && (lane f.width x j).testBit (f.width - 1)) := by
  rw [signPack, getLsbD_packLanes _ _ (Nat.le_trans (lanes_le f) (by decide)), Bool.and_assoc]
  congr 1
  cases act j && (lane f.width x j).testBit (f.width - 1) <;> rfl

/-- The four products of a lane of VDOT4, held to the range or wrapped. -/
theorem dot4_eq (sat : Bool) (x y : Block) (d j : Nat) :
    let i8 := fun (z : Block) (j : Nat) => vInt .i8 (lane 8 z j)
    let sum := vInt .i32 d + (i8 x (4 * j) * i8 y (4 * j) + i8 x (4 * j + 1) * i8 y (4 * j + 1) +
      i8 x (4 * j + 2) * i8 y (4 * j + 2) + i8 x (4 * j + 3) * i8 y (4 * j + 3))
    dot4 sat x y d j = vWrap .i32 (if sat = true then vHeld .i32 sum else sum) := by
  intro i8 sum
  have hs : laneInt 32 d + (List.range 4).foldl
      (fun (n : Int) i => n + laneInt 8 (lane 8 x (4 * j + i)) * laneInt 8 (lane 8 y (4 * j + i))) 0 = sum := by
    change laneInt 32 d + (0 + _ + _ + _ + _) = sum
    rw [Int.zero_add]
    rfl
  unfold dot4
  dsimp only
  rw [hs]
  cases sat
  · rfl
  · exact satInt_eq_vWrap .i32 sum

/-- A comparison of VCMP on the values that the statement gives to lanes. -/
theorem cmpLane_eq (f : Fmt) (c : Nat) (uns : Bool) (x y : Nat) :
    let num := fun (z : Nat) => if f.isI = true then (if uns = true then Num.ofInt (z : Nat) else .ofInt (vInt f z)) else vVal f z
    cmpLane f c uns x y = cmpNum c (num x) (num y) := by
  intro num
  unfold cmpLane
  cases hf : f.isI
  · simp only [num, hf]; rfl
  · cases uns <;> simp only [num, hf] <;> rfl

theorem cmpMask_getLsbD (p : VPay) (act : Nat → Bool) (old : BitVec 256) (x y : Block) (j : Nat) :
    (cmpMask p act old x y).getLsbD j = (decide (j < 2048 / p.ty.width) &&
      if act j = true then cmpLane p.ty (p.ops.toNat % 8) (p.ops.getLsbD 3) (lane p.ty.width x j) (lane p.ty.width y j)
      else !p.zm && old.getLsbD j) := by
  rw [cmpMask, getLsbD_packLanes _ _ (lanes_le p.ty)]
  congr 1
  cases act j
  · cases p.zm <;> cases old.getLsbD j <;> rfl
  · cases cmpLane p.ty (p.ops.toNat % 8) (p.ops.getLsbD 3) (lane p.ty.width x j) (lane p.ty.width y j) <;> rfl

/-- The pattern of VLID stands at the top of each lane. -/
theorem lidPattern_mod (f : Fmt) (ops : BitVec 13) :
    lidPattern f.width ops.toNat % 2 ^ f.width =
      (if f.width = 8 then ops.toNat else ops.toNat * 2 ^ (f.width - 13)) % 2 ^ f.width := by
  cases f <;> simp [lidPattern, Fmt.width]

/-! ## Issue -/

section Issue
variable {m : Marks} {d : VDst} {a b : VSrc} {o : Option VPay} {s u t v : State} {slot : Option (QId × Nat)} {x y : Block}

theorem execVsel_issues (h : Admits .v (optWords o) m s u) (hr : u.vReserve d = .ok (slot, t))
    (hx : t.vRead2 (payOf vSelR o).ty a b = .ok (x, y, v)) :
    ∃ z, LaneResult v d (payOf vSelR o) (fun j =>
        if (v.core.r.k[((payOf vSelR o).ops.extractLsb' 0 3).toNat % 8]'(Nat.mod_lt _ (by decide))).getLsbD j
        then lane (payOf vSelR o).ty.width x j else lane (payOf vSelR o).ty.width y j) z ∧
      execVsel m d a b o s = .next (finish .v (optWords o) m 2 (v.vPut d slot 2 z)) := by
  simp only [extractLsb'_zero_toNat, show (2 : Nat) ^ 3 = 8 from rfl, Nat.mod_mod]
  exact ⟨_, vMerge_laneResult v d _ fun _ _ => rfl, issue_finish h (by simp [bind, Except.bind, hr, hx])⟩

theorem kOp_issues {w : Bool} {d a b : Fin 8} (f : BitVec 256 → BitVec 256 → BitVec 256) (h : Admits .v (xWords w) m s u) :
    kOp m w d a b f s = .next (finish .v (xWords w) m 1 (u.post .v 1 (.k d (f u.core.r.k[a] u.core.r.k[b])))) :=
  issue_finish (lat := 1) h rfl

theorem vConst_issues {p : VPay} {c : Nat} {r : Nat → Nat} (h : Admits .v 2 m s u) (hr : u.vReserve d = .ok (slot, t))
    (hc : ∀ j, c % 2 ^ p.ty.width = r j % 2 ^ p.ty.width) :
    ∃ z, LaneResult t d p r z ∧ vConst m d p c s = .next (finish .v 2 m 1 (t.vPut d slot 1 z)) :=
  ⟨_, vMerge_laneResult t d p fun j _ => hc j, issue_finish h (by simp [bind, Except.bind, hr])⟩

end Issue

end Sys2Proof.Machine
end

section
/-! Each operation of V on whole blocks, masks and words as it issues (07 R260 to R268). -/

namespace Sys2Proof.Machine

open Sys2Proof

section Ops
variable {m : Marks} {d : VDst} {a b : VSrc} {o : Option VPay} {s u t v : State} {slot : Option (QId × Nat)} {x y : Block}

theorem execVsign_issues (h : Admits .v (optWords o) m s u) (hr : u.vReserve d = .ok (slot, t))
    (hx : t.vRead (payOf vAny o).ty a = .ok (x, v)) :
    ∃ z : Block, (∀ j, j < 2048 → z.getLsbD j = (decide (j < 2048 / (payOf vAny o).ty.width) && v.vActive (payOf vAny o) j &&
        (lane (payOf vAny o).ty.width x j).testBit ((payOf vAny o).ty.width - 1))) ∧
      execVsign m d a o s = .next (finish .v (optWords o) m 2 (v.vPut d slot 2 z)) :=
  ⟨_, fun j _ => signPack_getLsbD _ _ x j, issue_finish h (by simp [bind, Except.bind, hr, hx])⟩

theorem execVdot4_issues {k : Fin 48} (h : Admits .v (optWords o) m s u) (hx : u.vRead2 .i8 a b = .ok (x, y, v)) :
    let i8 := fun (z : Block) (j : Nat) => vInt .i8 (lane 8 z j)
    let sum := fun (j : Nat) => vInt .i32 (lane 32 v.core.r.v[k] j) + (i8 x (4 * j) * i8 y (4 * j) +
      i8 x (4 * j + 1) * i8 y (4 * j + 1) + i8 x (4 * j + 2) * i8 y (4 * j + 2) + i8 x (4 * j + 3) * i8 y (4 * j + 3))
    ∃ z : Block, (∀ j, j < 64 → lane 32 z j = if v.vActive (payOf vDot o) j = true then
        vWrap .i32 (if (payOf vDot o).ops.getLsbD 0 then vHeld .i32 (sum j) else sum j)
        else if (payOf vDot o).zm then 0 else lane 32 v.core.r.v[k] j) ∧
      execVdot4 m k a b o s = .next (finish .v (optWords o) m 3 (v.vPut (.v k) none 3 z)) := by
  intro i8 sum
  refine ⟨v.vMerge (.v k) (payOf vDot o) 32 fun j => dot4 ((payOf vDot o).ops.getLsbD 0) x y (lane 32 v.core.r.v[k] j) j,
    fun j hj => ?_, issue_finish h (by simp [bind, Except.bind, hx])⟩
  rw [State.vMerge, lane_ofLanes _ hj]
  cases v.vActive (payOf vDot o) j
  · cases (payOf vDot o).zm
    · exact lane_mod 32 _ j
    · rfl
  · exact (congrArg (· % 2 ^ 32) (dot4_eq _ x y _ j)).trans (vWrap_mod .i32 _)

theorem execVcmp_issues {k : Fin 8} (h : Admits .v (optWords o) m s u) (hx : u.vRead2 (payOf vCmpR o).ty a b = .ok (x, y, v)) :
    let f := (payOf vCmpR o).ty
    let num := fun (z : Block) (j : Nat) => if f.isI then
      (if (payOf vCmpR o).ops.getLsbD 3 then Machine.Num.ofInt (lane f.width z j : Nat) else .ofInt (vInt f (lane f.width z j)))
      else vVal f (lane f.width z j)
    ∃ z : BitVec 256, (∀ j, j < 256 → z.getLsbD j = (decide (j < 2048 / f.width) &&
        if v.vActive (payOf vCmpR o) j = true then cmpNum ((payOf vCmpR o).ops.extractLsb' 0 3).toNat (num x j) (num y j)
        else !(payOf vCmpR o).zm && v.core.r.k[k].getLsbD j)) ∧
      execVcmp m k a b o s = .next (finish .v (optWords o) m 2 (v.post .v 2 (.k k z))) := by
  intro f num
  refine ⟨cmpMask (payOf vCmpR o) (v.vActive (payOf vCmpR o)) v.core.r.k[k] x y, fun j _ => ?_, issue_finish h (by simp [bind, Except.bind, hx])⟩
  rw [cmpMask_getLsbD, cmpLane_eq, extractLsb'_zero_toNat]
  rfl

theorem execVxtr_issues {e : Fin 4} (h : Admits .v (optWords o) m s u) (hx : u.vRead (payOf vLaneR o).ty a = .ok (x, v)) :
    let p := payOf vLaneR o
    let c := lane p.ty.width x (p.ops.extractLsb' 0 8).toNat
    execVxtr m e a o s = .next (finish .v (optWords o) m 2 (v.post .v 2 (.e e
      (if p.ty.isI then BitVec.ofInt 64 (vInt p.ty c) else BitVec.ofNat 64 c)))) := by
  simp only [extractLsb'_zero_toNat]
  exact issue_finish h (by simp [bind, Except.bind, hx]; rfl)

theorem execVins_issues {k : Fin 48} {e : Fin 4} (h : Admits .v (optWords o) m s u) :
    let p := payOf vLaneR o
    ∃ z : Block, (∀ j, j < 2048 / p.ty.width → lane p.ty.width z j = if j = (p.ops.extractLsb' 0 8).toNat
        then (u.core.r.eV.e[e]).toNat % 2 ^ p.ty.width else lane p.ty.width u.core.r.v[k] j) ∧
      execVins m k e o s = .next (finish .v (optWords o) m 2 (u.post .v 2 (.v k z))) := by
  refine ⟨_, fun j hj => ?_, issue_finish h rfl⟩
  rw [lane_ofLanes _ hj, extractLsb'_zero_toNat]
  by_cases he : j = (payOf vLaneR o).ops.toNat % 2 ^ 8
  · rw [if_pos (by simpa using he), if_pos he, Nat.mod_mod]; rfl
  · rw [if_neg (by simpa using he), if_neg he, lane_mod]

theorem execKcnt_issues {w : Bool} {e : Fin 4} {k : Fin 8} (h : Admits .v (xWords w) m s u) :
    execKcnt m w e k s = .next (finish .v (xWords w) m 1 (u.post .v 1 (.e e
      (BitVec.ofNat 64 ((List.range 256).filter u.core.r.k[k].getLsbD).length)))) := by
  rw [show ((List.range 256).filter u.core.r.k[k].getLsbD).length = popNat 256 u.core.r.k[k].toNat from (popNat_eq 256 _).symm]
  exact issue_finish (lat := 1) h rfl

/-- A reduction by the pairwise tree: every active lane takes the tree's value. -/
theorem reduction_issues {lat : Nat} {g : Fmt → Nat → Nat → Nat} {e : Fmt → Nat} (h : Admits .v (optWords o) m s u)
    (hr : u.vReserve d = .ok (slot, t)) (hx : t.vRead2 (payOf vFI o).ty a a = .ok (x, y, v)) :
    ∃ z, LaneResult v d (payOf vFI o) (fun _ => pairTree (g (payOf vFI o).ty) (treeDepth (payOf vFI o).ty) fun j =>
        if v.vActive (payOf vFI o) j = true then lane (payOf vFI o).ty.width x j else e (payOf vFI o).ty) z ∧
      vWhole m vFI d a a o lat (fun f _ act x _ _ => treeFold (g f) 8 ((List.range f.lanes).map fun j =>
          if act j then lane f.width x j else e f)) s = .next (finish .v (optWords o) m lat (v.vPut d slot lat z)) :=
  vWhole_issues h hr hx fun _ => congrArg (· % _) (treeFold_lanes _ _ _)

theorem execVrsum_issues (h : Admits .v (optWords o) m s u) (hr : u.vReserve d = .ok (slot, t))
    (hx : t.vRead2 (payOf vFI o).ty a a = .ok (x, y, v)) :
    ∃ z, LaneResult v d (payOf vFI o) (fun _ => pairTree (fun p q =>
          if (payOf vFI o).ty.isI then vWrap (payOf vFI o).ty (vInt (payOf vFI o).ty p + vInt (payOf vFI o).ty q)
          else roundV (payOf vFI o).ty ((vVal (payOf vFI o).ty p).add (vVal (payOf vFI o).ty q))) (treeDepth (payOf vFI o).ty) fun j =>
        if v.vActive (payOf vFI o) j = true then lane (payOf vFI o).ty.width x j else 0) z ∧
      execVrsum m d a o s = .next (finish .v (optWords o) m 8 (v.vPut d slot 8 z)) :=
  reduction_issues (lat := 8) (e := fun _ => 0) (g := fun f a b =>
    if f.isI then wrapInt f.width (laneInt f.width a + laneInt f.width b) else vaddLane f a b) h hr hx

theorem execVrmax_issues (h : Admits .v (optWords o) m s u) (hr : u.vReserve d = .ok (slot, t))
    (hx : t.vRead2 (payOf vFI o).ty a a = .ok (x, y, v)) :
    ∃ z, LaneResult v d (payOf vFI o) (fun _ => pairTree (fun p q =>
          if (payOf vFI o).ty.isI then (if vInt (payOf vFI o).ty p < vInt (payOf vFI o).ty q then q else p)
          else roundV (payOf vFI o).ty (numMax (vVal (payOf vFI o).ty p) (vVal (payOf vFI o).ty q))) (treeDepth (payOf vFI o).ty) fun j =>
        if v.vActive (payOf vFI o) j = true then lane (payOf vFI o).ty.width x j
        else if (payOf vFI o).ty.isI then 2 ^ ((payOf vFI o).ty.width - 1) else infCode (payOf vFI o).ty true) z ∧
      execVrmax m d a o s = .next (finish .v (optWords o) m 8 (v.vPut d slot 8 z)) :=
  reduction_issues (lat := 8) (e := fun f => if f.isI then signBit f.width else infCode f true) (g := vmaxLane) h hr hx

theorem execVbc_issues (h : Admits .v (optWords o) m s u) (hr : u.vReserve d = .ok (slot, t))
    (hx : t.vRead2 (payOf vBcR o).ty a a = .ok (x, y, v)) :
    ∃ z, LaneResult v d (payOf vBcR o) (fun _ => lane (payOf vBcR o).ty.width x ((payOf vBcR o).ops.extractLsb' 0 8).toNat) z ∧
      execVbc m d a o s = .next (finish .v (optWords o) m 2 (v.vPut d slot 2 z)) := by
  simp only [extractLsb'_zero_toNat]
  exact vWhole_issues h hr hx fun _ => rfl

theorem execVperm_issues (h : Admits .v (optWords o) m s u) (hr : u.vReserve d = .ok (slot, t))
    (hx : t.vRead2 (payOf vAny o).ty a b = .ok (x, y, v)) :
    ∃ z, LaneResult v d (payOf vAny o) (fun j => lane (payOf vAny o).ty.width x
        (lane (payOf vAny o).ty.width y j % (2048 / (payOf vAny o).ty.width))) z ∧
      execVperm m d a b o s = .next (finish .v (optWords o) m 2 (v.vPut d slot 2 z)) :=
  vWhole_issues h hr hx fun _ => rfl

theorem execVslide_issues (h : Admits .v (optWords o) m s u) (hr : u.vReserve d = .ok (slot, t))
    (hx : t.vRead2 (payOf vSlideR o).ty a b = .ok (x, y, v)) :
    ∃ z, LaneResult v d (payOf vSlideR o) (fun j =>
        let n := 2048 / (payOf vSlideR o).ty.width
        let i := j + ((payOf vSlideR o).ops.extractLsb' 0 9).toNat
        if i < n then lane (payOf vSlideR o).ty.width x i else lane (payOf vSlideR o).ty.width y (i - n)) z ∧
      execVslide m d a b o s = .next (finish .v (optWords o) m 2 (v.vPut d slot 2 z)) := by
  simp only [extractLsb'_zero_toNat]
  exact vWhole_issues h hr hx fun _ => rfl

end Ops

/-- Settles O31: each instruction is a lane form over whole sources, or issues with a block, a mask or a word of its own. -/
theorem wholeBlockOperations : Obligations.WholeBlockOperations := by
  unfold Obligations.WholeBlockOperations
  refine ⟨fun m d a b o s u h => ⟨?_, ?_, ?_, ?_, ?_, ?_⟩,
    fun m s u => ⟨fun w d a b e h => ⟨?_, ?_⟩, fun d e h => ?_, fun d n h => ?_, ?_⟩⟩
  · intro slot t x v hr done
    refine ⟨?_, ?_, ?_⟩
    · rintro pay rfl hx on
      exact ⟨execVrsum_issues h hr hx, execVrmax_issues h hr hx⟩
    · rintro pay rfl hx
      exact execVbc_issues h hr hx
    · intro y pay hx
      refine ⟨?_, ?_, ?_⟩
      · rintro rfl
        exact execVperm_issues h hr hx
      · rintro rfl
        exact execVslide_issues h hr hx
      · rintro rfl
        exact execVsel_issues h hr hx
  · exact fun slot t x v hr hx => execVsign_issues h hr hx
  · exact fun k x y v hx => execVdot4_issues h hx
  · exact fun k x y v hx => execVcmp_issues h hx
  · exact fun e x v hx => execVxtr_issues h hx
  · exact fun k e => execVins_issues h
  · intro p hp
    simp only [List.mem_cons, List.not_mem_nil, or_false] at hp
    rcases hp with rfl | rfl | rfl | rfl | rfl | rfl
    · exact kOp_issues (· &&& ·) h
    · exact kOp_issues (· ||| ·) h
    · exact kOp_issues (· ^^^ ·) h
    · exact kOp_issues (fun p q => p &&& ~~~q) h
    · exact kOp_issues (b := a) (fun p _ => ~~~p) h
    · exact kOp_issues (b := a) (fun p _ => p) h
  · exact execKcnt_issues h
  · exact ⟨_, fun j hj => firstBits_getLsbD _ hj, issue_finish (lat := 1) h rfl⟩
  · exact ⟨_, fun j hj => firstBits_getLsbD _ hj, issue_finish (lat := 1) h rfl⟩
  · exact fun d p slot t h hr => ⟨vConst_issues h hr fun _ => rfl, vConst_issues h hr fun _ => lidPattern_mod p.ty p.ops⟩

end Sys2Proof.Machine
end

section
/-! The conversions of V (07 R253, R255 to R258). -/

namespace Sys2Proof.Machine

open Sys2Proof

/-- The source lane of VCVT by the widths of the two formats (07 R253). -/
theorem cvtLane_eq (ws wd part j : Nat) : cvtLane ws wd part j = if ws = wd then some j
    else if wd < ws then (if part * (2048 / ws) ≤ j ∧ j < part * (2048 / ws) + 2048 / ws then some (j - part * (2048 / ws)) else none)
    else some (part * (2048 / wd) + j) := by
  simp [cvtLane]

/-- The overflows that a conversion counts are those of the lanes that pass the filter (02 R78). -/
theorem ovfCount_eq {act ovf p : Nat → Bool} {n : Nat} (h : ∀ j, j < n → (act j && ovf j) = p j) :
    ovfCount act ovf n = ((List.range n).filter p).length := by
  rw [ovfCount, countTo_eq, List.filter_congr fun j hj => h j (List.mem_range.mp hj)]

/-- The block that VCVT makes where `at'` names the source lane of each lane and `conv` converts a lane. -/
def cvtBlock (v : State) (d : VDst) (p : VPay) (at' : Nat → Option Nat) (conv : Nat → Nat × Bool) : Block :=
  ofLanes p.ty.width fun j =>
    match at' j with
    | none => lane p.ty.width (v.vOld d) j
    | some i =>
      if v.vActive p j then (conv i).1
      else match d with
        | .v _ => if p.zm then 0 else lane p.ty.width (v.vOld d) j
        | _ => 0

theorem lane_cvtBlock (v : State) (d : VDst) (p : VPay) (at' : Nat → Option Nat) (conv : Nat → Nat × Bool) {j : Nat}
    (hj : j < 2048 / p.ty.width) :
    lane p.ty.width (cvtBlock v d p at' conv) j = match at' j with
      | none => (match d with | .v k => lane p.ty.width v.core.r.v[k] j | _ => 0)
      | some i => if v.vActive p j = true then (conv i).1 % 2 ^ p.ty.width
        else match d with | .v k => if p.zm then 0 else lane p.ty.width v.core.r.v[k] j | _ => 0 := by
  rw [cvtBlock, lane_ofLanes _ hj]
  cases at' j with
  | none =>
    cases d with
    | v k => exact lane_mod _ _ j
    | _ => simp [State.vOld, lane]
  | some i =>
    cases v.vActive p j
    · cases d with
      | v k => cases p.zm <;> simp [State.vOld, lane_mod]
      | _ => simp
    · rfl

/-- The overflows that VCVT counts: of the lanes that have a source lane, are active and overflow. -/
theorem ovfCount_cvt (act : Nat → Bool) (at' : Nat → Option Nat) (conv : Nat → Nat × Bool) (n : Nat) :
    ovfCount (fun j => (at' j).isSome && act j) (fun j => (conv ((at' j).getD 0)).2) n = ((List.range n).filter fun j => match at' j with
      | none => false
      | some i => act j && (conv i).2).length :=
  ovfCount_eq fun j _ => by cases at' j <;> simp

/-- An element of VQNT under the scales of the blocks. -/
def qntOne (t : State) (g : Fin 12) (q : QntSet) (scales : List Nat) (i : Nat) : Nat × Bool :=
  toFmt ((groupVal t g i).div (scaleValue (scales.getD (i / 32) 0))) q.fmt q.sat

theorem getD_map_range (sc : Nat → Nat) {n b : Nat} (hb : b < n) : ((List.range n).map sc).getD b 0 = sc b := by
  simp [List.getD, hb]

theorem qntOne_eq (t : State) (g : Fin 12) (q : QntSet) (sc : Nat → Nat) {i : Nat} (hi : i < 256) :
    qntOne t g q ((List.range 8).map sc) i = toFmt ((groupVal t g i).div (scaleValue (sc (i / 32)))) q.fmt q.sat := by
  rw [qntOne, getD_map_range sc (by omega)]

section Issue
variable {m : Marks} {d : VDst} {g : Fin 12} {a : VSrc} {o : Option VPay} {s u t v : State} {slot : Option (QId × Nat)} {x : Block} {src : Fmt}
  {q : QntSet} {p : VPay}

theorem execVcvt_issues {from_ : Nat → Option Nat} (h : Admits .v (optWords o) m s u) (hp : p = payOf vCvtR o)
    (hsrc : Fmt.ofCode (p.ops.extractLsb' 0 6) = some src) (hr : u.vReserve d = .ok (slot, t)) (hx : t.vRead src a = .ok (x, v))
    (hfrom : ∀ j, from_ j = cvtLane src.width p.ty.width (p.ops.extractLsb' 6 2).toNat j) :
    let conv := fun (i : Nat) => toFmt (decodeFmt src (lane src.width x i)) p.ty (p.ops.getLsbD 8)
    execVcvt m d a o s = .next (finish .v (optWords o) m 4 ((v.vPut d slot 4 (cvtBlock v d p from_ conv)).postOvf 4
      ((List.range (2048 / p.ty.width)).filter fun j => match from_ j with
        | none => false
        | some i => v.vActive p j && (conv i).2).length)) := by
  intro conv
  obtain rfl : from_ = cvtLane src.width p.ty.width (p.ops.extractLsb' 6 2).toNat := funext hfrom
  rw [← ovfCount_cvt]
  subst hp
  refine issue_finish h ?_
  simp only [bind, Except.bind, hr, hx, hsrc, Option.getD_some]
  rfl

theorem execVqnt_issues (h : Admits .v (optWords o) m s u) (hp : p = payOf (vQntR d) o) (hq : qntSet u p = .ok q)
    (hr : q.st.vReserve d = .ok (slot, t)) (hw : p.ty.width = 8) :
    let sc := qntScale t g p q.fmt q.scl
    let one := fun (i : Nat) => toFmt ((groupVal t g i).div (scaleValue (sc (i / 32)))) q.fmt q.sat
    ∃ z y : Block, LaneResult t d p (fun i => (one i).1) z ∧
      (∀ b, b < 128 → lane 16 y b = if b < 8 then sc b % 2 ^ 16 else 0) ∧
      execVqnt m d g o s = .next (finish .v (optWords o) m 6 (((t.vPut d slot 6 z).post .v 6 (.v (sregOf p) y)).postOvf 6
        ((List.range 256).filter fun i => t.vActive p i && (one i).2).length)) := by
  intro sc one
  have hz : LaneResult t d p (fun i => (one i).1) (t.vMerge d p p.ty.width fun i => (qntOne t g q ((List.range 8).map sc) i).1) :=
    vMerge_laneResult t d p fun i hi => by rw [qntOne_eq t g q sc (by rw [hw] at hi; exact hi)]
  have hn : ovfCount (t.vActive p) (fun i => (qntOne t g q ((List.range 8).map sc) i).2) 256 =
      ((List.range 256).filter fun i => t.vActive p i && (one i).2).length := ovfCount_eq fun i hi => by rw [qntOne_eq t g q sc hi]
  refine ⟨_, BitVec.ofNat 2048 (packLanes 16 (fun b => ((List.range 8).map sc).getD b 0) 8), hz, fun b _ => ?_, ?_⟩
  · rw [lane_packLanes _ _ (by decide)]
    split
    next hb => rw [getD_map_range sc hb]
    · rfl
  · rw [← hn, hw]
    subst hp
    exact issue_finish h (by simp only [bind, Except.bind, hr, hq]; rfl)

theorem execVdqn_issues (h : Admits .v (optWords o) m s u) (hp : p = payOf vDqnR o) (hq : qntSet u p = .ok q)
    (hx : q.st.vRead q.fmt a = .ok (x, v)) :
    let sc := fun (b : Nat) => if q.scl then containerCode (lane 16 (v.core.r.v[sregOf p]) b) else 0x0FE
    let one := fun (i : Nat) => toFmt ((decodeFmt q.fmt (lane 8 x i)).mul (scaleValue (sc (i / 32)))) .f32 q.sat
    ∃ z : Fin 4 → Block, (∀ (k : Fin 4) l, l < 64 → lane 32 (z k) l =
        if v.vActive p (64 * k.val + l) = true then (one (64 * k.val + l)).1 % 2 ^ 32
        else if p.zm then 0 else lane 32 (v.core.r.v[groupReg g k.val]) l) ∧
      execVdqn m g a o s = .next (finish .v (optWords o) m 6
        (((((v.post .v 6 (.v (groupReg g 0) (z 0))).post .v 6 (.v (groupReg g 1) (z 1))).post .v 6
          (.v (groupReg g 2) (z 2))).post .v 6 (.v (groupReg g 3) (z 3))).postOvf 6
        ((List.range 256).filter fun i => v.vActive p i && (one i).2).length)) := by
  intro sc one
  have hn : ovfCount (v.vActive p) (fun i => (one i).2) 256 = ((List.range 256).filter fun i => v.vActive p i && (one i).2).length :=
    ovfCount_eq fun _ _ => rfl
  refine ⟨fun k => ofLanes 32 fun l => if v.vActive p (64 * k.val + l) then (one (64 * k.val + l)).1
    else if p.zm then 0 else lane 32 (v.core.r.v[groupReg g k.val]) l, fun k l hl => ?_, ?_⟩
  · rw [lane_ofLanes _ hl]
    cases v.vActive p (64 * k.val + l)
    · cases p.zm
      · exact lane_mod 32 _ l
      · rfl
    · rfl
  · rw [← hn]
    subst hp
    exact issue_finish h (by simp only [bind, Except.bind, hx, hq]; rfl)

end Issue

/-! ## Scales (07 R257) -/

/-- The search stops at the first code that fits. -/
theorem scaleSearch_first {amax maxf : Num} : ∀ {n start c : Nat}, start ≤ c → c < start + n →
    amax.le (maxf.mul (scaleValue c)) = true → (∀ b, start ≤ b → b < c → ¬ amax.le (maxf.mul (scaleValue b)) = true) →
    scaleSearch amax maxf n start = c
  | 0, start, c, h1, h2, _, _ => by omega
  | n + 1, start, c, h1, h2, hfit, hnone => by
    rw [scaleSearch]
    split
    next hs =>
      by_contra hne
      exact hnone start le_rfl (by omega) hs
    next hs =>
      have hne : start ≠ c := fun he => hs (he ▸ hfit)
      exact scaleSearch_first (by omega) (by omega) hfit fun b hb => hnone b (by omega)

theorem scaleSearch_none {amax maxf : Num} : ∀ {n start : Nat},
    (∀ b, start ≤ b → b < start + n → ¬ amax.le (maxf.mul (scaleValue b)) = true) → scaleSearch amax maxf n start = 0x1FE
  | 0, _, _ => rfl
  | n + 1, start, hnone => by
    rw [scaleSearch, if_neg (hnone start le_rfl (by omega))]
    exact scaleSearch_none fun b hb hb' => hnone b (by omega) (by omega)

/-- The largest magnitude among the finite values of a block. -/
def blockMax (xs : List Num) : Num := xs.foldl (fun m x => if x.isFin && m.lt x.abs then x.abs else m) (.fin false 0 1)

theorem chooseScale_eq (f : Fmt) (scaling : Bool) (xs : List Num) : chooseScale f scaling xs =
    if !scaling || (blockMax xs).isZero then 0x0FE else if xs.any Num.isNan then 0x0FE
    else scaleSearch (blockMax xs) (maxFinite f) 0x1FF 0 := rfl

theorem chooseScale_off (f : Fmt) (xs : List Num) : chooseScale f false xs = 0x0FE := rfl

theorem chooseScale_one (f : Fmt) {xs : List Num} (h : (blockMax xs).isZero = true ∨ ∃ x ∈ xs, x.isNan = true) :
    chooseScale f true xs = 0x0FE := by
  rw [chooseScale_eq]
  rcases h with h | h
  · exact if_pos (by rw [h]; rfl)
  · rw [if_pos (List.any_eq_true.mpr h), ite_self]

theorem chooseScale_search (f : Fmt) {xs : List Num} (h0 : (blockMax xs).isZero = false) (h : ∀ x ∈ xs, x.isNan = false) :
    chooseScale f true xs = scaleSearch (blockMax xs) (maxFinite f) 0x1FF 0 := by
  rw [chooseScale_eq, if_neg (by simp [h0]), if_neg (by simpa using h)]

/-- Settles O32: what the three instructions issue with, and the search for a scale. -/
theorem conversions : Obligations.Conversions := by
  unfold Obligations.Conversions
  refine ⟨fun m d g a o s u h => ⟨?_, ?_, ?_⟩, ?_⟩
  · intro slot t x v src p hsrc hr hx ws wd part from_ conv
    exact ⟨_, fun j hj => lane_cvtBlock v d p from_ conv hj,
      execVcvt_issues h rfl hsrc hr hx fun j => (cvtLane_eq src.width p.ty.width part j).symm⟩
  · intro q slot t p hq hr hw
    exact execVqnt_issues h rfl hq hr hw
  · intro q x v p hq hx
    exact execVdqn_issues h rfl hq hx
  · intro f xs amax fits
    refine ⟨chooseScale_off f xs, chooseScale_one f, fun h0 hnan => ?_⟩
    rw [chooseScale_search f h0 hnan]
    exact ⟨fun c hc hfit hnone => scaleSearch_first (Nat.zero_le c) (by omega) hfit fun b _ hb => hnone b hb,
      fun hnone => scaleSearch_none fun b _ hb => hnone b (by omega)⟩

end Sys2Proof.Machine
end

section
/-! What a lane operation between v registers leaves alone (07 R244; 01 R39). `KeepsBesideV d` says of two states what the statement says of
an instruction's; it is reflexive and transitive, and each part of an issue of V keeps it. -/

namespace Sys2Proof.Machine

open Sys2Proof

/-- Two states of one package that differ at most in register d of V, the token FIFOs and V's own walk, and in events posted. -/
structure KeepsBesideV (d : Fin 48) (s t : State) : Prop where
  rest : ∃ c al, t = { s with core := c, alerts := al }
  core : besideV d t.core = besideV d s.core

namespace KeepsBesideV

variable {d : Fin 48} {s t u : State}

theorem refl (s : State) : KeepsBesideV d s s := ⟨⟨s.core, s.alerts, rfl⟩, rfl⟩

theorem trans (h : KeepsBesideV d s t) (k : KeepsBesideV d t u) : KeepsBesideV d s u := by
  obtain ⟨c1, a1, rfl⟩ := h.rest
  obtain ⟨c2, a2, rfl⟩ := k.rest
  exact ⟨⟨c2, a2, rfl⟩, k.core.trans h.core⟩

theorem foldl {α : Type} {f : State → α → State} (hf : ∀ s a, KeepsBesideV d s (f s a)) : ∀ (l : List α) (s : State),
    KeepsBesideV d s (l.foldl f s)
  | [], s => refl s
  | a :: l, s => (hf s a).trans (foldl hf l (f s a))

/-- What changes V's own walk alone. -/
theorem modEng {f : Eng → Eng} (hf : ∀ x, atRest (f x) = atRest x) : KeepsBesideV d s (s.modEng .v f) :=
  ⟨⟨_, _, rfl⟩, by
    have h := hf s.core.r.eV
    simp [besideV, Core.modEng, Core.setEng, Core.eng, h]⟩

theorem acquire (v : View) : KeepsBesideV d s (s.acquire .v v) := modEng fun _ => rfl

theorem tok (x : Vector TokFifo 10) : KeepsBesideV d s { s with core := { s.core with r := { s.core.r with tok := x } } } :=
  ⟨⟨_, _, rfl⟩, rfl⟩

theorem alert {src kind : Nat} {l : List Nat} : KeepsBesideV d s (s.alert src kind l) := ⟨⟨_, _, rfl⟩, rfl⟩

end KeepsBesideV

section Issue
variable {d : Fin 48} {s t : State}

theorem popWaits_keepsBesideV : ∀ (fs : List (Fin 10)) {s t : State}, popWaits .v fs s = .ok t → KeepsBesideV d s t
  | [], s, t, h => by cases h; exact .refl s
  | f :: fs, s, t, h => by
    unfold popWaits at h
    split at h
    · cases h
    next v r hp =>
      obtain ⟨_, _, _, _, _, rfl⟩ := Regs.tokPop_ok hp
      exact (KeepsBesideV.trans (.tok _) (.acquire v)).trans (popWaits_keepsBesideV fs h)

theorem reserveSignals_keepsBesideV : ∀ (fs : List (Fin 10)) {s t : State}, reserveSignals fs s = .ok t → KeepsBesideV d s t
  | [], s, t, h => by cases h; exact .refl s
  | f :: fs, s, t, h => by
    unfold reserveSignals at h
    split at h
    · cases h
    next r hp =>
      unfold Regs.tokReserve at hp
      split at hp
      · cases hp
        exact (KeepsBesideV.tok _).trans (reserveSignals_keepsBesideV fs h)
      · cases hp

theorem post_v_keepsBesideV (lat : Nat) (x : Block) : KeepsBesideV d s (s.post .v lat (.v d x)) := by
  unfold State.post
  split
  · exact ⟨⟨_, _, rfl⟩, by simp [besideV, Core.land, Regs.land]⟩
  · exact .modEng fun _ => rfl

theorem post_token_keepsBesideV (lat : Nat) (f : Fin 10) (v : View) : KeepsBesideV d s (s.post .v lat (.token f v)) := by
  unfold State.post
  split
  · exact .tok _
  · exact .modEng fun _ => rfl

theorem deliverSignals_keepsBesideV (fs : List (Fin 10)) (lat : Nat) :
    KeepsBesideV d s (deliverSignals .v fs { st := s, lat := lat }) := by
  unfold deliverSignals
  dsimp only
  split
  · contradiction
  split
  · exact .foldl (fun s f => post_token_keepsBesideV lat f _) fs s
  next hfs =>
    refine .modEng fun x => ?_
    have hne : fs.isEmpty = false := Bool.eq_false_iff.mpr fun h => hfs (by simp [h])
    simp [atRest, hne]

theorem trace_keepsBesideV (pc target : Nat) : KeepsBesideV d s (s.trace .v pc target) := by
  unfold State.trace
  dsimp only
  split
  · exact .alert
  · exact .refl s

theorem closeLoops_keepsBesideV : KeepsBesideV d s (closeLoops .v s) := by
  unfold closeLoops
  dsimp only
  split
  · exact .modEng fun _ => rfl
  · refine .trans ?_ (trace_keepsBesideV _ _)
    exact .modEng fun _ => rfl

theorem retire_keepsBesideV (n skip : Nat) : KeepsBesideV d s (retire .v n skip none s) := by
  unfold retire
  refine .trans (.trans (t := s.modEng .v fun x => { x with walked := x.walked + n, wait := .none, back := none }) ?_ ?_)
    closeLoops_keepsBesideV
  · exact .modEng fun _ => rfl
  · exact .modEng fun _ => rfl

theorem stalled_keepsBesideV (w : Wait) : KeepsBesideV d s (stalled .v w s) := by
  refine .modEng fun x => ?_
  split
  · rfl
  · rfl

end Issue

/-! ## An instruction that only waits, or posts to its register -/

theorem orStall_ends (c : Bool) (w : Wait) : Ends (fun st => ∃ w, st = .stall w) (fun _ => True) (orStall c w) := by
  cases c
  · exact ⟨w, rfl⟩
  · trivial

/-- Whatever holds an engine back outside its instruction is a stall. -/
theorem gate_ends (e : Engine) (n : Nat) (s : State) : Ends (fun st => ∃ w, st = .stall w) (fun _ => True) (gate e n s) :=
  .bind (orStall_ends _ _) fun _ _ => .bind (orStall_ends _ _) fun _ _ => .bind (orStall_ends _ _) fun _ _ =>
    .bind (orStall_ends _ _) fun _ _ => .bind (orStall_ends _ _) fun _ _ => .bind (orStall_ends _ _) fun _ _ =>
      .bind (orStall_ends _ _) fun _ _ => .bind (orStall_ends _ _) fun _ _ => orStall_ends _ _

theorem popWaits_ends (e : Engine) : ∀ (fs : List (Fin 10)) (s : State),
    Ends (fun st => ∃ w, st = .stall w) (popWaits e fs s = .ok ·) (popWaits e fs s)
  | [], s => rfl
  | f :: fs, s => by
    cases h : popWaits e (f :: fs) s with
    | ok t => rfl
    | error st =>
      unfold popWaits at h
      split at h
      next hp =>
        cases h
        unfold Regs.tokPop at hp
        split at hp
        · split at hp <;> cases hp
          exact ⟨_, rfl⟩
        · cases hp; exact ⟨_, rfl⟩
      · exact (popWaits_ends e fs _).of_error h

theorem reserveSignals_ends : ∀ (fs : List (Fin 10)) (s : State),
    Ends (fun st => ∃ w, st = .stall w) (reserveSignals fs s = .ok ·) (reserveSignals fs s)
  | [], s => rfl
  | f :: fs, s => by
    cases h : reserveSignals (f :: fs) s with
    | ok t => rfl
    | error st =>
      unfold reserveSignals at h
      split at h
      next hp =>
        cases h
        unfold Regs.tokReserve at hp
        split at hp <;> cases hp
        exact ⟨_, rfl⟩
      · exact (reserveSignals_ends fs _).of_error h

/-- An instruction that posts to register d of V, whatever the state, either waits or issues, and changes nothing else. -/
theorem issue_v_keeps {d : Fin 48} {n : Nat} {m : Marks} {body : State → Except Stop Done} {s t : State}
    (hb : ∀ u, ∃ lat x, body u = .ok { st := u.post .v lat (.v d x), lat := lat }) (h : issue .v n m body s = .next t) :
    sameBesideCore s t ∧ (besideV d t.core = besideV d s.core ∨ besideV d t.core = besideV d (s.settle .v).core) := by
  have hrun : Ends (fun st => ∃ w, st = .stall w) (KeepsBesideV d (s.settle .v)) (issueRun .v n m body s) :=
    .bind (gate_ends _ _ _) fun _ _ => .bind (popWaits_ends _ _ _) fun u hu => .bind (reserveSignals_ends _ _) fun v hv => by
      obtain ⟨lat, x, hx⟩ := hb v
      rw [hx]
      exact ((((popWaits_keepsBesideV _ hu).trans (reserveSignals_keepsBesideV _ hv)).trans (post_v_keepsBesideV lat x)).trans
        (deliverSignals_keepsBesideV _ lat)).trans (retire_keepsBesideV _ _)
  rcases issue_cases .v n m body s with ⟨hbar, _⟩ | ⟨t', hr, ht⟩ | ⟨st, hr, ht⟩
  · simp [shadowBars] at hbar
  · rw [h] at ht
    cases ht
    have hk := hrun.of_ok hr
    obtain ⟨c, al, hc⟩ := hk.rest
    exact ⟨by rw [hc]; rfl, .inr hk.core⟩
  · obtain ⟨w, rfl⟩ := hrun.of_error hr
    rw [h] at ht
    cases ht
    have hk : KeepsBesideV d s (stalled .v w s) := stalled_keepsBesideV w
    obtain ⟨c, al, hc⟩ := hk.rest
    exact ⟨by rw [hc]; rfl, .inl hk.core⟩

/-- Settles O57: every lane operation is a lane form, whose body between v registers posts to its register and cannot stop. -/
theorem laneOperationsKeepTheRest : Obligations.LaneOperationsKeepTheRest := by
  unfold Obligations.LaneOperationsKeepTheRest
  intro i m d a b o s t hi h
  rcases hi with ⟨p, hp, rfl⟩ | ⟨p, hp, rfl⟩ | rfl | rfl
  · obtain ⟨g, hexec, _⟩ := vTwos_vBin hp
    rw [hexec] at h
    exact issue_v_keeps (fun u => ⟨_, _, rfl⟩) h
  · obtain ⟨g, hexec, _⟩ := vOnes_vUn hp
    rw [hexec] at h
    exact issue_v_keeps (fun u => ⟨_, _, rfl⟩) h
  · exact issue_v_keeps (fun u => ⟨_, _, rfl⟩) h
  · exact issue_v_keeps (fun u => ⟨_, _, rfl⟩) h

end Sys2Proof.Machine
end

section
/-! Translation and the checks of S write no byte of memory (14 R433; 07 R271): every read, walk and cache update keeps storage. -/

namespace Sys2Proof.Machine

open Sys2Proof

section Reads
variable {s : State} {p : Party} {pa n vf eia va acct : Nat} {now : List Byte} {w : Walker} {f : VFun}

theorem readHist_mem : (readHist s p pa n now).st.mem = s.mem := by
  unfold readHist
  dsimp only
  split <;> rfl

theorem readPiece_mem : (readPiece s p pa n).st.mem = s.mem := readHist_mem

theorem fixSoft_mem : (s.fixSoft pa n).mem = s.mem := by
  unfold State.fixSoft
  split
  · rfl
  · exact foldl_keeps State.mem State.corrected (fun _ _ => rfl) _ s

theorem transfer_mem : (s.transfer pa acct).mem = s.mem := by
  unfold State.transfer
  dsimp only
  split <;> rfl

theorem walkKeep_mem {e : Word} : (s.walkKeep w vf n eia e).mem = s.mem := by
  unfold State.walkKeep
  split <;> rfl

theorem readEntry_mem : (readEntry w vf f n eia pa p s).2.2.mem = s.mem := by
  unfold readEntry
  split
  · rfl
  split
  · exact readPiece_mem
  · exact transfer_mem.trans readPiece_mem

theorem entryError_mem : (entryError w vf n eia pa s).2.mem = s.mem := by
  unfold entryError
  split
  · rfl
  · exact fixSoft_mem

theorem walkFrom_mem : ∀ {k t : Nat} {p : Party} {s : State}, (walkFrom w vf f va k t p s).2.2.mem = s.mem
  | 0, _, _, _ => rfl
  | _ + 1, _, _, _ => by
    unfold walkFrom
    dsimp only
    split
    · rfl
    split
    · rfl
    split
    · rfl
    have h {w vf f n eia pa p} {s : State} : (readEntry w vf f n eia pa p (entryError w vf n eia pa s).2).2.2.mem = s.mem :=
      readEntry_mem.trans entryError_mem
    split
    · exact h
    split
    · split
      · exact h
      · exact walkFrom_mem.trans (walkKeep_mem.trans h)
    · split <;> exact h

theorem walkVa_mem : (walkVa w vf f va p s).2.2.mem = s.mem := by
  unfold walkVa
  split
  · rfl
  split
  · rfl
  · exact walkFrom_mem

theorem xlate_mem {user write : Bool} {cache : List TlbEntry} : (xlate w s p vf user write n cache va).st.mem = s.mem := by
  unfold xlate
  dsimp only
  split
  · rfl
  split
  · rfl
  have h := walkVa_mem (w := w) (vf := vf) (f := s.vfunOf vf) (va := va) (p := p) (s := s)
  split
  next e => rw [e] at h; exact h
  next e => rw [e] at h; exact h

theorem prefetch_mem {t : TlbId} : (s.prefetch t va).mem = s.mem := by
  unfold State.prefetch
  split
  · rfl
  dsimp only
  (repeat' split) <;> rfl

end Reads

section Checks
variable {s : State} {e : Engine} {x : SaqEntry} {base : Nat} {data : Block}

theorem translate_mem {t : TlbId} {write : Bool} {va : Word} : Yields (fun r => r.2.mem = s.mem) (s.translate e t write va) := by
  unfold State.translate
  dsimp only
  split
  · trivial
  split
  · trivial
  split
  · trivial
  split
  · exact prefetch_mem.trans xlate_mem
  split
  · trivial
  · exact prefetch_mem.trans xlate_mem

theorem checkS_mem {va : Word} {n : Nat} {aligned : Bool} : Yields (fun r => r.2.mem = s.mem) (checkS s va n aligned) := by
  unfold checkS
  refine .skip fun _ => ?_
  dsimp only
  split
  · trivial
  refine .skip fun _ => ?_
  split
  · exact rfl
  refine translate_mem.bind fun r hr => ?_
  split
  · trivial
  · exact hr

/-- A piece that S has checked has its address and its data; the checks leave memory as it was. -/
theorem checkPieces_ok : ∀ {ps : List (Nat × Nat)} {last : Option Nat} {s : State},
    Yields (fun r => r.1.map (fun q => (q.va, q.bytes)) = ps.map (fun p => (x.at (base + p.1),
      (List.range p.2).map fun k => data.extractLsb' (8 * (p.1 + k)) 8)) ∧ r.2.mem = s.mem) (checkPieces x base data last ps s)
  | [], _, _ => ⟨rfl, rfl⟩
  | (i, n) :: ps, _, s => by
    unfold checkPieces
    split
    · trivial
    next loc s1 h1 =>
      have hs1 := checkS_mem.of_eq h1
      split
      · trivial
      next qs s2 h2 =>
        obtain ⟨hqs, hs2⟩ := checkPieces_ok.of_eq h2
        exact ⟨by rw [List.map_cons, List.map_cons, hqs], hs2.trans hs1⟩

end Checks

/-! ## The pieces of a mask (07 R271; log 44) -/

/-- Each run of consecutive positions lies among those that are looked at. -/
theorem runs_within (m : Nat → Bool) : ∀ (k i : Nat), ∀ p ∈ runs m k i, i ≤ p.1 ∧ 0 < p.2 ∧ p.1 + p.2 ≤ i + k
  | 0, _ => by simp [runs]
  | k + 1, i => by
    have ih := runs_within m k (i + 1)
    intro p hp
    unfold runs at hp
    split at hp
    · have := ih p hp
      omega
    next j n r _ hr =>
      rw [hr] at ih
      have hj := ih (j, n) List.mem_cons_self
      split at hp
      next hji =>
        rcases List.mem_cons.mp hp with rfl | hp
        · simp only [beq_iff_eq] at hji
          dsimp only at hj ⊢
          omega
        · have := ih p (List.mem_cons_of_mem _ hp)
          omega
      · rcases List.mem_cons.mp hp with rfl | hp
        · dsimp only
          omega
        · have := ih p hp
          omega
    · obtain rfl := List.mem_singleton.mp hp
      dsimp only
      omega

/-- A position is in one of some pieces. -/
def inPieces (ps : List (Nat × Nat)) (x : Nat) : Prop := ∃ p ∈ ps, p.1 ≤ x ∧ x < p.1 + p.2

theorem inPieces_nil (x : Nat) : inPieces [] x ↔ False := by simp [inPieces]

theorem inPieces_cons (p : Nat × Nat) (ps : List (Nat × Nat)) (x : Nat) :
    inPieces (p :: ps) x ↔ (p.1 ≤ x ∧ x < p.1 + p.2) ∨ inPieces ps x := by simp [inPieces]

/-- Together the runs are the positions that the mask holds. -/
theorem inPieces_runs (m : Nat → Bool) : ∀ (k i x : Nat), inPieces (runs m k i) x ↔ i ≤ x ∧ x < i + k ∧ m x = true
  | 0, i, x => by
    rw [runs, inPieces_nil]
    exact ⟨False.elim, fun ⟨h1, h2, _⟩ => by omega⟩
  | k + 1, i, x => by
    have ih := inPieces_runs m k (i + 1) x
    have hhead : (i ≤ x ∧ x < i + (k + 1) ∧ m x = true) ↔ (x = i ∧ m i = true) ∨ (i + 1 ≤ x ∧ x < i + 1 + k ∧ m x = true) := by
      constructor
      · rintro ⟨h1, h2, h3⟩
        rcases Nat.eq_or_lt_of_le h1 with rfl | h4
        · exact .inl ⟨rfl, h3⟩
        · exact .inr ⟨h4, by omega, h3⟩
      · rintro (⟨rfl, h⟩ | ⟨h1, h2, h3⟩)
        · exact ⟨le_rfl, by omega, h⟩
        · exact ⟨by omega, by omega, h3⟩
    rw [hhead, ← ih, runs]
    split
    next hm => simp [hm]
    next j n r hm hr =>
      rw [hr]
      split
      next hji =>
        simp only [beq_iff_eq] at hji
        have hn := runs_within m k (i + 1) (j, n) (by rw [hr]; exact List.mem_cons_self)
        simp only [inPieces_cons, hm, and_true]
        have : (i ≤ x ∧ x < i + (n + 1)) ↔ x = i ∨ (j ≤ x ∧ x < j + n) := by omega
        rw [this, or_assoc]
      · rw [inPieces_cons]
        have : (i ≤ x ∧ x < i + 1) ↔ x = i := by omega
        rw [this, hm]
        simp
    next hm hr =>
      rw [hr, inPieces_cons]
      have : (i ≤ x ∧ x < i + 1) ↔ x = i := by omega
      rw [this, hm]
      simp

/-- The pieces of a block: none crosses a 4-byte element. -/
theorem maskPieces_within (mask : BitVec 256) {p : Nat × Nat} (hp : p ∈ maskPieces mask) :
    0 < p.2 ∧ p.1 / 4 = (p.1 + p.2 - 1) / 4 ∧ p.1 + p.2 ≤ 256 := by
  obtain ⟨u, hu, hp⟩ := List.mem_flatMap.mp hp
  have hu := List.mem_range.mp hu
  obtain ⟨h1, h2, h3⟩ := runs_within _ 4 (4 * u) p hp
  omega

theorem inPieces_maskPieces (mask : BitVec 256) {i : Nat} (hi : i < 256) : inPieces (maskPieces mask) i ↔ mask.getLsbD i = true := by
  have h : inPieces (maskPieces mask) i ↔ ∃ u, u < 64 ∧ inPieces (runs mask.getLsbD 4 (4 * u)) i := by
    simp only [inPieces, maskPieces, List.mem_flatMap, List.mem_range]
    exact ⟨fun ⟨p, ⟨u, hu, hp⟩, hx⟩ => ⟨u, hu, p, hp, hx⟩, fun ⟨u, hu, p, hp, hx⟩ => ⟨p, ⟨u, hu, hp⟩, hx⟩⟩
  rw [h]
  simp only [inPieces_runs]
  exact ⟨fun ⟨_, _, _, _, hm⟩ => hm, fun hm => ⟨i / 4, by omega, by omega, by omega, hm⟩⟩

end Sys2Proof.Machine
end

section
/-! What the checked pieces of S change in memory (07 R271, R276; 03 R92; 14 R453; 16 R478). Which pieces are performed, and where their
dirty bits stand, is the same before and after a piece (`SameTracking`); so the bytes of memory after some pieces follow from the bytes
before by `pieceMem`, which knows of memory alone. -/

namespace Sys2Proof.Machine

open Sys2Proof

/-! ## What decides where a piece goes -/

/-- Two states agree on the vale windows, the core and its launch, the run of each gang, and each function but for its lost frames. -/
structure SameTracking (s t : State) : Prop where
  vales  : t.vales = s.vales
  core   : t.core.id = s.core.id
  launch : t.core.launch = s.core.launch
  funs   : ∀ i : Fin 32, { t.vfs[i] with lost := [] } = { s.vfs[i] with lost := [] }
  runs   : ∀ key, (t.gang key).map Gang.run = (s.gang key).map Gang.run

namespace SameTracking

variable {s t u : State}

theorem refl (s : State) : SameTracking s s := ⟨rfl, rfl, rfl, fun _ => rfl, fun _ => rfl⟩

theorem trans (h : SameTracking s t) (k : SameTracking t u) : SameTracking s u :=
  ⟨k.vales.trans h.vales, k.core.trans h.core, k.launch.trans h.launch, fun i => (k.funs i).trans (h.funs i),
    fun key => (k.runs key).trans (h.runs key)⟩

theorem vf (h : SameTracking s t) : t.vf = s.vf := by
  unfold State.vf State.vale State.valeIdx
  rw [h.vales, h.core]

theorem keeps (h : SameTracking s t) : t.keeps t.core.launch = s.keeps s.core.launch := by
  have hk : ∀ u : State, ∀ key, u.keeps key = (((u.gang key).map Gang.run).map fun n => decide (1 ≤ n)).getD false := fun u key => by
    rw [Option.map_map]
    rfl
  rw [hk, hk, h.launch, h.runs]

/-- A function's dirty tracking does not depend on its lost frames. -/
theorem dirtyCell (h : SameTracking s t) (vf pa : Nat) : t.dirtyCell vf pa = s.dirtyCell vf pa := by
  have hf := h.funs ⟨vf % 32, Nat.mod_lt _ (by decide)⟩
  have hctl : (t.vfunOf vf).dtctl = (s.vfunOf vf).dtctl := by
    have h := congrArg VFun.dtctl hf
    exact h
  have hbase : (t.vfunOf vf).segb = (s.vfunOf vf).segb := by
    have h := congrArg VFun.segb hf
    exact h
  have hlen : (t.vfunOf vf).segl = (s.vfunOf vf).segl := by
    have h := congrArg VFun.segl hf
    exact h
  have hmap : (t.vfunOf vf).dtb = (s.vfunOf vf).dtb := by
    have h := congrArg VFun.dtb hf
    exact h
  unfold State.dirtyCell VFun.segBase VFun.segLen
  simp only [hctl, hbase, hlen, hmap]

theorem foldl {α : Type} {f : State → α → State} (hf : ∀ s a, SameTracking s (f s a)) : ∀ (l : List α) (s : State),
    SameTracking s (l.foldl f s)
  | [], s => refl s
  | a :: l, s => (hf s a).trans (foldl hf l (f s a))

end SameTracking

section Steps
variable {s : State} {pa acct : Nat} {bs : List Byte} {e : Engine}

theorem modGang_tracking {key : Nat} {f : Gang → Gang} (hk : ∀ g, (f g).key = g.key) (hr : ∀ g, (f g).run = g.run) :
    SameTracking s (s.modGang key f) := by
  refine ⟨rfl, rfl, rfl, fun _ => rfl, fun k => ?_⟩
  unfold State.gang State.modGang
  dsimp only
  rw [List.find?_map]
  have hp : ((fun g : Gang => g.key == k) ∘ fun g : Gang => if g.key == key then f g else g) = fun g => g.key == k := by
    funext g
    dsimp only [Function.comp]
    split
    · rw [hk]
    · rfl
  rw [hp, Option.map_map]
  congr 1
  funext g
  dsimp only [Function.comp]
  split
  · exact hr g
  · rfl

theorem logWrite_tracking {key va : Nat} : SameTracking s (s.logWrite key va bs) := by
  unfold State.logWrite
  split
  · exact modGang_tracking (fun _ => rfl) fun _ => rfl
  · exact .refl s

theorem noteWatch_tracking {addr n : Nat} {write : Bool} : SameTracking s (s.noteWatch e addr n write) := by
  unfold State.noteWatch
  split
  · exact .refl s
  split
  · exact .refl s
  · exact ⟨rfl, rfl, rfl, fun _ => rfl, fun _ => rfl⟩

theorem spillOne_tracking (i : Fin 32) : SameTracking s (spillOne pa bs s i) := by
  unfold spillOne
  dsimp only
  split
  · exact .refl s
  · refine .trans ?_ (.foldl ?_ _ _)
    swap
    · exact fun _ _ => ⟨rfl, rfl, rfl, fun _ => rfl, fun _ => rfl⟩
    refine ⟨rfl, rfl, rfl, fun j => ?_, fun _ => rfl⟩
    by_cases h : i = j
    · subst h
      simp
    · have hv : i.val ≠ j.val := fun he => h (Fin.ext he)
      simp [hv]

theorem spill_tracking : SameTracking s (s.spill pa bs) := by
  unfold State.spill
  split
  · exact .foldl (fun _ i => spillOne_tracking i) _ s
  · exact .refl s

theorem writeBy_tracking {loc : Loc} {rel : Option View} {more : Bool} : SameTracking s (s.writeBy e pa bs loc rel more) :=
  ⟨rfl, Core.modEng_id _ _ _, Core.modEng_launch _ _ _, fun _ => rfl, fun _ => rfl⟩

theorem markDirty_tracking {vf : Nat} : SameTracking s (s.markDirty vf pa) := by
  unfold State.markDirty
  split
  · exact .refl s
  · exact ⟨rfl, rfl, rfl, fun _ => rfl, fun _ => rfl⟩

theorem transfer_tracking : SameTracking s (s.transfer pa acct) := by
  unfold State.transfer
  dsimp only
  split
  · exact ⟨rfl, rfl, rfl, fun _ => rfl, fun _ => rfl⟩
  · exact ⟨rfl, rfl, rfl, fun _ => rfl, fun _ => rfl⟩
  · exact .refl s

theorem sendWrite_tracking {w : FarWrite} : SameTracking s (s.sendWrite w acct) := by
  unfold State.sendWrite
  dsimp only
  split
  · exact ⟨rfl, rfl, rfl, fun _ => rfl, fun _ => rfl⟩
  · exact ⟨rfl, rfl, rfl, fun _ => rfl, fun _ => rfl⟩

theorem putLoc_tracking {loc : PLoc} {va : Word} {rel : Option View} {more : Bool} : SameTracking s (s.putLoc e loc va bs rel more) := by
  unfold State.putLoc
  dsimp only
  split
  · exact .trans logWrite_tracking noteWatch_tracking
  split
  · exact (((((SameTracking.trans logWrite_tracking spill_tracking).trans writeBy_tracking).trans markDirty_tracking).trans
      transfer_tracking).trans noteWatch_tracking)
  · exact (SameTracking.trans logWrite_tracking sendWrite_tracking).trans noteWatch_tracking

theorem putPiece_tracking (rel : Option View) (s : State) (p : SPiece) : SameTracking s (putPiece rel s p) := by
  unfold putPiece
  split
  · exact .trans writeBy_tracking noteWatch_tracking
  · exact putLoc_tracking

/-! ## The bytes of memory -/

theorem logWrite_mem {key va : Nat} : (s.logWrite key va bs).mem = s.mem := by
  unfold State.logWrite
  split <;> rfl

theorem noteWatch_mem {addr n : Nat} {write : Bool} : (s.noteWatch e addr n write).mem = s.mem := by
  unfold State.noteWatch
  split
  · rfl
  split <;> rfl

theorem spillOne_mem (i : Fin 32) : (spillOne pa bs s i).mem = s.mem := by
  unfold spillOne
  dsimp only
  split
  · rfl
  · exact foldl_keeps State.mem (fun s (l : Entry) => s.alert (0x2000 + i.val) 3 [l.va, leafOa l.val, 0]) (fun _ _ => rfl) _ _

theorem spill_mem : (s.spill pa bs).mem = s.mem := by
  unfold State.spill
  split
  · exact foldl_keeps State.mem (spillOne pa bs) (fun _ i => spillOne_mem i) _ s
  · rfl

theorem sendWrite_mem {w : FarWrite} : (s.sendWrite w acct).mem = s.mem := by
  unfold State.sendWrite
  dsimp only
  split <;> rfl

/-- Memory after a bit of a byte is set, where there is one to set. -/
def setBit (m : List Host.Cell) : Option (Nat × Nat) → List Host.Cell
  | none => m
  | some (a, bit) => Memory.write m a (Memory.read m a ||| (1#8 <<< bit))

theorem markDirty_mem (vf : Nat) : (s.markDirty vf pa).mem = setBit s.mem (s.dirtyCell vf pa) := by
  unfold State.markDirty
  split
  next h => rw [h]; rfl
  next h => rw [h]; rfl

end Steps

/-- Memory after one piece, given whether pieces in generic memory are kept unperformed, and the dirty bits of places. -/
def pieceMem (kept : Bool) (dirty : Nat → Option (Nat × Nat)) (m : List Host.Cell) (p : SPiece) : List Host.Cell :=
  match p.loc with
  | .remote _ _ => m
  | .cell pa =>
    if isScratch p.va then Memory.writeN m pa p.bytes
    else if kept then m else setBit (Memory.writeN m pa p.bytes) (dirty pa)

/-- A write that is performed in generic memory: its bytes, then its dirty bit. -/
theorem performed_mem {e : Engine} {s : State} {vf pa acct : Nat} {bs : List Byte} {loc : Loc} {rel : Option View} {more : Bool} :
    ((((s.spill pa bs).writeBy e pa bs loc rel more).markDirty vf pa).transfer pa acct).mem =
      setBit (Memory.writeN s.mem pa bs) (s.dirtyCell vf pa) := by
  have h : SameTracking s ((s.spill pa bs).writeBy e pa bs loc rel more) := spill_tracking.trans writeBy_tracking
  have hmem : ((s.spill pa bs).writeBy e pa bs loc rel more).mem = Memory.writeN s.mem pa bs :=
    congrArg (Memory.writeN · pa bs) spill_mem
  rw [transfer_mem, markDirty_mem, h.dirtyCell, hmem]

theorem putLoc_mem {e : Engine} {s : State} {loc : PLoc} {va : Word} {bs : List Byte} {rel : Option View} {more : Bool} :
    (s.putLoc e loc va bs rel more).mem = match loc with
      | .remote _ _ => s.mem
      | .cell pa => if s.keeps s.core.launch then s.mem else setBit (Memory.writeN s.mem pa bs) (s.dirtyCell s.vf pa) := by
  have hlog : SameTracking s (s.logWrite s.core.launch va.toNat bs) := logWrite_tracking
  have hk : (s.logWrite s.core.launch va.toNat bs).keeps s.core.launch = s.keeps s.core.launch := by
    have h := hlog.keeps
    rwa [hlog.launch] at h
  unfold State.putLoc
  dsimp only
  rw [hk]
  cases loc with
  | remote node rvf =>
    split
    · exact noteWatch_mem.trans logWrite_mem
    · exact noteWatch_mem.trans (sendWrite_mem.trans logWrite_mem)
  | cell pa =>
    dsimp only
    split
    · exact noteWatch_mem.trans logWrite_mem
    · rw [noteWatch_mem, performed_mem, hlog.vf, hlog.dirtyCell, logWrite_mem]

theorem putPiece_mem (rel : Option View) (s : State) (p : SPiece) :
    (putPiece rel s p).mem = pieceMem (s.keeps s.core.launch) (s.dirtyCell s.vf) s.mem p := by
  obtain ⟨va, loc, bs, more⟩ := p
  unfold putPiece pieceMem
  cases loc with
  | remote node rvf => cases isScratch va <;> exact putLoc_mem
  | cell pa =>
    cases hs : isScratch va
    · exact putLoc_mem
    · exact noteWatch_mem

theorem foldl_putPiece_mem (rel : Option View) : ∀ (ps : List SPiece) (s : State),
    (ps.foldl (putPiece rel) s).mem = ps.foldl (pieceMem (s.keeps s.core.launch) (s.dirtyCell s.vf)) s.mem
  | [], _ => rfl
  | p :: ps, s => by
    have h := putPiece_tracking rel s p
    have hd : (putPiece rel s p).dirtyCell s.vf = s.dirtyCell s.vf := funext (h.dirtyCell _)
    rw [List.foldl_cons, List.foldl_cons, foldl_putPiece_mem rel ps, h.keeps, h.vf, hd, putPiece_mem]

/-! ### Reads after pieces -/

section Reads
variable {kept : Bool} {dirty : Nat → Option (Nat × Nat)} {m : List Host.Cell} {p : SPiece} {k : Nat}

theorem setBit_wf (o : Option (Nat × Nat)) (h : Memory.wf m = true) : Memory.wf (setBit m o) = true := by
  cases o with
  | none => exact h
  | some x => exact Memory.write_wf _ _ h

theorem pieceMem_wf (h : Memory.wf m = true) : Memory.wf (pieceMem kept dirty m p) = true := by
  unfold pieceMem
  split
  · exact h
  split
  · exact Memory.writeN_wf _ _ h
  split
  · exact h
  · exact setBit_wf _ (Memory.writeN_wf _ _ h)

theorem read_setBit {o : Option (Nat × Nat)} (h : Memory.wf m = true) (hk : o.map Prod.fst ≠ some k) :
    Memory.read (setBit m o) k = Memory.read m k := by
  cases o with
  | none => rfl
  | some x => rw [setBit, Memory.read_write _ _ _ h, if_neg fun he => hk (by rw [he]; rfl)]

/-- A byte that a piece does not write, nor its dirty bit, reads as before. -/
theorem read_pieceMem_apart (h : Memory.wf m = true) (hk : ∀ pa, p.loc = .cell pa → (k < pa ∨ pa + p.bytes.length ≤ k) ∧
    (isScratch p.va = false → (dirty pa).map Prod.fst ≠ some k)) :
    Memory.read (pieceMem kept dirty m p) k = Memory.read m k := by
  unfold pieceMem
  split
  · rfl
  next pa hp =>
    obtain ⟨hout, hd⟩ := hk pa hp
    have hw : Memory.read (Memory.writeN m pa p.bytes) k = Memory.read m k := by
      rw [Memory.read_writeN _ _ _ h, if_neg (by omega)]
    split
    · exact hw
    next hs =>
      split
      · rfl
      · rw [read_setBit (Memory.writeN_wf _ _ h) (hd (by simpa using hs)), hw]

/-- A byte of a piece that is performed reads as written, where no dirty bit stands in it. -/
theorem read_pieceMem_inside {pa i : Nat} (h : Memory.wf m = true) (hp : p.loc = .cell pa) (hkept : isScratch p.va = true ∨ kept = false)
    (hi : i < p.bytes.length) (hd : isScratch p.va = false → (dirty pa).map Prod.fst ≠ some (pa + i)) :
    Memory.read (pieceMem kept dirty m p) (pa + i) = p.bytes.getD i 0 := by
  have hw : Memory.read (Memory.writeN m pa p.bytes) (pa + i) = p.bytes.getD i 0 := by
    rw [Memory.read_writeN _ _ _ h, if_pos (by omega), Nat.add_sub_cancel_left]
  unfold pieceMem
  rw [hp]
  dsimp only
  cases hs : isScratch p.va
  · have hk : kept = false := by simpa [hs] using hkept
    rw [if_neg (by simp), hk, if_neg (by simp), read_setBit (Memory.writeN_wf _ _ h) (hd hs), hw]
  · rw [if_pos rfl, hw]

theorem foldl_pieceMem_wf (ps : List SPiece) (h : Memory.wf m = true) : Memory.wf (ps.foldl (pieceMem kept dirty) m) = true :=
  foldl_inv (p := fun m => Memory.wf m = true) (fun _ _ => pieceMem_wf) h

theorem read_foldl_apart : ∀ {ps : List SPiece} {m : List Host.Cell}, Memory.wf m = true →
    (∀ p ∈ ps, ∀ pa, p.loc = .cell pa → (k < pa ∨ pa + p.bytes.length ≤ k) ∧
      (isScratch p.va = false → (dirty pa).map Prod.fst ≠ some k)) →
    Memory.read (ps.foldl (pieceMem kept dirty) m) k = Memory.read m k
  | [], _, _, _ => rfl
  | p :: ps, m, h, hk => by
    rw [List.foldl_cons, read_foldl_apart (pieceMem_wf h) fun q hq => hk q (List.mem_cons_of_mem _ hq),
      read_pieceMem_apart h (hk p List.mem_cons_self)]

/-- A byte of a piece that no other one touches reads as written, once the piece has come, whichever come after it. -/
theorem read_foldl_inside {pa i : Nat} (hp : p.loc = .cell pa) (hkept : isScratch p.va = true ∨ kept = false) (hi : i < p.bytes.length) :
    ∀ {ps : List SPiece} {m : List Host.Cell}, Memory.wf m = true →
    (∀ q ∈ ps, q ≠ p → ∀ qa, q.loc = .cell qa → qa + q.bytes.length ≤ pa ∨ pa + p.bytes.length ≤ qa) →
    (∀ q ∈ ps, ∀ qa, q.loc = .cell qa → isScratch q.va = false → (dirty qa).map Prod.fst ≠ some (pa + i)) →
    (p ∈ ps ∨ Memory.read m (pa + i) = p.bytes.getD i 0) →
    Memory.read (ps.foldl (pieceMem kept dirty) m) (pa + i) = p.bytes.getD i 0
  | [], m, _, _, _, hread => hread.resolve_left List.not_mem_nil
  | q :: ps, m, h, hapart, hd, hread => by
    rw [List.foldl_cons]
    refine read_foldl_inside hp hkept hi (pieceMem_wf h) (fun q hq => hapart q (List.mem_cons_of_mem _ hq))
      (fun q hq => hd q (List.mem_cons_of_mem _ hq)) ?_
    by_cases hqp : q = p
    · subst hqp
      exact .inr (read_pieceMem_inside h hp hkept hi (hd q List.mem_cons_self pa hp))
    · refine hread.imp (fun hmem => (List.mem_cons.mp hmem).resolve_left (Ne.symm hqp)) fun hm => ?_
      rw [read_pieceMem_apart h fun qa hqa => ⟨?_, hd q List.mem_cons_self qa hqa⟩, hm]
      have := hapart q List.mem_cons_self hqp qa hqa
      omega

end Reads

/-- Settles O33: the pieces are those of the mask, and what they change in memory is `pieceMem`. -/
theorem maskedBytesAreWritten : Obligations.MaskedBytesAreWritten := by
  unfold Obligations.MaskedBytesAreWritten
  refine ⟨fun mask => ⟨fun p hp => maskPieces_within mask hp, fun i hi => (inPieces_maskPieces mask hi).symm, ?_⟩, ?_⟩
  · intro x base data ps s t qs h
    exact checkPieces_ok.of_eq h
  · intro rel ps s h
    dsimp only
    rw [foldl_putPiece_mem]
    exact ⟨foldl_pieceMem_wf ps h, fun k hk => read_foldl_apart h hk, fun p hp pa hpa hkept hapart i hi hd =>
      read_foldl_inside hpa hkept hi h hapart hd (.inl hp)⟩

end Sys2Proof.Machine
end

section
/-! STZ where an operation that S has in flight refills the head entry of saq (07 R276; 01 R26, R39). The statement takes the entry from the
state before the cycle's landings, and the instruction pops it from the state after them: there the refilled entry is new, S waits for it,
and the trap of its block is not taken. -/

namespace Sys2Proof.Machine

open Sys2Proof

/-- An address entry at 2^55, beyond the generic space, with one byte enabled. -/
def farEntry : SaqEntry := ⟨0x80000000000000, 1, 5, false, 0, 0, 0, 0⟩

/-- S stands at word 0 with that entry at the head of saq, and has an operation in flight that fills it again in this cycle. -/
def refilledHead : State :=
  ((State.reset.loadText .s []).modR fun r => { r with saq := ⟨[⟨0, some farEntry, false, false⟩], 0⟩ }).modEng .s fun x =>
    { x with pend := [⟨1, .saq 0 farEntry, 0⟩] }

theorem refilledHead_admits : Admits .s 1 .none refilledHead (refilledHead.settle .s) := ⟨rfl, rfl, rfl⟩

theorem refilledHead_saqHead : ∃ z, refilledHead.saqHead = .ok (farEntry, z) := ⟨_, rfl⟩

theorem refilledHead_settle_saqHead : (refilledHead.settle .s).saqHead = .error (.stall .pop) := rfl

/-- The first block of the entry fails the check of its address. -/
theorem refilledHead_traps : ∃ t c, stzBlocks farEntry 1 0 refilledHead = (t, some (.trap c)) := ⟨_, _, rfl⟩

/-- An instruction that traps leaves its cause pending. -/
theorem raise_s_pending (c : CauseRec) (s : State) : (raise .s c s).core.cr.pending ≠ [] := by
  unfold raise
  dsimp only
  exact List.append_ne_nil_of_right_ne_nil _ (List.cons_ne_nil _ _)

/-- STZ stops as an instruction that finds no entry in the state in which it acts. -/
theorem execStz_waits {m : Marks} {n : Option (BitVec 12)} {s u : State} {st : Stop} (h : Admits .s (optWords n) m s u)
    (hq : u.saqHead = .error st) : exec (.stz m n) s = stopped .s st s := by
  change execStz m n s = _
  unfold execStz
  dsimp only
  rw [issueRun_admits_err h (st := st) (by simp only [bind, Except.bind, hq])]

/-- Refutes O34: its clause on the traps of STZ fails where an operation of S in flight fills the head entry of saq in the cycle of the STZ
(`refilledHead`). No instruction of S, and no record that a pager may write for S (13 R411, R417), makes such an operation; the clause wants
the premise that S has none, or the entry of the settled state. -/
theorem not_storesOfS : ¬ Obligations.StoresOfS := by
  unfold Obligations.StoresOfS
  rintro ⟨hinstr, -⟩
  obtain ⟨-, -, hstz⟩ := hinstr .none 0 0 0 refilledHead (refilledHead.settle .s)
  obtain ⟨z, hz⟩ := refilledHead_saqHead
  obtain ⟨t, c, htrap⟩ := refilledHead_traps
  obtain ⟨-, htraps⟩ := hstz none refilledHead_admits farEntry z hz
  obtain ⟨hraise, -⟩ := htraps t c htrap
  rw [execStz_waits (n := none) refilledHead_admits refilledHead_settle_saqHead] at hraise
  injection hraise with hstate
  exact raise_s_pending c t (by rw [← hstate]; rfl)

end Sys2Proof.Machine
end

section
/-! The issue of M's instructions (01 R13, R24; 08 R292): what a body that acts, traps or asks for the lease comes to, and what an issue
leaves alone whatever its instruction does. -/

namespace Sys2Proof.Machine

open Sys2Proof

/-! ## What an issue leaves alone -/

/-- Two states of one package that differ at most in events posted, and in what the walk, the signals and the results of the core in focus
change of it. -/
structure KeepsFixed (s t : State) : Prop where
  rest : ∃ c al, t = { s with core := c, alerts := al }
  core : t.core.fixedPart = s.core.fixedPart
  regs : t.core.r.fixedPart = s.core.r.fixedPart

namespace KeepsFixed

variable {s t u : State}

theorem refl (s : State) : KeepsFixed s s := ⟨⟨s.core, s.alerts, rfl⟩, rfl, rfl⟩

theorem trans (h : KeepsFixed s t) (k : KeepsFixed t u) : KeepsFixed s u := by
  obtain ⟨c1, a1, rfl⟩ := h.rest
  obtain ⟨c2, a2, rfl⟩ := k.rest
  exact ⟨⟨c2, a2, rfl⟩, k.core.trans h.core, k.regs.trans h.regs⟩

theorem foldl {α : Type} {f : State → α → State} (hf : ∀ s a, KeepsFixed s (f s a)) : ∀ (l : List α) (s : State), KeepsFixed s (l.foldl f s)
  | [], s => refl s
  | a :: l, s => (hf s a).trans (foldl hf l (f s a))

theorem modEng (e : Engine) (f : Eng → Eng) : KeepsFixed s (s.modEng e f) :=
  ⟨⟨_, _, rfl⟩, Core.fixedPart_modEng _ e f, Core.modEng_regs _ e f⟩

theorem post (e : Engine) (lat : Nat) (l : Land) : KeepsFixed s (s.post e lat l) := by
  unfold State.post
  split
  · exact ⟨⟨_, _, rfl⟩, Core.fixedPart_land _ e l, Core.land_regs _ e l⟩
  · exact .modEng e _

theorem deliverSignals (e : Engine) (fs : List (Fin 10)) (lat : Nat) : KeepsFixed s (deliverSignals e fs { st := s, lat := lat }) := by
  unfold Machine.deliverSignals
  dsimp only
  split
  · contradiction
  split
  · exact .foldl (fun s f => .post e lat _) fs s
  · exact .modEng e _

theorem trace (e : Engine) (pc target : Nat) : KeepsFixed s (s.trace e pc target) := by
  unfold State.trace
  dsimp only
  split
  · exact ⟨⟨_, _, rfl⟩, rfl, rfl⟩
  · exact refl s

theorem closeLoops (e : Engine) : KeepsFixed s (closeLoops e s) := by
  unfold Machine.closeLoops
  dsimp only
  split
  · exact .modEng e _
  · exact (KeepsFixed.modEng e _).trans (.trace e _ _)

theorem finish (e : Engine) (n : Nat) (m : Marks) (lat : Nat) : KeepsFixed s (finish e n m lat s) := by
  unfold Machine.finish retire
  exact (KeepsFixed.deliverSignals e _ lat).trans (((KeepsFixed.modEng e _).trans (.modEng e _)).trans (.closeLoops e))

theorem mem (h : KeepsFixed s t) : t.mem = s.mem := by obtain ⟨_, _, rfl⟩ := h.rest; rfl
theorem vales (h : KeepsFixed s t) : t.vales = s.vales := by obtain ⟨_, _, rfl⟩ := h.rest; rfl

/-- A part of the core that the fixed part shows. -/
theorem field {α : Type} (g : Core → α) (h : KeepsFixed s t) (hg : ∀ x, g x = g x.fixedPart) : g t.core = g s.core :=
  Core.fixedPart_field g h.core hg

theorem id (h : KeepsFixed s t) : t.core.id = s.core.id := h.field Core.id fun _ => rfl
theorem fmte (h : KeepsFixed s t) : t.core.cr.fmte = s.core.cr.fmte := h.field (fun c => c.cr.fmte) fun _ => rfl
theorem fmtsrc (h : KeepsFixed s t) : t.core.cr.fmtsrc = s.core.cr.fmtsrc := h.field (fun c => c.cr.fmtsrc) fun _ => rfl
theorem lease (h : KeepsFixed s t) : t.core.r.lease = s.core.r.lease := Regs.fixedPart_field (fun r => r.lease) h.regs fun _ => rfl
theorem claim (h : KeepsFixed s t) : t.core.r.claim = s.core.r.claim := Regs.fixedPart_field (fun r => r.claim) h.regs fun _ => rfl

end KeepsFixed

/-! ## Why M waits afterwards -/

theorem trace_eng (s : State) (e e' : Engine) (pc target : Nat) : (s.trace e pc target).eng e' = s.eng e' := by
  unfold State.trace
  dsimp only
  split <;> rfl

theorem closeLoops_eng (s : State) (e : Engine) : (closeLoops e s).eng e = (s.eng e).loopEnd := by
  unfold closeLoops
  dsimp only
  split
  · exact State.modEng_self s e _
  · rw [trace_eng, State.modEng_self]

/-- An engine that has issued waits for nothing. -/
theorem finish_wait (e : Engine) (n : Nat) (m : Marks) (lat : Nat) (u : State) : ((finish e n m lat u).eng e).wait = .none := by
  unfold finish retire
  dsimp only
  rw [closeLoops_eng, State.modEng_self, State.modEng_self]
  rfl

theorem stalled_wait (e : Engine) (w : Wait) (s : State) : ((stalled e w s).eng e).wait = w ∨ ((stalled e w s).eng e).wait = .breath := by
  unfold stalled
  rw [State.modEng_self]
  split
  · split
    · exact .inr rfl
    · exact .inl rfl
  · exact .inl rfl

theorem stalled_wait_eq {e : Engine} {w : Wait} {s : State} (h : (s.eng e).wait ≠ .breath) : ((stalled e w s).eng e).wait = w := by
  unfold stalled
  rw [State.modEng_self]
  split <;> simp [h]

/-- A trap of M is no wait for the lease. -/
theorem raise_wait (c : CauseRec) (s : State) : ((raise .m c s).eng .m).wait ≠ .lease := by
  have h : ∀ t : State, ((stalled .m .fault t).eng .m).wait ≠ .lease := fun t => by
    rcases stalled_wait .m .fault t with h | h <;> simp [h]
  exact h _

/-! ## The issue of an instruction of M -/

section Issue
variable {n : Nat} {m : Marks} {body : State → Except Stop Done} {s u w : State} {lat : Nat}

theorem noteReq_of_wait {t : State} (h : (t.eng .m).wait ≠ .lease) : noteReq (.next t) = .next t := by
  simp [noteReq, h]

/-- A body that acts, with a latency: the instruction issues so. -/
theorem issueM_finish (h : Admits .m n m s u) (hb : body u = .ok { st := w, lat := lat }) :
    issueM n m body s = .next (finish .m n m lat w) := by
  rw [issueM, issue_finish h hb, noteReq_of_wait (by simp [finish_wait])]

/-- A body that meets a cause: the instruction traps. -/
theorem issueM_trap {c : CauseRec} (h : Admits .m n m s u) (hb : body u = .error (.trap c)) :
    issueM n m body s = .next (raise .m c s) := by
  rw [issueM, issue_admits_err h hb, stopped, noteReq_of_wait (raise_wait c s)]

theorem stalled_lease (e : Engine) (w : Wait) (s : State) : (stalled e w s).core.r.lease = s.core.r.lease :=
  Regs.fixedPart_field (fun r => r.lease) (stalled_fixedPart e w s).2.1 fun _ => rfl

theorem Admits.lease {e : Engine} (h : Admits e n m s u) : u.core.r.lease = s.core.r.lease :=
  (h.field (fun c => c.r.lease) fun _ => rfl).trans (s.settle_lease e)

/-- A body that lacks the lease: M asks for it and waits (08 R292). -/
theorem issueM_asks (h : Admits .m n m s u) (hl : u.core.r.lease.held = false) (hw : (s.eng .m).wait ≠ .breath)
    (hb : body u = .error (.stall .lease)) : issueM n m body s = .next (leaseAsked s) := by
  rw [issueM, issue_admits_err h hb, stopped]
  simp only [noteReq, stalled_wait_eq hw, stalled_lease, ← h.lease, hl]
  rfl

end Issue

end Sys2Proof.Machine
end


section
/-! M's control: MFMT, MSTAT and MSCL (08 R316 to R319). -/

namespace Sys2Proof.Machine

open Sys2Proof

/-! ## The words of M's control -/

/-- What FMTSRC holds once w has been written to it: its fields of w, a source above 4 stored as 4, its Z bits 0 (02 R81). -/
theorem fmtsrcOf_fields (w : Word) :
    (fmtsrcOf (w.setWidth 16)).extractLsb' 0 3 = srcField (w.extractLsb' 0 3) ∧ (fmtsrcOf (w.setWidth 16)).getLsbD 3 = false ∧
    (fmtsrcOf (w.setWidth 16)).extractLsb' 4 4 = w.extractLsb' 4 4 ∧
    (fmtsrcOf (w.setWidth 16)).extractLsb' 8 3 = srcField (w.extractLsb' 8 3) ∧ (fmtsrcOf (w.setWidth 16)).getLsbD 11 = false ∧
    (fmtsrcOf (w.setWidth 16)).extractLsb' 12 4 = w.extractLsb' 12 4 := by
  have field (a n : Nat) (hn : a + n ≤ 16) : (w.setWidth 16).extractLsb' a n = w.extractLsb' a n := by ext i hi; simp; omega
  simp only [fmtsrcOf, field 0 3 (by decide), field 4 4 (by decide), field 8 3 (by decide), field 12 4 (by decide)]
  generalize srcField (w.extractLsb' 0 3) = a
  generalize w.extractLsb' 4 4 = b
  generalize srcField (w.extractLsb' 8 3) = c
  generalize w.extractLsb' 12 4 = d
  have bits (i : Nat) : (d ++ 0#1 ++ c ++ b ++ 0#1 ++ a).getLsbD i = if i < 3 then a.getLsbD i else if i < 4 then false
      else if i < 8 then b.getLsbD (i - 4) else if i < 11 then c.getLsbD (i - 8) else if i < 12 then false else d.getLsbD (i - 12) := by
    simp only [BitVec.getLsbD_append, BitVec.getLsbD_zero]
    grind
  have part (k n : Nat) (x : BitVec n) (h : ∀ i, i < n → (d ++ 0#1 ++ c ++ b ++ 0#1 ++ a).getLsbD (k + i) = x.getLsbD i) :
      (d ++ 0#1 ++ c ++ b ++ 0#1 ++ a).extractLsb' k n = x :=
    BitVec.eq_of_getLsbD_eq fun i hi => by simp [hi, h i hi]
  exact ⟨part 0 3 a fun i hi => by grind, bits 3, part 4 4 b fun i hi => by grind, part 8 3 c fun i hi => by grind, bits 11,
    part 12 4 d fun i hi => by grind⟩

/-- SMX as MSCL leaves it: its fields in the registers' and the options' order (08 R318, R319). -/
theorem smxOf_fields (a b : Word) (c k : Bool) :
    (smxOf a b c k).extractLsb' 0 32 = a.extractLsb' 0 32 ∧ (smxOf a b c k).extractLsb' 32 32 = a.extractLsb' 32 32 ∧
    (smxOf a b c k).extractLsb' 64 32 = b.extractLsb' 0 32 ∧ (smxOf a b c k).extractLsb' 96 32 = b.extractLsb' 32 32 ∧
    (smxOf a b c k).getLsbD 128 = c ∧ (smxOf a b c k).getLsbD 129 = k ∧ (smxOf a b c k).extractLsb' 130 126 = 0 := by
  have bits (i : Nat) (hi : i < 256) : (smxOf a b c k).getLsbD i = if i < 64 then a.getLsbD i else if i < 128 then b.getLsbD (i - 64)
      else if i = 128 then c else if i = 129 then k else false := by
    simp only [smxOf, BitVec.getLsbD_setWidth, hi, BitVec.getLsbD_append, BitVec.getLsbD_extractLsb', BitVec.getLsbD_ofBool]
    grind
  refine ⟨?_, ?_, ?_, ?_, (bits 128 (by decide)).trans (by simp), (bits 129 (by decide)).trans (by simp), ?_⟩
  all_goals
    ext i hi
    rw [BitVec.getElem_extractLsb', bits _ (by omega)]
    grind

/-- The status that MSTAT reads, field by field (08 R317). -/
theorem mstatWord_fields (u : State) :
    let r := u.core.r
    let p := (u.vale u.valeIdx).plate
    let w := mstatWord u
    w.getLsbD 0 = r.lease.held ∧ w.getLsbD 1 = r.lease.req ∧ w.getLsbD 2 = r.claim.isSome ∧
      w.getLsbD 3 = claimMatches r p ∧ w.getLsbD 4 = ((p.map Plate.failed).getD false) ∧ w.getLsbD 5 = r.mstat.lzs ∧
      w.getLsbD 6 = r.mstat.whs ∧ (w.extractLsb' 7 9).toNat = r.lease.cnt % 512 ∧
      (r.mstat.rrn < 2 ^ 16 → r.mstat.whn < 2 ^ 16 → (w.extractLsb' 16 16).toNat = r.mstat.rrn ∧
        (w.extractLsb' 32 16).toNat = r.mstat.whn ∧ w.extractLsb' 48 16 = 0) := by
  dsimp only [mstatWord]
  generalize u.core.r.lease.held = b0
  generalize u.core.r.lease.req = b1
  generalize u.core.r.claim.isSome = b2
  generalize claimMatches u.core.r (u.vale u.valeIdx).plate = b3
  generalize ((u.vale u.valeIdx).plate.map Plate.failed).getD false = b4
  generalize u.core.r.mstat.lzs = b5
  generalize u.core.r.mstat.whs = b6
  have lt (b : Bool) : b.toNat < 2 := b.toNat_lt
  have h0 := lt b0; have h1 := lt b1; have h2 := lt b2; have h3 := lt b3; have h4 := lt b4; have h5 := lt b5; have h6 := lt b6
  have bit (i x : Nat) (b : Bool) (hi : i < 64) (h : x / 2 ^ i % 2 = b.toNat) : (BitVec.ofNat 64 x).getLsbD i = b := by
    rw [BitVec.getLsbD_ofNat, Nat.testBit_eq_decide_div_mod_eq, h]
    cases b <;> simp [hi]
  have field (k n x : Nat) : ((BitVec.ofNat 64 x).extractLsb' k n).toNat = x % 2 ^ 64 / 2 ^ k % 2 ^ n := by
    rw [BitVec.extractLsb'_toNat, BitVec.toNat_ofNat, Nat.shiftRight_eq_div_pow]
  simp only [Nat.shiftLeft_eq]
  refine ⟨bit 0 _ _ (by decide) ?_, bit 1 _ _ (by decide) ?_, bit 2 _ _ (by decide) ?_, bit 3 _ _ (by decide) ?_,
    bit 4 _ _ (by decide) ?_, bit 5 _ _ (by decide) ?_, bit 6 _ _ (by decide) ?_, (field _ _ _).trans ?_,
    fun hr hw => ⟨(field _ _ _).trans ?_, (field _ _ _).trans ?_, BitVec.eq_of_toNat_eq ((field 48 16 _).trans ?_)⟩⟩
  case refine_11 => change _ = 0; omega
  all_goals omega

/-! ## The instructions -/

section Issue
variable {m : Marks} {s u : State}

theorem exec_mfmt_entry {x : Bool} {a : Fin 4} {t : BitVec 6} (ht : t.toNat < 16) (h : Admits .m (xWords x) m s u) :
    NextIs (exec (.mfmt m x a t) s) fun v =>
      v.core.cr.fmte = u.core.cr.fmte.set t.toNat ((u.eReg .m a).setWidth 20) ∧ v.core.cr.fmtsrc = u.core.cr.fmtsrc ∧ v.mem = s.mem := by
  let w : State := (u.noteDesc .m (8 + t.toNat) (zextW u.core.cr.fmte[t.toNat])).modCr
    fun c => { c with fmte := c.fmte.set t.toNat ((u.eReg .m a).setWidth 20) }
  have k : KeepsFixed w (finish .m (xWords x) m 1 w) := .finish .m _ m 1
  exact ⟨_, issueM_finish (w := w) h (by simp only [ht, ↓reduceDIte]; rfl), k.fmte, k.fmtsrc, k.mem.trans h.mem⟩

theorem exec_mfmt_source {x : Bool} {a : Fin 4} (h : Admits .m (xWords x) m s u) :
    NextIs (exec (.mfmt m x a 16) s) fun v =>
      v.core.cr.fmtsrc = fmtsrcOf ((u.eReg .m a).setWidth 16) ∧ v.core.cr.fmte = u.core.cr.fmte ∧ v.mem = s.mem := by
  let w : State := (u.noteDesc .m 24 (zextW u.core.cr.fmtsrc)).modCr fun c => { c with fmtsrc := fmtsrcOf ((u.eReg .m a).setWidth 16) }
  have k : KeepsFixed w (finish .m (xWords x) m 1 w) := .finish .m _ m 1
  exact ⟨_, issueM_finish (w := w) h rfl, k.fmtsrc, k.fmte, k.mem.trans h.mem⟩

end Issue

/-- Settles O39: each of the three acts at once, so its answer is that of an issue with latency 1; what is left is the bits of the words
that it writes. -/
theorem matrixControlIsSet : Obligations.MatrixControlIsSet := by
  unfold Obligations.MatrixControlIsSet
  refine fun m s u => ⟨fun x a h => ⟨fun t ht => exec_mfmt_entry ht h, ?_⟩, fun d h => ?_, fun a b o h => ?_⟩
  · obtain ⟨v, hv, hsrc, hfmte, hmem⟩ := exec_mfmt_source (a := a) h
    obtain ⟨h0, h3, h4, h8, h11, h12⟩ := fmtsrcOf_fields (u.eReg .m a)
    rw [← hsrc] at h0 h3 h4 h8 h11 h12
    exact ⟨v, hv, h0, h3, h4, h8, h11, h12, hfmte, hmem⟩
  · obtain ⟨h0, h1, h2, h3, h4, h5, h6, h7, h16⟩ := mstatWord_fields u
    exact ⟨mstatWord u, h0, h1, h2, h3, h4, h5, h6, h7, h16, issueM_finish h rfl⟩
  · obtain ⟨h0, h32, h64, h96, hc, hk, hz⟩ := smxOf_fields (u.eReg .m a) (u.eReg .m b) (o.getD (false, false)).1 (o.getD (false, false)).2
    exact ⟨_, h0, h32, h64, h96, hc, hk, hz, issueM_finish h rfl⟩

end Sys2Proof.Machine
end

section
/-! M's rows on their way, and the words of other engines that M passes meanwhile (08 R283; 01 R13). The statement takes the state after a
later row's cycle from the settled state, but in such a cycle M also walks on over words that are not its own. -/

namespace Sys2Proof.Machine

open Sys2Proof

/-- M has sent the first of three rows, and stands before words of C alone: a store without a text reads as NOPs of C (05 R144, R156). -/
def rowsUnderWay : State :=
  (State.reset.loadText .m []).modR fun r => { r with occ := some ⟨0, 1, 3, .later [[], []]⟩ }

/-- In the cycle of the second row M passes the 8 words of its run. -/
theorem rowsUnderWay_walks : NextIs (exec (.engineRun .m) rowsUnderWay) fun t => t.pcOf .m = 8 := ⟨_, rfl, by decide⟩

theorem rowsUnderWay_settle_pc : (rowsUnderWay.settle .m).pcOf .m = 0 := by decide

/-- Refutes O38: in a cycle of a multi-row instruction M walks on over the words of other engines that follow (`occWalk`), so that it does not
stand where it stood, as the clause on rows on their way has it. -/
theorem not_rowsAreOutput : ¬ Obligations.RowsAreOutput := by
  unfold Obligations.RowsAreOutput
  rintro ⟨⟨-, later⟩, -⟩
  have h := later rowsUnderWay ⟨0, 1, 3, .later [[], []]⟩ [] [[]] rfl rfl rfl rfl rfl rfl rfl
  obtain ⟨t, ht, hpc⟩ := rowsUnderWay_walks
  rw [ht, Host.Outcome.next.injEq] at h
  have stays : t.pcOf .m = (rowsUnderWay.settle .m).pcOf .m := by rw [h]; rfl
  rw [rowsUnderWay_settle_pc, hpc] at stays
  exact absurd stays (by decide)

end Sys2Proof.Machine
end

section
/-! The lease of a vale's array (08 R291 to R298): tables and cores in focus, what MLEASE, MREL and the counted commands do without a lease and
with one, and the arbiter's steps. -/

namespace Sys2Proof.Machine

open Sys2Proof

/-! ## Tables -/

theorem assocGet_assocSet_same {α : Type} (d : α) (k : Nat) (x : α) : ∀ l : List (Nat × α), assocGet d k (assocSet k x l) = x
  | [] => by simp [assocSet, assocGet]
  | (j, y) :: t => by
    have ih := assocGet_assocSet_same d k x t
    by_cases h : j = k
    · simp [assocSet, assocGet, h]
    · by_cases hk : k < j <;> simp [assocSet, assocGet, h, hk, ih]

theorem assocGet_assocSet_other {α : Type} (d : α) {k i : Nat} (x : α) (h : i ≠ k) :
    ∀ l : List (Nat × α), assocGet d i (assocSet k x l) = assocGet d i l
  | [] => by simp [assocSet, assocGet, Ne.symm h]
  | (j, y) :: t => by
    have ih := assocGet_assocSet_other d x h t
    by_cases hj : j = k
    · subst hj; simp [assocSet, assocGet, Ne.symm h]
    · by_cases hk : k < j
      · simp [assocSet, assocGet, hj, hk, Ne.symm h]
      · rw [assocSet, if_neg (by simpa using hj), if_neg hk, assocGet, assocGet, ih]

@[simp] theorem State.vale_setVale (s : State) (v : Nat) (x : Vale) : (s.setVale v x).vale v = x := assocGet_assocSet_same _ _ _ _

@[simp] theorem State.vale_modVale (s : State) (v : Nat) (f : Vale → Vale) : (s.modVale v f).vale v = f (s.vale v) :=
  State.vale_setVale _ _ _

/-! ## Another core in focus -/

theorem mem_cores_core (s : State) : s.core ∈ s.cores := by simp [State.cores]

theorem mem_valeCores {s : State} {v : Nat} {k : Core} : k ∈ s.valeCores v ↔ k ∈ s.cores ∧ CoreId.valeIdx k.id = v := by
  simp [State.valeCores]

theorem coreOf_some {s : State} {v n : Nat} {c : Core} (h : s.coreOf v n = some c) :
    c ∈ s.cores ∧ CoreId.valeIdx c.id = v ∧ c.id.core = n := by
  have hm := mem_valeCores.mp (List.mem_of_find?_eq_some h)
  have hn := List.find?_some h
  exact ⟨hm.1, hm.2, by simpa using hn⟩

theorem holderCore_some {s : State} {v : Nat} {c : Core} (h : s.holderCore v = some c) :
    c ∈ s.cores ∧ CoreId.valeIdx c.id = v ∧ (s.vale v).holder = some c.id.core := by
  obtain ⟨n, hn, hc⟩ := Option.bind_eq_some_iff.mp h
  obtain ⟨h1, h2, rfl⟩ := coreOf_some hc
  exact ⟨h1, h2, hn⟩

theorem focus_of_find {s : State} {c : CoreId} {x : Core} (h : (s.done ++ s.todo).find? (·.id == c) = some x) :
    s.focus c = { s with
      core := x, done := s.done.map fun y => if y.id == c then s.core else y, todo := s.todo.map fun y => if y.id == c then s.core else y } := by
  simp only [State.focus, h]

theorem find_of_mem {l : List Core} {k : Core} (h : k ∈ l) : ∃ x, l.find? (·.id == k.id) = some x :=
  Option.isSome_iff_exists.mp (List.find?_isSome.mpr ⟨k, h, by simp⟩)

/-- Acting with a core in focus and coming back: the act is done on that core as it stood, and the package keeps what comes of it. -/
theorem onCore_acts {s : State} {c : CoreId} {f : State → State} (hc : ∃ k ∈ s.cores, k.id = c)
    (hd : ∀ u, (f u).done = u.done) (ht : ∀ u, (f u).todo = u.todo) :
    ∃ u : State, u.core.id = c ∧ u.core ∈ s.cores ∧ u.vales = s.vales ∧ u.mem = s.mem ∧ (s.onCore c f).vales = (f u).vales ∧
      (s.onCore c f).mem = (f u).mem ∧ (f u).core ∈ (s.onCore c f).cores := by
  by_cases h : s.core.id = c
  · have he : s.onCore c f = f s := if_pos (by simpa using h)
    exact ⟨s, h, mem_cores_core s, rfl, rfl, by rw [he], by rw [he], he ▸ mem_cores_core (f s)⟩
  · obtain ⟨k, hk, rfl⟩ := hc
    have hk : k ∈ s.done ++ s.todo := by
      rcases List.mem_append.mp hk with hk | hk
      · exact hk
      · exact absurd (by rw [List.mem_singleton.mp hk]) h
    obtain ⟨x, hx⟩ := find_of_mem hk
    have hxid : x.id = k.id := by simpa using List.find?_some hx
    have hxm := List.mem_of_find?_eq_some hx
    have hs : s.core ∈ (f (s.focus k.id)).done ++ (f (s.focus k.id)).todo := by
      rw [hd, ht, focus_of_find hx, ← List.map_append]
      exact List.mem_map.mpr ⟨x, hxm, by simp [hxid]⟩
    obtain ⟨y, hy⟩ := find_of_mem hs
    have he : s.onCore k.id f = (f (s.focus k.id)).focus s.core.id := if_neg (by simpa using h)
    rw [focus_of_find hy] at he
    refine ⟨s.focus k.id, ?_, ?_, ?_, ?_, by rw [he], by rw [he], ?_⟩
    · rw [focus_of_find hx]; exact hxid
    · rw [focus_of_find hx]; exact List.mem_append_left _ hxm
    · rw [focus_of_find hx]
    · rw [focus_of_find hx]
    · rw [he, State.cores, ← List.map_append]
      exact List.mem_append_left _ (List.mem_map.mpr ⟨s.core, hs, by simp⟩)

/-! ## The arbiter (R293) -/

section Arbiter
variable {s : State} {v : Nat} {c : Core}

theorem arbitrate_idle (hr : ∀ k ∈ s.valeCores v, k.asks = false) : s.arbitrate v = s := by
  have hn : s.nextReq v = none := by
    rw [State.nextReq, List.find?_eq_none]
    rintro n -
    simp only [Bool.not_eq_true, List.any_eq_false, Bool.and_eq_true, not_and]
    exact fun k hk _ => hr k hk
  unfold State.arbitrate
  dsimp only
  split
  · rw [hn]
    split <;> rfl
  · rfl

/-- The first of the cores after the pointer that asks (R293). -/
theorem nextReq_first {i : Nat} (hi : i < 8)
    (ha : ∃ k ∈ s.valeCores v, k.id.core = ((s.vale v).pointer + 1 + i) % 8 ∧ k.asks = true)
    (hf : ∀ j, j < i → ¬∃ k ∈ s.valeCores v, k.id.core = ((s.vale v).pointer + 1 + j) % 8 ∧ k.asks = true) :
    s.nextReq v = some (((s.vale v).pointer + 1 + i) % 8) := by
  rw [State.nextReq, List.find?_map, Option.map_eq_some_iff]
  refine ⟨i, List.find?_eq_some_iff_getElem.mpr ⟨?_, i, by simpa using hi, by simp, fun j hj => ?_⟩, rfl⟩
  · obtain ⟨k, hk, hn, hq⟩ := ha
    exact List.any_eq_true.mpr ⟨k, hk, by simp [hn, hq]⟩
  · have := hf j hj
    simp only [not_exists, not_and, Bool.not_eq_true] at this
    simp only [List.getElem_range, Function.comp_apply, Bool.not_eq_true', List.any_eq_false, Bool.and_eq_true, beq_iff_eq, not_and]
    exact fun k hk hn => by simp [this k hk hn]

theorem arbitrate_grants {n : Nat} (hh : (s.vale v).holder = none) (hg : (s.vale v).grant = none) (hs : (s.vale v).saving = 0)
    (hn : s.nextReq v = some n) :
    s.arbitrate v = s.setVale v { s.vale v with grant := some ⟨n, s.switchCycles v n, 0⟩, pointer := n } := by
  simp [State.arbitrate, hh, hg, hs, hn]

theorem switchCycles_plain {n : Nat} (h : ∀ k, s.coreOf v n = some k → k.r.lease.cut = false) : s.switchCycles v n = 4 := by
  unfold State.switchCycles
  cases hc : s.coreOf v n with
  | none => rfl
  | some k => simp [h k hc]

theorem switchCycles_cut {n : Nat} {k : Core} (hc : s.coreOf v n = some k) (h : k.r.lease.cut = true) :
    s.switchCycles v n = 4 + k.r.saveCycles := by
  simp [State.switchCycles, hc, h]

/-! ## The grant (R293, R297) -/

theorem grantDue_of {g : Grant} (hg : (s.vale v).grant = some g) (hl : g.left ≤ 1) (hw : (s.vale v).switching = true) :
    s.grantDue v = true := by
  simp [State.grantDue, hg, hl, hw]

theorem exec_leaseGrant_takes {g : Grant} (hd : s.grantDue v = true) (hg : (s.vale v).grant = some g) (hc : s.coreOf v g.core = some c)
    (h : c.r.claim = none ∨ c.r.lease.plate ≠ none ∨ claimMatches c.r (s.vale v).plate = true) :
    exec (.leaseGrant v) s = .next (s.takeLease v c.id) := by
  change execLeaseGrant v s = _
  simp only [execLeaseGrant, hd, hg, Option.bind_some, hc]
  cases hp : c.r.lease.plate with
  | some p => rfl
  | none =>
    cases hq : c.r.claim with
    | none => rfl
    | some t => simp_all

theorem exec_leaseGrant_refetches {g : Grant} {t : PlateTag} (hd : s.grantDue v = true) (hg : (s.vale v).grant = some g)
    (hc : s.coreOf v g.core = some c) (hq : c.r.claim = some t) (hp : c.r.lease.plate = none)
    (hm : claimMatches c.r (s.vale v).plate = false) : exec (.leaseGrant v) s = .next (s.refetch v c.id t) := by
  change execLeaseGrant v s = _
  simp [execLeaseGrant, hd, hg, hc, hq, hp, hm]

/-- A core that is there takes the lease: the array is its, and of its own it changes the lease and the claim alone. -/
theorem takeLease_holds (hc : ∃ k ∈ s.cores, k.id = c.id) :
    let t := s.takeLease v c.id
    (t.vale v).holder = some c.id.core ∧ (t.vale v).grant = none ∧ (t.vale v).bud = (s.vale v).leaseb ∧ t.mem = s.mem ∧
      ∃ k ∈ t.cores, ∃ k0 ∈ s.cores, k.id = c.id ∧ k0.id = c.id ∧ k.r.lease.held = true ∧ k.r.lease.req = false ∧
        k.r.lease.cnt = k0.r.lease.cnt ∧ k.r.claim = k0.r.lease.plate.or k0.r.claim := by
  dsimp only [State.takeLease]
  obtain ⟨u, hid, hu, hv, hm, hv', hm', hk⟩ := onCore_acts (c := c.id) (f := fun u => u.modR fun r =>
    { r with
      claim := r.lease.plate.or r.claim
      claimOwn := if r.lease.plate.isSome && r.lease.plate != r.claim then false else r.claimOwn
      lease := { r.lease with held := true, req := false, cut := false } }) hc (fun _ => rfl) fun _ => rfl
  rw [State.vale_modVale]
  refine ⟨rfl, rfl, ?_, hm'.trans hm, _, hk, u.core, hu, hid, hid, rfl, rfl, rfl, rfl⟩
  exact congrArg (fun l => (assocGet Vale.reset v l).leaseb) (hv'.trans hv)

theorem refetch_grant (t : PlateTag) : ∃ again : Bool,
    let more := if again then fetchCycles t else 0
    ((s.refetch v c.id t).vale v).grant = some ⟨c.id.core, 1 + fetchCycles t + more, more⟩ := by
  unfold State.refetch
  dsimp only
  rw [State.vale_modVale]
  exact ⟨_, rfl⟩

/-! ## The end of a lease (R294) -/

/-- The lease of the core that holds the array ends: nobody holds it. -/
theorem onCore_endLease (hh : s.holderCore v = some c) :
    ((s.onCore c.id State.endLease).vale v).holder = none ∧ (s.onCore c.id State.endLease).mem = s.mem := by
  obtain ⟨hm, rfl, hn⟩ := holderCore_some hh
  obtain ⟨u, hid, -, hv, hmem, hv', hmem', -⟩ := onCore_acts (c := c.id) (f := State.endLease) ⟨c, hm, rfl⟩ (fun _ => rfl) fun _ => rfl
  refine ⟨?_, hmem'.trans hmem⟩
  have hu : (u.vale (CoreId.valeIdx c.id)).holder = some c.id.core := by rw [State.vale, hv]; exact hn
  rw [State.vale, hv', ← State.vale, State.endLease, State.valeIdx, hid, State.vale_modVale]
  simp [show ((u.modR fun r => { r with lease := { r.lease with held := false, cnt := 0 } }).vale (CoreId.valeIdx c.id)).holder = _ from hu]

theorem exec_leaseIdleEnd_due (hh : s.holderCore v = some c) (ho : s.otherReq v c.id.core = true) (hi : 63 ≤ (s.vale v).idle)
    (hb : arrayBusy c.r = false) : exec (.leaseIdleEnd v) s = .next (s.onCore c.id State.endLease) := by
  change execLeaseIdleEnd v s = _
  simp [execLeaseIdleEnd, State.idleDue, hh, ho, hi, hb]

theorem exec_leaseIdleEnd_early (hh : s.holderCore v = some c) (h : (s.vale v).idle < 63 ∨ arrayBusy c.r = true) :
    exec (.leaseIdleEnd v) s = .next s := by
  change execLeaseIdleEnd v s = _
  rcases h with h | h
  · simp [execLeaseIdleEnd, State.idleDue, hh, Nat.not_le.mpr h]
  · simp [execLeaseIdleEnd, State.idleDue, hh, h]

theorem budgetDue_of (hh : s.holderCore v = some c) (hb : (s.vale v).bud ≤ c.r.lease.cnt) (ho : c.r.occ = none)
    (hr : c.r.lease.rerun = 0) : s.budgetDue v = true := by
  simp [State.budgetDue, hh, hb, ho, hr]

theorem exec_leaseBudgetEnd_asked (hh : s.holderCore v = some c) (hd : s.budgetDue v = true) (ho : s.otherReq v c.id.core = true) :
    exec (.leaseBudgetEnd v) s = .next (s.onCore c.id State.endLease) := by
  change execLeaseBudgetEnd v s = _
  simp [execLeaseBudgetEnd, hh, hd, ho]

theorem exec_leaseBudgetEnd_alone (hh : s.holderCore v = some c) (hd : s.budgetDue v = true) (ho : s.otherReq v c.id.core = false) :
    NextIs (exec (.leaseBudgetEnd v) s) fun t => t.vale v = s.vale v ∧ ∃ k ∈ t.cores, k.id = c.id ∧ k.r.lease.cnt = 0 := by
  obtain ⟨u, hid, -, hv, -, hv', -, hk⟩ := onCore_acts (c := c.id) (f := fun u => u.modR fun r => { r with lease := { r.lease with cnt := 0 } })
    ⟨c, (holderCore_some hh).1, rfl⟩ (fun _ => rfl) fun _ => rfl
  refine ⟨_, show execLeaseBudgetEnd v s = _ by simp [execLeaseBudgetEnd, hh, hd, ho], ?_, _, hk, hid, rfl⟩
  exact congrArg (assocGet Vale.reset v) (hv'.trans hv)

end Arbiter

end Sys2Proof.Machine
end

section
/-! The instructions of the lease (08 R291, R292, R297, R298, R302): MLEASE with and without a plate, MREL, and the loading of a plate. -/

namespace Sys2Proof.Machine

open Sys2Proof

/-! ## Where an engine stands after its issue -/

theorem post_token_eng (e : Engine) (lat : Nat) (f : Fin 10) (v : View) (s : State) :
    ((s.post e lat (.token f v)).eng e).fixedPart = (s.eng e).fixedPart := by
  unfold State.post
  split
  · exact Core.land_eng _ e e _
  · exact Core.modEng_eng_fixed _ e e _ fun _ => rfl

theorem deliverSignals_eng (e : Engine) (fs : List (Fin 10)) (lat : Nat) (s : State) :
    ((deliverSignals e fs { st := s, lat := lat }).eng e).fixedPart = (s.eng e).fixedPart := by
  unfold deliverSignals
  dsimp only
  split
  · contradiction
  split
  · exact foldl_keeps (fun t : State => (t.eng e).fixedPart) _ (fun t f => post_token_eng e lat f _ t) fs s
  · exact Core.modEng_eng_fixed _ e e _ fun _ => rfl

/-- An engine that has issued stands n words on, or where its loops take it from there (01 R15, R195). -/
theorem finish_pc (e : Engine) (n : Nat) (m : Marks) (lat : Nat) (u : State) :
    (finish e n m lat u).pcOf e = (loopEndRev ((u.eng e).pc + n) (u.eng e).levels.reverse).1 := by
  have h := deliverSignals_eng e (signalList e m) lat u
  have hpc : ((deliverSignals e (signalList e m) { st := u, lat := lat }).eng e).pc = (u.eng e).pc :=
    Eng.fixedPart_field (fun x => x.pc) h fun _ => rfl
  have hlv : ((deliverSignals e (signalList e m) { st := u, lat := lat }).eng e).levels = (u.eng e).levels :=
    Eng.fixedPart_field (fun x => x.levels) h fun _ => rfl
  rw [State.pcOf, finish, retire, closeLoops_eng, State.modEng_self, State.modEng_self, ← hpc, ← hlv]
  rfl

/-! ## MLEASE -/

/-- What MLEASE with a plate does where nothing holds it back. -/
def mleaseBody (p : Fin 4) (sc : Option (Fin 4)) (t : Tile) (u : State) : Except Stop Done :=
  match u.core.r.lease.held, u.core.r.lease.plate with
  | true, some x => loadPlate x true ((counted u).modR fun r => { r with lease := { r.lease with plate := none } })
  | true, none => do
    let u ← needLease u
    let (x, v) ← plateOf u p sc t
    loadPlate x false v
  | false, some x => do
    orStall (u.grantNow && u.plateHere x true) .lease
    loadPlate x true ((counted u).modR fun r => { r with lease := { r.lease with plate := none } })
  | false, none => do
    let (_, _) ← plateOf u p sc t
    .error (.stall .lease)

/-- What MLEASE with a plate asks for at its first attempt: its plate is that of its request. -/
def requestBody (p : Fin 4) (sc : Option (Fin 4)) (t : Tile) (u : State) : Except Stop Done := do
  let (x, v) ← plateOf u p sc t
  .ok { st := v.modR fun r => { r with lease := { r.lease with plate := some x } } }

section Issue
variable {m : Marks} {s u w v : State} {p : Fin 4} {sc : Option (Fin 4)} {t : Tile} {lat : Nat} {c : CauseRec} {tag : PlateTag}

theorem exec_mleasePlate_eq : exec (.mleasePlate m p sc t) s =
    notePlate (match issueRun .m 1 m (requestBody p sc t) s with
      | .ok u => u.core.r.lease.plate
      | .error _ => none) (issueM 1 m (mleaseBody p sc t) s) := rfl

theorem notePlate_of_wait {o : Option PlateTag} (h : (v.eng .m).wait ≠ .lease) : notePlate o (.next v) = .next v := by
  simp [notePlate, h]

theorem exec_mleasePlate_finish (h : Admits .m 1 m s u) (hb : mleaseBody p sc t u = .ok { st := w, lat := lat }) :
    exec (.mleasePlate m p sc t) s = .next (finish .m 1 m lat w) := by
  rw [exec_mleasePlate_eq, issueM_finish h hb, notePlate_of_wait (by simp [finish_wait])]

theorem exec_mleasePlate_trap (h : Admits .m 1 m s u) (hb : mleaseBody p sc t u = .error (.trap c)) :
    exec (.mleasePlate m p sc t) s = .next (raise .m c s) := by
  rw [exec_mleasePlate_eq, issueM_trap h hb, notePlate_of_wait (raise_wait c s)]

/-- MLEASE whose plate passes its checks, without the lease and without a plate asked for: it asks for the lease with its plate. -/
theorem exec_mleasePlate_asks (h : Admits .m 1 m s u) (hl : u.core.r.lease.held = false) (hp : u.core.r.lease.plate = none)
    (hw : (s.eng .m).wait ≠ .breath) (ht : plateOf u p sc t = .ok (tag, v)) :
    exec (.mleasePlate m p sc t) s = .next (leaseAsked s fun r => { r with lease := { r.lease with plate := some tag } }) := by
  have hb : mleaseBody p sc t u = .error (.stall .lease) := by simp [mleaseBody, hl, hp, ht, bind, Except.bind]
  have hr : requestBody p sc t u = .ok { st := v.modR fun r => { r with lease := { r.lease with plate := some tag } } } := by
    simp [requestBody, ht, bind, Except.bind]
  have hplate : (finish .m 1 m 1 (v.modR fun r => { r with lease := { r.lease with plate := some tag } })).core.r.lease.plate = some tag := by
    rw [(KeepsFixed.finish .m 1 m 1).lease]; rfl
  rw [exec_mleasePlate_eq, issueM_asks h hl hw hb, issueRun_admits h hr]
  change notePlate (finish .m 1 m 1 _).core.r.lease.plate _ = _
  rw [hplate]
  have hwait : ((leaseAsked s).eng .m).wait = .lease := stalled_wait_eq hw
  have hheld : (leaseAsked s).core.r.lease.held = false := by
    change (stalled .m .lease s).core.r.lease.held = false
    rw [stalled_lease, ← h.lease, hl]
  have hnone : (leaseAsked s).core.r.lease.plate = none := by
    change (stalled .m .lease s).core.r.lease.plate = none
    rw [stalled_lease, ← h.lease, hp]
  simp only [notePlate, hwait, hheld, hnone]
  rfl

theorem exec_mlease_issues (h : Admits .m 1 m s u) (hg : (u.core.r.lease.held || u.grantNow) = true) :
    exec (.mlease m) s = .next (finish .m 1 m 1 u) :=
  issueM_finish h (by simp [hg, orStall, bind, Except.bind])

theorem exec_mlease_asks (h : Admits .m 1 m s u) (hl : u.core.r.lease.held = false) (hg : u.grantNow = false)
    (hw : (s.eng .m).wait ≠ .breath) : exec (.mlease m) s = .next (leaseAsked s) :=
  issueM_asks h hl hw (by simp [hl, hg, orStall, bind, Except.bind])

/-! ## A plate becomes the claim (R302) -/

theorem loadPlate_here {own : Bool} (h : v.plateHere tag own = true) :
    loadPlate tag own v = .ok
      { st := (v.modR fun r => { r with claim := some tag }).occupy .fetch (if own then 1 else 2), lat := if own then 1 else 2 } := by
  simp [loadPlate, h]

theorem loadPlate_fetch {own again : Bool} (h : v.plateHere tag own = false) (hf : v.fetchPlate tag = .ok (again, w)) :
    loadPlate tag own v = .ok
      { st := (if again then w.arrayRerun (fetchCycles tag) else w).occupy .fetch (fetchCycles tag), lat := fetchCycles tag } := by
  simp [loadPlate, h, hf, bind, Except.bind]

/-- One cycle is no occupancy beyond the issue. -/
theorem occupy_one (k : OccKind) : v.occupy k 1 = v := rfl

/-- A plate is resident by its sealed identity. -/
theorem plateHere_of_sealed (own : Bool) (h : residentSealed v tag) : v.plateHere tag own = true := by
  obtain ⟨hi, q, hq, rfl⟩ := h
  simp [State.plateHere, hq, Option.isSome_iff_ne_none.mpr hi]

theorem plateHere_of_not_sealed {own : Bool} (h : ¬residentSealed v tag) (ho : own = true → v.core.r.claimOwn = false) :
    v.plateHere tag own = false := by
  unfold State.plateHere
  cases hq : (v.vale v.valeIdx).plate with
  | none => rfl
  | some q =>
    by_cases ht : tag = q.tag
    · have hi : tag.ident = none := by
        by_contra hi
        exact h ⟨hi, q, hq, ht.symm⟩
      cases own with
      | false => simp [hi]
      | true => simp [hi, ho rfl]
    · simp [ht]

/-! ## Bodies that need the lease -/

theorem needLease_held (h : u.core.r.lease.held = true) : needLease u = .ok (counted u) := by
  simp [needLease, h, orStall, bind, Except.bind, State.countCommand, counted]

theorem needLease_free (h : u.core.r.lease.held = false) : needLease u = .error (.stall .lease) := by
  simp [needLease, h, orStall, bind, Except.bind]

end Issue

/-! ## The lease ends by MREL (R298) -/

/-- MREL ends the lease, keeps the claim, and issues as any instruction of one word does. -/
theorem exec_mrel_held {m : Marks} {s u : State} (h : Admits .m 1 m s u) (hl : u.core.r.lease.held = true) :
    NextIs (exec (.mrel m) s) fun t => t.core.r.lease.held = false ∧ t.core.r.claim = u.core.r.claim ∧ t.mem = s.mem ∧
      t.pcOf .m = (finish .m 1 m 1 u).pcOf .m ∧ (t.vale t.valeIdx).holder ≠ some t.core.id.core := by
  have k : KeepsFixed u.endLease (finish .m 1 m 1 u.endLease) := .finish .m 1 m 1
  refine ⟨_, issueM_finish (w := u.endLease) (lat := 1) h (by simp [hl]), ?_, k.claim, k.mem.trans h.mem, ?_, ?_⟩
  · rw [k.lease]; rfl
  · rw [finish_pc, finish_pc]; rfl
  · rw [State.valeIdx, State.vale, k.vales, k.id]
    change ((u.endLease).vale u.valeIdx).holder ≠ some u.core.id.core
    rw [State.endLease, State.vale_modVale]
    split
    · simp
    next hne => exact fun he => hne (by simpa using he)

theorem exec_mrel_free {m : Marks} {s u : State} (h : Admits .m 1 m s u) (hl : u.core.r.lease.held = false) :
    exec (.mrel m) s = .next (finish .m 1 m 1 u) := issueM_finish h (by simp [hl])

/-- A counted command without the lease asks for it (R292). -/
theorem exec_counted_asks {m : Marks} {x : Bool} {rows : BitVec 6} {d : Acc} {src sc : MSrc} {p q : Fin 4} {tl : Tile} {s u : State}
    (h : Admits .m (xWords x) m s u) (hl : u.core.r.lease.held = false) (hw : (s.eng .m).wait ≠ .breath) :
    ∀ i ∈ [Instr.mwld m x p tl, .mwlds m x p q tl, .mma m x rows d src tl, .mmas m x rows d src sc], exec i s = .next (leaseAsked s) := by
  have hn := needLease_free hl
  intro i hi
  simp only [List.mem_cons, List.not_mem_nil, or_false] at hi
  rcases hi with rfl | rfl | rfl | rfl
  · exact issueM_asks h hl hw (by simp [hn, bind, Except.bind])
  · exact issueM_asks h hl hw (by simp [hn, bind, Except.bind])
  · exact issueM_asks h hl hw (by simp [mmaBody, hn, bind, Except.bind])
  · exact issueM_asks h hl hw (by simp [mmaBody, hn, bind, Except.bind])

/-- MLEASE whose plate is resident, in the cycle of its grant: it claims the plate and issues (R297). -/
theorem exec_mleasePlate_granted {m : Marks} {s u : State} {p : Fin 4} {sc : Option (Fin 4)} {tl : Tile} {tag : PlateTag}
    (h : Admits .m 1 m s u) (hl : u.core.r.lease.held = false) (hg : u.grantNow = true) (hp : u.core.r.lease.plate = some tag)
    (hh : u.plateHere tag true = true) : exec (.mleasePlate m p sc tl) s = .next (finish .m 1 m 1
      (((counted u).modR fun r => { r with lease := { r.lease with plate := none } }).modR fun r => { r with claim := some tag })) := by
  refine exec_mleasePlate_finish h ?_
  have hv : ((counted u).modR fun r => { r with lease := { r.lease with plate := none } }).plateHere tag true = true := hh
  simp [mleaseBody, hl, hp, hg, hh, orStall, bind, Except.bind, loadPlate_here hv, occupy_one]

/-- Settles O36: the arbiter's steps by the functions that make them up (the first asking core, the switching cycles, the act on another
core), the instructions by their issue with the lease and without. -/
theorem leasesPassOn : Obligations.LeasesPassOn := by
  unfold Obligations.LeasesPassOn
  refine ⟨fun v s c => ⟨fun _ _ hr => arbitrate_idle hr, ?_, ?_, ?_, ?_⟩, fun m x rows d src sc p q tl s u => ⟨fun h => ⟨?_, ?_, ?_, ?_⟩, ?_⟩⟩
  · intro hh hg i hi core asks hs ha hf
    have hn := nextReq_first hi ha hf
    rw [arbitrate_grants hh hg hs hn, State.vale_setVale]
    exact ⟨rfl, _, rfl, switchCycles_plain, fun k => switchCycles_cut⟩
  · intro g hg hl hw hc
    have hd := grantDue_of hg hl hw
    refine ⟨fun h => ⟨_, exec_leaseGrant_takes hd hg hc h, takeLease_holds ⟨c, (coreOf_some hc).1, rfl⟩⟩, fun tag hq hp hm => ?_⟩
    exact ⟨_, exec_leaseGrant_refetches hd hg hc hq hp hm, refetch_grant tag⟩
  · intro hh ho
    exact ⟨fun hi hb => ⟨_, exec_leaseIdleEnd_due hh ho hi hb, onCore_endLease hh⟩, exec_leaseIdleEnd_early hh,
      fun hb hq hr => ⟨_, exec_leaseBudgetEnd_asked hh (budgetDue_of hh hb hq hr) ho, onCore_endLease hh⟩⟩
  · exact fun hh ho hb hq hr => exec_leaseBudgetEnd_alone hh (budgetDue_of hh hb hq hr) ho
  · exact fun hl => ⟨exec_mlease_issues h (by simp [hl]), exec_mrel_held h hl⟩
  · exact exec_mrel_free h
  · exact fun hl hg => ⟨exec_mlease_issues h (by simp [hg]), fun tag hp hh z _ => exec_mleasePlate_granted h hl hg hp hh⟩
  · exact fun hl hg hw => ⟨exec_mlease_asks h hl hg hw, fun hp tag v => exec_mleasePlate_asks h hl hp hw,
      fun hp tag v => exec_mleasePlate_asks h hl hp hw⟩
  · exact fun h hl hw => exec_counted_asks h hl hw

end Sys2Proof.Machine
end

section
/-! Plates (08 R286, R287, R299 to R304): the checks of a pair, what reading and fetching a plate leaves alone, and the instructions that make
a plate the claim of a core that holds the lease. -/

namespace Sys2Proof.Machine

open Sys2Proof

/-! ## The checks of a pair (R286, R287) -/

/-- The checks of a pair, each where those before it pass. -/
theorem pairCheck_eq (spw x y : Word) (t n len : Nat) :
    let base := (x.extractLsb' 0 23).toNat
    let rp := (y.extractLsb' 0 23).toNat
    let tp := (y.extractLsb' 23 23).toNat
    let rot := (y.extractLsb' 46 5).toNat
    let o := fun (r : Nat) => base + t * tp + r * rp
    pairCheck spw x y t n len =
      if x.extractLsb' 23 41 ≠ 0 ∨ y.extractLsb' 51 13 ≠ 0 then some 1
      else if base % 64 ≠ 0 ∨ rp % 64 ≠ 0 ∨ tp % 64 ≠ 0 then some 2
      else if rot ≠ 0 ∧ (rp % 2048 ≠ 0 ∨ 2048 < len) then some 3
      else if 2 ^ 23 < o (n - 1) + len then some 4
      else if inWindow spw (o 0) = true ∧ inWindow spw (o (n - 1) + len - 1) = true then none
      else some 5 := by
  simp [pairCheck, tileRef, or_assoc]

/-! ## Reads of M -/

/-- A state after reads: the bytes of memory and the core in focus are the same. -/
structure ReadsOnly (s t : State) : Prop where
  mem : t.mem = s.mem
  id  : t.core.id = s.core.id

namespace ReadsOnly

variable {s t u : State}

theorem refl (s : State) : ReadsOnly s s := ⟨rfl, rfl⟩

theorem trans (h : ReadsOnly s t) (k : ReadsOnly t u) : ReadsOnly s u := ⟨k.mem.trans h.mem, k.id.trans h.id⟩

theorem setParty (s : State) (e : Engine) (p : Party) : ReadsOnly s (s.setParty e p) := ⟨rfl, Core.modEng_id _ _ _⟩

theorem readHist (s : State) (p : Party) (pa n : Nat) (now : List Byte) : ReadsOnly s (readHist s p pa n now).st :=
  ⟨readHist_mem, by unfold Machine.readHist; dsimp only; split <;> rfl⟩

theorem fixSoft (s : State) (pa n : Nat) : ReadsOnly s (s.fixSoft pa n) :=
  ⟨fixSoft_mem, by
    unfold State.fixSoft
    split
    · rfl
    · exact foldl_keeps (fun t : State => t.core.id) State.corrected (fun _ _ => rfl) _ s⟩

theorem okRead (s : State) (e : Engine) (pa n : Nat) : Yields (ReadsOnly s) (s.okRead e pa n) := by
  unfold State.okRead
  split
  · trivial
  · exact fixSoft s pa n

theorem readPieces (n : Nat) : ∀ (k : Nat) (s : State) (p : Party) (pa : Nat), ReadsOnly s (readPieces s p pa n k).2.2
  | 0, s, _, _ => refl s
  | k + 1, s, _, _ => (readHist s _ _ _ _).trans (readPieces n k _ _ _)

theorem readSpan (s : State) (p : Party) (pa n : Nat) : ReadsOnly s (readSpan s p pa n).2.2 := by
  unfold Machine.readSpan
  split
  · exact readHist s p pa n (Memory.readN s.mem pa n)
  · exact readPieces _ _ _ _ _

theorem readLines (d : TileRef) (r : Nat) : ∀ (k i : Nat) (s : State), Yields (fun x => ReadsOnly s x.2) (readLines d r k i s)
  | 0, _, s => refl s
  | k + 1, i, s => .bind (okRead s .m _ 64) fun t ht => .bind (readLines d r k (i + 64) _) fun _ hx =>
      ht.trans ((readSpan t _ _ 64).trans ((setParty _ .m _).trans hx))

theorem readRow (d : TileRef) (r : Nat) (s : State) : Yields (fun x => ReadsOnly s x.2) (readRow d r s) :=
  .bind (readLines d r 4 0 s) fun _ h => h

theorem readPlateRows (d : TileRef) : ∀ (k r : Nat) (s : State), Yields (fun x => ReadsOnly s x.2) (readPlateRows d k r s)
  | 0, _, s => refl s
  | k + 1, r, s => .bind (readRow d r s) fun _ hx => .bind (readPlateRows d k (r + 1) _) fun _ hy => hx.trans hy

theorem readScaleRows (d : TileRef) : ∀ (k r : Nat) (s : State), Yields (fun x => ReadsOnly s x.2) (readScaleRows d k r s)
  | 0, _, s => refl s
  | k + 1, r, s => .bind (readLines d r 8 0 s) fun _ hx => .bind (readScaleRows d k (r + 1) _) fun _ hy => hx.trans hy

theorem seeDesc (s : State) (e : Engine) (k : Nat) (now : Word) : ReadsOnly s (s.seeDesc e k now).2 :=
  (readHist s _ _ _ _).trans (setParty _ _ _)

theorem fmtEntry (s : State) (e : Engine) : ReadsOnly s (s.fmtEntry e).2.2 := (seeDesc s _ _ _).trans (seeDesc _ _ _ _)

theorem pairRead (s : State) (k : Fin 4) : ReadsOnly s (s.pairRead k).2.2 := (seeDesc s _ _ _).trans (seeDesc _ _ _ _)

theorem arrayFmt (s : State) : Yields (fun x => ReadsOnly s x.2) s.arrayFmt := by
  unfold State.arrayFmt
  dsimp only
  split
  · trivial
  · exact fmtEntry s .m

theorem pairTile (s : State) (k : Fin 4) (t n len : Nat) : Yields (fun x => ReadsOnly s x.2) (s.pairTile k t n len) := by
  unfold State.pairTile
  dsimp only
  split
  · trivial
  · exact pairRead s k

end ReadsOnly

/-- The plate that an instruction names: its tag has scales where the instruction names a pair for them, and naming it only reads. -/
theorem plateOf_yields (s : State) (p : Fin 4) (sc : Option (Fin 4)) (t : Tile) :
    Yields (fun x => x.1.scales.isSome = sc.isSome ∧ ReadsOnly s x.2) (plateOf s p sc t) := by
  refine .bind (ReadsOnly.arrayFmt s) fun f hf => .bind (ReadsOnly.pairTile _ _ _ _ _) fun r hr => ?_
  cases sc with
  | none => exact ⟨rfl, hf.trans hr⟩
  | some k => exact .bind (ReadsOnly.pairTile _ _ _ _ _) fun d hd => ⟨rfl, hf.trans (hr.trans hd)⟩

/-! ## Fetching (R299, R300, R304) -/

/-- The core in focus has fetched a plate: it claims it, it is resident in its vale, and no byte of memory has changed. -/
def Fetched (s : State) (t : PlateTag) (w : State) : Prop :=
  w.core.r.claim = some t ∧ w.mem = s.mem ∧ ∃ pl, (w.vale w.valeIdx).plate = some pl ∧ pl.tag = t

theorem claimPlate_claim (s : State) (t : PlateTag) (bens : List Nat) :
    (s.claimPlate t bens).core.r.claim = some t ∧ (s.claimPlate t bens).core.id = s.core.id ∧ (s.claimPlate t bens).mem = s.mem := by
  simp [State.claimPlate, State.mapHeld, State.mapCores, State.valeIdx]

theorem endFetch_core (s : State) (v : Nat) : (s.endFetch v).core = s.core ∧ (s.endFetch v).mem = s.mem := by
  unfold State.endFetch
  split
  · exact ⟨rfl, rfl⟩
  · exact ⟨rfl, rfl⟩

/-- The scale containers of a fetched plate, and the state after they have been read. -/
def plateScales (t : PlateTag) (u : State) : Except Stop (List (BitVec 4096) × State) :=
  match t.scales with
  | some d => if t.wide then .ok (unitScales, u) else readScaleRows d 8 0 u
  | none => .ok (unitScales, u)

/-- A plate takes its place in a vale's array, with its fetch under way or none. -/
def State.putPlate (u : State) (v : Nat) (x : Plate) (y : Option SealedFetch) : State :=
  u.modVale v fun z => { z with plate := some x, sfetch := y }

/-- A plate that has been read is claimed and takes its place: whether its checksum failed, and the state then (R299, R300, R304). -/
def State.installPlate (s : State) (t : PlateTag) (rows : List Block) (sc : List (BitVec 4096)) (u : State) : Bool × State :=
  let v := s.valeIdx
  let w := (u.claimPlate t (s.beneficiaries t)).endFetch v
  let y : Option SealedFetch :=
    if t.ident.isSome then some ⟨s.core.id.core, fetchCycles t, 0, s.fetchers (s.beneficiaries t)⟩ else none
  match takeFlaw (plateFlaw v) w.flaws with
  | none => (false, w.putPlate v ⟨t, rows, sc, false⟩ y)
  | some (twice, fs) =>
    let x := State.putPlate { w with flaws := fs } v ⟨t, rows, sc, twice⟩ y
    (true, if twice then x.alert (0x4000 + v) 3 [3, 0, 1] else x)

theorem fetchPlate_eq (s : State) (t : PlateTag) : s.fetchPlate t = (do
    let r ← readPlateRows t.rows (plateRows t.wide) 0 s
    let c ← plateScales t r.2
    .ok (s.installPlate t r.1 c.1 c.2)) := by
  unfold State.fetchPlate plateScales State.installPlate
  refine congrArg _ (funext fun r => ?_)
  dsimp only
  cases t.scales with
  | none =>
    dsimp only
    refine congrArg _ (funext fun c => ?_)
    generalize takeFlaw _ _ = o
    rcases o with _ | ⟨_ | _, fs⟩ <;> rfl
  | some d =>
    cases t.wide
    all_goals
      simp only [↓reduceIte, Bool.false_eq_true]
      refine congrArg _ (funext fun c => ?_)
      generalize takeFlaw _ _ = o
      rcases o with _ | ⟨_ | _, fs⟩ <;> rfl

theorem installPlate_fetched {s u : State} (hu : ReadsOnly s u) (t : PlateTag) (rows : List Block) (sc : List (BitVec 4096)) :
    Fetched s t (s.installPlate t rows sc u).2 := by
  obtain ⟨hclaim, hid, hmem⟩ := claimPlate_claim u t (s.beneficiaries t)
  obtain ⟨hcore, hmem'⟩ := endFetch_core (u.claimPlate t (s.beneficiaries t)) s.valeIdx
  unfold State.installPlate
  dsimp only
  generalize (u.claimPlate t (s.beneficiaries t)).endFetch s.valeIdx = w at hcore hmem'
  have put (w' : State) (failed : Bool) (y : Option SealedFetch) (hc : w'.core = w.core) (hm : w'.mem = w.mem) :
      Fetched s t (w'.putPlate s.valeIdx ⟨t, rows, sc, failed⟩ y) := by
    have hidx : (w'.putPlate s.valeIdx ⟨t, rows, sc, failed⟩ y).valeIdx = s.valeIdx := by
      change CoreId.valeIdx w'.core.id = CoreId.valeIdx s.core.id
      rw [hc, hcore, hid, hu.id]
    refine ⟨?_, ?_, ⟨t, rows, sc, failed⟩, ?_, rfl⟩
    · change w'.core.r.claim = _
      rw [hc, hcore, hclaim]
    · change w'.mem = _
      rw [hm, hmem', hmem, hu.mem]
    · rw [hidx, State.putPlate, State.vale_modVale]
  split
  · exact put w _ _ rfl rfl
  · split
    · exact put { w with flaws := _ } _ _ rfl rfl
    · exact put { w with flaws := _ } _ _ rfl rfl

theorem fetchPlate_yields (s : State) (t : PlateTag) : Yields (fun x => Fetched s t x.2) (s.fetchPlate t) := by
  have scales (u : State) (hu : ReadsOnly s u) : Yields (fun x => ReadsOnly s x.2) (plateScales t u) := by
    unfold plateScales
    split
    · split
      · exact hu
      · cases h : readScaleRows _ 8 0 u with
        | error _ => trivial
        | ok x => exact hu.trans ((ReadsOnly.readScaleRows _ 8 0 u).of_eq h)
    · exact hu
  rw [fetchPlate_eq]
  exact .bind (ReadsOnly.readPlateRows t.rows _ 0 s) fun r hr => .bind (scales r.2 hr) fun c hc => installPlate_fetched hc t r.1 c.1

/-! ## The instructions that load a plate (R297, R302, R303) -/

/-- An instruction of n words that makes the plate of a pair the claim, with the lease: a cause of its checks is its trap, and it issues as the
loading of its plate does. -/
structure LoadsPlate (i : Instr) (n : Nat) (m : Marks) (p : Fin 4) (sc : Option (Fin 4)) (tl : Tile) (s u : State) : Prop where
  trap : ∀ c, plateOf (counted u) p sc tl = .error (.trap c) → exec i s = .next (raise .m c s)
  load : ∀ tag v w lat, plateOf (counted u) p sc tl = .ok (tag, v) → loadPlate tag false v = .ok { st := w, lat := lat } →
    exec i s = .next (finish .m n m lat w)

section Loads
variable {m : Marks} {x : Bool} {p q : Fin 4} {sc : Option (Fin 4)} {tl : Tile} {s u : State} {tag : PlateTag}

theorem mwld_loadsPlate (h : Admits .m (xWords x) m s u) (hl : u.core.r.lease.held = true) :
    LoadsPlate (.mwld m x p tl) (xWords x) m p none tl s u where
  trap c hc := issueM_trap h (by simp [needLease_held hl, hc, bind, Except.bind])
  load tag v w lat ht hw := issueM_finish h (by simp [needLease_held hl, ht, hw, bind, Except.bind])

theorem mwlds_loadsPlate (h : Admits .m (xWords x) m s u) (hl : u.core.r.lease.held = true) :
    LoadsPlate (.mwlds m x p q tl) (xWords x) m p (some q) tl s u where
  trap c hc := issueM_trap h (by simp [needLease_held hl, hc, bind, Except.bind])
  load tag v w lat ht hw := issueM_finish h (by simp [needLease_held hl, ht, hw, bind, Except.bind])

theorem mleasePlate_loadsPlate (h : Admits .m 1 m s u) (hl : u.core.r.lease.held = true) (hp : u.core.r.lease.plate = none) :
    LoadsPlate (.mleasePlate m p sc tl) 1 m p sc tl s u where
  trap c hc := exec_mleasePlate_trap h (by simp [mleaseBody, hl, hp, needLease_held hl, hc, bind, Except.bind])
  load tag v w lat ht hw := exec_mleasePlate_finish h (by simp [mleaseBody, hl, hp, needLease_held hl, ht, hw, bind, Except.bind])

/-- What a plate of a pair comes to: claimed where it is resident and sealed, else fetched (R302). -/
theorem LoadsPlate.outcome {i : Instr} {n : Nat} (k : LoadsPlate i n m p sc tl s u) (hmem : u.mem = s.mem) {v : State}
    (ht : plateOf (counted u) p sc tl = .ok (tag, v)) :
    tag.scales.isSome = sc.isSome ∧
    (residentSealed v tag → exec i s = .next (finish .m n m 2 ((v.modR fun r => { r with claim := some tag }).occupy .fetch 2))) ∧
    (¬residentSealed v tag → ∀ again w, v.fetchPlate tag = .ok (again, w) →
      exec i s = .next (finish .m n m (fetchCycles tag) ((if again then w.arrayRerun (fetchCycles tag) else w).occupy .fetch (fetchCycles tag))) ∧
        w.core.r.claim = some tag ∧ w.mem = s.mem ∧ ∃ pl, (w.vale w.valeIdx).plate = some pl ∧ pl.tag = tag) := by
  obtain ⟨hsc, hread⟩ := (plateOf_yields (counted u) p sc tl).of_eq ht
  refine ⟨hsc, fun hr => k.load tag v _ _ ht (loadPlate_here (plateHere_of_sealed false hr)), fun hr again w hw => ?_⟩
  obtain ⟨hclaim, hm, hpl⟩ := (fetchPlate_yields v tag).of_eq hw
  exact ⟨k.load tag v _ _ ht (loadPlate_fetch (plateHere_of_not_sealed hr (by simp)) hw), hclaim,
    hm.trans (hread.mem.trans hmem), hpl⟩

/-- The plate that an MLEASE asked for with its request, once the core holds the lease (R297). -/
theorem mleasePlate_requested (h : Admits .m 1 m s u) (hl : u.core.r.lease.held = true) (hp : u.core.r.lease.plate = some tag) :
    let v := (counted u).modR fun r => { r with lease := { r.lease with plate := none } }
    (residentSealed v tag → exec (.mleasePlate m p sc tl) s =
      .next (finish .m 1 m 1 (v.modR fun r => { r with claim := some tag }))) ∧
    (¬residentSealed v tag → v.core.r.claimOwn = false → ∀ again w, v.fetchPlate tag = .ok (again, w) →
      exec (.mleasePlate m p sc tl) s = .next (finish .m 1 m (fetchCycles tag)
        ((if again then w.arrayRerun (fetchCycles tag) else w).occupy .fetch (fetchCycles tag))) ∧ w.core.r.claim = some tag) := by
  intro v
  have hb : mleaseBody p sc tl u = loadPlate tag true v := by simp only [mleaseBody, hl, hp]; rfl
  refine ⟨fun hr => exec_mleasePlate_finish h ?_, fun hr ho again w hw => ⟨exec_mleasePlate_finish h ?_, ?_⟩⟩
  · rw [hb, loadPlate_here (plateHere_of_sealed true hr)]; rfl
  · rw [hb, loadPlate_fetch (plateHere_of_not_sealed hr fun _ => ho) hw]
  · exact ((fetchPlate_yields v tag).of_eq hw).1

end Loads

/-- Settles O35: the four instructions load a plate alike, so that what a plate comes to is shown once; the checks of a pair are a chain of
tests. -/
theorem platesAreLoaded : Obligations.PlatesAreLoaded := by
  unfold Obligations.PlatesAreLoaded
  refine ⟨fun m x p q tl s u => ⟨fun z hz h hl hp => ?_, fun sc tag h hl hp => mleasePlate_requested h hl hp⟩, ?_⟩
  · have k : LoadsPlate z.2.2 z.2.1 m p z.1 tl s u := by
      simp only [List.mem_cons, List.not_mem_nil, or_false] at hz
      rcases hz with rfl | rfl | rfl | rfl
      · exact mwld_loadsPlate h hl
      · exact mwlds_loadsPlate h hl
      · exact mleasePlate_loadsPlate h hl hp
      · exact mleasePlate_loadsPlate h hl hp
    exact ⟨k.trap, fun tag v ht => k.outcome h.mem ht⟩
  · intro spw x y t n len base rp tp rot o z a r e w
    rw [pairCheck_eq spw x y t n len]
    refine ⟨?_, ?_, ?_, ?_, ?_, ?_, fun _ _ => rfl⟩
    · exact fun hz => if_pos hz
    · exact fun hz ha => (if_neg hz).trans (if_pos ha)
    · exact fun hz ha hr => (if_neg hz).trans ((if_neg ha).trans (if_pos hr))
    · exact fun hz ha hr he => (if_neg hz).trans ((if_neg ha).trans ((if_neg hr).trans (if_pos he)))
    · exact fun hz ha hr he hw => (if_neg hz).trans ((if_neg ha).trans ((if_neg hr).trans ((if_neg he).trans (if_neg hw))))
    · exact fun hz ha hr he hw => (if_neg hz).trans ((if_neg ha).trans ((if_neg hr).trans ((if_neg he).trans (if_pos hw))))

end Sys2Proof.Machine
end

section
/-! Rows through the plate (02 R84 to R86; 08 R305 to R309): what a column of a streamed row comes to, where a row goes, what it does where it
lands, and the checks of MMA and MMAS. -/

namespace Sys2Proof.Machine

open Sys2Proof

/-! ## Sums of a row -/

/-- A sum of a row put together: the value put there. -/
theorem rowSum_packLanes {n : Nat} (g : Nat → Nat) (j : Nat) (hn : n ≤ 256) :
    rowSum (BitVec.ofNat 8192 (packLanes 32 g n)) j = if j < n then BitVec.ofNat 32 (g j) else 0 := by
  apply BitVec.eq_of_toNat_eq
  rw [rowSum, BitVec.extractLsb'_toNat, Nat.shiftRight_eq_div_pow, toNat_packLanes g (by omega), packLanes_div_mod]
  split <;> simp

theorem rowSum_packSums {n : Nat} (g : Nat → BitVec 32) {j : Nat} (hj : j < n) (hn : n ≤ 256) :
    rowSum (BitVec.ofNat 8192 (packLanes 32 (fun k => (g k).toNat) n)) j = g j := by
  rw [rowSum_packLanes _ j hn, if_pos hj, BitVec.ofNat_toNat, BitVec.setWidth_eq]

theorem getD_map_range_of_lt {α : Type} (f : Nat → α) (d : α) {n j : Nat} (hj : j < n) : ((List.range n).map f).getD j d = f j := by
  simp [List.getD, hj]

/-! ## Columns (02 R84 to R86) -/

/-- An INT8 column is the sum of its products (R86). -/
theorem columnInt_eq (a b : Nat → Nat) :
    columnInt a b = BitVec.ofInt 32 (((List.range 256).map fun k => (BitVec.ofNat 8 (a k)).toInt * (BitVec.ofNat 8 (b k)).toInt).sum) := by
  rw [columnInt, List.sum_eq_foldl, List.foldl_map]
  rfl

/-- The value of group g of a float column: its exact sum, rounded once (R84). -/
def groupValue (fa fb : Fmt) (a b : Nat → Nat) (sa sb : Nat → Num) (g : Nat) : BitVec 32 × Bool :=
  let r := ((List.range 32).foldl (fun (x : GroupSum) k =>
    x.join (elemOf fa (a (32 * g + k))) (elemOf fb (b (32 * g + k)))) .start).value fa fb (sa g) (sb g)
  (BitVec.ofNat 32 r.1, r.2)

/-- An addition of the tree of a column (R85). -/
def treeAdd (x y : BitVec 32 × Bool) : BitVec 32 × Bool := ((add32 x.1 y.1).1, (add32 x.1 y.1).2 || x.2 || y.2)

theorem columnValue_four (fa fb : Fmt) (a b : Nat → Nat) (sa sb : Nat → Num) :
    columnValue fa fb 4 a b sa sb =
      let v := groupValue fa fb a b sa sb
      treeAdd (treeAdd (v 0) (v 1)) (treeAdd (v 2) (v 3)) := rfl

theorem columnValue_eight (fa fb : Fmt) (a b : Nat → Nat) (sa sb : Nat → Num) :
    columnValue fa fb 8 a b sa sb =
      let v := groupValue fa fb a b sa sb
      treeAdd (treeAdd (treeAdd (v 0) (v 1)) (treeAdd (v 2) (v 3))) (treeAdd (treeAdd (v 4) (v 5)) (treeAdd (v 6) (v 7))) := rfl

/-- Column c of a row streamed against a plate, its t value and whether anything saturated. -/
def plateColumn (f : BitVec 20) (p : Plate) (row : Block) (sa : BitVec 128) (c : Nat) : BitVec 32 × Bool :=
  let fa := (Fmt.ofCode (fmtA f)).getD .i8
  let w := if p.tag.wide then 16 else 8
  let scale := fun (x : Nat) => if fmtScm f then scaleValue (containerCode x) else Num.fin false 1 1
  if fa == .i8 then (columnInt (lane w row) (fun k => lane w (p.rows.getD k 0) c), false)
  else columnValue fa ((Fmt.ofCode (fmtB f)).getD .i8) ((if p.tag.wide then 128 else 256) / 32) (lane w row)
    (fun k => lane w (p.rows.getD k 0) c) (fun g => scale (sa.extractLsb' (16 * g) 16).toNat)
    (fun g => scale ((p.scales.getD g 0).extractLsb' (16 * c) 16).toNat)

/-- A streamed row holds its columns. -/
theorem streamRow_column (f : BitVec 20) (p : Plate) (row : Block) (sa : BitVec 128) {c : Nat}
    (hc : c < if p.tag.wide then 128 else 256) :
    rowSum (streamRow f p row sa).1 c = (plateColumn f p row sa c).1 ∧
      (streamRow f p row sa).2.getLsbD c = (plateColumn f p row sa c).2 := by
  have hcols : (if p.tag.wide then 128 else 256) ≤ 256 := by split <;> decide
  constructor
  · unfold streamRow
    dsimp only
    rw [rowSum_packSums (fun n => ((List.map _ _).getD n ((0 : BitVec 32), false)).1) hc hcols, getD_map_range_of_lt _ _ hc]
    rfl
  · unfold streamRow
    dsimp only
    rw [getLsbD_packLanes _ _ hcols, getD_map_range_of_lt _ _ hc]
    rw [show ∀ b : Bool, (decide (c < if p.tag.wide then 128 else 256) && decide (b.toNat % 2 = 1)) = b by
      intro b; cases b <;> simp [hc]]
    rfl

theorem plateColumn_int {f : BitVec 20} {p : Plate} (hf : Fmt.ofCode (fmtA f) = some .i8) (hw : p.tag.wide = false) (row : Block)
    (sa : BitVec 128) (c : Nat) :
    (plateColumn f p row sa c).1 = BitVec.ofInt 32 (((List.range 256).map fun k => (BitVec.ofNat 8 (lane 8 row k)).toInt *
      (BitVec.ofNat 8 (lane 8 (p.rows.getD k 0) c)).toInt).sum) := by
  simp only [plateColumn, hf, hw, Option.getD_some, beq_self_eq_true, ↓reduceIte, Bool.false_eq_true]
  exact columnInt_eq _ _

/-! ## A group of finite products (R84) -/

theorem elemOf_finite {f : Fmt} {c : Nat} (h : (decodeFmt f c).isFin = true) : (elemOf f c).nan = false ∧ (elemOf f c).inf = false := by
  unfold elemOf
  cases hd : decodeFmt f c <;> simp_all [Num.isFin]

theorem foldl_join_finite (fa fb : Fmt) : ∀ (xs : List (Nat × Nat)) (g : GroupSum),
    (∀ x ∈ xs, (decodeFmt fa x.1).isFin = true ∧ (decodeFmt fb x.2).isFin = true) →
    let r := xs.foldl (fun (g : GroupSum) x => g.join (elemOf fa x.1) (elemOf fb x.2)) g
    r.nan = g.nan ∧ r.pinf = g.pinf ∧ r.ninf = g.ninf ∧ r.n = g.n + (xs.map fun x => (elemOf fa x.1).n * (elemOf fb x.2).n).sum
  | [], g, _ => by simp
  | x :: xs, g, h => by
    obtain ⟨ha, hb⟩ := h x (by simp)
    obtain ⟨an, ai⟩ := elemOf_finite ha
    obtain ⟨bn, bi⟩ := elemOf_finite hb
    obtain ⟨h1, h2, h3, h4⟩ := foldl_join_finite fa fb xs (g.join (elemOf fa x.1) (elemOf fb x.2)) fun y hy => h y (by simp [hy])
    have hj : g.join (elemOf fa x.1) (elemOf fb x.2) = { g with
        n := g.n + (elemOf fa x.1).n * (elemOf fb x.2).n
        mz := g.mz && (elemOf fa x.1).n * (elemOf fb x.2).n == 0 && ((elemOf fa x.1).neg != (elemOf fb x.2).neg) } := by
      simp [GroupSum.join, an, ai, bn, bi]
    rw [hj] at h1 h2 h3 h4
    rw [List.foldl_cons, hj]
    exact ⟨h1, h2, h3, by rw [h4, List.map_cons, List.sum_cons, Int.add_assoc]⟩

theorem value_finite {fa fb : Fmt} {g : GroupSum} {sa sb : Num} (hn : g.nan = false) (hp : g.pinf = false) (hm : g.ninf = false)
    (ha : sa.isNan = false) (hb : sb.isNan = false) :
    g.value fa fb sa sb = toFmt (((Num.scaled (decide (g.n < 0) || (g.n == 0 && g.mz)) g.n.natAbs (fmtStep fa + fmtStep fb)).mul sa).mul sb) .f32 true := by
  simp [GroupSum.value, hn, hp, hm, ha, hb]

/-! ## Where a row goes (R304, R306, R308) -/

section Rows
variable {d : Nat} {src : MSrc} {sc : Option MSrc} {tile : Nat} {f : BitVec 20} {desc : Vector Word 4} {i : Nat} {s s1 s2 : State}
  {row : Block} {sa : BitVec 128} {p : Plate}

/-- The landing of a row that the plate has multiplied. -/
def rowLand (d i : Nat) (f : BitVec 20) (p : Plate) (row : Block) (sa : BitVec 128) : Land :=
  .rowAcc (d + i) (if p.tag.wide then 128 else 256) (Fmt.ofCode (fmtA f) == some .i8) (streamRow f p row sa).1 (streamRow f p row sa).2

theorem mmaRow_failed (ha : aRow src (keptTile desc[0] desc[1] tile src) i s = .ok (row, s1))
    (hs : aScale sc (sc.bind fun x => keptTile desc[2] desc[3] 0 x) i s1 = .ok (sa, s2)) (hp : (s.vale s.valeIdx).plate = some p)
    (hf : p.failed = true) : mmaRow d src sc tile f desc i s = .ok (s2.post .m 12 (.rowWithheld (d + i))) := by
  simp [mmaRow, ha, hs, hp, hf, bind, Except.bind]

theorem mmaRow_sound (ha : aRow src (keptTile desc[0] desc[1] tile src) i s = .ok (row, s1))
    (hs : aScale sc (sc.bind fun x => keptTile desc[2] desc[3] 0 x) i s1 = .ok (sa, s2)) (hp : (s.vale s.valeIdx).plate = some p)
    (hf : p.failed = false) (ht : takeFlaw (rowFlaw s.valeIdx) s2.flaws = none) :
    mmaRow d src sc tile f desc i s = .ok (s2.post .m 12 (rowLand d i f p row sa)) := by
  simp [mmaRow, ha, hs, hp, hf, ht, bind, Except.bind, rowLand]

/-- The state after a row's checksum has failed, once or twice: the array reruns the row, RRN counts, and the event is posted. -/
def rowRerun (s s2 : State) (fs : List Config.Flaw) (d i : Nat) (twice : Bool) : State :=
  (({ s2 with flaws := fs }.arrayRerun 13).modR fun r => { r with mstat := { r.mstat with rrn := min (r.mstat.rrn + 1) 0xFFFF } }).alert
    (0x4000 + s.valeIdx) (if twice then 4 else 3) [1, d + i, 1]

theorem mmaRow_rerun (ha : aRow src (keptTile desc[0] desc[1] tile src) i s = .ok (row, s1))
    (hs : aScale sc (sc.bind fun x => keptTile desc[2] desc[3] 0 x) i s1 = .ok (sa, s2)) (hp : (s.vale s.valeIdx).plate = some p)
    (hf : p.failed = false) {twice : Bool} {fs : List Config.Flaw} (ht : takeFlaw (rowFlaw s.valeIdx) s2.flaws = some (twice, fs)) :
    mmaRow d src sc tile f desc i s = .ok ((rowRerun s s2 fs d i twice).post .m 12
      (if twice then .rowWithheld (d + i) else rowLand d i f p row sa)) := by
  cases twice <;> simp [mmaRow, ha, hs, hp, hf, ht, bind, Except.bind, rowLand, rowRerun]

end Rows

/-! ## Rows where they land (R306, R309) -/

section Landing
variable {r : Regs} {e : Engine} {i k : Nat}

theorem row_setRow_same (r : Regs) (i : Nat) (x : Row) : (r.setRow i x).row i = x := assocGet_assocSet_same _ _ _ _
theorem row_setRow_other (x : Row) (h : k ≠ i) : (r.setRow i x).row k = r.row k := assocGet_assocSet_other _ x h _

/-- A row accumulated: the columns of the array gain their t values, the others and the side fields stay. -/
theorem accumulate_sum (x : Row) {cols : Nat} (int : Bool) (t : BitVec 8192) (ovf : BitVec 256) {j : Nat} (hj : j < 256) :
    rowSum (x.accumulate cols int t ovf).sum j =
      if j < cols then (accOne int (rowSum x.sum j) (rowSum t j)).1 else rowSum x.sum j := by
  unfold Row.accumulate
  dsimp only
  rw [rowSum_packLanes _ j (by decide), if_pos hj]
  split <;> simp

theorem accumulate_rest (x : Row) (cols : Nat) (int : Bool) (t : BitVec 8192) (ovf : BitVec 256) :
    (x.accumulate cols int t ovf).rmax = x.rmax ∧ (x.accumulate cols int t ovf).rden = x.rden ∧
      (x.accumulate cols int t ovf).valid = x.valid ∧ (x.accumulate cols int t ovf).int = x.int := by
  unfold Row.accumulate
  exact ⟨rfl, rfl, rfl, rfl⟩

theorem accumulate_ovf (x : Row) (cols : Nat) (int : Bool) (t : BitVec 8192) (ovf : BitVec 256) :
    (x.accumulate cols int t ovf).ovf = satAdd32 x.ovf ((List.range cols).filter fun j =>
      (accOne int (rowSum x.sum j) (rowSum t j)).2 || ovf.getLsbD j).length := by
  unfold Row.accumulate
  dsimp only
  rw [countTo_eq]

end Landing

/-! ## The checks of MMA and MMAS (R305, R309) -/

theorem typeOk_iff {r : Regs} {a n : Nat} {b : Bool} : typeOk r a n b = true ↔ ∀ i, i < n → (r.row (a + i)).int = b := by
  simp [typeOk, rowsFrom]

/-- MMA and MMAS once the entry and the pairs have passed: the claim, the range, the type, then row 0. -/
def mmaChecked (d : Acc) (src : MSrc) (sc : Option MSrc) (tile n : Nat) (f : BitVec 20) (desc : Vector Word 4) (v : State) :
    Except Stop Done :=
  if v.core.r.claim.isNone then .error (plateFault v 1)
  else if !claimMatches v.core.r (v.vale v.valeIdx).plate then .error (plateFault v 2)
  else if ((v.core.r.claim.map PlateTag.wide).getD false) != fmtWide (fmtA f) then .error (plateFault v 3)
  else if !rangeOk (v.accNum d) n then .error (rangeFault v)
  else if !typeOk v.core.r (v.accNum d) n (Fmt.ofCode (fmtA f) == some .i8) then .error (typeFault v)
  else do
    let w ← mmaRow (v.accNum d) src sc tile f desc 0 v
    .ok { st := w.occupy (.mma (v.accNum d) src sc tile f desc) n, lat := n + 11 }

section Body
variable {d : Acc} {src : MSrc} {sc : Option MSrc} {t : Tile} {n : Nat} {u v1 v2 v : State} {f : BitVec 20} {x0 x1 x2 x3 : Word} {st : Stop}

theorem mmaBody_entry_stop (hl : u.core.r.lease.held = true) (hf : (counted u).arrayFmt = .error st) :
    mmaBody d src sc t n u = .error st := by
  simp [mmaBody, needLease_held hl, hf, bind, Except.bind]

theorem mmaBody_pair_stop (hl : u.core.r.lease.held = true) (hf : (counted u).arrayFmt = .ok (f, v1))
    (hp : keepPair v1 (some src) (v1.tileNum t) n 256 = .error st) : mmaBody d src sc t n u = .error st := by
  simp [mmaBody, needLease_held hl, hf, hp, bind, Except.bind]

theorem mmaBody_scales_stop (hl : u.core.r.lease.held = true) (hf : (counted u).arrayFmt = .ok (f, v1))
    (hp : keepPair v1 (some src) (v1.tileNum t) n 256 = .ok (x0, x1, v2)) (hs : keepPair v2 sc 0 n 16 = .error st) :
    mmaBody d src sc t n u = .error st := by
  simp [mmaBody, needLease_held hl, hf, hp, hs, bind, Except.bind]

theorem mmaBody_checked (hl : u.core.r.lease.held = true) (hf : (counted u).arrayFmt = .ok (f, v1))
    (hp : keepPair v1 (some src) (v1.tileNum t) n 256 = .ok (x0, x1, v2)) (hs : keepPair v2 sc 0 n 16 = .ok (x2, x3, v)) :
    mmaBody d src sc t n u = mmaChecked d src sc (v1.tileNum t) n f #v[x0, x1, x2, x3] v := by
  simp only [mmaBody, needLease_held hl, hf, hp, hs, bind, Except.bind]
  rfl

variable {tile : Nat} {desc : Vector Word 4} {tag : PlateTag} {w : State}

theorem mmaChecked_unclaimed (hc : v.core.r.claim = none) :
    mmaChecked d src sc tile n f desc v = .error (.trap (causeAt v .m 0x21 1)) := by
  simp [mmaChecked, hc, plateFault]

section Claimed
variable (hc : v.core.r.claim = some tag)
include hc

theorem mmaChecked_missed (hm : claimMatches v.core.r (v.vale v.valeIdx).plate = false) :
    mmaChecked d src sc tile n f desc v = .error (.trap (causeAt v .m 0x21 2)) := by
  simp [mmaChecked, hc, hm, plateFault]

variable (hm : claimMatches v.core.r (v.vale v.valeIdx).plate = true)
include hm

theorem mmaChecked_width (hw : tag.wide ≠ fmtWide (fmtA f)) :
    mmaChecked d src sc tile n f desc v = .error (.trap (causeAt v .m 0x21 3)) := by
  simp [mmaChecked, hc, hm, hw, plateFault]

variable (hw : tag.wide = fmtWide (fmtA f))
include hw

theorem mmaChecked_range (hr : 512 < v.accNum d + n) :
    mmaChecked d src sc tile n f desc v = .error (.trap (causeAt v .m 0x22 0)) := by
  simp [mmaChecked, hc, hm, hw, rangeOk, Nat.not_le.mpr hr, rangeFault]

variable (hr : v.accNum d + n ≤ 512)
include hr

theorem mmaChecked_type (ht : ¬∀ i, i < n → (v.core.r.row (v.accNum d + i)).int = (Fmt.ofCode (fmtA f) == some .i8)) :
    mmaChecked d src sc tile n f desc v = .error (.trap (causeAt v .m 0x23 0)) := by
  have ht : typeOk v.core.r (v.accNum d) n (Fmt.ofCode (fmtA f) == some .i8) = false := by
    rw [← Bool.not_eq_true, typeOk_iff]; exact ht
  simp [mmaChecked, hc, hm, hw, rangeOk, hr, ht, typeFault]

theorem mmaChecked_streams (ht : ∀ i, i < n → (v.core.r.row (v.accNum d + i)).int = (Fmt.ofCode (fmtA f) == some .i8))
    (ho : mmaRow (v.accNum d) src sc tile f desc 0 v = .ok w) :
    mmaChecked d src sc tile n f desc v = .ok { st := w.occupy (.mma (v.accNum d) src sc tile f desc) n, lat := n + 11 } := by
  have ht := typeOk_iff.mpr ht
  simp [mmaChecked, hc, hm, hw, rangeOk, hr, ht, ho, bind, Except.bind]

end Claimed

end Body

/-! ## The parts of the statement -/

/-- A float column of the array: the tree over its groups (R85). -/
theorem plateColumn_float {f : BitVec 20} {p : Plate} {fa fb : Fmt} (ha : Fmt.ofCode (fmtA f) = some fa) (hb : Fmt.ofCode (fmtB f) = some fb)
    (hi : fa ≠ .i8) (row : Block) (sa : BitVec 128) (c : Nat) :
    plateColumn f p row sa c =
      let w := if p.tag.wide then 16 else 8
      let scale := fun (x : Nat) => if fmtScm f then scaleValue (containerCode x) else Num.fin false 1 1
      let v := groupValue fa fb (lane w row) (fun k => lane w (p.rows.getD k 0) c) (fun g => scale (sa.extractLsb' (16 * g) 16).toNat)
        (fun g => scale ((p.scales.getD g 0).extractLsb' (16 * c) 16).toNat)
      let half := fun (g : Nat) => treeAdd (treeAdd (v g) (v (g + 1))) (treeAdd (v (g + 2)) (v (g + 3)))
      if p.tag.wide then half 0 else treeAdd (half 0) (half 4) := by
  have hi : (fa == .i8) = false := by simpa using hi
  unfold plateColumn
  simp only [ha, hb, Option.getD_some, hi, Bool.false_eq_true, ↓reduceIte]
  cases p.tag.wide
  · exact columnValue_eight ..
  · exact columnValue_four ..

/-- A row that lands in the accumulator, and one that has been withheld. -/
theorem rows_land (r : Regs) (e : Engine) (i cols : Nat) (int : Bool) (t : BitVec 8192) (ovf : BitVec 256) :
    let y := (r.land e (.rowAcc i cols int t ovf)).row i
    (∀ j, j < 256 → rowSum y.sum j = if j < cols then (accOne int (rowSum (r.row i).sum j) (rowSum t j)).1
      else rowSum (r.row i).sum j) ∧
    y.rmax = (r.row i).rmax ∧ y.rden = (r.row i).rden ∧ y.valid = (r.row i).valid ∧ y.int = (r.row i).int ∧
    y.ovf = satAdd32 (r.row i).ovf ((List.range cols).filter fun j =>
      (accOne int (rowSum (r.row i).sum j) (rowSum t j)).2 || ovf.getLsbD j).length ∧
    (∀ k, k ≠ i → (r.land e (.rowAcc i cols int t ovf)).row k = r.row k) ∧
    (r.land e (.rowWithheld i)).row i = { r.row i with valid := false } ∧
    (r.land e (.rowWithheld i)).mstat.whs = true ∧ (r.land e (.rowWithheld i)).mstat.whn = min (r.mstat.whn + 1) 0xFFFF ∧
    ∀ k, k ≠ i → (r.land e (.rowWithheld i)).row k = r.row k := by
  have hy : (r.land e (.rowAcc i cols int t ovf)).row i = (r.row i).accumulate cols int t ovf := row_setRow_same _ _ _
  obtain ⟨hmax, hden, hvalid, hint⟩ := accumulate_rest (r.row i) cols int t ovf
  rw [hy]
  exact ⟨fun j => accumulate_sum _ int t ovf, hmax, hden, hvalid, hint, accumulate_ovf _ _ _ _ _, fun k hk => row_setRow_other _ hk,
    row_setRow_same _ _ _, rfl, rfl, fun k hk => row_setRow_other _ hk⟩

/-- Settles O37: a row through the plate by its columns and its landing; MMA and MMAS by the checks that they share, in their order. -/
theorem rowsStreamThroughThePlate : Obligations.RowsStreamThroughThePlate := by
  unfold Obligations.RowsStreamThroughThePlate
  refine ⟨⟨?_, fun _ _ => rfl, ?_, ?_, ?_⟩, ?_⟩
  · intro d src sc tile f desc i s s1 s2 row sa p ha hs hp
    refine ⟨mmaRow_failed ha hs hp, fun hf ht => ⟨_, _, mmaRow_sound ha hs hp hf ht, ?_, ?_⟩, fun twice fs hf ht => ?_⟩
    · intro hi hw c hc
      rw [(streamRow_column f p row sa (by simpa [hw] using hc)).1, plateColumn_int hi hw]
    · intro fa fb hfa hfb hi c hc
      obtain ⟨h1, h2⟩ := streamRow_column f p row sa hc
      rw [h1, h2, plateColumn_float hfa hfb hi]
      rfl
    · refine ⟨rowRerun s s2 fs d i twice, rfl, rfl, rfl, rfl, ?_, ?_⟩
      · rintro rfl
        exact mmaRow_rerun ha hs hp hf ht
      · rintro rfl
        exact ⟨_, _, mmaRow_rerun ha hs hp hf ht⟩
  · intro s i q x r h
    simp [aRow, h, bind, Except.bind]
  · intro fa fb xs sa sb hx ha hb g
    obtain ⟨h1, h2, h3, h4⟩ := foldl_join_finite fa fb xs .start hx
    exact ⟨h1, h2, h3, h4.trans (Int.zero_add _), value_finite h1 h2 h3 ha hb⟩
  · exact fun r e i cols int t ovf _ _ => rows_land r e i cols int t ovf
  · intro m x rows d src sc0 tl0 s u h hl z hz n traps
    have he : exec z.2.2 s = issueM (xWords x) m (mmaBody d src z.1 z.2.1 n) s := by
      simp only [List.mem_cons, List.not_mem_nil, or_false] at hz
      rcases hz with rfl | rfl <;> rfl
    have trap (c : CauseRec) (hb : mmaBody d src z.1 z.2.1 n u = .error (.trap c)) : traps c := he.trans (issueM_trap h hb)
    refine ⟨fun c hf => trap c (mmaBody_entry_stop hl hf), fun f v1 hf => ⟨fun c hp => trap c (mmaBody_pair_stop hl hf hp),
      fun x0 x1 v2 hp => ⟨fun c hs => trap c (mmaBody_scales_stop hl hf hp hs), fun x2 x3 v hs => ?_⟩⟩⟩
    intro r a int typed
    have hbody := mmaBody_checked (d := d) hl hf hp hs
    have hint : int = (Fmt.ofCode (fmtA f) == some .i8) := by simp only [int, Bool.beq_eq_decide_eq]
    have fault {c : CauseRec} (hb : mmaChecked d src z.1 (v1.tileNum z.2.1) n f #v[x0, x1, x2, x3] v = .error (.trap c)) : traps c :=
      trap c (hbody.trans hb)
    refine ⟨fun hc => fault (mmaChecked_unclaimed hc), fun tag hc => ⟨fun hm => fault (mmaChecked_missed hc hm),
      fun hm hw => fault (mmaChecked_width hc hm hw), fun hm hw hr => fault (mmaChecked_range hc hm hw hr),
      fun hm hw hr ht => fault (mmaChecked_type hc hm hw hr (hint ▸ ht)), fun hm hw hr ht w hw' => ?_⟩⟩
    exact he.trans (issueM_finish h (hbody.trans (mmaChecked_streams hc hm hw hr (hint ▸ ht) hw')))

end Sys2Proof.Machine
end

section
/-! The codes of a floating format (02 R65 to R76): to_fmt gives a code of the format's own width. A value within the finite range of a format is
below a power of two, which bounds the exponent field; a significand is below twice its leading place. -/

namespace Sys2Proof.Machine

open Sys2Proof

/-! ## Exponents and significands -/

/-- A fraction lies between the power of two that `floorLog2` names and the next. -/
theorem floorLog2_spec {n d : Nat} (hn : 0 < n) (hd : 0 < d) :
    (2 : ℚ) ^ floorLog2 n d ≤ (n : ℚ) / d ∧ (n : ℚ) / d < (2 : ℚ) ^ (floorLog2 n d + 1) := by
  have hd' : (0 : ℚ) < d := by exact_mod_cast hd
  have two (k : Int) : (2 : ℚ) ^ (k + 1) = 2 * 2 ^ k := by rw [zpow_add₀ (by norm_num), zpow_one, mul_comm]
  have n1 : (2 : ℚ) ^ (n.log2 : Int) ≤ n := by exact_mod_cast Nat.log2_self_le hn.ne'
  have n2 : (n : ℚ) < 2 * 2 ^ (n.log2 : Int) := by rw [← two]; exact_mod_cast Nat.lt_log2_self
  have d1 : (2 : ℚ) ^ (d.log2 : Int) ≤ d := by exact_mod_cast Nat.log2_self_le hd.ne'
  have d2 : (d : ℚ) < 2 * 2 ^ (d.log2 : Int) := by rw [← two]; exact_mod_cast Nat.lt_log2_self
  have split : (2 : ℚ) ^ ((n.log2 : Int) - d.log2) * 2 ^ (d.log2 : Int) = 2 ^ (n.log2 : Int) := by
    rw [← zpow_add₀ (by norm_num)]; congr 1; omega
  have pos : (0 : ℚ) < 2 ^ ((n.log2 : Int) - d.log2) := by positivity
  have above : (n : ℚ) < 2 * 2 ^ ((n.log2 : Int) - d.log2) * d := by nlinarith
  have below : (2 : ℚ) ^ ((n.log2 : Int) - d.log2) * d < 2 * n := by nlinarith
  have okIff : (match (n.log2 : Int) - d.log2 with
      | .ofNat k => decide (d <<< k ≤ n)
      | .negSucc k => decide (d ≤ n <<< (k + 1))) = true ↔ (2 : ℚ) ^ ((n.log2 : Int) - d.log2) * d ≤ n := by
    cases (n.log2 : Int) - d.log2 with
    | ofNat k =>
      simp only [decide_eq_true_eq, Nat.shiftLeft_eq, Int.ofNat_eq_natCast, zpow_natCast]
      rw [mul_comm]
      exact_mod_cast Iff.rfl
    | negSucc k =>
      simp only [decide_eq_true_eq, Nat.shiftLeft_eq, zpow_negSucc]
      rw [inv_mul_le_iff₀ (by positivity), mul_comm]
      exact_mod_cast Iff.rfl
  by_cases h : (2 : ℚ) ^ ((n.log2 : Int) - d.log2) * d ≤ n
  · rw [show floorLog2 n d = (n.log2 : Int) - d.log2 from if_pos (okIff.mpr h)]
    exact ⟨(le_div_iff₀ hd').mpr h, by rw [two, div_lt_iff₀ hd']; exact above⟩
  · rw [show floorLog2 n d = (n.log2 : Int) - d.log2 - 1 from if_neg (mt okIff.mp h)]
    have half : (2 : ℚ) * 2 ^ ((n.log2 : Int) - d.log2 - 1) = 2 ^ ((n.log2 : Int) - d.log2) := by rw [← two, sub_add_cancel]
    refine ⟨(le_div_iff₀ hd').mpr (by nlinarith), ?_⟩
    rw [sub_add_cancel, div_lt_iff₀ hd']
    exact lt_of_not_ge h

/-- A fraction counted in units of a power of two. -/
theorem scaleFrac_spec (n : Nat) {d : Nat} (hd : 0 < d) (q : Int) :
    0 < (scaleFrac n d q).2 ∧ ((scaleFrac n d q).1 : ℚ) / (scaleFrac n d q).2 = (n : ℚ) / d / 2 ^ q := by
  have hd' : (d : ℚ) ≠ 0 := by exact_mod_cast hd.ne'
  cases q with
  | ofNat k =>
    refine ⟨by simp only [scaleFrac, Nat.shiftLeft_eq]; positivity, ?_⟩
    simp only [scaleFrac, Nat.shiftLeft_eq, Int.ofNat_eq_natCast, zpow_natCast]
    push_cast
    rw [div_div]
  | negSucc k =>
    refine ⟨hd, ?_⟩
    simp only [scaleFrac, Nat.shiftLeft_eq, zpow_negSucc]
    push_cast
    rw [div_inv_eq_mul, div_mul_eq_mul_div]

/-- A significand of precision p is below 2^p. -/
theorem significand_lt {n d : Nat} (hn : 0 < n) (hd : 0 < d) (p b : Nat) :
    let s := scaleFrac n d (quantum p b (floorLog2 n d))
    s.1 / s.2 < 2 ^ p := by
  intro s
  obtain ⟨hpos, hval⟩ := scaleFrac_spec n hd (quantum p b (floorLog2 n d))
  have hq : floorLog2 n d + 1 ≤ p + quantum p b (floorLog2 n d) := by unfold quantum; dsimp only; split <;> omega
  have hlt : (s.1 : ℚ) / s.2 < 2 ^ p := by
    rw [hval, div_lt_iff₀ (by positivity)]
    calc (n : ℚ) / d < 2 ^ (floorLog2 n d + 1) := (floorLog2_spec hn hd).2
      _ ≤ 2 ^ ((p : Int) + quantum p b (floorLog2 n d)) := zpow_le_zpow_right₀ (by norm_num) hq
      _ = 2 ^ p * 2 ^ quantum p b (floorLog2 n d) := by rw [zpow_add₀ (by norm_num), zpow_natCast]
  rw [Nat.div_lt_iff_lt_mul hpos]
  rw [div_lt_iff₀ (by exact_mod_cast hpos)] at hlt
  exact_mod_cast hlt

/-- The exponent of a fraction below 2^k. -/
theorem floorLog2_lt {n d k : Nat} (hn : 0 < n) (hd : 0 < d) (h : n < 2 ^ k * d) : floorLog2 n d < k := by
  have hlt : (n : ℚ) / d < 2 ^ (k : Int) := by
    rw [div_lt_iff₀ (by exact_mod_cast hd), zpow_natCast]
    exact_mod_cast h
  exact (zpow_lt_zpow_iff_right₀ (by norm_num : (1 : ℚ) < 2)).mp (lt_of_le_of_lt (floorLog2_spec hn hd).1 hlt)

/-! ## The room of a format -/

/-- The power of two above every finite value of a 16-bit or binary8 floating format. -/
def topExp : Fmt → Nat
  | .bf16 => 128
  | .f16 => 16
  | f => fmtBias f

/-- The formats of MSMX: 16-bit floats and binary8 (02 R80). -/
def isNarrow (f : Fmt) : Bool := f.isB8 || f == .bf16 || f == .f16

/-- The finite range of a format is below `2 ^ topExp f`, and its lowest value is the opposite of its largest, or 0. -/
def spanOk (f : Fmt) : Bool :=
  match maxFinite f with
  | .fin false b d => decide (0 < d) && decide (b < 2 ^ topExp f * d) &&
      (minFinite f == .fin true b d || minFinite f == .fin false 0 1)
  | _ => false

/-- The sign bit of a format's code, 0 where it has none. -/
def signPlace (f : Fmt) : Nat := if fmtSigned f then 2 ^ (f.width - 1) else 0

/-- The finite range of a format, and the codes that it leaves room for. -/
structure HasRoom (f : Fmt) : Prop where
  float : f ≠ .i8 ∧ f ≠ .i32
  span  : spanOk f = true
  codes : signPlace f + (topExp f + fmtBias f) * 2 ^ (fmtPrec f - 1) ≤ 2 ^ f.width
  prec  : 2 ^ fmtPrec f = 2 * 2 ^ (fmtPrec f - 1)
  bias  : 1 ≤ topExp f + fmtBias f
  nan   : nanCode f < 2 ^ f.width
  inf   : ∀ s, infCode f s < 2 ^ f.width

theorem spanOk_b8 : ∀ u i p, spanOk (.b8 u i p) = true := by decide

theorem codes_b8 : ∀ u i p, signPlace (.b8 u i p) +
    (topExp (.b8 u i p) + fmtBias (.b8 u i p)) * 2 ^ (fmtPrec (.b8 u i p) - 1) ≤ 2 ^ Fmt.width (.b8 u i p) := by decide

theorem bias_b8 : ∀ u i p, 1 ≤ topExp (.b8 u i p) + fmtBias (.b8 u i p) := by decide

theorem nanCode_b8 : ∀ u i p, nanCode (.b8 u i p) < 2 ^ Fmt.width (.b8 u i p) := by decide

theorem infCode_b8 : ∀ u i p s, infCode (.b8 u i p) s < 2 ^ Fmt.width (.b8 u i p) := by decide

theorem hasRoom_of_isNarrow {f : Fmt} (h : isNarrow f = true) : HasRoom f := by
  cases f with
  | f32 => cases h
  | i8 => cases h
  | i32 => cases h
  | bf16 => exact ⟨by decide, by decide, by decide, by decide, by decide, by decide, by decide⟩
  | f16 => exact ⟨by decide, by decide, by decide, by decide, by decide, by decide, by decide⟩
  | b8 u i p => exact ⟨⟨nofun, nofun⟩, spanOk_b8 u i p, codes_b8 u i p, pow_succ' 2 p.val, bias_b8 u i p, nanCode_b8 u i p, infCode_b8 u i p⟩

/-! ## The code of a value -/

/-- The code of a finite value in a floating format. -/
theorem encodeFmt_fin {f : Fmt} (hf : f ≠ .i8 ∧ f ≠ .i32) (n : Bool) (a d : Nat) :
    encodeFmt f (.fin n a d) =
      let sign := if n && fmtSigned f then 1 <<< (f.width - 1) else 0
      let k := (scaleFrac a d (quantum (fmtPrec f) (fmtBias f) (floorLog2 a d)))
      let t := fmtPrec f - 1
      if a = 0 then (if f.isB8 then 0 else sign)
      else if k.1 / k.2 < 2 ^ t then sign + k.1 / k.2
      else sign + ((floorLog2 a d + fmtBias f).toNat <<< t) + (k.1 / k.2 - 2 ^ t) := by
  cases f with
  | i8 => exact absurd rfl hf.1
  | i32 => exact absurd rfl hf.2
  | f32 | bf16 | f16 | b8 => simp only [encodeFmt, beq_iff_eq]; rfl

/-- The code of a value below the format's power of two is of the format's width. -/
theorem encodeFmt_lt {f : Fmt} (room : HasRoom f) (n : Bool) {a d : Nat} (hd : 0 < d) (ha : a < 2 ^ topExp f * d) :
    encodeFmt f (.fin n a d) < 2 ^ f.width := by
  obtain ⟨hfloat, -, hcodes, hprec, hbias, -, -⟩ := room
  rw [encodeFmt_fin hfloat]
  have hsign : (if n && fmtSigned f then 1 <<< (f.width - 1) else 0) ≤ signPlace f := by
    unfold signPlace
    cases n <;> cases fmtSigned f <;> simp [Nat.shiftLeft_eq]
  have hplace : 2 ^ (fmtPrec f - 1) ≤ (topExp f + fmtBias f) * 2 ^ (fmtPrec f - 1) := Nat.le_mul_of_pos_left _ hbias
  have ht : 0 < 2 ^ (fmtPrec f - 1) := Nat.two_pow_pos _
  generalize (if n && fmtSigned f then 1 <<< (f.width - 1) else 0) = sign at hsign ⊢
  dsimp only
  split
  next => split <;> omega
  next hne =>
    have hpos := Nat.pos_of_ne_zero hne
    have hk := significand_lt hpos hd (fmtPrec f) (fmtBias f)
    rw [hprec] at hk
    have he : (floorLog2 a d + fmtBias f).toNat + 1 ≤ topExp f + fmtBias f := by
      have := floorLog2_lt hpos hd ha
      omega
    have hfield := Nat.mul_le_mul_right (2 ^ (fmtPrec f - 1)) he
    rw [Nat.add_mul, Nat.one_mul] at hfield
    rw [Nat.shiftLeft_eq]
    split <;> omega

/-- The largest and the lowest finite value of a format. -/
theorem HasRoom.bounds {f : Fmt} (room : HasRoom f) :
    ∃ b d, maxFinite f = .fin false b d ∧ 0 < d ∧ b < 2 ^ topExp f * d ∧
      (minFinite f = .fin true b d ∨ minFinite f = .fin false 0 1) := by
  have h := room.span
  unfold spanOk at h
  split at h
  next b d hmax =>
    simp only [Bool.and_eq_true, Bool.or_eq_true, decide_eq_true_eq, beq_iff_eq] at h
    exact ⟨b, d, hmax, h.1.1, h.1.2, h.2⟩
  next => cases h

theorem Num.le_fin (n m : Bool) (a d b e : Nat) :
    (Num.fin n a d).le (.fin m b e) = true ↔ signed n (a * e) ≤ signed m (b * d) := by
  simp only [Num.le, Num.eq, Num.lt, Bool.or_eq_true, Bool.and_eq_true, Bool.not_eq_true', decide_eq_true_eq, decide_eq_false_iff_not]
  omega

theorem Num.scaled_fin (n : Bool) (m : Nat) (k : Int) : ∃ a d, Num.scaled n m k = .fin n a d ∧ 0 < d := by
  cases k with
  | ofNat k => exact ⟨_, _, rfl, Nat.one_pos⟩
  | negSucc k => exact ⟨_, _, rfl, by simp [Nat.shiftLeft_eq]⟩

/-- A value within the finite range of a format is below the format's power of two. -/
theorem HasRoom.below {f : Fmt} (room : HasRoom f) {n : Bool} {a d : Nat} (hd : 0 < d)
    (hlow : (minFinite f).le (.fin n a d) = true) (hhigh : (Num.fin n a d).le (maxFinite f) = true) :
    a < 2 ^ topExp f * d := by
  obtain ⟨b, e, hmax, he, hb, hmin⟩ := room.bounds
  rw [hmax, Num.le_fin] at hhigh
  have top : a * e ≤ b * d → a < 2 ^ topExp f * d := fun h => by
    refine Nat.lt_of_mul_lt_mul_right (a := e) ?_
    calc a * e ≤ b * d := h
      _ < 2 ^ topExp f * e * d := Nat.mul_lt_mul_of_pos_right hb hd
      _ = 2 ^ topExp f * d * e := by rw [Nat.mul_right_comm]
  cases n with
  | false => exact top (Int.ofNat_le.mp hhigh)
  | true =>
    obtain hmin | hmin := hmin
    · rw [hmin, Num.le_fin] at hlow
      exact top (Int.ofNat_le.mp (neg_le_neg_iff.mp hlow))
    · rw [hmin, Num.le_fin] at hlow
      have ha : a = 0 := by simpa [signed] using hlow
      rw [ha]
      positivity

/-- The codes of the largest and the lowest finite value. -/
theorem encodeFmt_bound_lt {f : Fmt} (room : HasRoom f) (low : Bool) :
    encodeFmt f (if low then minFinite f else maxFinite f) < 2 ^ f.width := by
  obtain ⟨b, d, hmax, hd, hb, hmin⟩ := room.bounds
  cases low with
  | false => simpa [hmax] using encodeFmt_lt room false hd hb
  | true =>
    obtain hmin | hmin := hmin
    · simpa [hmin] using encodeFmt_lt room true hd hb
    · simpa [hmin] using encodeFmt_lt room false Nat.one_pos (by simp)

/-- to_fmt gives a code of the format's width (02 R76). -/
theorem toFmt_lt {f : Fmt} (room : HasRoom f) (x : Num) (s : Bool) : (toFmt x f s).1 < 2 ^ f.width := by
  cases x with
  | nan =>
    have h : toFmt .nan f s = (nanCode f, false) := by
      cases f with
      | i8 => exact absurd rfl room.float.1
      | i32 => exact absurd rfl room.float.2
      | f32 | bf16 | f16 | b8 => rfl
    rw [h]
    exact room.nan
  | inf n =>
    unfold toFmt
    dsimp only
    split
    · exact room.inf n
    · exact encodeFmt_bound_lt room n
  | fin n a d =>
    have notInt : f.isI = false := by
      cases f with
      | i8 => exact absurd rfl room.float.1
      | i32 => exact absurd rfl room.float.2
      | f32 | bf16 | f16 | b8 => rfl
    unfold toFmt
    simp only [notInt, Bool.and_false, Bool.false_eq_true, if_false]
    split
    next h =>
      obtain ⟨hlow, hhigh⟩ := Bool.and_eq_true_iff.mp h
      simp only [roundRne] at hlow hhigh ⊢
      obtain ⟨a', d', hv, hd⟩ := Num.scaled_fin _ _ _
      rw [hv] at hlow hhigh ⊢
      exact encodeFmt_lt room _ hd (room.below hd hlow hhigh)
    next =>
      split
      · exact room.inf _
      · exact encodeFmt_bound_lt room _

end Sys2Proof.Machine
end

section
/-! MSMX, MSMN and MSMG (08 R320 to R323): what a row of each comes to, step by step, and the three instructions assembled. -/

namespace Sys2Proof.Machine

open Sys2Proof

/-! ## The steps of a row of MSMX (08 R320) -/

/-- What a row of MSMX is made of: the entry's format and flags, SMX, the row's number, its scores S and its running row O. -/
structure Fold where
  fa  : Fmt
  scm : Bool
  sat : Bool
  smx : BitVec 256
  i   : Nat
  s   : Row
  o   : Row

/-- The number of score columns. -/
def Fold.width (c : Fold) : Nat := if c.fa.isB8 then 256 else 128

/-- A masked and scaled score, and whether it saturated. -/
def Fold.score (c : Fold) (j : Nat) : BitVec 32 × Bool := Machine.score c.smx c.i j (rowSum c.s.sum j)

/-- The row's new maximum. -/
def Fold.max (c : Fold) : BitVec 32 :=
  max32 c.o.rmax ((List.range c.width).foldl (fun m j => max32 m (c.score j).1) 0xFF800000)

/-- The weight of a score. -/
def Fold.weight (c : Fold) (j : Nat) : BitVec 32 :=
  if (c.score j).1 = 0xFF800000 then 0 else expDiff (c.score j).1 c.max

/-- The scale of a block of 32 weights. -/
def Fold.scale (c : Fold) (b : Nat) : Nat :=
  chooseScale c.fa c.scm ((List.range 32).map fun k => f32v (c.weight (32 * b + k)))

/-- The code of a weight under its block's scale, and its ovf. -/
def Fold.code (c : Fold) (j : Nat) : Nat × Bool :=
  toFmt ((f32v (c.weight j)).div (scaleValue (c.scale (j / 32)))) c.fa c.sat

/-- The scale of the old sums and the old denominator. -/
def Fold.alpha (c : Fold) : BitVec 32 := expDiff c.o.rmax c.max

/-- A sum scaled to the new maximum. -/
def Fold.sum (c : Fold) (j : Nat) : BitVec 32 × Bool := mul32 (rowSum c.o.sum j) c.alpha

/-- A weight as its code gives it. -/
def Fold.part (c : Fold) (j : Nat) : BitVec 32 × Bool :=
  (BitVec.ofNat 32 (toFmt ((decodeFmt c.fa (c.code j).1).mul (scaleValue (c.scale (j / 32)))) .f32 true).1, false)

/-- The sum of the weights. -/
def Fold.total (c : Fold) : BitVec 32 × Bool := sumTree 8 ((List.range c.width).map c.part)

/-- Whether a step of an element saturates. -/
def Fold.lossy (c : Fold) (j : Nat) : Bool :=
  (decide (j < c.width) && ((c.score j).2 || (c.code j).2)) || (c.sum j).2

/-- The row. -/
def Fold.row (c : Fold) : FoldedRow :=
  let old := mul32 c.o.rden c.alpha
  let new := add32 old.1 c.total.1
  { prow := ⟨ofLanes (2048 / c.width) (fun j => if j < c.width then (c.code j).1 else 0),
      BitVec.ofNat 128 (packLanes 16 (fun b => if b < c.width / 32 then c.scale b else 0xFE) 8)⟩
    set := { sum := some (BitVec.ofNat 8192 (packLanes 32 (fun j => (c.sum j).1.toNat) 256))
             rmax := some c.max, rden := some new.1, valid := some (c.o.valid && c.s.valid) }
    ovf := countTo c.lossy 256 + (c.total.2 || old.2 || new.2).toNat }

theorem getD_range_map {α : Type} (n : Nat) (g : Nat → α) (j : Nat) (d : α) :
    ((List.range n).map g).getD j d = if j < n then g j else d := by
  by_cases h : j < n <;> simp [List.getD, h]

/-- A window of the values of a function. -/
theorem take_drop_range_map {α : Type} {w a n : Nat} (g : Nat → α) (h : a + n ≤ w) :
    (((List.range w).map g).drop a).take n = (List.range n).map fun k => g (a + k) := by
  apply List.ext_getElem
  · simp; omega
  · intro k h1 h2
    simp

/-- Packed lanes depend only on the values of the lanes that are packed. -/
theorem packLanes_congr {w n : Nat} {g h : Nat → Nat} (hgh : ∀ j, j < n → g j = h j) : packLanes w g n = packLanes w h n := by
  induction n with
  | zero => rfl
  | succ n ih => rw [packLanes, packLanes, ih fun j hj => hgh j (by omega), hgh n (by omega)]

theorem foldRow_eq {f : BitVec 20} {fa : Fmt} (hfa : Fmt.ofCode (fmtA f) = some fa) (smx : BitVec 256) (i : Nat) (s o : Row) :
    foldRow f smx i s o = Fold.row ⟨fa, fmtScm f, fmtSat f, smx, i, s, o⟩ := by
  unfold foldRow
  rw [hfa, Option.getD_some]
  set c : Fold := ⟨fa, fmtScm f, fmtSat f, smx, i, s, o⟩
  extract_lets fa' w xs mx mn ps alpha sc val cs pv rs sums d1 d2 bad
  have hmn : mn = c.max := by
    show max32 o.rmax (List.foldl _ _ ((List.range w).map _)) = _
    rw [List.foldl_map]
    rfl
  have hps : ps = (List.range c.width).map c.weight := by
    show ((List.range w).map _).map _ = _
    rw [List.map_map]
    refine List.map_congr_left fun j _ => ?_
    simp only [Function.comp_apply, beq_iff_eq, hmn]
    rfl
  have hdiv : 32 * (c.width / 32) = c.width := by unfold Fold.width; split <;> rfl
  have hsc : sc = (List.range (c.width / 32)).map c.scale := by
    refine List.map_congr_left fun b hb => ?_
    have hb : b < c.width / 32 := List.mem_range.mp hb
    rw [hps, take_drop_range_map _ (by omega), List.map_map]
    rfl
  have hval : ∀ j, j < c.width → val j = scaleValue (c.scale (j / 32)) := fun j hj => by
    show scaleValue (sc.getD (j / 32) 0xFE) = _
    rw [hsc, getD_range_map, if_pos (by omega)]
  have hcs : cs = (List.range c.width).map c.code := by
    refine List.map_congr_left fun j hj => ?_
    have hj : j < c.width := List.mem_range.mp hj
    rw [hval j hj, hps, getD_range_map, if_pos hj]
    rfl
  have hpv : pv = (List.range c.width).map c.part := by
    refine List.map_congr_left fun j hj => ?_
    have hj : j < c.width := List.mem_range.mp hj
    rw [hval j hj, hcs, getD_range_map, if_pos hj]
    rfl
  have halpha : alpha = c.alpha := by unfold alpha; rw [hmn]; rfl
  have hrs : rs = c.total := by unfold rs; rw [hpv]; rfl
  have hsums : sums = (List.range 256).map c.sum := by unfold sums; rw [halpha]; rfl
  have hd2 : d2 = add32 (mul32 c.o.rden c.alpha).1 c.total.1 := by unfold d2 d1; rw [halpha, hrs]
  have hbad : ∀ j, j < 256 → bad j = c.lossy j := fun j hj => by
    show ((((List.range c.width).map c.score).getD j _).2 || _ || _) = _
    rw [hcs, hsums, getD_range_map, getD_range_map, getD_range_map, if_pos hj]
    unfold Fold.lossy
    split <;> simp [*]
  have hovf : countTo bad 256 = countTo c.lossy 256 := by
    rw [countTo_eq, countTo_eq, List.filter_congr fun j hj => hbad j (List.mem_range.mp hj)]
  have hcodes : (fun j => (cs.getD j (0, false)).1) = fun j => if j < c.width then (c.code j).1 else 0 := by
    funext j
    rw [hcs, getD_range_map]
    split <;> rfl
  have hconts : (fun b => sc.getD b 0xFE) = fun b => if b < c.width / 32 then c.scale b else 0xFE := by
    funext b
    rw [hsc, getD_range_map]
  have hold : d1 = mul32 c.o.rden c.alpha := by unfold d1; rw [halpha]
  have hsum : ∀ j, j < 256 → (sums.getD j (0, false)).1.toNat = (c.sum j).1.toNat := fun j hj => by
    rw [hsums, getD_range_map, if_pos hj]
  rw [hcodes, hconts, hovf, hrs, hd2, hold, hmn, packLanes_congr hsum]
  rfl

/-- Whether the mask takes a score out (08 R320). -/
def Fold.masked (c : Fold) (j : Nat) : Bool :=
  decide (smxKlen c.smx ≤ smxKpos c.smx + j) || (smxCausal c.smx && decide (smxQpos c.smx + c.i < smxKpos c.smx + j))

theorem Fold.score_eq (c : Fold) (j : Nat) :
    c.score j = if c.masked j then (0xFF800000, false) else mul32 (smxScale c.smx) (rowSum c.s.sum j) := by
  simp only [Fold.score, Machine.score, Fold.masked, Bool.or_eq_true, Bool.and_eq_true, decide_eq_true_eq]

theorem Fold.masked_iff (c : Fold) (j : Nat) :
    c.masked j = true ↔ smxKlen c.smx ≤ smxKpos c.smx + j ∨ (smxCausal c.smx = true ∧ smxQpos c.smx + c.i < smxKpos c.smx + j) := by
  simp only [Fold.masked, Bool.or_eq_true, Bool.and_eq_true, decide_eq_true_eq]

/-- A lane of the P buffer is as wide as the format's codes. -/
theorem Fold.lane_width (c : Fold) (hfa : isNarrow c.fa = true) : 2048 / c.width = c.fa.width := by
  unfold Fold.width
  cases hf : c.fa <;> simp_all [isNarrow, Fmt.isB8, Fmt.width]

/-- The codes in a row of the P buffer are whole: each weight's code has the width of its lane. -/
theorem Fold.lane_codes (c : Fold) (hfa : isNarrow c.fa = true) {j : Nat} (hj : j < c.width) :
    lane (2048 / c.width) c.row.prow.codes j = (c.code j).1 := by
  have hlanes : 2048 / (2048 / c.width) = c.width := by unfold Fold.width; split <;> rfl
  show lane (2048 / c.width) (ofLanes _ _) j = _
  rw [lane_ofLanes _ (by rw [hlanes]; exact hj), if_pos hj, c.lane_width hfa]
  exact Nat.mod_eq_of_lt (toFmt_lt (hasRoom_of_isNarrow hfa) _ _)

/-- The parts that are summed are what the codes in the P buffer give. -/
theorem Fold.total_eq (c : Fold) (hfa : isNarrow c.fa = true) :
    sumTree 8 ((List.range c.width).map fun j => (BitVec.ofNat 32 (toFmt ((decodeFmt c.fa (lane (2048 / c.width) c.row.prow.codes j)).mul
      (scaleValue (c.scale (j / 32)))) .f32 true).1, false)) = c.total := by
  refine congrArg _ (List.map_congr_left fun j hj => ?_)
  rw [c.lane_codes hfa (List.mem_range.mp hj)]
  rfl

/-- The scale of a block of 32 weights in the P buffer. -/
theorem Fold.conts_eq (c : Fold) {b : Nat} (hb : b < 8) :
    (c.row.prow.conts.extractLsb' (16 * b) 16).toNat = (if b < c.width / 32 then c.scale b else 0xFE) % 2 ^ 16 := by
  rw [BitVec.extractLsb'_toNat, Nat.shiftRight_eq_div_pow]
  show (BitVec.ofNat 128 (packLanes 16 _ 8)).toNat / _ % _ = _
  rw [toNat_packLanes _ (by decide), packLanes_div_mod, if_pos hb]

/-- The elements that saturate, in the statement's order of the steps. -/
theorem Fold.lossy_eq (c : Fold) (j : Nat) :
    c.lossy j = ((decide (j < c.width) && ((!c.masked j && (mul32 (smxScale c.smx) (rowSum c.s.sum j)).2) || (c.code j).2)) ||
      (mul32 (rowSum c.o.sum j) (expDiff c.o.rmax c.max)).2) := by
  have hscore : (c.score j).2 = (!c.masked j && (mul32 (smxScale c.smx) (rowSum c.s.sum j)).2) := by
    rw [c.score_eq]
    cases c.masked j <;> rfl
  rw [Fold.lossy, hscore]
  rfl

/-- 08 R320: the row is what the steps give. -/
theorem Fold.foldsTo_row (c : Fold) (hfa : isNarrow c.fa = true) : FoldsTo c.fa c.scm c.sat c.smx c.i c.s c.o c.row := by
  refine ⟨fun j => (c.score j).1, c.weight, c.max, c.scale, ?_⟩
  rw [show (if c.fa.isB8 = true then 256 else 128) = c.width from rfl]
  refine ⟨?_, rfl, fun j => rfl, fun b _ => rfl, ?_, fun b hb => c.conts_eq hb, ⟨?_, ?_⟩, rfl, rfl, rfl, rfl, _, rfl, ?_⟩
  · intro j
    simp only [c.score_eq, ← c.masked_iff]
    split <;> rfl
  · intro j hj
    rw [c.lane_codes hfa hj]
    exact (Nat.mod_eq_of_lt (by rw [c.lane_width hfa]; exact toFmt_lt (hasRoom_of_isNarrow hfa) _ _)).symm
  · rw [c.total_eq hfa]
    rfl
  · rw [c.total_eq hfa]
    show countTo c.lossy 256 + _ = _
    rw [countTo_eq, List.filter_congr fun j _ => c.lossy_eq j]
    rfl
  · intro j hj
    exact rowSum_packSums (fun j => (c.sum j).1) hj (Nat.le_refl _)

theorem foldRow_foldsTo {f : BitVec 20} {fa : Fmt} (hfa : Fmt.ofCode (fmtA f) = some fa) (hn : isNarrow fa = true) (smx : BitVec 256)
    (i : Nat) (s o : Row) : FoldsTo fa (fmtScm f) (fmtSat f) smx i s o (foldRow f smx i s o) := by
  rw [foldRow_eq hfa]
  exact Fold.foldsTo_row ⟨fa, fmtScm f, fmtSat f, smx, i, s, o⟩ hn

/-! ## The rows of MSMN and MSMG (08 R322, R323) -/

theorem rowSum_zero (j : Nat) : rowSum 0 j = 0 := by simp [rowSum]

theorem normRow_of_isZero {x : Row} (h : (f32v x.rden).isZero = true) : normRow x = { sum := some 0, lz := some true } := if_pos h

theorem normRow_of_not_isZero {x : Row} (h : (f32v x.rden).isZero = false) : normRow x =
    { sum := some (BitVec.ofNat 8192 (packLanes 32 (fun j => (toFmt ((f32v (rowSum x.sum j)).div (f32v x.rden)) .f32 true).1) 256))
      lz := some false } := if_neg (by simp [h])

theorem normRow_normsTo (x : Row) : NormsTo x (normRow x) := by
  unfold NormsTo
  cases hz : (f32v x.rden).isZero with
  | true =>
    rw [normRow_of_isZero hz]
    exact ⟨rfl, rfl, rfl, rfl, rfl, 0, rfl, fun j _ => rowSum_zero j⟩
  | false =>
    rw [normRow_of_not_isZero hz]
    refine ⟨rfl, rfl, rfl, rfl, rfl, _, rfl, fun j hj => ?_⟩
    rw [rowSum_packLanes _ j (Nat.le_refl _), if_pos hj]
    rfl

theorem normOvf_eq (x : Row) : normOvf x = if (f32v x.rden).isZero then 0 else
    ((List.range 256).filter fun j => (toFmt ((f32v (rowSum x.sum j)).div (f32v x.rden)) .f32 true).2).length := by
  rw [normOvf, countTo_eq]

/-- A sum or a denominator of two merged rows, each under its scale, and whether a step saturates. -/
def mergeOne (x y : Row) (p q : BitVec 32) : BitVec 32 × Bool :=
  let a := mul32 p (expDiff x.rmax (max32 x.rmax y.rmax))
  let b := mul32 q (expDiff y.rmax (max32 x.rmax y.rmax))
  ((add32 a.1 b.1).1, a.2 || b.2 || (add32 a.1 b.1).2)

/-- Two rows that both have a denominator are merged element by element. -/
theorem mergeRow_of_not_isZero {x y : Row} (hy : (f32v y.rden).isZero = false) (hx : (f32v x.rden).isZero = false) :
    mergeRow x y =
      ({ sum := some (BitVec.ofNat 8192 (packLanes 32 (fun j => (mergeOne x y (rowSum x.sum j) (rowSum y.sum j)).1.toNat) 256))
         rmax := some (max32 x.rmax y.rmax), rden := some (mergeOne x y x.rden y.rden).1, valid := some (x.valid && y.valid) },
       y.ovf.toNat + (((List.range 256).filter fun j => (mergeOne x y (rowSum x.sum j) (rowSum y.sum j)).2).length +
         (mergeOne x y x.rden y.rden).2.toNat)) := by
  have each (j : Nat) (hj : j < 256) : ((List.range 256).map fun j => mergeOne x y (rowSum x.sum j) (rowSum y.sum j)).getD j (0, false) =
      mergeOne x y (rowSum x.sum j) (rowSum y.sum j) := by rw [getD_range_map, if_pos hj]
  rw [← List.filter_congr fun j hj => congrArg Prod.snd (each j (List.mem_range.mp hj)), ← countTo_eq,
    ← packLanes_congr fun j hj => congrArg (fun z => z.1.toNat) (each j hj)]
  simp only [mergeRow, hy, hx, Bool.false_eq_true, if_false]
  rfl

theorem mergeRow_mergesTo (x y : Row) : MergesTo x y (mergeRow x y).1 (mergeRow x y).2 := by
  unfold MergesTo
  cases hy : (f32v y.rden).isZero with
  | true => simp [mergeRow, hy]
  | false =>
    cases hx : (f32v x.rden).isZero with
    | true => simp [mergeRow, hy, hx]
    | false =>
      rw [mergeRow_of_not_isZero hy hx]
      refine ⟨rfl, rfl, rfl, rfl, nofun, nofun, fun _ _ => ⟨rfl, rfl, rfl, _, rfl, fun j hj => ?_⟩⟩
      exact rowSum_packSums (fun j => (mergeOne x y (rowSum x.sum j) (rowSum y.sum j)).1) hj (Nat.le_refl _)

/-! ## The checks of a range of rows -/

/-- A range of rows holds a row of integers. -/
def HasInts (r : Regs) (k n : Nat) : Prop := ∃ j, j < n ∧ (r.row (k + j)).int = true

theorem typeOk_of_not_hasInts {r : Regs} {k n : Nat} (h : ¬HasInts r k n) : typeOk r k n false = true :=
  typeOk_iff.mpr fun i hi => by
    by_contra hint
    exact h ⟨i, hi, by simpa using hint⟩

theorem typeOk_of_hasInts {r : Regs} {k n : Nat} (h : HasInts r k n) : typeOk r k n false = false := by
  obtain ⟨i, hi, hint⟩ := h
  rw [← Bool.not_eq_true, typeOk_iff]
  intro all
  rw [all i hi] at hint
  cases hint

theorem typeOk_or_of_hasInts {r : Regs} {i j n : Nat} (h : HasInts r i n ∨ HasInts r j n) :
    (!typeOk r i n false || !typeOk r j n false) = true := by
  obtain h | h := h <;> simp [typeOk_of_hasInts h]

theorem rangeOk_or_of_lt {i j n : Nat} (h : 512 < i + n ∨ 512 < j + n) : (!rangeOk i n || !rangeOk j n) = true := by
  simpa [rangeOk] using h

theorem rangeOk_of_le {i n : Nat} (h : i + n ≤ 512) : rangeOk i n = true := by simpa [rangeOk] using h

/-! ## The instructions -/

section Instructions
variable {m : Marks} {x : Bool} {rows : BitVec 6} {o a : Acc} {s u : State} (h : Admits .m (xWords x) m s u)
include h

theorem msmn_range (hr : 512 < u.accNum o + rowsOf rows) :
    exec (.msmn m x rows o) s = .next (raise .m (causeAt u .m 0x22 0) s) :=
  issueM_trap h (by simp [rangeOk, hr, rangeFault, bind, Except.bind])

theorem msmn_type (hr : u.accNum o + rowsOf rows ≤ 512) (hi : HasInts u.core.r (u.accNum o) (rowsOf rows)) :
    exec (.msmn m x rows o) s = .next (raise .m (causeAt u .m 0x23 0) s) :=
  issueM_trap h (by simp [rangeOk_of_le hr, typeOk_of_hasInts hi, typeFault, bind, Except.bind])

theorem msmn_rows (hr : u.accNum o + rowsOf rows ≤ 512) (hi : ¬HasInts u.core.r (u.accNum o) (rowsOf rows)) :
    exec (.msmn m x rows o) s = .next (finish .m (xWords x) m (rowsOf rows + 14) (u.postRows (fun k =>
      [(rowsOf rows + 14, Land.rowSet (u.accNum o + k) (normRow (u.core.r.row (u.accNum o + k)))),
        (rowsOf rows + 14, .rowOvf (u.accNum o + k) (normOvf (u.core.r.row (u.accNum o + k))))]) (rowsOf rows))) :=
  issueM_finish h (by simp [rangeOk_of_le hr, typeOk_of_not_hasInts hi])

theorem msmg_range (hr : 512 < u.accNum o + rowsOf rows ∨ 512 < u.accNum a + rowsOf rows) :
    exec (.msmg m x rows o a) s = .next (raise .m (causeAt u .m 0x22 0) s) :=
  issueM_trap h (by simp only [rangeOk_or_of_lt hr, rangeFault]; rfl)

theorem msmg_type (hr : u.accNum o + rowsOf rows ≤ 512) (hr' : u.accNum a + rowsOf rows ≤ 512)
    (hi : HasInts u.core.r (u.accNum o) (rowsOf rows) ∨ HasInts u.core.r (u.accNum a) (rowsOf rows)) :
    exec (.msmg m x rows o a) s = .next (raise .m (causeAt u .m 0x23 0) s) :=
  issueM_trap h (by simp only [rangeOk_of_le hr, rangeOk_of_le hr', typeOk_or_of_hasInts hi, typeFault]; rfl)

theorem msmg_rows (hr : u.accNum o + rowsOf rows ≤ 512) (hr' : u.accNum a + rowsOf rows ≤ 512)
    (hi : ¬HasInts u.core.r (u.accNum o) (rowsOf rows)) (hi' : ¬HasInts u.core.r (u.accNum a) (rowsOf rows)) :
    exec (.msmg m x rows o a) s = .next (finish .m (xWords x) m (rowsOf rows + 14) (u.postRows (fun k =>
      let z := mergeRow (u.core.r.row (u.accNum o + k)) (u.core.r.row (u.accNum a + k))
      [(rowsOf rows + 14, Land.rowSet (u.accNum o + k) z.1), (rowsOf rows + 14, .rowOvf (u.accNum o + k) z.2)]) (rowsOf rows))) :=
  issueM_finish h (by simp [rangeOk_of_le hr, rangeOk_of_le hr', typeOk_of_not_hasInts hi, typeOk_of_not_hasInts hi'])

section Entry
variable {fi : Fin 16} {f : BitVec 20} {v : State} (hf : u.fmtEntry .m = (fi, f, v))
include hf

theorem msmx_entry {c : Nat} (hc : smxFmtCheck f = some c) :
    exec (.msmx m x rows o a) s = .next (raise .m (causeAt v .m 0x08 (fi.val + c <<< 4)) s) :=
  issueM_trap h (by simp only [hf, hc, fmtCause])

variable (hc : smxFmtCheck f = none)
include hc

theorem msmx_range (hr : 512 < v.accNum o + rowsOf rows ∨ 512 < v.accNum a + rowsOf rows) :
    exec (.msmx m x rows o a) s = .next (raise .m (causeAt v .m 0x22 0) s) :=
  issueM_trap h (by simp only [hf, hc, rangeOk_or_of_lt hr, rangeFault]; rfl)

theorem msmx_type (hr : v.accNum o + rowsOf rows ≤ 512) (hr' : v.accNum a + rowsOf rows ≤ 512)
    (hi : HasInts v.core.r (v.accNum o) (rowsOf rows) ∨ HasInts v.core.r (v.accNum a) (rowsOf rows)) :
    exec (.msmx m x rows o a) s = .next (raise .m (causeAt v .m 0x23 0) s) :=
  issueM_trap h (by simp only [hf, hc, rangeOk_of_le hr, rangeOk_of_le hr', typeOk_or_of_hasInts hi, typeFault]; rfl)

theorem msmx_rows {fa : Fmt} (hfa : Fmt.ofCode (fmtA f) = some fa) (hr : v.accNum o + rowsOf rows ≤ 512)
    (hr' : v.accNum a + rowsOf rows ≤ 512)
    (hi : ¬HasInts v.core.r (v.accNum o) (rowsOf rows)) (hi' : ¬HasInts v.core.r (v.accNum a) (rowsOf rows)) :
    exec (.msmx m x rows o a) s = .next (finish .m (xWords x) m (rowsOf rows + 19)
      ((if smxKstep v.core.r.smx then v.post .m 1 (.smx (smxStep v.core.r.smx (if fa.isB8 then 256 else 128))) else v).postRows (fun k =>
        let y := foldRow f v.core.r.smx k (v.core.r.row (v.accNum a + k)) (v.core.r.row (v.accNum o + k))
        [(rowsOf rows + 19, Land.pbuf k y.prow), (rowsOf rows + 19, .rowSet (v.accNum o + k) y.set),
          (rowsOf rows + 19, .rowOvf (v.accNum o + k) y.ovf)]) (rowsOf rows))) :=
  issueM_finish h (by
    simp [hf, hc, hfa, rangeOk_of_le hr, rangeOk_of_le hr', typeOk_of_not_hasInts hi, typeOk_of_not_hasInts hi'])

end Entry

end Instructions

theorem isNarrow_of_smxFmtCheck {f : BitVec 20} {fa : Fmt} (hc : smxFmtCheck f = none) (hfa : Fmt.ofCode (fmtA f) = some fa) :
    isNarrow fa = true := by
  by_contra hn
  have hn : isNarrow fa = false := Bool.eq_false_iff.mpr hn
  unfold isNarrow at hn
  simp [smxFmtCheck, hfa, hn] at hc

/-- Settles O40: each row is what its steps give, the codes of MSMX being whole in their lanes, and the checks come in their order. -/
theorem softmaxFoldsRows : Obligations.SoftmaxFoldsRows := by
  intro m x rows o a s u h n traps done ints
  refine ⟨fun fi f v hf => ⟨fun c hc => msmx_entry h hf hc, fun fa hc hfa => ⟨fun hr => msmx_range h hf hc hr,
      fun hr hr' hi => msmx_type h hf hc hr hr' hi, fun hr hr' hi hi' => ⟨fun k => _, fun k _ =>
        foldRow_foldsTo hfa (isNarrow_of_smxFmtCheck hc hfa) _ _ _ _, msmx_rows h hf hc hfa hr hr' hi hi'⟩⟩⟩,
    fun hr => msmn_range h hr, fun hr hi => msmn_type h hr hi, fun hr hi => ⟨fun k => _, fun k _ => normRow_normsTo _, ?_⟩,
    fun hr => msmg_range h hr, fun hr hr' hi => msmg_type h hr hr' hi, fun hr hr' hi hi' =>
      ⟨fun k => _, fun k => _, fun k _ => mergeRow_mergesTo _ _, msmg_rows h hr hr' hi hi'⟩⟩
  simp only [← normOvf_eq]
  exact msmn_rows h hr hi

end Sys2Proof.Machine
end
